-- ==== Sys2Proof/Word.lean ====
section
/-! DEFINITION. The words of the DXK-4024: bytes, register words and the field accessor of R5. -/

namespace Sys2Proof

/-- One byte of a memory, of a frame or of a mailbox. -/
abbrev Byte := BitVec 8

/-- A 32-bit register of the BAR0 map. -/
abbrev Reg := BitVec 32

/-- A 64-bit quantity: a command word of a core program, a digest word. -/
abbrev W64 := BitVec 64

/-- The 64 bytes of a descriptor, of a tensor record or of a flow context, little-endian (R4). -/
abbrev Line := BitVec 512

/-- NAME[lo + n − 1 : lo] of a number (R5). -/
def bitsOf (x lo n : Nat) : Nat := x / 2 ^ lo % 2 ^ n

/-- A register word from a number. -/
def reg (x : Nat) : Reg := BitVec.ofNat 32 x

/-- 1 for true, 0 for false. -/
def bit (b : Bool) : Nat := if b then 1 else 0

end Sys2Proof
end

