-- ==== Sys2Proof/Syntax.lean ====
section
/-! DEFINITION. The commands of the block: one constructor per row of opcode_table.json, with what comes from outside as its
operands. A sequencer row names the core; its command word is the one the core holds. An engine row names the core; its
descriptor is the running one. A mailbox row names the mailbox and the SEQ and IRQ fields of the command word; its parameters are
the mailbox's PARAMS. `now` is the tide, in ns, at which the event comes about. -/

namespace Sys2Proof

/-- Symbols of a line of package memory that have become wrong in the stack since they were written (R211, R212): the line's
address, and for each symbol 0–71 the exclusive-or with what was stored. -/
structure Upset where
  addr : Nat
  syms : List (Nat × Byte)
  deriving DecidableEq, Repr

/-- An 8-byte SRAM word that has become uncorrectable (R44): its word number in the core-local space and the exclusive-or with
what was stored. -/
structure SramUpset where
  word : Nat
  flip : W64
  deriving DecidableEq, Repr

/-- A frame of the strait ports (R242, Table 8-2). `body` holds the payload area of a data frame, the 20 body bytes of a control frame. -/
structure Frame where
  typ : Byte
  flags : Byte
  jobTag : BitVec 16
  flow : BitVec 16
  seq : BitVec 32
  valid : BitVec 16
  size : Byte
  destSem : Byte
  destN : BitVec 16
  stamp : W64
  destAddr : W64
  body : List Byte
  crc : BitVec 32
  deriving DecidableEq, Repr

/-- What carries a message of the harbour port (R261, R262): the VLAN identifier of an 802.1Q tag, the EtherType, the frame's bytes with
FCS, the next header of the IPv6 header, and whether the checksum of UDP or ICMPv6 is right. -/
structure Net where
  vlan : Option (BitVec 12)
  etherType : BitVec 16
  bytes : Nat
  nextHeader : Byte
  sumOk : Bool
  deriving DecidableEq, Repr

/-- Neighbour discovery (RFC 4861): a Solicitation of `target` by `source`, or an Advertisement of `target`. -/
inductive Discovery where
  | solicitation (target source : BitVec 128)
  | advertisement (target : BitVec 128)
  deriving DecidableEq, Repr

/-- A message of the harbour transfer protocol (Table 8-8) whose CRC passed, with its carrier, the UDP port it is sent to, and the address
and port it came from. -/
structure HMsg where
  net : Net
  dstPort : BitVec 16
  src : BitVec 128
  srcPort : BitVec 16
  version : Byte
  typ : Byte
  jobTag : BitVec 16
  session : BitVec 32
  seq : BitVec 32
  code : Byte
  addr : W64
  window : BitVec 32
  payload : List Byte
  deriving DecidableEq, Repr

/-- A lane of an isthmus module that fails training (R21). -/
structure LaneFail where
  k : Fin 4
  m : Fin 16
  rev : Bool
  lane : Fin 68
  deriving DecidableEq, Repr

/-- What the work in hand of the next interval could draw, in mW: at the lowest clocks, at the highest, and with all ballast
(R397, R398); the clock points in MHz to which the governor moves cores, and with which firmware puts them on their PLLs (R393). -/
structure PowerWork where
  low : Nat
  high : Nat
  ballast : Nat
  points : List (Fin 576 × Nat)
  deriving DecidableEq, Repr

/-- The governor registers a direct write reaches (R396, R410). -/
inductive GovReg where
  | cap | slew | floor
  deriving DecidableEq, Repr

/-- What the debug logic does (R482). -/
inductive DebugOp where
  | halt | step | resume | inspect
  deriving DecidableEq, Repr

/-- An update cycle of a core's semaphores (R65): the core, and what else than the command acts on them in it: how many adds its inbound
ferry performs, the engines that have completed a descriptor, the engines whose queue heads want to start. -/
structure SameCycle where
  core : Fin 576
  inbound : Nat
  ends : List (Fin 6)
  starts : List (Fin 6)
  deriving DecidableEq, Repr

/-- The rows of opcode_table.json. -/
inductive Instr where
  /-- NOP (R45). The sequencer issues a NOP command word and does nothing else. -/
  | nop (c : Fin 576)
  /-- SEM_ADD (R65). The sequencer adds N to a semaphore in its update cycle, saturating by R62. -/
  | semAdd (a : SameCycle)
  /-- SEM_SUB (R65). The sequencer subtracts N from a semaphore in its update cycle. -/
  | semSub (a : SameCycle)
  /-- SEM_WAIT (R63). The sequencer stops until the named semaphore is at least N. -/
  | semWait (c : Fin 576)
  /-- SEM_WAIT_SUB (R65). The sequencer waits until the semaphore is at least N and then subtracts N in the same cycle. -/
  | semWaitSub (a : SameCycle)
  /-- SEM_WAIT_WAKE (R65). A waiting sequencer finds its semaphore condition met after an update and issues its next command. -/
  | semWaitWake (a : SameCycle)
  /-- FLAG_SET (R66). The sequencer sets one of flags F3 to F7; naming F0 to F2 is a bad command. -/
  | flagSet (c : Fin 576)
  /-- FLAG_CLEAR (R67). The sequencer clears a flag; a set in the same cycle prevails. -/
  | flagClear (c : Fin 576) (setToo : Bool)
  /-- FLAG_WAIT (R68). The sequencer stops until a flag equals VALUE. With the core: whether something sets the flag in that cycle. -/
  | flagWait (c : Fin 576 × Bool)
  /-- FLAG_WAIT_WAKE (R68). A flag wait is satisfied; the flag is cleared if CLEAR_ON_WAKE is set, and the sequencer continues. With the core: whether something sets the flag in that cycle. -/
  | flagWaitWake (c : Fin 576 × Bool)
  /-- ISSUE (R53). The sequencer copies a descriptor into an engine queue, or stalls while the queue is full. -/
  | issue (c : Fin 576)
  /-- ISSUE_QUEUE_ACCEPT (R54). A place frees in a full engine queue and the stalled ISSUE is accepted. -/
  | issueQueueAccept (c : Fin 576)
  /-- TIDE_ARM (R71). The sequencer computes a target tide time from TICKS and the frame reference, loads the comparator and clears F0. With the core: whether the comparator reaches its old target in that cycle. -/
  | tideArm (c : Fin 576 × Bool)
  /-- JUMP (R45). The sequencer continues at TARGET. -/
  | jump (c : Fin 576)
  /-- LOOP_SET (R48). The sequencer loads loop counter LC with COUNT. -/
  | loopSet (c : Fin 576)
  /-- LOOP_BACK (R48). The sequencer decrements LC and jumps if the result is not zero; a counter at 0 stays 0. -/
  | loopBack (c : Fin 576)
  /-- FENCE (R45). The sequencer waits until every engine in ENGINE_MASK is idle with an empty queue. -/
  | fence (c : Fin 576)
  /-- FENCE_RELEASE (R45). All engines that a FENCE names become idle and the sequencer continues. -/
  | fenceRelease (c : Fin 576)
  /-- BARRIER (R75). The sequencer sends one arrival to an isle, package or pod barrier counter. -/
  | barrier (c : Fin 576)
  /-- BARRIER_ARRIVAL (R75). An arrival reaches an isle or package counter; at EXPECT the counter resets and releases every member once. -/
  | barrierArrival (c : Fin 576) (now : Nat)
  /-- STEP_END (R50). The sequencer begins ending its part of the step and waits for every engine to be idle. -/
  | stepEnd (c : Fin 576)
  /-- STEP_DONE (R50). With its engines idle the core reports step-done with CORE_ERR to the supervisor and waits for the next frame reference. -/
  | stepDone (c : Fin 576) (now : Nat)
  /-- FRAME_REFERENCE_DELIVERY (R346). The supervisor delivers T and tempo of the next frame to a waiting core once the frame is due and SLOT_READY allows, and the core continues. -/
  | frameReferenceDelivery (c : Fin 576) (now : Nat)
  /-- HALT (R52). The sequencer stops while the engines finish their queued descriptors. -/
  | halt (c : Fin 576)
  /-- BAD_CMD (R47). A command word with an unknown opcode sets CORE_ERR.BAD_CMD and halts the sequencer at that word. -/
  | badCmd (c : Fin 576)
  /-- DESCRIPTOR_START (R55). A queue head starts when the engine is free, its semaphore wait holds and its tide hold is reached, consuming WAIT_N if CONSUME is set. -/
  | descriptorStart (a : SameCycle) (e : Fin 6) (now : Nat)
  /-- DESCRIPTOR_COMPLETE (R56). A descriptor completes in the sense of Table 2-6 and its engine adds SIG_N to SIG_SEM. -/
  | descriptorComplete (c : Fin 576) (e : Fin 6)
  /-- LOAD (R58). The load engine moves rows from package memory or an accumulation cache window into core SRAM. -/
  | load (c : Fin 576) (upsets : List Upset)
  /-- STORE (R58). The store engine moves rows from core SRAM to package memory or an accumulation cache window. -/
  | store (c : Fin 576) (sramUpsets : List SramUpset)
  /-- STASH_WRITE (R193). A store with STASH set reads the entry record and writes to an anchor or to space allocated from its region. -/
  | stashWrite (c : Fin 576)
  /-- FERRY_WRITE_SRAM (R59). The outbound ferry sends an OP 0 transfer to a remote core's SRAM over its flow. -/
  | ferryWriteSram (c : Fin 576)
  /-- FERRY_WRITE_MEMORY (R59). The outbound ferry sends an OP 1 transfer to remote package memory. -/
  | ferryWriteMemory (c : Fin 576)
  /-- REMOTE_ACCUMULATE (R219). The outbound ferry sends an OP 2 Concord-8 contribution to an arena of a remote controller. -/
  | remoteAccumulate (c : Fin 576)
  /-- FERRY_SIGNAL (R248). The outbound ferry sends an OP 3 transfer as one SIGNAL frame. -/
  | ferrySignal (c : Fin 576)
  /-- PULL (R60). The inbound ferry reads another core's SRAM in the package into this core's SRAM. -/
  | pull (c : Fin 576)
  /-- INBOUND_ADD (R61). The inbound ferry performs a semaphore add from an event outside the core. -/
  | inboundAdd (c : Fin 576)
  /-- MULTIPLY_ACCUMULATE (R118). A matrix descriptor opens its context by ACC_INIT and begins its K-steps. -/
  | multiplyAccumulate (c : Fin 576)
  /-- K_STEP_UPDATE (R122). A K-step's exact tree sum enters its context by a plain or compensated update and the term counter rises. -/
  | kStepUpdate (c : Fin 576)
  /-- MATRIX_DRAIN (R130). A drain descriptor on its own requests the handoff of a context. -/
  | matrixDrain (c : Fin 576)
  /-- HANDOFF (R119). With no other drain running, the context's slot and the drain slot exchange and the context closes. -/
  | handoff (c : Fin 576)
  /-- DRAIN_END (R138). A drain finishes writing output and status, adds DRAIN_N to DRAIN_SEM and sets F2 if asked. -/
  | drainEnd (c : Fin 576)
  /-- LAYOUT (R117). After any drain ends, the accumulator layout takes the new shape and mode and every context closes. -/
  | layout (c : Fin 576)
  /-- MATRIX_TABLE_LOAD (R136). After any drain ends, a drain-path table is loaded from operand SRAM. -/
  | matrixTableLoad (c : Fin 576)
  /-- CLAUSE (R146). The clause engine runs one pass of the stage chain over a tensor. -/
  | clause (c : Fin 576)
  /-- CLAUSE_TABLE_LOAD (R163). The clause engine loads its table 1 or table 2 from operand SRAM. -/
  | clauseTableLoad (c : Fin 576)
  /-- MERGE (R180). The clause engine combines two partial attention triples row by row, or finalises them. -/
  | merge (c : Fin 576)
  /-- TIDE_TARGET_REACHED (R72). The core's local tide reaches the armed target and the comparator sets F0. -/
  | tideTargetReached (c : Fin 576) (now : Nat)
  /-- CORE_WATCHDOG_EXPIRY (R467). A core whose PC and ENGINE_BUSY have not changed for CORE_US microseconds is reset and shows CORE_ERR.WDOG. -/
  | coreWatchdogExpiry (c : Fin 576) (now : Nat)
  /-- CORE_RESET_DONE (R465). A core's reset wipe ends and the supervisor rewrites its command store and isle barrier records from the image. -/
  | coreResetDone (c : Fin 576)
  /-- ISTHMUS_LANE_FAIL (R29). An isthmus lane loses lock or exceeds 8 parity errors in 1 ms and its module begins a width change. The lane: whether of the reverse direction, its number. -/
  | isthmusLaneFail (k : Fin 4) (m : Fin 16) (lane : Bool × Fin 68) (now : Nat)
  /-- ISTHMUS_MODULE_CHANGE_END (R32). A module change completes and the supervisor updates the link registers, ISTH_EVENT and the tempo inputs. -/
  | isthmusModuleChangeEnd (k : Fin 4) (m : Fin 16) (now : Nat)
  /-- PORT_TRAINING (R236). A port with a lit qualified laser trains its lanes against a far end that has become lit. -/
  | portTraining (p : Fin 8) (farLit : Bool) (laser : List Byte)
  /-- PORT_TRAINING_RETRY (R236). Every 100 ms while the far end is dark the port repeats training. -/
  | portTrainingRetry (p : Fin 8) (farLit : Bool)
  /-- LASER_MODULE_FAULT (R235). A laser module reports a fault, its output is turned off and the port goes down. -/
  | laserModuleFault (p : Fin 8)
  /-- STRAIT_LANE_FAIL (R237). A receiving direction declares a lane failed and sends a LANE frame to the sender. The lane, and the symbols corrected in 1 ms, or none when it has lost lock. -/
  | straitLaneFail (p : Fin 8) (n : Fin 32 × Option Nat)
  /-- STRAIT_LANE_CHANGE (R238). All lane failures of a 1 ms interval are applied in one lane change; the direction pauses and stripes over the remaining lanes. -/
  | straitLaneChange (p : Fin 8) (tx : Bool) (now : Nat)
  /-- LANE_CHANGE_PAUSE_END (R238). A lane-change pause ends and frames in flight are resent from the replay buffer. -/
  | laneChangePauseEnd (p : Fin 8) (tx : Bool) (now : Nat)
  /-- FRAME_SEND (R251). A port sends a frame from the next ready context in round-robin order when window, credits, replay room and launch hold allow. -/
  | frameSend (p : Fin 8) (now : Nat)
  /-- DATA (R253). A DATA frame with good CRC and tag is accepted in SEQ order, forwarded or delivered, or answered as duplicate or gap. -/
  | data (p : Fin 8) (f : Frame) (now : Nat)
  /-- SIGNAL (R250). A SIGNAL frame is accepted in order and its semaphore add delivered at the sink. -/
  | signal (p : Fin 8) (f : Frame) (now : Nat)
  /-- ACK (R254). An ACK frees replay copies, advances ACKED_SEQ and restores credits from GRANTED. -/
  | ack (p : Fin 8) (f : Frame) (now : Nat)
  /-- NACK (R255). A NACK for a held SEQ resends from that frame and counts a retry. With the frame: an ACK taken in the same cycle. -/
  | nack (p : Fin 8) (f : Frame × Option Frame) (now : Nat)
  /-- ACK_TIMEOUT (R255). No ACK covers ACKED_SEQ within PORT_ACK_TMO, so the sender resends and counts a retry. With the flow: an ACK taken in the same cycle. -/
  | ackTimeout (f : Fin 16384 × Option Frame) (now : Nat)
  /-- ACK_PERIODIC (R254). A receiving context sends an ACK every 1 µs while accepted frames or granted credits are unreported. -/
  | ackPeriodic (f : Fin 16384) (now : Nat)
  /-- FRAME_CRC_FAIL (R253). A frame fails its CRC and the port sends REASON 1 NACKs for its armed transit and sink contexts. The frame as it came, and the tide. -/
  | frameCrcFail (p : Fin 8) (f : Frame × Nat)
  /-- UNKNOWN_FRAME (R258). A frame of reserved type, or for a context that is not armed, is discarded and counted in PORT_UNKNOWN_CNT. -/
  | unknownFrame (p : Fin 8) (f : Frame)
  /-- IDENT (R260). An IDENT frame is recorded in PORT_PEER and checked against the port-role record. -/
  | ident (p : Fin 8) (f : Frame)
  /-- IDENT_SEND (R375). Every 1 ms an armed package sends IDENT on each LINK and tree port. -/
  | identSend (now : Nat)
  /-- IDENT_CHECK_TIMEOUT (R260). The identity window ends; a port without a matching IDENT refuses the arming with TOPOLOGY_MISMATCH. -/
  | identCheckTimeout (now : Nat)
  /-- LANE (R237). A LANE frame tells the sender which lanes of a direction remain active. -/
  | lane (p : Fin 8) (f : Frame)
  /-- MARKER (R271). A MARKER updates offset and delay, parent choice and tide discipline, stepping the tide once in ACQUIRING. -/
  | marker (p : Fin 8) (f : Frame) (now : Nat)
  /-- MARKER_SEND (R270). Every 1 µs the package sends a MARKER on every up port, and the source advances the source sequence. -/
  | markerSend (now : Nat)
  /-- HOLDOVER (R272). No neighbour qualifies as parent, so the package enters HOLDOVER at its last disciplined rate. -/
  | holdover (now : Nat)
  /-- LOCKED_LOSS (R273). After 100 ms in HOLDOVER the package clears LOCKED. -/
  | lockedLoss (now : Nat)
  /-- LOCK_ACQUIRED (R273). The offset has stayed within ±2 ns for 1 s under a LOCKED parent and the package becomes LOCKED. -/
  | lockAcquired (now : Nat)
  /-- BACKUP_TAKEOVER (R277). Backup k receives no live marker for its takeover time and enters SOURCE. -/
  | backupTakeover (now : Nat)
  /-- SCHEDULE_TEMPO_CHANGE (R285). A KIND 1 announcement received for the first time is stored and flooded to the other up ports. -/
  | scheduleTempoChange (p : Fin 8) (f : Frame)
  /-- SCHEDULE_FRAME_STATE (R283). A KIND 2 frame from the parent that disagrees sets SCHED_MISMATCH, and the parent's values are adopted. -/
  | scheduleFrameState (p : Fin 8) (f : Frame)
  /-- SCHEDULE_REPEAT (R284). Every 10 µs until the boundary the source repeats each pending announcement. -/
  | scheduleRepeat (now : Nat)
  /-- FRAME_START (R281). The tide reaches a frame start, the frame's tempo applies, KIND 2 is sent, required tempo is recomputed and per-frame counters reset. -/
  | frameStart (now : Nat)
  /-- TEMPO_REQ (R290). A child's TEMPO_REQ is kept, and the package's aggregate requirement is passed toward the source. -/
  | tempoReq (p : Fin 8) (f : Frame)
  /-- TEMPO_REQ_SEND (R290). Every 100 µs the package sends its aggregate requirement to its parent. -/
  | tempoReqSend (now : Nat)
  /-- TEMPO_ANNOUNCE (R291). Under POLICY AUTO the source announces min(POD_Q, TEMPO_MAX) once R284 allows. -/
  | tempoAnnounce (now : Nat)
  /-- BAR_ARRIVE (R294). A child's TOTAL is stored and the package's total is sent on; at the source an entry that reaches EXPECT is released. -/
  | barArrive (p : Fin 8) (f : Frame) (now : Nat)
  /-- BAR_ARRIVE_RESEND (R294). Every 10 µs the package resends its totals for entries it holds no release for. -/
  | barArriveResend (now : Nat)
  /-- BAR_RELEASE (R296). The first BAR_RELEASE for an entry is flooded and its release adds are scheduled at RELEASE_TIDE. -/
  | barRelease (p : Fin 8) (f : Frame) (now : Nat)
  /-- POD_RELEASE_ADD (R77). At RELEASE_TIDE each member core's inbound ferry adds 1 to the release semaphore. -/
  | podReleaseAdd (i : Fin 8) (now : Nat)
  /-- ARENA_OPEN (R311). The supervisor begins opening an arena use once the tide, list order, record and range allow, and clears its range. -/
  | arenaOpen (i : Fin 24) (now : Nat)
  /-- ARENA_OPENED (R312). Clearing ends, the record reads open and its parked contributions are fed to the adder. -/
  | arenaOpened (i : Fin 24)
  /-- CONTRIBUTION_ACCEPT (R221). A controller takes a contribution frame and adds its codes, or parks it if its record is not open. -/
  | contributionAccept (i : Fin 24) (src : Nat) (accUpsets : List Nat)
  /-- PARK_WAIT_RELEASE (R314). Room frees in a park buffer and the waiting frame, with those queued behind it, is taken. -/
  | parkWaitRelease (i : Fin 24)
  /-- ECC_WRITE_BACK (R213). The controller writes back a corrected line unless a write to that line came first. -/
  | eccWriteBack (i : Fin 24)
  /-- PATROL_SCRUB (R215). A controller reads the next codeword of its scrub pass and writes back corrected lines. -/
  | patrolScrub (i : Fin 24) (upsets : List Upset)
  /-- STACK_FAILURE (R205). A stack stops responding during a job and is marked failed. -/
  | stackFailure (i : Fin 24)
  /-- WIPE_SRAM_DONE (R230). Phase 1 of the wipe ends, SRAM_DONE sets and core SRAM windows are accepted. -/
  | wipeSramDone
  /-- WIPE_WRITE_PASS_DONE (R229). A controller's zero-write pass ends and its verify pass begins. -/
  | wipeWritePassDone (i : Fin 24)
  /-- WIPE_VERIFY_DONE (R231). The verify pass ends, MEM_WIPE reads idle and job commands are accepted. -/
  | wipeVerifyDone (i : Fin 24) (upsets : List Upset)
  /-- DIGEST_CLEAR (R227). A write of DIG_CTRL.CLEAR sets the region's partial sums to 0. -/
  | digestClear (r : Fin 16) (now : Nat)
  /-- DIGEST_SNAP (R227). A write of DIG_CTRL.SNAP starts a snapshot of the region's partial sums. -/
  | digestSnap (r : Fin 16) (now : Nat)
  /-- DIGEST_SNAP_DONE (R227). The snapshot lands in DIG_SUM and SNAP clears. -/
  | digestSnapDone (r : Fin 16)
  /-- EVAL_DEADLINE (R361). At E_s the package evaluates step s whether or not every core has reported step-done. -/
  | evalDeadline (now : Nat)
  /-- STEP_DECISION (R364). At C_s the package decides applied, skipped or failed and writes the verdict line and step report. -/
  | stepDecision (now : Nat)
  /-- LEDGER_DONE_MARK (R369). A controller accepts a DONE mark equal to the step and the ledger bit is set, completing the ledger state when all are set. -/
  | ledgerDoneMark (k : Nat) (mirror : Bool)
  /-- HALT_TAKES_EFFECT (R436). At or after T_b, with every core halted and the ledger settled, the job enters HALTED with cause 1. -/
  | haltTakesEffect (now : Nat)
  /-- RESHARD_FOLD (R353). At T_b with FOLD_BAR released, cores are reset and reloaded, the reduction abandoned and fold programs started. -/
  | reshardFold (now : Nat)
  /-- RESHARD_FAIL (R353). FOLD_BAR has not released a frame after T_b, so the reshard fails and the job halts with cause 3. -/
  | reshardFail (now : Nat)
  /-- RAMP_START (R404). At the staggered ramp start the floor follows the ramp trajectory toward RAMP_TARGET. -/
  | rampStart (now : Nat)
  /-- FAST_POWER_FRAME (R409). The governor takes a fast-stream frame and sets the next interval's band. The frame, and whether the meter found power below 5 % or out of range. -/
  | fastPowerFrame (frame : List Byte × Bool × Bool) (work : PowerWork)
  /-- THERMAL_TRIP (R401). A die reaches the trip temperature, isle and strait power is removed at once and the package enters Dry. -/
  | thermalTrip (temps : List (BitVec 16)) (now : Nat)
  /-- VIN48_OUT_OF_RANGE (R485). VIN48 leaves 38 to 62 V for 50 µs and the converters stop until a power-on reset. -/
  | vin48OutOfRange (now : Nat)
  /-- REFCLK_LOSS (R491). The selected reference clock stops, its PLLs stop, the tide enters holdover and the ports go down. -/
  | refclkLoss (now : Nat)
  /-- WAKE_PIN (R392). An enabled WAKE pin held active for 10 µs wakes the package or records WAKE_CAUSE. -/
  | wakePin (i : Fin 4) (level : Bool) (heldUs : Nat) (temps : List (BitVec 16))
  /-- POWER_ENTRY_DONE (R388). An entry to Slack, Ebb or Dry finishes its ramp-down, laser, self-refresh and save-list steps. -/
  | powerEntryDone (now : Nat)
  /-- POWER_EXIT_DONE (R390). An exit reaches Flood with links retraining and the state that R390 gives restored. The tide, and the isthmus lanes that fail the retraining. -/
  | powerExitDone (a : Nat × List LaneFail)
  /-- SETTING_NOTICE (R410). The meter takes a setting notice from the queue and appends a job-tag or power-setting record. -/
  | settingNotice (energy rtc : Nat)
  /-- TIME_NOTICE (R411). At least every 60 s while PTP is locked, a time notice updates the meter's PTP_OFFSET. -/
  | timeNotice (ptp rtc : Nat)
  /-- METER_INTERVAL_RECORD (R412). At each multiple of MT_INTERVAL minutes the meter appends a signed interval record. -/
  | meterIntervalRecord (energy rtc peakW : Nat)
  /-- MT_INTERVAL_WRITE (R413). An I3C write of MT_INTERVAL closes the interval and appends a power-setting record. -/
  | mtIntervalWrite (minutes : Nat) (energy rtc peakW : Nat)
  /-- SEAL_EVENT (R408). A refused I3C write appends a seal event record. -/
  | sealEvent (selfCheck : Bool) (addr value : Nat) (energy rtc : Nat)
  /-- METER_START (R412). The meter starts after losing both supplies and appends a start record. -/
  | meterStart (gapS : Nat) (energy : Nat)
  /-- RTC_STORE (R415). Every second the meter stores its RTC to NVM. -/
  | rtcStore (rtc : Nat)
  /-- TELEMETRY_REFRESH (R447). Every PERIOD_MS the lighthouse core refreshes the telemetry snapshot and sets SUP_EVENT.TELEMETRY. -/
  | telemetryRefresh (now : Nat)
  /-- MSIX_UNMASK (R431). Unmasking a vector with its pending bit set sends its message. -/
  | msixUnmask (v : Fin 32)
  /-- HARBOUR_DATA (R264). A harbour DATA message is accepted and written to memory, or NACKed or dropped. -/
  | harbourData (m : HMsg)
  /-- HARBOUR_ACK (R263). A harbour ACK advances the sender's session window. -/
  | harbourAck (m : HMsg)
  /-- HARBOUR_NACK (R263). A harbour NACK reports a refused message to the sending session. -/
  | harbourNack (m : HMsg)
  /-- HARBOUR_END (R382). An END message ends a receive or restore session and sets the ledger from a valid manifest. -/
  | harbourEnd (m : HMsg)
  /-- HARBOUR_DIGEST (R379). A twin's DIGEST message is compared with the package's own step digest, setting MATCHED_STEP or DIVERGED. -/
  | harbourDigest (m : HMsg)
  /-- HARBOUR_RESEND (R263). 100 µs after its last transmission the oldest unacknowledged message is resent; after 16 resends the session fails. -/
  | harbourResend (k : Fin 8) (now : Nat)
  /-- HARBOUR_ACK_PERIODIC (R263). The receiver acknowledges at least every 100 µs while it holds unacknowledged messages. -/
  | harbourAckPeriodic (k : Fin 8) (now : Nat)
  /-- PTP_MESSAGE (R262). An IEEE 1588 message updates the offset between tide and wall-clock time. The carrier, and whether a master sent it. -/
  | ptpMessage (net : Net × Bool) (ptp tide : Nat)
  /-- NEIGHBOR_SOLICITATION (R262). The harbour port answers or resolves IPv6 neighbour discovery. The message and its sender's MAC address. -/
  | neighborSolicitation (net : Net) (d : Discovery) (mac : BitVec 48)
  /-- ICMPV6_ECHO (R262). The harbour port answers an ICMPv6 Echo request. The ends: the address it is sent to, the address it came from. -/
  | icmpv6Echo (net : Net) (ends : BitVec 128 × BitVec 128) (payload : List Byte)
  /-- IDENTIFY (R3). The command returns part number, ordering code, serial, feature word and die revisions. -/
  | identify (mb : Fin 16) (seq : Byte) (irq : Bool) (now : Nat)
  /-- STATUS (R440). The command returns job, power, tide, wipe, qualification and commit status. -/
  | status (mb : Fin 16) (seq : Byte) (irq : Bool) (now : Nat)
  /-- FW_UPDATE (R441). The command verifies an image in memory, then erases, writes and reads back the flash; `flashOk` says whether write and
  read-back succeed. -/
  | fwUpdate (mb : Fin 16) (seq : Byte) (irq : Bool) (now : Nat) (flashOk : Bool)
  /-- LIFECYCLE_SET (R470). The command writes an allowed lifecycle transition to OTP. -/
  | lifecycleSet (mb : Fin 16) (seq : Byte) (irq : Bool) (now : Nat)
  /-- LIFECYCLE_CHANGE_RESET (R471). One millisecond after an accepted lifecycle change the package performs a system reset. -/
  | lifecycleChangeReset (now : Nat)
  /-- ATTEST (R476). The command signs an attestation statement or returns signature parts or the public key; `meterOk`
  says whether the meter answers on I3C (R477). -/
  | attest (mb : Fin 16) (seq : Byte) (irq : Bool) (now : Nat) (meterOk : Bool)
  /-- JOB_LOAD (R357). The command checks a job image and loads its programs, flow table, registers and tag. -/
  | jobLoad (mb : Fin 16) (seq : Byte) (irq : Bool) (now : Nat)
  /-- JOB_RELOAD (R439). The command loads a changed image that keeps mapping, ports, memory plan, tag and coordinates. -/
  | jobReload (mb : Fin 16) (seq : Byte) (irq : Bool) (now : Nat)
  /-- JOB_ARM (R247). The command trains down ports, rewrites and arms flow contexts and runs the identity exchange. -/
  | jobArm (mb : Fin 16) (seq : Byte) (irq : Bool) (now : Nat)
  /-- JOB_START (R437). The command sets the first step, start and tempo and starts the job. -/
  | jobStart (mb : Fin 16) (seq : Byte) (irq : Bool) (now : Nat)
  /-- JOB_HALT (R436). The command schedules the job to halt at step boundary b. -/
  | jobHalt (mb : Fin 16) (seq : Byte) (irq : Bool) (now : Nat)
  /-- JOB_RELEASE (R440). The command resets every core, frees every flow context and clears the job tag. -/
  | jobRelease (mb : Fin 16) (seq : Byte) (irq : Bool) (now : Nat)
  /-- SPARE_ADOPT (R376). The command arms a skerry in a failed package's place with a longer identity wait. -/
  | spareAdopt (mb : Fin 16) (seq : Byte) (irq : Bool) (now : Nat)
  /-- RESHARD (R350). The command schedules an in-place reshard at boundary b, optionally with DRAIN. -/
  | reshard (mb : Fin 16) (seq : Byte) (irq : Bool) (now : Nat)
  /-- COMMIT_RESUME (R372). The command completes a partly applied step from the retained gradient. -/
  | commitResume (mb : Fin 16) (seq : Byte) (irq : Bool) (now : Nat)
  /-- TIDE_ROLE (R276). The command sets POD_ID and RANK, entering SOURCE, FREE or HOLDOVER as given. -/
  | tideRole (mb : Fin 16) (seq : Byte) (irq : Bool) (now : Nat)
  /-- TEMPO_SET (R286). The command makes the source announce a tempo at the earliest allowed boundary. -/
  | tempoSet (mb : Fin 16) (seq : Byte) (irq : Bool) (now : Nat)
  /-- POWER_STATE (R387). The command requests entry to Slack, Ebb or Dry, or a wake to Flood. -/
  | powerState (mb : Fin 16) (seq : Byte) (irq : Bool) (now : Nat)
  /-- GOV_SET (R396). The command sets cap, slews, floor or meter interval. -/
  | govSet (mb : Fin 16) (seq : Byte) (irq : Bool) (now : Nat)
  /-- TELEMETRY_SET (R447). The command sets the telemetry refresh period. -/
  | telemetrySet (mb : Fin 16) (seq : Byte) (irq : Bool) (now : Nat)
  /-- METER_READ (R446). The command reads meter state and records, or meter identity, over I3C. -/
  | meterRead (mb : Fin 16) (seq : Byte) (irq : Bool) (now : Nat)
  /-- RESET_CAUSE (R483). The lighthouse command returns the reset-cause block, CFG_GEN and recent journal entries. -/
  | resetCause (mb : Fin 16) (seq : Byte) (irq : Bool) (now : Nat)
  /-- TELEMETRY (R447). The lighthouse command refreshes and returns the telemetry snapshot. -/
  | telemetry (mb : Fin 16) (seq : Byte) (irq : Bool) (now : Nat)
  /-- RAMP_TO_FLOOR (R396). The lighthouse command writes GOV_CAP with max(GOV_FLOOR, 1,500) W. -/
  | rampToFloor (mb : Fin 16) (seq : Byte) (irq : Bool) (now : Nat)
  /-- ISOLATE_STRAITS (R444). The lighthouse command turns off all strait lasers until the next reset. -/
  | isolateStraits (mb : Fin 16) (seq : Byte) (irq : Bool) (now : Nat)
  /-- SYSTEM_RESET (R445). The lighthouse command completes and starts a system reset 1 ms later. -/
  | systemReset (mb : Fin 16) (seq : Byte) (irq : Bool) (now : Nat)
  /-- THERMAL_STATUS (R428). The lighthouse command returns the trip flag, trip temperature and die temperatures. -/
  | thermalStatus (mb : Fin 16) (seq : Byte) (irq : Bool) (now : Nat)
  /-- WAKE (R392). The lighthouse command wakes the package to Flood. -/
  | wake (mb : Fin 16) (seq : Byte) (irq : Bool) (now : Nat)
  /-- DIAG_LANES (R440). The command returns the per-lane failure and error map of an isthmus or port. -/
  | diagLanes (mb : Fin 16) (seq : Byte) (irq : Bool) (now : Nat)
  /-- DIAG_ECC (R216). The command returns and clears each stack's error counters and last uncorrectable address. -/
  | diagEcc (mb : Fin 16) (seq : Byte) (irq : Bool) (now : Nat)
  /-- DIAG_PROGRAM (R442). The command loads diagnostic core programs and starts them with a one-off frame reference. -/
  | diagProgram (mb : Fin 16) (seq : Byte) (irq : Bool) (now : Nat)
  /-- CORE_RESET (R464). The command resets a core, or every core and barrier counter of an isle. -/
  | coreReset (mb : Fin 16) (seq : Byte) (irq : Bool) (now : Nat)
  /-- HARBOUR_CONFIG (R443). The command sets the harbour IPv6 address, VLAN and UDP port. -/
  | harbourConfig (mb : Fin 16) (seq : Byte) (irq : Bool) (now : Nat)
  /-- SESSION_OPEN (R443). The command opens a send, receive or digest harbour session in a free slot. -/
  | sessionOpen (mb : Fin 16) (seq : Byte) (irq : Bool) (now : Nat)
  /-- SESSION_CLOSE (R443). The command stops a session at once and frees its slot. -/
  | sessionClose (mb : Fin 16) (seq : Byte) (irq : Bool) (now : Nat)
  /-- CHECKPOINT (R381). The command sends every JOB_STATE region and a manifest on a harbour session. -/
  | checkpoint (mb : Fin 16) (seq : Byte) (irq : Bool) (now : Nat)
  /-- RESTORE (R382). The command opens a receiving session over the JOB_STATE regions. -/
  | restore (mb : Fin 16) (seq : Byte) (irq : Bool) (now : Nat)
  /-- UNKNOWN_COMMAND (R432). A command word with an opcode not in Table 14-8 completes with UNKNOWN_COMMAND. -/
  | unknownCommand (mb : Fin 16) (opcode : BitVec 16) (seq : Byte) (irq : Bool) (now : Nat)
  /-- COMMAND_COMPLETE (R424). A running command ends and writes response, length, detail and status, then its vector if IRQ is set. -/
  | commandComplete (mb : Fin 16) (now : Nat)
  /-- WINDOW_READ (R420). A BAR0 aperture read reaches MEMWIN_BASE plus offset in the physical address space. -/
  | windowRead (off : Fin 0x400000) (len : Nat) (upsets : List Upset)
  /-- WINDOW_WRITE (R421). A BAR0 aperture write writes a whole line, or merges a shorter write by read and write. The bytes, and whether other events come between the read and the write of the merge (log 108). -/
  | windowWrite (off : Fin 0x400000) (bytes : List Byte × Bool) (now : Nat)
  /-- FLOW_CONTEXT_WRITE (R265). A memory-window write to a flow context takes effect while no job is armed. -/
  | flowContextWrite (off : Fin 0x100000) (bytes : List Byte) (now : Nat)
  /-- SLOT_READY_WRITE (R346). A write of SLOT_READY records the latest step whose slot table is ready; lower values are ignored. -/
  | slotReadyWrite (hi : Bool) (v : Reg)
  /-- CORE_FLAGS_SET (R66). A host write of 1 to a CORE_FLAGS.FW bit sets that flag. -/
  | coreFlagsSet (c : Fin 576) (bits : BitVec 5) (now : Nat)
  /-- CORE_FLAGS_CLEAR (R67). A host write of 0 to a CORE_FLAGS.FW bit clears that flag. -/
  | coreFlagsClear (c : Fin 576) (bits setToo : BitVec 5) (now : Nat)
  /-- GOV_REGISTER_WRITE (R410). A BAR0 or JTAG write to a governor register takes effect next interval and queues a meter notice, or is discarded while the queue is full. -/
  | govRegisterWrite (reg : GovReg) (v : Reg) (jtag : Bool) (now : Nat)
  /-- BOOT_GO (R461). A write of BOOT_CTRL.GO in AWAIT_HOST or RECOVERY checks the image in the boot buffer. -/
  | bootGo (len : BitVec 23) (now : Nat)
  /-- REGISTER_WRITE (R8). A BAR0 or JTAG write to a register with no row of its own takes effect in R8 order and may raise CFG_GEN. -/
  | registerWrite (off : Fin 0xC00000) (bytes : List Byte) (hw : Option Reg) (now : Nat)
  /-- TIDE_NOW_LO_READ (R268). A read of TIDE_NOW_LO captures the whole tide counter for the next HI read. -/
  | tideNowLoRead (now : Nat)
  /-- MT_ENERGY_LO_READ (R416). A read of MT_ENERGY_LO captures both halves of the energy copy. -/
  | mtEnergyLoRead
  /-- CFG_GEN_LO_READ (R448). A read of CFG_GEN_LO captures both halves of CFG_GEN. -/
  | cfgGenLoRead
  /-- SLOT_ENDED_LO_READ (R345). A read of SLOT_ENDED_LO captures both halves. -/
  | slotEndedLoRead
  /-- SIG_NEXT_LO_READ (R474). A read of SIG_NEXT_LO or SIG_RES_END_LO captures both halves. -/
  | sigNextLoRead (resEnd : Bool)
  /-- HARB_SESS_BYTES_LO_READ (R443). A read of HARB_SESS_BYTES_LO captures both halves. -/
  | harbSessBytesLoRead (k : Fin 8)
  /-- MEM_CE_CNT_READ (R216). A read of MEM_CE_CNT returns and clears the corrected-error count. -/
  | memCeCntRead (i : Fin 24)
  /-- MEM_UE_CNT_READ (R216). A read of MEM_UE_CNT returns and clears the uncorrectable count. -/
  | memUeCntRead (i : Fin 24)
  /-- ACC_UE_CNT_READ (R216). A read of ACC_UE_CNT returns and clears the accumulation-cache uncorrectable count. -/
  | accUeCntRead (i : Fin 24)
  /-- PORT_RETRY_CNT_READ (R255). A read of PORT_RETRY_CNT returns and clears the retry count. -/
  | portRetryCntRead (p : Fin 8)
  /-- PORT_FOREIGN_CNT_READ (R257). A read of PORT_FOREIGN_CNT returns and clears the foreign-tag count. -/
  | portForeignCntRead (p : Fin 8)
  /-- PORT_UNKNOWN_CNT_READ (R258). A read of PORT_UNKNOWN_CNT returns and clears the unknown-frame count. -/
  | portUnknownCntRead (p : Fin 8)
  /-- PORT_FEC_UE_CNT_READ (R241). A read of PORT_FEC_UE_CNT returns and clears the uncorrectable codeword count. -/
  | portFecUeCntRead (p : Fin 8)
  /-- HARB_DROP_CNT_READ (R264). A read of HARB_DROP_CNT returns and clears the foreign-message count. -/
  | harbDropCntRead
  /-- TIDE_OVERRUN_CNT_READ (R289). A read of TIDE_OVERRUN_CNT returns and clears the overrun count. -/
  | tideOverrunCntRead
  /-- TIDE_LATE_REL_CNT_READ (R296). A read of TIDE_LATE_REL_CNT returns and clears the late-release count. -/
  | tideLateRelCntRead
  /-- JTAG_BUSACC (R481). A JTAG BUSACC access reaches the BAR0 map or memory window, ranking after BAR0 writes. What falls in its cycle: a hardware update, a BAR0 write; and the tide. -/
  | jtagBusacc (write : Bool) (off : Fin 0x1000000) (len : Nat) (bytes : List Byte) (cycle : Option Reg × List Byte × Nat)
  /-- PWRGOOD_LOW (R453). PWRGOOD low for 1.1 µs or more takes a power-on reset. -/
  | pwrgoodLow (lowNs : Nat) (now : Nat)
  /-- STANDBY_LOSS (R451). VSTBY below 2.9 V for 1 µs takes a power-on reset. -/
  | standbyLoss (lowNs : Nat)
  /-- SYS_RESET_N_LOW (R453). SYS_RESET_N low for 1.1 µs or more takes a system reset. -/
  | sysResetNLow (lowNs : Nat) (now : Nat)
  /-- PERST_N_ASSERT (R451). PERST_N asserted takes a system reset. -/
  | perstNAssert (now : Nat)
  /-- SUPERVISOR_WATCHDOG (R468). The supervisor watchdog expires unserviced and takes a system reset. -/
  | supervisorWatchdog (now : Nat)
  /-- RESET_RELEASE (R460). The reset is released 10 µs after its source deasserts and boot runs its sequence. -/
  | resetRelease (vin48Ok : Bool) (bootSrc clkMode : BitVec 2)
  /-- AWAIT_HOST_TIMEOUT (R461). Under BOOT_SRC 0b10, 2 s without a host image leads the boot ROM to read flash. -/
  | awaitHostTimeout
  /-- FLASH_READ_DONE (R459). The flash read of the firmware image ends and the image is checked, entering RECOVERY on failure. -/
  | flashReadDone (readOk : Bool)
  /-- STACK_TRAINING_DONE (R230). The memory controllers finish training their stacks after wipe phase 1; a stack that fails is marked failed, and the write pass begins with MEM_WIPE.STATE 0b10. -/
  | stackTrainingDone (failed : List (Fin 24))
  /-- ISTHMUS_TRAINING_DONE (R21). Start-up lane training of the isthmus links ends within 50 ms, setting module widths and ISTH_STATUS STATE to up or failed. -/
  | isthmusTrainingDone (failed : List LaneFail)
  /-- PORT_TRAINING_DONE (R236). A strait port's lane training completes within 200 ms of the far end becoming lit, and the port enters up with its active lanes, or lanes that failed training are declared failed. -/
  | portTrainingDone (p : Fin 8) (rxFailed txFailed : Reg)
  /-- FAR_END_DARK (R239). The far end of a strait port goes dark, and the port goes down with cause 5, faulting the armed contexts that use it. -/
  | farEndDark (p : Fin 8)
  /-- UNCORRECTABLE_CODEWORD (R237). A strait lane receives a codeword that forward error correction cannot correct, and PORT_FEC_UE_CNT rises. The lane and the tide. -/
  | uncorrectableCodeword (p : Fin 8) (n : Fin 32 × Nat)
  /-- BAD_BLOCK_BOUNDARY (R241). A receiver finds a block boundary with neither a start marker nor an all-zero block, discards blocks until the next marker and counts one error. The port and the block. -/
  | badBlockBoundary (a : Fin 8 × List Byte)
  /-- ISTHMUS_FLIT_REPLAY (R17). An isthmus flit fails its CRC and the module replays it from its replay buffer in order, adding tREPLAY. -/
  | isthmusFlitReplay (k : Fin 4) (m : Fin 16) (rev : Bool)
  /-- HARBOUR_LINK_CHANGE (R261). The harbour Ethernet link comes up or goes down, and HARB_STAT.LINK_UP changes. -/
  | harbourLinkChange (up : Bool)
  /-- PCIE_LINK_UP (R461). The PCIe link comes up or retrains, which under BOOT_SRC 0b10 starts the 2 s AWAIT_HOST wait. -/
  | pcieLinkUp
  /-- MT_ENERGY_COPY (R430). Every 10 ms the supervisor reads MT_ENERGY over I3C into MT_ENERGY_LO and MT_ENERGY_HI. -/
  | mtEnergyCopy (energy : BitVec 64)
  /-- DEBUG_HALT (R482). The debug logic halts, steps or resumes the control processor or a core through the test access port, and a core it halts counts as not having reported step-done. -/
  | debugHalt (op : DebugOp) (core : Option (Fin 576))
  deriving DecidableEq, Repr

end Sys2Proof
end

