-- ==== Sys2Proof/Decode.lean ====
section
/-! DEFINITION. The rows of opcode_table.json carry no bits: no word spells a command of the block. -/

namespace Sys2Proof

/-- The command that a word of the table's bits spells: none, since no row of the table has bits. -/
def decodeTableWord (_nbits _w : Nat) : Option Instr := none

end Sys2Proof
end

