-- ==== Sys2Proof/Machine/Tbl.lean ====
section
/-! DEFINITION. Sparse tables in one canonical form: keys strictly rising, and no entry equal to what an unlisted key reads as. -/

namespace Sys2Proof.Machine

/-- A table from numbers to values; a key that is not listed reads as the table's default. -/
abbrev Tbl (α : Type) := List (Nat × α)

/-- The value at a key; the default where the key is not listed. -/
def tblGet {α : Type} (d : α) : Tbl α → Nat → α
  | [], _ => d
  | (k, v) :: t, i => if k = i then v else tblGet d t i

/-- The table without a key. -/
def tblErase {α : Type} (t : Tbl α) (i : Nat) : Tbl α := t.filter (fun p => p.1 != i)

/-- Insert a key before the first larger key. -/
def tblIns {α : Type} : Tbl α → Nat → α → Tbl α
  | [], i, v => [(i, v)]
  | (k, w) :: t, i, v => if i < k then (i, v) :: (k, w) :: t else (k, w) :: tblIns t i v

/-- Write a key. Writing the default removes the entry, so that equal tables are equal data. -/
def tblSet {α : Type} [DecidableEq α] (d : α) (t : Tbl α) (i : Nat) (v : α) : Tbl α :=
  if v = d then tblErase t i else tblIns (tblErase t i) i v

/-- Change the value at one key. -/
def tblMod {α : Type} [DecidableEq α] (d : α) (t : Tbl α) (i : Nat) (f : α → α) : Tbl α :=
  tblSet d t i (f (tblGet d t i))

/-- Canonical form: keys strictly rising, no entry equal to the default. -/
def tblWf {α : Type} [DecidableEq α] (d : α) : Tbl α → Bool
  | [] => true
  | [(_, v)] => v != d
  | (k, v) :: (k', v') :: t => v != d && k < k' && tblWf d ((k', v') :: t)

/-- The keys from `a` to `a + n − 1`, rising. -/
def span (a n : Nat) : List Nat := (List.range n).map (a + ·)

end Sys2Proof.Machine
end

