-- ==== Sys2Proof/Machine/Bytes.lean ====
section
/-! DEFINITION. Bytes and little-endian numbers (R4), sparse byte memories, fields of 64-byte lines. -/

namespace Sys2Proof.Machine

/-- A byte memory: a canonical sparse table in which an unlisted byte reads as zero (R228 wipes to zero). -/
abbrev Mem := Tbl Byte

/-- One byte of a memory. -/
def memGet (m : Mem) (a : Nat) : Byte := tblGet 0 m a

/-- Write one byte. -/
def memSet (m : Mem) (a : Nat) (b : Byte) : Mem := tblSet 0 m a b

/-- `n` bytes from an address, rising. -/
def memRead (m : Mem) (a n : Nat) : List Byte := (span a n).map (memGet m)

/-- The cells that bytes from an address list: a zero byte lists none. -/
def newCells (a : Nat) (bs : List Byte) : Mem := ((span a bs.length).zip bs).filter fun c => c.2 != 0

/-- Write bytes from an address, rising. -/
def memWrite (m : Mem) (a : Nat) (bs : List Byte) : Mem :=
  m.filter (fun c => decide (c.1 < a)) ++ newCells a bs ++ m.filter (fun c => decide (a + bs.length ≤ c.1))

/-- Canonical form of a byte memory. -/
def memWf (m : Mem) : Bool := tblWf 0 m

/-- The number that bytes spell, least significant byte first (R4). -/
def leNat : List Byte → Nat
  | [] => 0
  | b :: bs => b.toNat + 256 * leNat bs

/-- A number of `n` bytes at an offset of some bytes. -/
def imgNat (b : List Byte) (o n : Nat) : Nat := leNat ((b.drop o).take n)

/-- The extension of the qualified-combination table that a firmware image carries (R38, R458). -/
def imageExt (fw : List Byte) : List Byte := if imgNat fw 20 4 = 0 then [] else (fw.drop (imgNat fw 20 4)).take (imgNat fw 24 4)

/-- The low `n` bytes of a number, least significant first (R4). -/
def leBytes : Nat → Nat → List Byte
  | 0, _ => []
  | n + 1, x => BitVec.ofNat 8 x :: leBytes n (x / 256)

/-- A number of `n` bytes read at an address. -/
def memNat (m : Mem) (a n : Nat) : Nat := leNat (memRead m a n)

/-- The field of `n` bits at bit `lo` of byte `byte` of a 64-byte line. -/
def fld (d : Line) (byte lo n : Nat) : Nat := bitsOf d.toNat (8 * byte + lo) n

/-- The field of `n` whole bytes at byte `byte` of a line. -/
def fldB (d : Line) (byte n : Nat) : Nat := bitsOf d.toNat (8 * byte) (8 * n)

/-- A line with the field of `n` bits at bit position `lo` replaced. -/
def setFld (d : Line) (lo n v : Nat) : Line :=
  BitVec.ofNat 512 (d.toNat - bitsOf d.toNat lo n * 2 ^ lo + v % 2 ^ n * 2 ^ lo)

/-- A line from its bytes. -/
def lineOf (bs : List Byte) : Line := BitVec.ofNat 512 (leNat bs)

/-- The 64 bytes of a line. -/
def lineBytes (d : Line) : List Byte := leBytes 64 d.toNat

/-- Bytes padded with zeros to a multiple of `n`. -/
def padTo (n : Nat) (bs : List Byte) : List Byte :=
  bs ++ List.replicate ((n - bs.length % n) % n) 0

/-- Bytes in pieces of `n`; the last piece may be shorter. -/
def chunks (n : Nat) : Nat → List Byte → List (List Byte)
  | 0, _ => []
  | fuel + 1, bs => if bs.isEmpty then [] else bs.take n :: chunks n fuel (bs.drop n)

/-- Quotient rounded up. -/
def cdiv (a b : Nat) : Nat := (a + b - 1) / b

/-- A number limited to a range. -/
def clamp (lo hi x : Nat) : Nat := max lo (min hi x)

/-- Two's complement value of an `n`-bit number. -/
def sgn (n x : Nat) : Int := if x < 2 ^ (n - 1) then x else (x : Int) - 2 ^ n

/-- `n`-bit two's complement code of an integer. -/
def unsgn (n : Nat) (x : Int) : Nat := (x % (2 ^ n : Int)).toNat

/-- Two ranges of addresses share an address. -/
def overlap (a la b lb : Nat) : Bool := 0 < la && 0 < lb && a < b + lb && b < a + la

end Sys2Proof.Machine
end

