-- ==== Sys2Proof/Machine/Hash.lean ====
section
/-! DEFINITION. SHAKE256 (R225, R377, R414), CRC-32C (R243) and the Reed–Solomon check bytes of R211. -/

namespace Sys2Proof.Machine

/-- The 24 round constants of Keccak-f[1600]. -/
def keccakRC : List W64 :=
  [0x0000000000000001#64, 0x0000000000008082#64, 0x800000000000808A#64, 0x8000000080008000#64,
   0x000000000000808B#64, 0x0000000080000001#64, 0x8000000080008081#64, 0x8000000000008009#64]
  ++ [0x000000000000008A#64, 0x0000000000000088#64, 0x0000000080008009#64, 0x000000008000000A#64,
   0x000000008000808B#64, 0x800000000000008B#64, 0x8000000000008089#64, 0x8000000000008003#64]
  ++ [0x8000000000008002#64, 0x8000000000000080#64, 0x000000000000800A#64, 0x800000008000000A#64,
   0x8000000080008081#64, 0x8000000000008080#64, 0x0000000080000001#64, 0x8000000080008008#64]

/-- The rotation of lane x + 5y. -/
def keccakRot : List Nat :=
  [0, 1, 62, 28, 27, 36, 44, 6, 55, 20, 3, 10, 43] ++ [25, 39, 41, 45, 15, 21, 8, 18, 2, 61, 56, 14]

/-- Lane `i` of a state held as a list of 25 lanes. -/
def lane (a : List W64) (i : Nat) : W64 := a.getD i 0

/-- One round: theta, rho and pi, chi, iota. -/
def keccakRound (a : List W64) (rc : W64) : List W64 :=
  let c := (List.range 5).map fun x =>
    lane a x ^^^ lane a (x + 5) ^^^ lane a (x + 10) ^^^ lane a (x + 15) ^^^ lane a (x + 20)
  let d := (List.range 5).map fun x => lane c ((x + 4) % 5) ^^^ (lane c ((x + 1) % 5)).rotateLeft 1
  let t := (List.range 25).map fun i => lane a i ^^^ lane d (i % 5)
  let p := (List.range 25).map fun k =>
    let y := k % 5
    let x := (k / 5 + 15 - 3 * y) * 3 % 5
    (lane t (x + 5 * y)).rotateLeft (keccakRot.getD (x + 5 * y) 0)
  let e := (List.range 25).map fun k =>
    let x := k % 5
    let y := k / 5
    lane p k ^^^ (~~~ lane p ((x + 1) % 5 + 5 * y) &&& lane p ((x + 2) % 5 + 5 * y))
  match e with
  | [] => []
  | h :: r => (h ^^^ rc) :: r

/-- The permutation. -/
def keccakF (a : List W64) : List W64 := keccakRC.foldl keccakRound a

/-- XOR a block of up to 136 bytes into the state. -/
def keccakAbsorb (a : List W64) (blk : List Byte) : List W64 :=
  (List.range 25).map fun i => lane a i ^^^ BitVec.ofNat 64 (leNat ((blk.drop (8 * i)).take 8))

/-- Absorb whole blocks of 136 bytes. -/
def shakeBlocks : List W64 → List (List Byte) → List W64
  | a, [] => a
  | a, b :: bs => shakeBlocks (keccakF (keccakAbsorb a b)) bs

/-- SHAKE256 with a 32-byte output. -/
def shake256 (msg : List Byte) : List Byte :=
  let r := 136
  let m := msg ++ [0x1F#8]
  let z := (r - m.length % r) % r
  let body := m ++ List.replicate z 0
  let body := body.take (body.length - 1) ++ [(body.getLastD 0) ^^^ 0x80#8]
  let a := shakeBlocks (List.replicate 25 0) (chunks r (body.length / r + 1) body)
  (a.take 4).flatMap fun w => leBytes 8 w.toNat

/-- One bit step of the reflected CRC-32C, polynomial 0x1EDC_6F41 (reflected 0x82F6_3B78). -/
def crcBit (c : Reg) : Reg := if c.getLsbD 0 then (c >>> 1) ^^^ 0x82F63B78#32 else c >>> 1

/-- One byte of the CRC. -/
def crcByte (c : Reg) (b : Byte) : Reg :=
  crcBit (crcBit (crcBit (crcBit (crcBit (crcBit (crcBit (crcBit (c ^^^ b.zeroExtend 32))))))))

/-- CRC-32C over bytes, initial value and final XOR 0xFFFF_FFFF (R243). -/
def crc32c (bs : List Byte) : Reg := bs.foldl crcByte 0xFFFFFFFF#32 ^^^ 0xFFFFFFFF#32

/-- Multiplication by α = 0x02 in GF(2⁸) with polynomial 0x11D (R211). -/
def gfDouble (a : Byte) : Byte := if a.getLsbD 7 then (a <<< 1) ^^^ 0x1D#8 else a <<< 1

/-- Multiplication in GF(2⁸). -/
def gfMul (a b : Byte) : Byte :=
  ((List.range 8).foldl (fun (r : Byte × Byte) i =>
    (if b.getLsbD i then r.1 ^^^ r.2 else r.1, gfDouble r.2)) (0, a)).1

/-- α to the power i. -/
def gfPow : Nat → Byte
  | 0 => 1
  | i + 1 => gfDouble (gfPow i)

/-- Multiply a polynomial (highest coefficient first) by (x + c). -/
def polyMulLin (p : List Byte) (c : Byte) : List Byte :=
  (p ++ [0]).zipWith (· ^^^ ·) (0 :: p.map (gfMul c))

/-- g(x) = (x + α⁰) … (x + α⁷), highest coefficient first, without the leading 1 (R211). -/
def rsGen : List Byte := ((List.range 8).foldl (fun p i => polyMulLin p (gfPow i)) [1]).drop 1

/-- One step of the division by g(x). -/
def rsStep (r : List Byte) (b : Byte) : List Byte :=
  let f := b ^^^ r.headD 0
  ((r.drop 1) ++ [0]).zipWith (fun x g => x ^^^ gfMul f g) rsGen

/-- The 8 check bytes of a 64-byte line: r(x) = m(x) mod g(x), coefficient of x⁷ first (R211). -/
def rsCheck (data : List Byte) : List Byte := data.foldl rsStep (List.replicate 8 0)

end Sys2Proof.Machine
end

