-- ==== Sys2Proof/Machine/StateCore.lean ====
section
/-! DEFINITION. The state of one core (02_core_and_synchronisation.md, 04, 05, 06): sequencer, queues and engines, semaphores,
SRAM, matrix contexts, tables. -/

namespace Sys2Proof.Machine

/-- What the sequencer of a core is doing, beside what it waits for (CORE_STAT.SEQ_STATE). -/
inductive SeqMode where
  | reset | wiping | running | halted
  deriving DecidableEq, Repr

/-- What stops a running sequencer: a semaphore (R63), a flag (R68), a full queue (R54), a FENCE, the engines at STEP_END, or the
next frame reference (R50). -/
inductive SeqWait where
  | none | sem | flag | issue | fence | stepEnd | stepRef
  deriving DecidableEq, Repr

/-- A descriptor in an engine queue, with the fields of its ISSUE and the tide target the comparator held when the ISSUE was
accepted (R53, R55). `seen` lists the ranges of the core's SRAM (address, length) that descriptors, drains and landed writes have
written while this one was in flight; for an outbound transfer `seenAbroad` lists those of other cores' SRAM (core, address, length)
(R83). -/
structure QEntry where
  desc : Line
  waitSem : Nat
  waitN : Nat
  consume : Bool
  sigSem : Nat
  sigN : Nat
  tideHold : Bool
  target : Option Nat
  seen : List (Nat × Nat)
  seenAbroad : List (Nat × Nat × Nat)
  deriving DecidableEq, Repr

/-- How far a running descriptor has come: its work is still to do, K-step `j` of a multiply-accumulate is next (R121), its
handoff is to come (R119), its frames are being taken by a flow (Table 2-6), or it may complete. -/
inductive Phase where
  | work
  | kStep (j : Nat)
  | handoff
  | sending
  | ready
  deriving DecidableEq, Repr

/-- A started descriptor, with the SRAM ranges that it writes in its own core, and those that an outbound transfer writes in another
core of the package (core, address, length; R83), and for a clause the records and the permute table as read at its start (R147):
0 SRC0, 1 SRC1, 2 DST, 3 MASK, 4 RED0, 5 RED1, 6 and 7 the table. -/
structure Run where
  entry : QEntry
  phase : Phase
  writes : List (Nat × Nat)
  lands : List (Nat × Nat × Nat)
  recs : List Line
  deriving DecidableEq, Repr

/-- An engine: descriptors waiting, oldest first, and the one running. -/
structure Engine where
  queue : List QEntry
  run : Option Run
  deriving DecidableEq, Repr

/-- An idle engine. -/
def engineIdle : Engine := ⟨[], none⟩

/-- A tile context of the accumulator buffer (R117). `slot` is none while the context holds the slot of its own number. `zero`
says that the context starts from +0, whatever its slot holds, until its next update (R118). -/
structure AccCtx where
  isOpen : Bool
  bound : Bool
  slot : Option Nat
  terms : Nat
  zero : Bool
  deriving DecidableEq, Repr

/-- A context after reset (ACC_CTX_n). -/
def ctxReset : AccCtx := ⟨false, false, none, 0, false⟩

/-- A running drain (R119, R138): its descriptor, the context the tile came from, the tile's counter and bound bit, whether the
tile is all +0 (a closed context, R120, or one that was opened by init and updated by no K-step), and the ranges it writes (R139). -/
structure Drain where
  desc : Line
  ctx : Nat
  terms : Nat
  bound : Bool
  zero : Bool
  writes : List (Nat × Nat)
  deriving DecidableEq, Repr

/-- What a core's program is run as: frames of a step, the fold program of R353, a reshard program of R352, a diagnostic program
that no frame follows (R442). -/
inductive RunKind where
  | step | fold | reshard | diag
  deriving DecidableEq, Repr

/-- One core. -/
structure Core where
  /-- Sequencer (CORE_STAT): mode, wait, PC; words held by prefetch (R46); loop counters (R48). -/
  mode : SeqMode
  wait : SeqWait
  pc : Nat
  held : List (Nat × W64)
  lc : Tbl Nat
  /-- S00–S47 (R61), F0–F7 (Table 2-11), CORE_ERR. -/
  sems : Tbl Nat
  flags : BitVec 8
  err : Reg
  /-- The six engines (Table 2-2). -/
  engines : Tbl Engine
  /-- Tide comparator (R71): target last armed, and whether it is not yet reached. -/
  target : Option Nat
  armed : Bool
  /-- Frame reference (R50): step, T, tempo in 1/4,096. -/
  frameStep : Nat
  frameT : Nat
  frameQ : Nat
  /-- What the supervisor keeps of the core, through core resets: one more than the last step it has reported step-done for (R361).
  What its program is run as. -/
  doneUpTo : Nat
  runs : RunKind
  /-- CORE_LATE_CNT (R80), CORE_STASH_SKIP (R202). -/
  lateCnt : Nat
  stashSkip : Nat
  /-- The three memories of Table 2-3 by core-local address; 8-byte words that hold an uncorrectable error (R44). -/
  sram : Mem
  badWords : Tbl Bool
  /-- Accumulator layout, contexts, drain slot and running drain (R115–R119), tables (R136), ACC_DRAIN_STAT. -/
  shape : Nat
  comp : Bool
  ctxs : Tbl AccCtx
  drainSlot : Nat
  drain : Option Drain
  tab1 : Option (List Byte)
  tab2 : Option (List Byte)
  drainStat : Reg
  /-- Clause tables (R163), CLAUSE_STAT, CLAUSE_SPARSE_BYTES (R181). -/
  ctab1 : Option (List Byte)
  ctab2 : Option (List Byte)
  clauseStat : Reg
  sparseBytes : Nat
  /-- The program of the job image (R356): whether the core holds one, its start index. -/
  program : Bool
  start : Nat
  /-- Halted by the debug logic (R482); let go for one command. -/
  dbgHalt : Bool
  dbgStep : Bool
  /-- The core reset that runs was caused by the core watchdog (R467). -/
  byWdog : Bool
  /-- Clock point in MHz (R393, R398). -/
  mhz : Nat
  /-- Tide of the last change of PC or ENGINE_BUSY (R466). -/
  changed : Nat
  deriving DecidableEq, Repr

/-- A core after a power-on, system or core reset whose wipe has ended (R81, R143, R184): SEQ_STATE reads 0 until the supervisor
halts or starts it. -/
def coreReset : Core where
  mode := .reset
  wait := .none
  pc := 0
  held := []
  lc := []
  sems := []
  flags := 0
  err := 0
  engines := []
  target := none
  armed := false
  frameStep := 0
  frameT := 0
  frameQ := 0
  doneUpTo := 0
  runs := .step
  lateCnt := 0
  stashSkip := 0
  sram := []
  badWords := []
  shape := 1
  comp := false
  ctxs := []
  drainSlot := 31
  drain := none
  tab1 := none
  tab2 := none
  drainStat := 0
  ctab1 := none
  ctab2 := none
  clauseStat := 0
  sparseBytes := 0
  program := false
  start := 0
  dbgHalt := false
  dbgStep := false
  byWdog := false
  mhz := 400
  changed := 0

end Sys2Proof.Machine
end

