-- ==== Sys2Proof/Machine/StateFabric.lean ====
section
/-! DEFINITION. The state of the isthmus links (01), the strait ports, flows and harbour port (08), the tide and the pod barriers
(09). -/

namespace Sys2Proof.Machine

/-- A lane failure declared and not yet taken (R31): the 1 ms interval it was declared in, and 2 × lane + 1 for the reverse
direction, + 0 for the forward one. -/
structure LaneDecl where
  interval : Nat
  order : Nat
  deriving DecidableEq, Repr

/-- A module change in progress: the failure it applies and the tide at which it began. -/
structure ModChange where
  decl : LaneDecl
  since : Nat
  deriving DecidableEq, Repr

/-- A module of an isthmus link (ISTH_MOD_k_m, R24–R31): WIDTH 0 untrained, 1 full, 2 half, 3 offline; failed lanes since start,
forward lane n under n and reverse lane n under 68 + n; spares in use; the change in progress, the failures that wait for its end in
the order in which they are taken; parity errors since start. -/
structure IsthModule where
  width : Nat
  halfSel : Bool
  failed : Tbl Bool
  sparesFwd : Nat
  sparesRev : Nat
  change : Option ModChange
  declared : List LaneDecl
  parity : Nat
  deriving DecidableEq, Repr

/-- A module after reset. -/
def moduleReset : IsthModule := ⟨0, false, [], 0, 0, none, [], 0⟩

/-- The four isthmus links: modules 16 k + m, ISTH_STATUS_k.STATE, ISTH_EVENT, and the lane map of OTP (R20): key
136 × (16 k + m) + lane, reverse lanes at 68 + lane. -/
structure Isthmus where
  mods : Tbl IsthModule
  link : Tbl Nat
  event : Reg
  laneMap : Tbl Bool
  deriving DecidableEq, Repr

/-- The last marker from a port's neighbour (R270): SEQ and the tide at which it last changed, RANK, DEPTH, LOCKED, CHILD, its
departure stamp and local arrival in 2⁻⁸ ns. -/
structure Marker where
  seq : Nat
  changedAt : Nat
  rank : Nat
  depth : Nat
  locked : Bool
  child : Bool
  stamp : Nat
  arrival : Nat
  deriving DecidableEq, Repr

/-- One strait port (08, 14 DIAG_LANES, 09): PORT_STAT, failed lanes, counters, ACK timeout, PORT_PEER, laser and far end, lanes
declared failed and not yet applied (R238), pauses, round-robin position (R251), per-lane error counts, whether a matching IDENT
came since the arming began (R260), the neighbour's marker and tempo requirement (R290). Then: the lanes have been trained; the port went
down while a job was armed (R240); blocks are being discarded (R241); frames that wait for a pause to end (R238); for each lane, 1 + the
tide of its last uncorrectable codeword (R237). -/
structure Port where
  state : Nat
  cause : Nat
  failTx : Reg
  failRx : Reg
  retry : Nat
  foreign : Nat
  unknown : Nat
  fecUe : Nat
  ackTmo : Nat
  peerSn : W64
  peerPos : Reg
  laserFault : Bool
  qualified : Bool
  isolated : Bool
  farLit : Bool
  newTx : Reg
  newRx : Reg
  pauseTx : Bool
  pauseRx : Bool
  rr : Nat
  corrected : Tbl Nat
  codewords : Tbl Nat
  identOk : Bool
  marker : Option Marker
  reqQ : Nat
  trained : Bool
  latched : Bool
  hunting : Bool
  held : List Frame
  ueAt : Tbl Nat
  deriving DecidableEq, Repr

/-- A port after power-on or system reset. -/
def portReset : Port where
  state := 0
  cause := 0
  failTx := 0
  failRx := 0
  retry := 0
  foreign := 0
  unknown := 0
  fecUe := 0
  ackTmo := 2000
  peerSn := 0
  peerPos := 0
  laserFault := false
  qualified := false
  isolated := false
  farLit := false
  newTx := 0
  newRx := 0
  pauseTx := false
  pauseRx := false
  rr := 0
  corrected := []
  codewords := []
  identOk := false
  marker := none
  reqQ := 0
  trained := false
  latched := false
  hunting := false
  held := []
  ueAt := []

/-- A frame waiting on a context, with the core whose outbound ferry holds it back (none for a forwarded frame). -/
structure TxFrame where
  core : Option Nat
  frame : Frame
  deriving DecidableEq, Repr

/-- A copy in the replay buffer: the frame, its retries and its last transmission (R255). -/
structure Replay where
  frame : Frame
  retries : Nat
  lastTx : Nat
  deriving DecidableEq, Repr

/-- What a strait die keeps for a flow context beside its 64 bytes (R251–R255): frames waiting, replay copies, credits spent since
arming, the credits the image gave, an ACK owed and when the last was sent, the last NACK's RECV_SEQ and time, the step of the
frame whose first transfer has left (launch hold), the port that its frames arrive on, and the transfer in progress at the sink (R249). -/
structure FlowRt where
  txq : List TxFrame
  replay : List Replay
  spent : Nat
  initial : Nat
  ackOwed : Bool
  ackAt : Nat
  nack : Option (Nat × Nat)
  launched : Option Nat
  via : Option Nat
  xfer : Nat
  deriving DecidableEq, Repr

/-- A context without work. -/
def flowIdle : FlowRt := ⟨[], [], 0, 0, false, 0, none, none, none, 0⟩

/-- A harbour message the package has sent and not had acknowledged: sequence number, TYPE, ADDR, payload, resends and the time
of its last transmission (R263). -/
structure HOut where
  seq : Nat
  typ : Byte
  addr : Nat
  payload : List Byte
  resends : Nat
  lastTx : Nat
  deriving DecidableEq, Repr

/-- A range record of SESSION_OPEN: ADDR, LENGTH, DELTA. -/
structure SRange where
  addr : Nat
  len : Nat
  delta : Int
  deriving DecidableEq, Repr

/-- One harbour session slot (R443, HARB_SESS_STAT_k): STATE, KIND (5 checkpoint, 6 restore), CAUSE, SESSION, bytes acknowledged,
WINDOW, peer, ranges; for a sender: what is still to send (address, length, DELTA), next message number, numbered messages not yet
acknowledged (of which the first `limit` have been sent), the manifest of a checkpoint and its total, whether END is numbered; for a
receiver: next message expected, bytes accepted, whether an ACK is owed, the last NACK's SEQ and time. -/
structure Session where
  state : Nat
  kind : Nat
  cause : Nat
  sid : Nat
  bytes : Nat
  window : Nat
  peer : BitVec 128
  peerPort : Nat
  ranges : List SRange
  todo : List SRange
  nextSeq : Nat
  out : List HOut
  manifest : List Byte
  total : Nat
  ended : Bool
  recvSeq : Nat
  accepted : Nat
  ackOwed : Bool
  limit : Nat
  nack : Option (Nat × Nat)
  deriving DecidableEq, Repr

/-- A free session slot. -/
def sessionFree : Session where
  state := 0
  kind := 0
  cause := 0
  sid := 0
  bytes := 0
  window := 0
  peer := 0
  peerPort := 0
  ranges := []
  todo := []
  nextSeq := 0
  out := []
  manifest := []
  total := 0
  ended := false
  recvSeq := 0
  accepted := 0
  ackOwed := false
  limit := 0
  nack := none

/-- What the harbour port sends (R262, Table 8-8): a message of the transfer protocol with destination, TYPE, JOB_TAG, SESSION, SEQ, CODE,
ADDR, WINDOW and payload; a Solicitation or an Advertisement of an address; an Echo reply. -/
inductive HarbourOut where
  | message (dst : BitVec 128) (port typ tag session seq code addr window : Nat) (payload : List Byte)
  | solicit (target : BitVec 128)
  | advertise (dst target : BitVec 128) (mac : BitVec 48)
  | echoReply (dst : BitVec 128) (payload : List Byte)
  deriving DecidableEq, Repr

/-- The straits and the harbour port. -/
structure Straits where
  ports : Tbl Port
  flows : Tbl Line
  rt : Tbl FlowRt
  jobTag : Nat
  pos : Nat
  event : Reg
  /-- HARB_STAT, HARB_DROP_CNT, HARBOUR_CONFIG (VLAN 0xFFFF untagged), sessions, the 1588 offset: wall clock minus tide (R262); the MAC
  addresses of neighbours, and what waits for one (RFC 4861). -/
  linkUp : Bool
  ptpLocked : Bool
  drop : Nat
  ip : BitVec 128
  vlan : Nat
  udp : Nat
  sessions : Tbl Session
  ptpOffset : Int
  neighbours : List (BitVec 128 × BitVec 48)
  unresolved : List (BitVec 128 × HarbourOut)
  deriving DecidableEq, Repr

/-- One use of a pod barrier counter in a step (R292–R297): its own completion, totals of children by port, RELEASE_TIDE once
released and the tide at which the release was received, whether COMMIT_BAR's entry was closed (R363), whether the release adds
are still to come. -/
structure PodUse where
  idx : Nat
  step : Nat
  use : Nat
  own : Bool
  totals : Tbl Nat
  release : Option (Nat × Nat)
  closed : Bool
  addDue : Bool
  deriving DecidableEq, Repr

/-- Arrivals and completed uses of a pod counter in a step (R292). -/
structure PodCount where
  idx : Nat
  step : Nat
  arrivals : Nat
  uses : Nat
  deriving DecidableEq, Repr

/-- An announcement of a tempo: boundary and code (R284). -/
structure Announce where
  step : Nat
  q : Nat
  deriving DecidableEq, Repr

/-- The tide and the schedule (09). -/
structure Tide where
  /-- The counter, its fraction in 2⁻⁸ ns (R266); TIDE_STAT; TIDE_OFFSET; TIDE_ROLE_REG. -/
  now : Nat
  frac : Nat
  state : Nat
  locked : Bool
  srcRank : Nat
  depth : Nat
  parent : Nat
  offset : Reg
  podId : Nat
  rank : Nat
  /-- The source sequence (R270); the one step still allowed (R267); since when the offset lies within ±2 ns, when HOLDOVER began
  (R273). -/
  srcSeq : Nat
  mayStep : Bool
  inBound : Option Nat
  holdSince : Nat
  /-- TEMPO_CUR, TEMPO_REQ, STEP_NUM, FRAME_START; frames begun before it that a core may still
  be given, latest first, as step, T and Q (R282); whether frames run; s0. -/
  curQ : Nat
  pkgQ : Nat
  podQ : Nat
  limit : Bool
  step : Nat
  start : Nat
  frames : List (Nat × Nat × Nat)
  running : Bool
  s0 : Nat
  /-- The first frame of a started job or of a skerry, not yet begun: step, T, Q (R281, R298). The last step-done of the latest frame
  that all cores have reported: its tide d, T_s, T_{s+1}, Q_s (R289). When TIDE_ROLE was last given (R277). -/
  due : Option (Nat × Nat × Nat)
  /-- The frame of the parent that a skerry joins by (R298). -/
  joinRef : Option (Nat × Nat × Nat)
  lastDone : Option (Nat × Nat × Nat × Nat)
  roleAt : Nat
  /-- Pending announcements (R284), values to adopt from the parent (R283), TIDE_EVENT and its counters. -/
  pending : List Announce
  adopt : Option (Nat × Nat × Nat)
  event : Reg
  overruns : Nat
  lateRels : Nat
  /-- Pod barriers; own completions (counter, step, use) for which the source holds no room yet (R295). -/
  uses : List PodUse
  counts : List PodCount
  noRoom : List (Nat × Nat × Nat)
  deriving DecidableEq, Repr

/-- The tide after reset. -/
def tideReset : Tide where
  now := 0
  frac := 0
  state := 0
  locked := false
  srcRank := 7
  depth := 0xFF
  parent := 8
  offset := 0
  podId := 0
  rank := 7
  srcSeq := 0
  mayStep := false
  inBound := none
  holdSince := 0
  curQ := 0
  pkgQ := 0
  podQ := 0
  limit := false
  step := 0
  start := 0
  frames := []
  running := false
  s0 := 0
  due := none
  joinRef := none
  lastDone := none
  roleAt := 0
  pending := []
  adopt := none
  event := 0
  overruns := 0
  lateRels := 0
  uses := []
  counts := []
  noRoom := []

end Sys2Proof.Machine
end

