-- ==== Sys2Proof/Machine/StateMem.lean ====
section
/-! DEFINITION. The state of package memory, the accumulation cache, the digest units (07), the barriers (02) and the reduction
(10). -/

namespace Sys2Proof.Machine

/-- One stack and its controller: MEM_STAT.STATE, counters, MEM_UE_ADDR with VALID, scrub position, the passes of the wipe that
have ended (R229). -/
structure Stack where
  state : Nat
  ce : Nat
  ue : Nat
  accUe : Nat
  ueAddr : Nat
  ueValid : Bool
  scrub : Nat
  wroteAll : Bool
  readAll : Bool
  deriving DecidableEq, Repr

/-- A stack before training. -/
def stackReset : Stack := ⟨0, 0, 0, 0, 0, false, 0, false, false⟩

/-- A digest region (R225–R227): EN, SNAP, bounds, the sums of the 24 controllers, DIG_SUM, and the sums taken by a snapshot in
progress. -/
structure Digest where
  en : Bool
  snap : Bool
  base : Nat
  last : Nat
  sums : Tbl Nat
  sum : Nat
  taken : Nat
  deriving DecidableEq, Repr

/-- A digest region after reset. -/
def digestReset : Digest := ⟨false, false, 0, 0, [], 0, 0⟩

/-- A frame on its way to a controller or core (R221, R313, R314): the flow context that delivers it, the core whose outbound ferry waits
for it (local flows), the transfer it belongs to (R249), and the frame. -/
structure InFrame where
  flow : Nat
  core : Option Nat
  xfer : Nat
  frame : Frame
  deriving DecidableEq, Repr

/-- A sparse transfer being decoded (R249): next element, bytes not yet decoded. -/
structure Stream where
  element : Nat
  rest : List Byte
  deriving DecidableEq, Repr

/-- An isle or package barrier counter (R75): EXPECT, release semaphore, members as a bitmap over 144 × isle + core, count. -/
structure Bar where
  expect : Nat
  relSem : Nat
  members : Nat
  count : Nat
  deriving DecidableEq, Repr

/-- An unconfigured counter (R76). -/
def barReset : Bar := ⟨0, 0, 0, 0⟩

/-- An arrival on its way to a counter: core, scope, index, step of the core's frame (R292). -/
structure Arrival where
  core : Nat
  scope : Nat
  index : Nat
  step : Nat
  deriving DecidableEq, Repr

/-- A semaphore add on its way to a core's inbound ferry (R61). -/
structure Add where
  core : Nat
  sem : Nat
  n : Nat
  deriving DecidableEq, Repr

/-- The barriers: isle counters 64 × isle + index, package counters, releases of a package counter in a step (step, counter,
count; R316), arrivals on their way. -/
structure Barriers where
  isle : Tbl Bar
  pkg : Tbl Bar
  releases : List (Nat × Nat × Nat)
  transit : List Arrival
  deriving DecidableEq, Repr

/-- How far a use of the reduction list has come in its step (R311–R316). -/
inductive UseState where
  | idle | opening | opened | complete | freed | early
  deriving DecidableEq, Repr

/-- Package memory and its controllers. -/
structure Memory where
  /-- Data of package memory; wrong symbols of lines by line address (R211, R212); corrected lines waiting to be written back, with their
  bytes (R213); the line that a short window write has read and merged, and has still to write (R421). -/
  data : Mem
  upset : Tbl (List (Nat × Byte))
  writeBack : List (Nat × List Byte)
  merging : Option (Nat × List Byte)
  stack : Tbl Stack
  /-- MEM_SCRUB.HOURS, MEM_WIPE. -/
  hours : Nat
  wipe : Nat
  sramDone : Bool
  ueSeen : Bool
  digests : Tbl Digest
  /-- Accumulators 2,097,152 × s + i; those that hold an uncorrectable error (R217). -/
  acc : Tbl Reg
  accBad : Tbl Bool
  /-- Arena records 64 × s + a (Table 7-2); the use that each serves (key + 1; R311). -/
  arenas : Tbl (BitVec 256)
  /-- Frames waiting at a source (a sink die 0–7, or 8 + a core with its outbound ferry; R314), parked contributions, sparse transfers
  in progress by number, the transfers begun in each record's use (R331), the model's own number of the next transfer. -/
  inq : Tbl (List InFrame)
  park : Tbl (List InFrame)
  parkFull : Tbl Bool
  streams : Tbl Stream
  begun : Tbl (List Nat)
  nextXfer : Nat
  deriving DecidableEq, Repr

/-- The canonical form of package memory and of the accumulators: addresses strictly rising, no entry that reads as an unlisted one does
(zero, R228; log 28). -/
def Memory.wf (m : Memory) : Bool := memWf m.data && tblWf 0 m.acc

/-- Memory after a reset: wiped as far as data goes, with the wipe's first phase to run (MEM_WIPE.STATE 0b01). -/
def memoryReset : Memory where
  data := []
  upset := []
  writeBack := []
  merging := none
  stack := []
  hours := 24
  wipe := 1
  sramDone := false
  ueSeen := false
  digests := []
  acc := []
  accBad := []
  arenas := []
  inq := []
  park := []
  parkFull := []
  streams := []
  begun := []
  nextXfer := 0

/-- The reduction (10): RED_STAT, RED_PROGRESS, RED_POISON; states of uses by 4,096 × step + use; the use each record serves, as
that key + 1. -/
structure Reduction where
  epoch : Nat
  earlyRel : Bool
  abandoned : Bool
  stopped : Bool
  usesDone : Nat
  usesStep : Nat
  poison : Nat
  uses : Tbl UseState
  recUse : Tbl Nat
  deriving DecidableEq, Repr

/-- The reduction after reset. -/
def reductionReset : Reduction := ⟨0, false, false, false, 0, 0, 0, [], []⟩

end Sys2Proof.Machine
end

