-- ==== Sys2Proof/Config.lean ====
section
/-! DEFINITION. What one package or its maker fixes, and the values the spec leaves open: opaque constants, of which nothing can
be evaluated or proved. -/

namespace Sys2Proof

/-- Facts of one package (R3, R37, R261): serial number, harbour MAC address, MAKER, MAJOR and MINOR of the 38 dies. -/
opaque Config.serial : BitVec 64
opaque Config.mac : BitVec 48
opaque Config.dieId : Nat → BitVec 28

/-- KIND of a die index (R37): isle, memory stack, strait, supervisor, meter. -/
def Config.dieKind (n : Nat) : Nat := if n < 4 then 0 else if n < 28 then 1 else if n < 36 then 2 else if n = 36 then 3 else 4

/-- DIE_REV_n as read from die n (R37). -/
def Config.dieRev (n : Nat) : Reg := BitVec.ofNat 4 (Config.dieKind n) ++ Config.dieId n

/-- The choices of the ordering code (Table 0-3): the digit of the stepping, a pigtail as fibre termination, delivery as PROVISIONED. -/
opaque Config.steppingDigit : Fin 10
opaque Config.pigtail : Bool
opaque Config.provisioned : Bool

/-- DXK-4024-ss-c-l in ASCII (Table 0-3). The stepping's letter is the MAJOR of I0 (log 99). -/
def Config.orderingCode : List Byte :=
  [0x44, 0x58, 0x4B, 0x2D, 0x34, 0x30, 0x32, 0x34, 0x2D, (Config.dieId 0).extractLsb' 8 8,
    BitVec.ofNat 8 (0x30 + Config.steppingDigit.val), 0x2D, if Config.pigtail then 0x56 else 0x50, 0x2D,
    if Config.provisioned then 0x50 else 0x42]

/-- The qualified-combination table (R38): sets of the ROM, whether a set admits a die revision, the feature mask of an admitted
revision, whether its laser list has an identity (R42). The first argument is the extension of the firmware image, empty for ROM sets. -/
opaque Config.romSets : Nat
opaque Config.extSets : List Byte → Nat
opaque Config.setAdmits : List Byte → Nat → Nat → Reg → Bool
opaque Config.setFeatures : List Byte → Nat → Nat → Reg → BitVec 64
opaque Config.laserListed : List Byte → Nat → List Byte → Bool

/-- XMSS^MT verification with Renvamus's public key (R459), the package's own signature, the root and PUB_SEED of its public key and its
certificate (R476). -/
opaque Config.xmssVerify : List Byte → List Byte → Bool
opaque Config.xmssSign : Nat → List Byte → List Byte
opaque Config.xmssRoot : BitVec 256
opaque Config.xmssPubSeed : BitVec 256
opaque Config.xmssCert : List Byte

/-- The OID of XMSSMT-SHAKE256_40/2_256 (NIST SP 800-208; PRESUMED, log 109). -/
def Config.xmssOid : BitVec 32 := 0x2B

/-- The test access port (R479, R480): Renvamus's JEP106 manufacturer code; the lengths in bits of the data registers that the spec does not
give, by die and instruction; of a memory stack's IEEE 1500 wrapper register. -/
opaque Config.jep106 : BitVec 11
opaque Config.drBits : Nat → Nat → Nat
opaque Config.wrapperBits : Nat → Nat

/-- The meter's Ed25519 signature (R414), ROM hash, public key and certificate (Table 13-8). -/
opaque Config.meterSign : List Byte → List Byte
opaque Config.meterRomHash : List Byte
opaque Config.meterPubkey : List Byte
opaque Config.meterCert : List Byte

/-- What the decoder does with a pattern of more than 4 wrong symbols (R212 detects all but 1 in 2³²): none is detected, some p is
taken as corrected and delivers the data with the pattern p left in it. -/
opaque Config.eccMiss : List (Nat × Byte) → Option (List (Nat × Byte))

/-- How many words beyond the present one the sequencer has prefetched (R46: up to 8). -/
opaque Config.prefetch : Nat → Nat

/-- The other half of a last byte that holds one 4-bit element (R178 states no value). -/
opaque Config.padNibble : Nat → Nat → BitVec 4

/-- Whether a source read of a clause finds a line as an earlier vector of that clause wrote it, or as it was before (R60, R154): by the
counter of free values, the writes so far and the line. -/
opaque Config.readsNew : Nat → Nat → Nat → Bool

/-- A pulse of 1.0 to 1.1 µs on PWRGOOD or SYS_RESET_N is taken (R453). -/
opaque Config.pulseTaken : Nat → Bool

/-- A value that the spec does not state, by the counter of free values. -/
opaque Config.freeWord : Nat → BitVec 64

end Sys2Proof
end

