-- ==== Sys2Proof/Machine/StateSup.lean ====
section
/-! DEFINITION. The state of the supervisor: job and mapping (11, 14), step commit (12), power, governor and meter (13), mailboxes,
interrupts and configuration record (14), reset, boot and identity (15). -/

namespace Sys2Proof.Machine

/-- A JOB_ARM or SPARE_ADOPT whose identity exchange runs (R260, R376): the mailbox, whether it is SPARE_ADOPT, when it began,
REPLACED_SERIAL. -/
structure Arming where
  mb : Nat
  spare : Bool
  since : Nat
  serial : W64
  deriving DecidableEq, Repr

/-- The job (11, 14): SUP_JOB, the boundary of a pending halt, the image in package memory (address, length), the program variant
in force, RESHARD_STAT with the fold and resume phases, SLOT_READY with its HI latch, SLOT_ENDED, the arming in progress. -/
structure Job where
  state : Nat
  cause : Nat
  haltAt : Nat
  img : Option (Nat × Nat)
  variant : Nat
  /-- RESHARD_STAT: STATE, DRAIN, PLAN, FRAMES_LEFT, boundary b. -/
  rsState : Nat
  rsDrain : Bool
  rsPlan : Nat
  rsLeft : Nat
  rsAt : Nat
  /-- The fold of R353 has been carried out; FOLD programs run. -/
  rsFolded : Bool
  /-- Reshards that have ended, whose frames a late core may still have to run: boundary b, b + FRAMES, plan (R352). -/
  rsPast : List (Nat × Nat × Nat)
  slotReady : Nat
  slotHi : Nat
  slotEnded : Nat
  arming : Option Arming
  /-- The present arming came from SPARE_ADOPT (R298). -/
  adopted : Bool
  deriving DecidableEq, Repr

/-- No job. -/
def jobReset : Job := ⟨0, 0, 0, none, 0, 0, false, 0, 0, 0, false, [], 0, 0, 0, none, false⟩

/-- What the evaluation of a step found (R361): FAULTS, poison word, digest, first stash region with ANCHOR_LOST, stash skips. -/
structure Eval where
  step : Nat
  faults : Nat
  poison : Nat
  digest : List Byte
  anchor : Nat
  skips : Nat
  deriving DecidableEq, Repr

/-- Step commit (12). -/
structure Commit where
  /-- FAULTS of steps not yet evaluated, by step; those reported while no step has its number yet, while ARMED (R360); the next step to evaluate; steps evaluated and not yet decided, oldest first; the
  tide of the last step-done of a frame, by step. -/
  faults : Tbl Nat
  armFaults : Nat
  evalNext : Nat
  evals : List Eval
  doneTide : Tbl Nat
  /-- Late-launch counts of the cores at the starts of the latest frames, by step and core. -/
  lateAt : Tbl (Tbl Nat)
  /-- COMMIT_STAT. -/
  outcome : Nat
  outFaults : Nat
  lateRelease : Bool
  outStep : Nat
  /-- The ledger (R369): STEP, STATE, own bits, mirror bits. -/
  ledStep : Nat
  ledState : Nat
  own : Tbl Bool
  mirror : Tbl Bool
  /-- TWIN_STAT, digests held by step: own and the twin's (R379); the first step evaluated after JOB_START (R380). -/
  diverged : Bool
  missing : Bool
  matched : Nat
  ownDigests : Tbl (List Byte)
  twinDigests : Tbl (List Byte)
  runFrom : Nat
  /-- REPLACED_SERIAL (R376); the mailbox of a COMMIT_RESUME in progress (R372). -/
  replaced : W64
  resume : Option Nat
  deriving DecidableEq, Repr

/-- Step commit after reset; the ledger's four fields are kept by every reset (R369). -/
def commitReset : Commit where
  faults := []
  armFaults := 0
  evalNext := 0
  evals := []
  doneTide := []
  lateAt := []
  outcome := 0
  outFaults := 0
  lateRelease := false
  outStep := 0
  ledStep := 0
  ledState := 0
  own := []
  mirror := []
  diverged := false
  missing := false
  matched := 0
  ownDigests := []
  twinDigests := []
  runFrom := 0
  replaced := 0
  resume := none

/-- A notice of R410 waiting for the meter: TYPE 2 (tag) or 3 (setting), SETTING, old and new value, CFG_GEN bits 15:0. -/
structure Notice where
  typ : Nat
  setting : Nat
  old : Nat
  new : Nat
  gen : Nat
  deriving DecidableEq, Repr

/-- Power states and the governor (13). -/
structure Power where
  /-- PWR_STATE: STATE, transition in progress with its target state, WAKE_CAUSE; a wake held during an entry (R392); the mailbox
  of the POWER_STATE that waits. -/
  state : Nat
  going : Option Nat
  wakeCause : Nat
  wakeHeld : Bool
  mailbox : Option Nat
  /-- The Dry that a thermal trip began (R402); isle power has been removed since Flood (R389, R401). -/
  tripDry : Bool
  isleOff : Bool
  /-- PWR_CFG. -/
  pol : Nat
  en : Nat
  isleKeep : Bool
  /-- Registers copied by the save list (R389): offset and value in list order. -/
  saved : List (Nat × Reg)
  /-- Governor settings (R396), GOV_STAT, GOV_POWER. -/
  cap : Nat
  floor : Nat
  slewUp : Nat
  slewDn : Nat
  stat : Reg
  powerMw : Nat
  /-- The band of the last interval in mW, whether one has been set since Flood began, M of the last interval (R397); the governor calls
  for ballast (R399). -/
  bandU : Nat
  bandL : Nat
  bandSet : Bool
  meanMw : Nat
  ballast : Bool
  /-- The ramp of R404: its planned start R, and once begun its start and M_start. -/
  rampAt : Option Nat
  ramp : Option (Nat × Nat)
  notices : List Notice
  /-- METER_READs that wait for the I3C channel: the mailbox, and how many notices are to be sent before (R430). -/
  reads : List (Nat × Nat)
  /-- MT_ENERGY copy. -/
  energy : W64
  /-- Temperatures of the dies in 0.1 °C (R401); the converters stopped by R485; the reference clock lost (R491). -/
  temps : Tbl (BitVec 16)
  vinFault : Bool
  refLost : Bool
  deriving DecidableEq, Repr

/-- Power after a power-on reset. -/
def powerReset : Power where
  state := 0
  going := none
  wakeCause := 0
  wakeHeld := false
  mailbox := none
  tripDry := false
  isleOff := false
  pol := 0
  en := 0
  isleKeep := false
  saved := []
  cap := 1500
  floor := 0
  slewUp := 500
  slewDn := 500
  stat := 0
  powerMw := 0
  bandU := 0
  bandL := 0
  bandSet := false
  meanMw := 0
  ballast := false
  rampAt := none
  ramp := none
  notices := []
  reads := []
  energy := 0
  temps := []
  vinFault := false
  refLost := false

/-- The Sesil meter (13, R406–R415): registers, ring of records by SEQ mod 32,768, tag in force, PTP_OFFSET with the RTC at which
it was received, FLAGS bits since the last record, stored RTC, RTC minute of the last interval record. -/
structure Meter where
  energy : Nat
  seqNext : Nat
  rtc : Nat
  stored : Nat
  romOk : Bool
  seals : Nat
  interval : Nat
  recordSel : Nat
  ring : Tbl (List Byte)
  prev : List Byte
  tag : Nat
  ptpOffset : Int
  ptpAt : Option Nat
  low : Bool
  range : Bool
  closedAt : Nat
  /-- The MT_INTERVAL that the supervisor is to write over I3C (R413). -/
  intervalDue : Option Nat
  deriving DecidableEq, Repr

/-- The meter as State.reset has it: no record yet (log 5). -/
def meterReset : Meter where
  energy := 0
  seqNext := 0
  rtc := 0
  stored := 0
  romOk := true
  seals := 0
  interval := 15
  recordSel := 0
  ring := []
  prev := List.replicate 16 0
  tag := 0
  ptpOffset := 0
  ptpAt := none
  low := false
  range := false
  closedAt := 0
  intervalDue := none

/-- The result of a running command, held until COMMAND_COMPLETE (R424). -/
structure Result where
  code : Nat
  detail : Reg
  resp : List Byte
  deriving DecidableEq, Repr

/-- A running command: opcode, IRQ, its result once known, the cores whose reset a CORE_RESET waits for (R464). -/
structure Running where
  opcode : Nat
  irq : Bool
  result : Option Result
  waits : List Nat
  deriving DecidableEq, Repr

/-- A mailbox (Table 14-3). -/
structure Mailbox where
  cmd : Reg
  state : Nat
  seq : Nat
  code : Nat
  detail : Reg
  rspLen : Nat
  params : Mem
  resp : Mem
  run : Option Running
  deriving DecidableEq, Repr

/-- A mailbox after reset. -/
def mailboxReset : Mailbox := ⟨0, 0, 0xFF, 0, 0, 0, [], [], none⟩

/-- The control interface (14). -/
structure Control where
  boxes : Tbl Mailbox
  supEvent : Reg
  /-- MSI-X table (addresses and data), vector masks and pending bits. -/
  msix : Mem
  masks : Reg
  pba : Reg
  memwin : Nat
  cfgGen : Nat
  journal : Mem
  /-- Save list of the supervisor window (R422). -/
  saveList : Mem
  /-- Telemetry snapshot and PERIOD_MS. -/
  telem : List Byte
  period : Nat
  /-- Captured halves of LO/HI pairs (R268, R345, R416, R443, R448, R474). -/
  capTide : Option Nat
  capEnergy : Option Nat
  capCfg : Option Nat
  capSlot : Option Nat
  capNext : Option Nat
  capRes : Option Nat
  capSess : Tbl (Option Nat)
  deriving DecidableEq, Repr

/-- The stages of boot (R460, BOOT_STAT.STATE and what runs beside it). -/
structure Boot where
  /-- The reset being held: 2 power-on, 1 system, 0 none. -/
  held : Nat
  /-- RST_CAUSE_0 to RST_CAUSE_7. -/
  level : Nat
  source : Nat
  tideAt : Nat
  sysCount : Nat
  coreCount : Nat
  lastCore : Reg
  bootStatAt : Reg
  powerOns : Nat
  /-- BOOT_STAT, BOOT_CTRL.LENGTH, the boot buffer. -/
  stat : Nat
  fromHost : Bool
  fail : Nat
  length : Nat
  buffer : Mem
  /-- The running image came through RECOVERY; it is downloading in RECOVERY. -/
  recovered : Bool
  /-- PCIe up in AWAIT_HOST (the 2 s run). -/
  pcieUp : Bool
  /-- STRAP. -/
  bootSrc : Nat
  clkMode : Nat
  /-- Flash contents, and the image that a FW_UPDATE is writing; the running image. -/
  flash : Mem
  flashing : Mem
  fw : List Byte
  /-- QUAL_RESULT, DIE_REV read, feature floor. -/
  qual : Reg
  dieRead : Bool
  features : W64
  /-- The isles have left reset; firmware serves MB1–MB15. -/
  isles : Bool
  serving : Bool
  /-- LC_STATE: OTP state, owner slots used, current owner, seed erased. -/
  lcState : Nat
  owners : List (List Byte)
  owned : Bool
  seedErased : Bool
  /-- Signature index (R474); last signature of this start. -/
  sigNext : Nat
  sigRes : Nat
  lastSig : Option (Nat × List Byte)
  wdogUs : Nat
  /-- The tide at which a SYSTEM_RESET command (R445) or a lifecycle change (R471) resets the package. -/
  resetDue : Option Nat
  lifecycleDue : Option Nat
  /-- The debugger holds the control processor (R482). -/
  dbgCp : Bool
  /-- THERM_TRIP_N is low; a reset has come since the trip (R492). -/
  tripLow : Bool
  tripReset : Bool
  deriving DecidableEq, Repr

/-- What the instruction register of a TAP holds (R480, R481): BYPASS, IDCODE, the selection of the die's IEEE 1687 network, BUSACC of SV,
or another instruction, which the spec does not number. -/
inductive TapInstr where
  | bypass | idcode | network | busacc
  | other (n : Nat)
  deriving DecidableEq, Repr

/-- The test access port (R479): the instruction of each die's TAP, by die index, IDCODE where none is listed; the memory stacks, by die
index, whose segment insertion bit is set. -/
structure Taps where
  instr : Tbl TapInstr
  inserted : Tbl Bool
  deriving DecidableEq, Repr

/-- The test access port after its reset. -/
def tapsReset : Taps := ⟨[], []⟩

end Sys2Proof.Machine
end

