-- ==== Sys2Proof/Machine/State.lean ====
section
/-! DEFINITION. The state of the package, its faults and refusals, and the state right after a power-on reset is taken. -/

namespace Sys2Proof.Machine

/-- What undefined behaviour never alters (R11): the meter with its energy register and records, whether the identity key seed is
there, the lifecycle state with its owners. -/
structure Kept where
  meter : Meter
  seedErased : Bool
  lcState : Nat
  owners : List (List Byte)
  owned : Bool
  deriving DecidableEq, Repr

/-- Why a step stops: the eight undefined cases of Table 0-5, to which the spec gives no effect (R10). Each is safe: the model stops
where the package does something that nothing is known about. A fault holds what R11 keeps through the case; with `afterUndefined` a
power-on reset follows. -/
inductive Fault where
  /-- A subtract would take a semaphore below zero (R82). Raised by SEM_SUB. Safe. -/
  | semUnderflow (kept : Kept)
  /-- Two descriptors in flight write one byte of a core's SRAM (R83, R139). Raised where the second starts or its write lands. Safe. -/
  | writeOverlap (kept : Kept)
  /-- A descriptor's SRAM range, or the destination of an OP 0 transfer, does not lie in one memory of Table 2-3 (R84). Raised where the
  descriptor starts, or where its engine reads, writes or lands. Safe. -/
  | sramRange (kept : Kept)
  /-- A write to the drain slot while a drain runs (R144). Raised by the write. Safe. -/
  | drainSlotWrite (kept : Kept)
  /-- A clause with reduce and permute on one axis (R185). Raised by CLAUSE. Safe. -/
  | reducePermute (kept : Kept)
  /-- A memory-window write to a flow context while the job is armed (R265). Raised by the write. Safe. -/
  | flowContextWrite (kept : Kept)
  /-- A use of an arena record receives more contributions than its EXPECT (R331). Raised where a contribution beyond EXPECT begins to be
  added. Safe. -/
  | excessContribution (kept : Kept)
  /-- A write to a mailbox whose command runs (R425). Raised by the write. Safe. -/
  | mailboxWrite (kept : Kept)
  deriving DecidableEq, Repr

/-- Why a command is refused by the model. -/
inductive Refusal where
  /-- The command has no meaning in the model yet. Raised by Dispatch only. Safe. -/
  | notModelled (mnemonic : String)
  deriving DecidableEq, Repr

/-- What the package has sent out of itself: the model's record of outputs, latest first. -/
inductive Out where
  /-- A frame left strait port p (R251 and the control frames). -/
  | frame (p : Nat) (f : Frame)
  /-- An Ethernet frame left the harbour port: VLAN identifier, destination MAC address, what it carries (R261, R262). -/
  | harbour (vlan : Option Nat) (mac : BitVec 48) (o : HarbourOut)
  /-- An MSI-X message was sent (R431). -/
  | msix (v : Nat)
  /-- THERM_TRIP_N changed (R492). -/
  | thermTrip (low : Bool)
  deriving DecidableEq, Repr

/-- The whole state. -/
structure State where
  /-- Commands waiting, first in first out. -/
  pending : List Instr
  /-- The cores by number 144 × isle + core. -/
  cores : Tbl Core
  /-- Semaphore adds on their way to inbound ferries, oldest first (R61). -/
  adds : List Add
  bars : Barriers
  isth : Isthmus
  memory : Memory
  reduction : Reduction
  straits : Straits
  tide : Tide
  job : Job
  commit : Commit
  power : Power
  meter : Meter
  control : Control
  boot : Boot
  /-- The test access port (R479, R480). -/
  tap : Taps
  /-- Outputs, and the bytes that the last read access returned. -/
  sent : List Out
  rdata : List Byte
  /-- The model's own counter that indexes the free values of Config. -/
  freeCtr : Nat
  deriving DecidableEq, Repr

/-- The isthmus after reset: untrained; the lane map is kept (R20). -/
def isthmusReset (laneMap : Tbl Bool) : Isthmus := ⟨[], [], 0, laneMap⟩

/-- The barriers after reset. -/
def barriersReset : Barriers := ⟨[], [], [], []⟩

/-- The straits and the harbour port after reset (R261: UDP port 51,024, untagged; R443). -/
def straitsReset : Straits where
  ports := []
  flows := []
  rt := []
  jobTag := 0
  pos := 0
  event := 0
  linkUp := false
  ptpLocked := false
  drop := 0
  ip := 0
  vlan := 0xFFFF
  udp := 51024
  sessions := []
  ptpOffset := 0
  neighbours := []
  unresolved := []

/-- The default save list of R389: every RW register of the core, isle and strait blocks. Those blocks' only RW registers are the 576
CORE_FLAGS (field FW) and the eight PORT_ACK_TMO. -/
def saveListDefault : Mem :=
  let words := (List.range 576).map (fun n => 0x80100008 + 0x1000 * n) ++ (List.range 8).map (fun p => 0x8007001C + 0x100 * p)
  ((words.zip (List.range 584)).flatMap fun (w, i) =>
    ((leBytes 4 w).zip (List.range 4)).map fun (b, k) => (4 * i + k, b)).filter (fun p => p.2 != 0)

/-- The control interface after power-on (R450): the journal zero, the save list at its default. -/
def controlReset : Control where
  boxes := []
  supEvent := 0
  msix := []
  masks := 0xFFFFFFFF
  pba := 0
  memwin := 0
  cfgGen := 0
  journal := []
  saveList := saveListDefault
  telem := List.replicate 512 0
  period := 100
  capTide := none
  capEnergy := none
  capCfg := none
  capSlot := none
  capNext := none
  capRes := none
  capSess := []

/-- Boot state while the first power-on reset is held (R453, R456, R483). The kept values are those of a new package (log 5). -/
def bootReset : Boot where
  held := 2
  level := 1
  source := 2
  tideAt := 0
  sysCount := 0
  coreCount := 0
  lastCore := 0
  bootStatAt := 0
  powerOns := 1
  stat := 1
  fromHost := false
  fail := 0
  length := 0
  buffer := []
  recovered := false
  pcieUp := false
  bootSrc := 0
  clkMode := 0
  flash := []
  flashing := []
  fw := []
  qual := 0x00FFFFFF
  dieRead := false
  features := 0
  isles := false
  serving := false
  lcState := 0
  owners := []
  owned := false
  seedErased := false
  sigNext := 0
  sigRes := 0
  lastSig := none
  wdogUs := 0
  resetDue := none
  lifecycleDue := none
  dbgCp := false
  tripLow := false
  tripReset := false

/-- The machine right after a power-on reset has been taken, with the reset still held (R453): RESET_RELEASE starts boot. -/
def State.reset : State where
  pending := []
  cores := []
  adds := []
  bars := barriersReset
  isth := isthmusReset []
  memory := memoryReset
  reduction := reductionReset
  straits := straitsReset
  tide := tideReset
  job := jobReset
  commit := commitReset
  power := powerReset
  meter := meterReset
  control := controlReset
  boot := bootReset
  tap := tapsReset
  sent := []
  rdata := []
  freeCtr := 0

end Sys2Proof.Machine
end

