-- ==== Sys2Proof/Machine/Ops.lean ====
section
/-! DEFINITION. The operations that every family shares: reaching a core, its errors and semaphores, event registers and
interrupts, step faults, the tide as time passes, when a part of the package runs. -/

namespace Sys2Proof.Machine

/-- An event whose condition holds has its effect; one whose condition does not hold does not come about (log 2). -/
def when (g : Bool) (s t : State) : Host.Outcome State Fault Refusal := .next (if g then t else s)

/-- What R11 keeps of a state. -/
def keptOf (s : State) : Kept := ⟨s.meter, s.boot.seedErased, s.boot.lcState, s.boot.owners, s.boot.owned⟩

/-- An undefined case of Table 0-5 (R10, R11). -/
def undefinedCase (f : Kept → Fault) (s : State) : Host.Outcome State Fault Refusal := .fault (f (keptOf s))

/-- A state, or the undefined case that was met. -/
abbrev Land := Except Fault State

def ofLand : Land → Host.Outcome State Fault Refusal
  | .ok s => .next s
  | .error f => .fault f

/-- What follows if the command before answers a next state. -/
def thenDo (o : Host.Outcome State Fault Refusal) (f : State → Host.Outcome State Fault Refusal) : Host.Outcome State Fault Refusal :=
  match o with
  | .next s => f s
  | .fault e => .fault e
  | .refused r => .refused r

/-- Core number of isle and core (Table 7-1). -/
def coreNum (isle core : Nat) : Nat := 144 * isle + core

/-- Core number of a field with the isle in bits 9:8 and the core in bits 7:0. -/
def coreField (x : Nat) : Nat := coreNum (bitsOf x 8 2) (bitsOf x 0 8)

/-- A field of that form names a core. -/
def coreFieldOk (x : Nat) : Bool := bitsOf x 0 8 < 144

def coreOf (s : State) (c : Nat) : Core := tblGet coreReset s.cores c

def setCore (s : State) (c : Nat) (k : Core) : State := { s with cores := tblSet coreReset s.cores c k }

def modCore (s : State) (c : Nat) (f : Core → Core) : State := setCore s c (f (coreOf s c))

def engineOf (k : Core) (e : Nat) : Engine := tblGet engineIdle k.engines e

def setEngine (k : Core) (e : Nat) (g : Engine) : Core := { k with engines := tblSet engineIdle k.engines e g }

def stackOf (s : State) (i : Nat) : Stack := tblGet stackReset s.memory.stack i

def modStack (s : State) (i : Nat) (f : Stack → Stack) : State :=
  { s with memory := { s.memory with stack := tblMod stackReset s.memory.stack i f } }

def portOf (s : State) (p : Nat) : Port := tblGet portReset s.straits.ports p

def modPort (s : State) (p : Nat) (f : Port → Port) : State :=
  { s with straits := { s.straits with ports := tblMod portReset s.straits.ports p f } }

def flowOf (s : State) (f : Nat) : Line := tblGet 0 s.straits.flows f

def setFlow (s : State) (f : Nat) (d : Line) : State :=
  { s with straits := { s.straits with flows := tblSet 0 s.straits.flows f d } }

def rtOf (s : State) (f : Nat) : FlowRt := tblGet flowIdle s.straits.rt f

def modRt (s : State) (f : Nat) (g : FlowRt → FlowRt) : State :=
  { s with straits := { s.straits with rt := tblMod flowIdle s.straits.rt f g } }

def sessionOf (s : State) (k : Nat) : Session := tblGet sessionFree s.straits.sessions k

def modSession (s : State) (k : Nat) (g : Session → Session) : State :=
  { s with straits := { s.straits with sessions := tblMod sessionFree s.straits.sessions k g } }

def boxOf (s : State) (m : Nat) : Mailbox := tblGet mailboxReset s.control.boxes m

def modBox (s : State) (m : Nat) (g : Mailbox → Mailbox) : State :=
  { s with control := { s.control with boxes := tblMod mailboxReset s.control.boxes m g } }

/-- A value the spec leaves open, and the counter moved on (log 3). -/
def freeNat (s : State) : Nat := (Config.freeWord s.freeCtr).toNat

def useFree (s : State) : State := { s with freeCtr := s.freeCtr + 1 }

/-- Add an output to the record of what left the package. -/
def emit (s : State) (o : Out) : State := { s with sent := o :: s.sent }

/-- The tide reaches `now`; it never runs backwards by the passing of time (R267, log 1). -/
def atTide (s : State) (now : Nat) : State := { s with tide := { s.tide with now := max s.tide.now now } }

/-! Interrupts and event registers (R431). -/

/-- Fire a vector: its message is sent, or its pending bit is set while it is masked. -/
def fire (s : State) (v : Nat) : State :=
  if s.control.masks.getLsbD v then
    { s with control := { s.control with pba := s.control.pba ||| (1#32 <<< v) } }
  else emit s (.msix v)

/-- Fire a vector when a register gains a bit. -/
def fireOnRise (s : State) (v : Nat) (old new : Reg) : State := if new &&& ~~~ old = 0 then s else fire s v

def setIsthEvent (s : State) (b : Reg) : State :=
  fireOnRise { s with isth := { s.isth with event := s.isth.event ||| b } } 16 s.isth.event (s.isth.event ||| b)

def setStraitEvent (s : State) (b : Reg) : State :=
  fireOnRise { s with straits := { s.straits with event := s.straits.event ||| b } } 17 s.straits.event (s.straits.event ||| b)

def setTideEvent (s : State) (b : Nat) : State :=
  let n := s.tide.event ||| (1#32 <<< b)
  fireOnRise { s with tide := { s.tide with event := n } } 18 s.tide.event n

/-- Vector 19 covers GOV_STAT bits 3:0. -/
def setGovStat (s : State) (b : Nat) : State :=
  let n := s.power.stat ||| (1#32 <<< b)
  fireOnRise { s with power := { s.power with stat := n } } 19 (s.power.stat &&& 0xF) (n &&& 0xF)

/-- SUP_EVENT bit b drives vector 20 + b. -/
def setSupEvent (s : State) (b : Nat) : State :=
  let n := s.control.supEvent ||| (1#32 <<< b)
  fireOnRise { s with control := { s.control with supEvent := n } } (20 + b) s.control.supEvent n

/-! Step faults (R360). -/

/-- Job states of Table 14-7. -/
def jobEmpty : Nat := 0
def jobLoaded : Nat := 1
def jobArmed : Nat := 2
def jobRunning : Nat := 3
def jobHalting : Nat := 4
def jobHalted : Nat := 5

/-- Frames run. -/
def jobRuns (s : State) : Bool := s.job.state = jobRunning || s.job.state = jobHalting

/-- Add FAULTS bit b to one step. -/
def markFault (s : State) (step b : Nat) : State :=
  { s with commit := { s.commit with faults := tblMod 0 s.commit.faults step (fun x => x ||| 2 ^ b) } }

/-- While ARMED no step has its number yet: a fault belongs to the first step that the job will evaluate (R360). -/
def faultArmed (s : State) (b : Nat) : State :=
  if s.job.state = jobArmed then { s with commit := { s.commit with armFaults := s.commit.armFaults ||| 2 ^ b } } else s

/-- A fault that its rule assigns to a step; a step already evaluated passes it to the next one (R360). -/
def faultAt (s : State) (step b : Nat) : State :=
  if jobRuns s then markFault s (max step s.commit.evalNext) b else faultArmed s b

/-- A fault without a step of its own belongs to every step not yet evaluated (R360). -/
def faultNow (s : State) (b : Nat) : State :=
  if jobRuns s then
    (span s.commit.evalNext (max s.tide.step s.commit.evalNext + 1 - s.commit.evalNext)).foldl
      (fun t k => markFault t k b) s
  else faultArmed s b

/-- The faults with which a run begins at step n: those reported while ARMED (R360). -/
def firstFaults (s : State) (n : Nat) : Tbl Nat := tblSet 0 [] n s.commit.armFaults

/-! The core (02). -/

/-- CORE_ERR gains bit b, and F1 is set (Table 2-11). -/
def coreErr (k : Core) (b : Nat) : Core := { k with err := k.err ||| (1#32 <<< b), flags := k.flags ||| 2 }

/-- Bits of CORE_ERR. -/
def errSemOvf : Nat := 0
def errBadCmd : Nat := 1
def errDescBad : Nat := 2
def errBarCfg : Nat := 3
def errSram : Nat := 4
def errWdog : Nat := 5
def errTable : Nat := 8
def errClTable : Nat := 12

def semGet (k : Core) (n : Nat) : Nat := tblGet 0 k.sems n

def semPut (k : Core) (n v : Nat) : Core := { k with sems := tblSet 0 k.sems n v }

/-- The operations on one semaphore that share an update cycle (R65): amounts added, a SEM_SUB, the consuming waits that want to
start in engine order, a SEM_WAIT_SUB. -/
structure SemCycle where
  adds : List Nat
  sub : Option Nat
  waits : List Nat
  waitSub : Option Nat
  deriving DecidableEq, Repr

/-- What an update cycle leaves: the value, whether it saturated (R62), whether a SEM_SUB underflowed (R82), which consuming waits
were satisfied, whether the SEM_WAIT_SUB was. -/
structure SemResult where
  value : Nat
  ovf : Bool
  under : Bool
  served : List Bool
  waitServed : Bool
  deriving DecidableEq, Repr

/-- A consuming wait is tested against the value that the operations before it leave (R65). -/
def takeWait (v n : Nat) : Nat × Bool := if n ≤ v then (v - n, true) else (v, false)

/-- The consuming waits, in engine order. -/
def takeWaits : Nat → List Nat → Nat × List Bool
  | v, [] => (v, [])
  | v, n :: ns => let (w, b) := takeWait v n; let (x, bs) := takeWaits w ns; (x, b :: bs)

/-- One update cycle of a semaphore that holds v (R62, R65). -/
def semCycle (v : Nat) (c : SemCycle) : SemResult :=
  let sum := v + c.adds.foldl (· + ·) 0
  let v1 := min 65535 sum
  let under := match c.sub with | some n => decide (v1 < n) | none => false
  let v2 := match c.sub with | some n => v1 - n | none => v1
  let (v3, served) := takeWaits v2 c.waits
  let (v4, ws) := match c.waitSub with | some n => takeWait v3 n | none => (v3, false)
  ⟨v4, decide (65535 < sum), under, served, ws⟩

/-- A semaphore field: 0–47, or 63 for none; 48–62 are reserved. -/
def semFieldOk (x : Nat) : Bool := x < 48 || x = 63

/-- An add of n to a semaphore; 63 names none (R56, R61, R62). -/
def semAdd (k : Core) (sem n : Nat) : Core :=
  if sem < 48 then
    let r := semCycle (semGet k sem) ⟨[n], none, [], none⟩
    let k := semPut k sem r.value
    if r.ovf then coreErr k errSemOvf else k
  else k

/-- A feature of Table 14-9a is present; one that is absent the package does not provide (R41, log 102). -/
def feature (s : State) (i : Nat) : Bool := s.boot.features.getLsbD i

def featMX : Nat := 0
def featComp : Nat := 1
def featTab2 : Nat := 2
def featMerge : Nat := 3
def featSparse : Nat := 4
def featDigest : Nat := 5
def featPtp : Nat := 8
def featKeep : Nat := 9

/-- An add on its way to a core's inbound ferry (R61). -/
def queueAdd (s : State) (c sem n : Nat) : State :=
  if sem < 48 then { s with adds := s.adds ++ [⟨c, sem, n⟩] } else s

/-- Adds of 1 to every core of a bitmap, in ascending core number. -/
def queueAddAll (s : State) (members sem : Nat) : State :=
  ((List.range 576).filter fun c => members.testBit c).foldl (fun t c => queueAdd t c sem 1) s

/-- An engine is idle: no descriptor running or queued; the matrix engine also runs no drain (R131). -/
def engineIdleNow (k : Core) (e : Nat) : Bool :=
  (engineOf k e).queue.isEmpty && (engineOf k e).run.isNone && (e != 0 || k.drain.isNone)

/-- CORE_STAT.ENGINE_BUSY. -/
def engineBusy (k : Core) : Nat := (List.range 6).foldl (fun x e => if engineIdleNow k e then x else x + 2 ^ e) 0

/-- A change of ENGINE_BUSY counts as activity for the core watchdog (R466). -/
def noteBusy (s : State) (old new : Core) : Core :=
  if engineBusy old = engineBusy new then new else { new with changed := s.tide.now }

/-- Power reaches the package and no reset is held (R453, R485). -/
def alive (s : State) : Bool := s.boot.held = 0 && !s.power.vinFault

/-- The isles run: they have left reset (R460), the package is in Flood (Table 13-1), and their PLLs have a reference (R491). -/
def islesOn (s : State) : Bool := alive s && s.boot.isles && s.power.state = 0 && !s.power.refLost

/-- A core is under reset (R464): its memories are being wiped. -/
def coreResetting (s : State) (c : Nat) : Bool := (coreOf s c).mode = .wiping

/-- The isles run, and a core is not under reset (log 30). -/
def coreOn (s : State) (c : Nat) : Bool := islesOn s && !coreResetting s c

/-- Memory controllers serve accesses: isles and stacks are active in Flood and Slack, their PLLs running (R491). -/
def memOn (s : State) : Bool := alive s && (s.power.state = 0 || s.power.state = 1) && !s.power.refLost

/-- Ballast runs on a core: the governor calls for it, and the core's matrix engine is idle with an empty queue (R399). -/
def ballastOn (s : State) (c : Nat) : Bool := islesOn s && s.power.ballast && engineIdleNow (coreOf s c) 0

/-! SRAM of a core (R43, R44, R84, R144). -/

/-- A range lies in one of the three memories of Table 2-3; an empty range lies anywhere. -/
def sramOk (a n : Nat) : Bool :=
  n = 0 || (a + n ≤ 0x400000) || (0x400000 ≤ a && a + n ≤ 0x600000) || (0x600000 ≤ a && a + n ≤ 0x640000)

/-- A read of a range touches a word that holds an uncorrectable error. -/
def sramBad (k : Core) (a n : Nat) : Bool :=
  k.badWords.any fun p => p.2 && overlap a n (8 * p.1) 8

/-- A read by an engine: SRAM_UNCORR is set when it touches such a word (R44). -/
def sramTouch (k : Core) (a n : Nat) : Core := if sramBad k a n then coreErr k errSram else k

/-- A write: words written whole lose their error, words written in part keep it (R44). -/
def sramWrite (k : Core) (a : Nat) (bs : List Byte) : Core :=
  { k with
    sram := memWrite k.sram a bs
    badWords := k.badWords.filter fun p => !(decide (a ≤ 8 * p.1) && decide (8 * p.1 + 8 ≤ a + bs.length)) }

/-- Words that have become uncorrectable since they were written. -/
def sramUpset (k : Core) (us : List SramUpset) : Core :=
  us.foldl (fun k u =>
    { k with
      sram := memWrite k.sram (8 * u.word) (leBytes 8 (memNat k.sram (8 * u.word) 8 ^^^ u.flip.toNat))
      badWords := tblSet false k.badWords u.word true }) k

/-- R, Cl of a layout shape (Table 4-8), its slot size and slot count (R115). -/
def shapeRows (shape : Nat) : Nat := if shape = 0 then 64 else if shape = 3 then 256 else 128
def shapeCols (shape : Nat) : Nat := if shape ≤ 1 then 128 else 256
def slotBytes (k : Core) : Nat := shapeRows k.shape * shapeCols k.shape * (if k.comp then 8 else 4)
def slotCount (k : Core) : Nat := min 64 (0x200000 / slotBytes k)
def slotAddr (k : Core) (j : Nat) : Nat := 0x400000 + j * slotBytes k

/-- A write touches the drain slot while a drain runs (R144). -/
def hitsDrainSlot (k : Core) (a n : Nat) : Bool :=
  k.drain.isSome && overlap a n (slotAddr k k.drainSlot) (slotBytes k)

end Sys2Proof.Machine
end

