-- ==== Sys2Proof/Machine/Flags.lean ====
section
/-! DEFINITION. The flags of a core (02, Binary flags; Table 2-11). -/

namespace Sys2Proof.Machine

/-- Flag n reads 1. -/
def flagGet (k : Core) (n : Nat) : Bool := k.flags.getLsbD n

/-- Set or clear flag n (R66, R67). Clearing F1 leaves CORE_ERR alone (R69). -/
def flagPut (k : Core) (n : Nat) (b : Bool) : Core :=
  { k with flags := if b then k.flags ||| (1#8 <<< n) else k.flags &&& ~~~ (1#8 <<< n) }

/-- A host or firmware write of CORE_FLAGS.FW acts as FLAG_SET or FLAG_CLEAR per bit: the bits of a mask over F3–F7 (bit i is flag
3 + i) take a value. -/
def flagsPut (k : Core) (bits : Nat) (b : Bool) : Core :=
  (List.range 5).foldl (fun k i => if bits.testBit i then flagPut k (3 + i) b else k) k

end Sys2Proof.Machine
end

