-- ==== Sys2Proof/Machine/Fp.lean ====
section
/-! DEFINITION. Exact arithmetic on binary values and one rounding to a binary format (R87, R88, R96, R112, R113, R160). -/

namespace Sys2Proof.Machine

/-- An exact binary value: NaN (R88: one NaN), an infinity, or (−1)^neg × num × 2^ex. -/
inductive FV where
  | nan
  | inf (neg : Bool)
  | fin (neg : Bool) (num : Nat) (ex : Int)
  deriving DecidableEq, Repr

/-- +0. -/
def fvZero : FV := .fin false 0 0

/-- The value of an integer. -/
def fvInt (i : Int) : FV := .fin (i < 0) i.natAbs 0

/-- A value is NaN. -/
def fvIsNan : FV → Bool
  | .nan => true
  | _ => false

/-- A value is NaN or infinite. -/
def fvNonFinite : FV → Bool
  | .fin _ _ _ => false
  | _ => true

/-- A value is a zero. -/
def fvIsZero : FV → Bool
  | .fin _ n _ => n == 0
  | _ => false

/-- The signed numerator of a finite value at exponent `e` not above its own. -/
def fvAt (neg : Bool) (num : Nat) (ex e : Int) : Int :=
  let m : Int := (num * 2 ^ (ex - e).toNat : Nat)
  if neg then -m else m

/-- The opposite value. -/
def fvNeg : FV → FV
  | .nan => .nan
  | .inf s => .inf (!s)
  | .fin s n e => .fin (!s) n e

/-- The magnitude. -/
def fvAbs : FV → FV
  | .nan => .nan
  | .inf _ => .inf false
  | .fin _ n e => .fin false n e

/-- Exact sum, IEEE 754 for specials: a sum of unlike zeros, or a cancellation, is +0. -/
def fvAdd : FV → FV → FV
  | .nan, _ => .nan
  | _, .nan => .nan
  | .inf a, .inf b => if a = b then .inf a else .nan
  | .inf a, _ => .inf a
  | _, .inf b => .inf b
  | .fin s n e, .fin t m f =>
    let g := min e f
    let r := fvAt s n e g + fvAt t m f g
    if r = 0 then .fin (s && t && n == 0 && m == 0) 0 0 else .fin (r < 0) r.natAbs g

/-- Exact difference. -/
def fvSub (a b : FV) : FV := fvAdd a (fvNeg b)

/-- Exact product, IEEE 754 for specials. -/
def fvMul : FV → FV → FV
  | .nan, _ => .nan
  | _, .nan => .nan
  | .inf a, .inf b => .inf (a != b)
  | .inf a, .fin t m _ => if m = 0 then .nan else .inf (a != t)
  | .fin s n _, .inf b => if n = 0 then .nan else .inf (s != b)
  | .fin s n e, .fin t m f => .fin (s != t) (n * m) (if n * m = 0 then 0 else e + f)

/-- Exact power of two. -/
def fvPow2 (e : Int) : FV := .fin false 1 e

/-- Strictly less, for values that are not NaN; −0 = +0. -/
def fvLt : FV → FV → Bool
  | .nan, _ => false
  | _, .nan => false
  | .inf a, .inf b => a && !b
  | .inf a, _ => a
  | _, .inf b => !b
  | .fin s n e, .fin t m f => let g := min e f; fvAt s n e g < fvAt t m f g

/-- Equal as numbers; NaN is equal to nothing; −0 = +0. -/
def fvEq : FV → FV → Bool
  | .nan, _ => false
  | _, .nan => false
  | .inf a, .inf b => a = b
  | .inf _, _ => false
  | _, .inf _ => false
  | .fin s n e, .fin t m f => let g := min e f; fvAt s n e g = fvAt t m f g

/-- The sign bit of a value; NaN reads 0. -/
def fvSign : FV → Bool
  | .nan => false
  | .inf s => s
  | .fin s _ _ => s

/-- Less in the order that puts −0 below +0 (R160, R168). -/
def fvBelow (a b : FV) : Bool := fvLt a b || (fvEq a b && fvIsZero a && fvSign a && !fvSign b)

/-- A binary format: exponent and mantissa field widths, bias, largest exponent field of a finite number, largest mantissa at
that exponent. -/
structure Fmt where
  ebits : Nat
  mbits : Nat
  bias : Nat
  emaxField : Nat
  manMax : Nat
  deriving DecidableEq, Repr

def fmtFP32 : Fmt := ⟨8, 23, 127, 254, 0x7FFFFF⟩
def fmtBF16 : Fmt := ⟨8, 7, 127, 254, 0x7F⟩
def fmtFP16 : Fmt := ⟨5, 10, 15, 30, 0x3FF⟩
def fmtE4M3 : Fmt := ⟨4, 3, 7, 15, 6⟩
def fmtE5M2 : Fmt := ⟨5, 2, 15, 30, 3⟩
def fmtE3M2 : Fmt := ⟨3, 2, 3, 7, 3⟩
def fmtE2M3 : Fmt := ⟨2, 3, 1, 3, 7⟩
def fmtE2M1 : Fmt := ⟨2, 1, 1, 3, 1⟩

/-- num ÷ den rounded to the nearest integer, ties to even. -/
def rneDiv (num den : Nat) : Nat :=
  let q := num / den
  let r := num % den
  if 2 * r < den then q else if 2 * r > den then q + 1 else q + q % 2

/-- floor(log₂(num ÷ den)) of a positive rational. -/
def log2Rat (num den : Nat) : Int :=
  let k : Int := (Nat.log2 num : Int) - (Nat.log2 den : Int)
  -- num ÷ den lies in [2^(k−1), 2^(k+1))
  let ge : Bool := if 0 ≤ k then den * 2 ^ k.toNat ≤ num else den ≤ num * 2 ^ (-k).toNat
  if ge then k else k - 1

/-- A rounded magnitude: significand and exponent, as though the exponent were unbounded above (R96). -/
structure Rounded where
  sig : Nat
  ex : Int
  deriving DecidableEq, Repr

/-- Round the positive rational num ÷ den × 2^ex to a format's precision, ties to even, with subnormals (R87, R96). -/
def roundRat (f : Fmt) (num den : Nat) (ex : Int) : Rounded :=
  if num = 0 then ⟨0, 0⟩
  else
    let e := log2Rat num den + ex
    let q : Int := max (e - f.mbits) (1 - (f.bias : Int) - f.mbits)
    let sh := ex - q
    let n := if 0 ≤ sh then rneDiv (num * 2 ^ sh.toNat) den else rneDiv num (den * 2 ^ (-sh).toNat)
    ⟨n, q⟩

/-- The magnitude code (no sign) of a rounded value, or none where it lies beyond the largest finite number. -/
def packMag (f : Fmt) (r : Rounded) : Option Nat :=
  if r.sig = 0 then some 0
  else
    -- a carry out of the significand moves up one binade
    let (sig, ex) := if r.sig = 2 ^ (f.mbits + 1) then (2 ^ f.mbits, r.ex + 1) else (r.sig, r.ex)
    if sig < 2 ^ f.mbits then some sig
    else
      let ef : Int := ex + f.mbits + f.bias
      let man := sig - 2 ^ f.mbits
      if (f.emaxField : Int) < ef || (ef = f.emaxField && f.manMax < man) then none
      else some (ef.toNat * 2 ^ f.mbits + man)

/-- Largest finite magnitude code. -/
def maxCode (f : Fmt) : Nat := f.emaxField * 2 ^ f.mbits + f.manMax

/-- The sign bit in place. -/
def signCode (f : Fmt) (s : Bool) : Nat := if s then 2 ^ (f.ebits + f.mbits) else 0

/-- Infinity magnitude code of a format that has one. -/
def infCode (f : Fmt) : Nat := (2 ^ f.ebits - 1) * 2 ^ f.mbits

/-- Encode to FP32, BF16 or FP16: NaN by R88, overflow to infinity (Table 3-3). -/
def encIeee (f : Fmt) (nanCode : Nat) : FV → Nat
  | .nan => nanCode
  | .inf s => signCode f s + infCode f
  | .fin s n e => signCode f s + (packMag f (roundRat f n 1 e)).getD (infCode f)

/-- The FP32 code of a value: RN of the manual. -/
def toF32 (v : FV) : Nat := encIeee fmtFP32 0x7FC00000 v

/-- The BF16 code of a value. -/
def toBF16 (v : FV) : Nat := encIeee fmtBF16 0x7FC0 v

/-- The FP16 code of a value. -/
def toFP16 (v : FV) : Nat := encIeee fmtFP16 0x7E00 v

/-- The value of a code of a format with an all-finite top exponent or with IEEE specials. -/
def decFmt (f : Fmt) (ieee : Bool) (c : Nat) : FV :=
  let s := bitsOf c (f.ebits + f.mbits) 1 = 1
  let e := bitsOf c f.mbits f.ebits
  let m := bitsOf c 0 f.mbits
  if ieee && e = 2 ^ f.ebits - 1 then (if m = 0 then .inf s else .nan)
  else if e = 0 then .fin s m (1 - (f.bias : Int) - f.mbits)
  else .fin s (2 ^ f.mbits + m) ((e : Int) - f.bias - f.mbits)

/-- The value of an FP32 code. -/
def ofF32 (c : Nat) : FV := decFmt fmtFP32 true c

/-- The value of a BF16 code. -/
def ofBF16 (c : Nat) : FV := decFmt fmtBF16 true c

/-- RN: a value rounded to FP32. -/
def rn (v : FV) : FV := ofF32 (toF32 v)

/-- A value rounded to BF16. -/
def rnBF16 (v : FV) : FV := ofBF16 (toBF16 v)

/-- A zero becomes +0 (R114). -/
def posZero (v : FV) : FV := if fvIsZero v then fvZero else v

/-- Sum of a list, exact; every zero it gives is +0 (R113, R114). -/
def fvSum (l : List FV) : FV := posZero (l.foldl fvAdd fvZero)

/-- floor of the square root of `n`, bit by bit from bit `k`. -/
def isqrtFrom (n : Nat) : Nat → Nat → Nat
  | 0, r => if (r + 1) * (r + 1) ≤ n then r + 1 else r
  | k + 1, r => isqrtFrom n k (if (r + 2 ^ (k + 1)) * (r + 2 ^ (k + 1)) ≤ n then r + 2 ^ (k + 1) else r)

/-- floor of the square root. -/
def isqrt (n : Nat) : Nat := isqrtFrom n (Nat.log2 n / 2 + 1) 0

/-- A value rounded to the mode's format: FP32, or BF16 directly (R155). -/
def rmode (bf : Bool) (v : FV) : FV := if bf then rnBF16 v else rn v

/-- Round (−1)^s × num ÷ den × 2^ex, den positive, to the mode's format with one rounding. -/
def roundQ (bf : Bool) (s : Bool) (num den : Nat) (ex : Int) : FV :=
  let f := if bf then fmtBF16 else fmtFP32
  decFmt f true (signCode f s + (packMag f (roundRat f num den ex)).getD (infCode f))

/-- a ÷ b rounded once (R160). -/
def fvDiv (bf : Bool) : FV → FV → FV
  | .nan, _ => .nan
  | _, .nan => .nan
  | .inf _, .inf _ => .nan
  | .inf a, .fin t _ _ => .inf (a != t)
  | .fin s _ _, .inf b => .fin (s != b) 0 0
  | .fin s n e, .fin t m f =>
    if m = 0 then (if n = 0 then .nan else .inf (s != t))
    else if n = 0 then .fin (s != t) 0 0
    else roundQ bf (s != t) n m (e - f)

/-- √(num × 2^ex) rounded once: 96 extra bits and a sticky bit below them decide the rounding. -/
def sqrtPos (bf : Bool) (num den : Nat) (ex : Int) : FV :=
  -- scale to num ÷ den × 4^192 at an even exponent
  let odd := ex % 2
  let n := num * 2 ^ odd.toNat * 4 ^ 192 / den
  let exact : Bool := num * 2 ^ odd.toNat * 4 ^ 192 % den = 0
  let r := isqrt n
  let st := if r * r = n && exact then 0 else 1
  roundQ bf false (2 * r + st) 1 ((ex - odd) / 2 - 193)

/-- √x (R160): −0 gives −0, a negative number gives NaN. -/
def fvSqrt (bf : Bool) : FV → FV
  | .nan => .nan
  | .inf s => if s then .nan else .inf false
  | .fin s n e => if n = 0 then .fin s 0 0 else if s then .nan else sqrtPos bf n 1 e

/-- 1 ÷ √x (R160). -/
def fvRsqrt (bf : Bool) : FV → FV
  | .nan => .nan
  | .inf s => if s then .nan else fvZero
  | .fin s n e => if n = 0 then .inf s else if s then .nan else sqrtPos bf 1 n (-e)

/-- Bits of the fixed-point numbers in which e^x and ln x are formed before their one rounding. -/
def fxBits : Nat := 448

/-- Taylor sum of e^r for a fixed-point r of fxBits bits, |r| < 1: term k is the last argument. -/
def expSeries (r : Int) : Nat → Int → Nat → Int → Int
  | 0, _, _, acc => acc
  | fuel + 1, term, k, acc =>
    let t := term * r / (2 ^ fxBits : Int) / (k + 1 : Int)
    expSeries r fuel t (k + 1) (acc + t)

/-- Square a positive fixed-point number `n` times, keeping fxBits significant bits: (significand, exponent). -/
def sqrTimes : Nat → Nat → Int → Nat × Int
  | 0, m, e => (m, e)
  | n + 1, m, e =>
    let p := m * m
    let sh := Nat.log2 p - fxBits
    sqrTimes n (p / 2 ^ sh) (2 * e + sh)

/-- e^x for a finite nonzero x: (significand, exponent) with about 430 good bits. e^x = (e^(x ÷ 2^k))^(2^k). -/
def expApprox (s : Bool) (num : Nat) (ex : Int) : Nat × Int :=
  let k := ((Nat.log2 num : Int) + ex + 2).toNat
  let sh := ex - k + fxBits
  let mag : Nat := if 0 ≤ sh then num * 2 ^ sh.toNat else num / 2 ^ (-sh).toNat
  let r : Int := if s then -(mag : Int) else mag
  let y := expSeries r 100 (2 ^ fxBits) 0 (2 ^ fxBits)
  sqrTimes k y.toNat (-(fxBits : Int))

/-- e^x rounded once (R160). Beyond ±200 the result lies outside both formats' ranges. A result within 2⁻⁴⁰⁰ of x = 0 cannot arise
from a finite nonzero FP32 input other than one whose e^x rounds to 1. -/
def fvExp (bf : Bool) : FV → FV
  | .nan => .nan
  | .inf s => if s then fvZero else .inf false
  | .fin s n e =>
    if n = 0 then .fin false 1 0
    else if fvLt (.fin false 200 0) (.fin false n e) then (if s then fvZero else .inf false)
    else
      let (m, x) := expApprox s n e
      roundQ bf false m 1 x

/-- Sum of z^(2k+1) ÷ (2k+1) in fixed point. -/
def atanhSeries (z2 : Nat) : Nat → Nat → Nat → Nat → Nat
  | 0, _, _, acc => acc
  | fuel + 1, p, k, acc => atanhSeries z2 fuel (p * z2 / 2 ^ fxBits) (k + 2) (acc + p / k)

/-- 2 × atanh(num ÷ den) in fixed point, num ÷ den at most 1 ÷ 3. -/
def atanh2 (num den : Nat) : Nat :=
  let z := num * 2 ^ fxBits / den
  2 * atanhSeries (z * z / 2 ^ fxBits) 160 z 1 0

/-- ln x rounded once (R160): x = m × 2^k with 1 ≤ m < 2; ln x = k ln 2 + 2 atanh((m − 1) ÷ (m + 1)). -/
def fvLn (bf : Bool) : FV → FV
  | .nan => .nan
  | .inf s => if s then .nan else .inf false
  | .fin s n e =>
    if n = 0 then .inf true
    else if s then .nan
    else
      let b := 2 ^ Nat.log2 n
      let k : Int := (Nat.log2 n : Int) + e
      let v : Int := k * (atanh2 1 3 : Nat) + (atanh2 (n - b) (n + b) : Nat)
      if v = 0 then fvZero else roundQ bf (v < 0) v.natAbs 1 (-(fxBits : Int))

end Sys2Proof.Machine
end

