-- ==== Sys2Proof/Machine/Formats.lean ====
section
/-! DEFINITION. Number formats (03_number_formats.md): format codes, element storage, decode and encode, MX blocks, Concord-8 and
Concord-W. -/

namespace Sys2Proof.Machine

/-- Bits of one element of a format code (Table 3-1); 0 for a code without elements of fixed width. -/
def fmtBits (c : Nat) : Nat :=
  if c = 0x00 ∨ c = 0x12 then 32
  else if c = 0x01 ∨ c = 0x02 then 16
  else if c = 0x0A ∨ c = 0x0B then 6
  else if c = 0x0C ∨ c = 0x11 then 4
  else if c ∈ [0x04, 0x05, 0x08, 0x09, 0x0D, 0x10, 0x18, 0x19] then 8
  else 0

/-- Codes marked Yes in the matrix operand column of Table 3-1. -/
def fmtMatrix (c : Nat) : Bool := c ∈ [0, 1, 2, 4, 5, 8, 9, 0xA, 0xB, 0xC, 0xD, 0x10, 0x11]

/-- Codes marked Yes in the clause column of Table 3-1. -/
def fmtClause (c : Nat) : Bool := fmtMatrix c || c ∈ [0x12, 0x18, 0x19, 0x1A]

/-- MX formats (R90). -/
def fmtMX (c : Nat) : Bool := 0x08 ≤ c && c ≤ 0x0D

/-- INT8 and INT4, the integer matrix operands (R106). -/
def fmtInt (c : Nat) : Bool := c = 0x10 || c = 0x11

/-- Packed stream formats: Concord-8 sparse and Concord-W (R157). -/
def fmtStream (c : Nat) : Bool := c = 0x19 || c = 0x1A

/-- The float layout of a format code (Table 3-2). -/
def fmtOf (c : Nat) : Fmt :=
  if c = 0x00 then fmtFP32 else if c = 0x01 then fmtBF16 else if c = 0x02 then fmtFP16
  else if c = 0x04 ∨ c = 0x08 then fmtE4M3 else if c = 0x05 ∨ c = 0x09 then fmtE5M2
  else if c = 0x0A then fmtE3M2 else if c = 0x0B then fmtE2M3 else fmtE2M1

/-- The value of an element code, without a block scale (R89, R93, R95). -/
def decElem (c x : Nat) : FV :=
  if c = 0x0D then (let k := sgn 8 x; .fin (k < 0) k.natAbs (-6))
  else if c = 0x10 ∨ c = 0x11 ∨ c = 0x12 then fvInt (sgn (fmtBits c) x)
  else if c = 0x04 ∨ c = 0x08 then (if x % 128 = 127 then .nan else decFmt fmtE4M3 false x)
  else decFmt (fmtOf c) (c ∈ [0x00, 0x01, 0x02, 0x05, 0x09]) x

/-- The value of an E8M0 scale code (R91). -/
def e8m0 (e : Nat) : FV := if e = 0xFF then .nan else fvPow2 ((e : Int) - 127)

/-- The exact value of an MX element under a scale code (R94): a scale of 0xFF makes every element NaN. -/
def decMX (c e x : Nat) : FV := if e = 0xFF then .nan else fvMul (decElem c x) (e8m0 e)

/-- A value rounded to an integer, ties to even. -/
def fvRound (s : Bool) (num : Nat) (ex : Int) : Int :=
  let m : Nat := if 0 ≤ ex then num * 2 ^ ex.toNat else rneDiv num (2 ^ (-ex).toNat)
  if s then -(m : Int) else m

/-- An integer limited to a range, with whether it was. -/
def limitInt (lo hi x : Int) : Int × Bool := if x < lo then (lo, true) else if hi < x then (hi, true) else (x, false)

/-- Conversion of a value to an `n`-bit integer (Table 3-3), with whether it was limited. -/
def toInt (n : Nat) : FV → Int × Bool
  | .nan => (0, false)
  | .inf s => (if s then -(2 ^ (n - 1) : Int) else 2 ^ (n - 1) - 1, true)
  | .fin s m e => limitInt (-(2 ^ (n - 1) : Int)) (2 ^ (n - 1) - 1) (fvRound s m e)

/-- Conversion to an 8-bit or narrower float element with saturation (Table 3-3), with whether it saturated. -/
def encSat (f : Fmt) (nanCode : Nat) (infIs : Bool → Nat × Bool) : FV → Nat × Bool
  | .nan => (nanCode, false)
  | .inf s => infIs s
  | .fin s n e =>
    match packMag f (roundRat f n 1 e) with
    | some m => (signCode f s + m, false)
    | none => (signCode f s + maxCode f, true)

/-- The code of a value in a format without block scale, and whether it saturated or was limited (R96, R97, Table 3-3). -/
def encElem (c : Nat) (v : FV) : Nat × Bool :=
  if c = 0x00 then (toF32 v, false)
  else if c = 0x01 then (toBF16 v, false)
  else if c = 0x02 then (toFP16 v, false)
  else if c = 0x04 then encSat fmtE4M3 0x7F (fun _ => (0x7F, false)) v
  else if c = 0x05 then encSat fmtE5M2 0x7E (fun s => (signCode fmtE5M2 s + 0x7C, false)) v
  else (let (i, l) := toInt (fmtBits c) v; (unsgn (fmtBits c) i, l))

/-- emax of an MX element format (R98). -/
def mxEmax (c : Nat) : Int :=
  if c = 0x08 then 8 else if c = 0x09 then 15 else if c = 0x0A then 4 else if c = 0x0B ∨ c = 0x0C then 2 else 0

/-- The code of a finite value in an MX element format (Table 3-3, row MX formats). -/
def encMXElem (c : Nat) (v : FV) : Nat × Bool :=
  if c = 0x0D then
    (let (i, l) := toInt 8 (fvMul v (fvPow2 6)); (unsgn 8 i, l))
  else
    let f := fmtOf c
    encSat f (maxCode f) (fun s => (signCode f s + maxCode f, true)) v

/-- Encode one block of 32 values to an MX format (R98): scale code, element codes, whether any saturated. -/
def encMXBlock (c : Nat) (vs : List FV) : Nat × List Nat × Bool :=
  if vs.any fvNonFinite then (0xFF, vs.map fun _ => 0, false)
  else
    let amax := vs.foldl (fun a v => if fvLt a (fvAbs v) then fvAbs v else a) fvZero
    let scale : Nat := match amax with
      | .fin _ n e => if n = 0 then 0 else
          let x : Int := log2Rat n 1 + e - mxEmax c + 127
          if x < 0 then 0 else min 254 x.toNat
      | _ => 0
    let cs := vs.map fun v => encMXElem c (fvMul v (fvPow2 (127 - (scale : Int))))
    (scale, cs.map (·.1), cs.any (·.2))

/-- Element `i` of a row: `bits` bits from bit i × bits of the row's little-endian bytes (R86). -/
def getElem (rd : Nat → Byte) (base bits i : Nat) : Nat :=
  let o := i * bits
  let b := base + o / 8
  bitsOf (leNat ((List.range 5).map fun k => rd (b + k))) (o % 8) bits

/-- Element codes packed by R86. -/
def packCodes (bits : Nat) (cs : List Nat) : List Byte :=
  let n := cs.foldr (fun c acc => c % 2 ^ bits + 2 ^ bits * acc) 0
  leBytes (cdiv (bits * cs.length) 8) n

/-- A Concord-8 code of a finite or special value under scale code e (R101): code and whether it was limited. -/
def encConcord8 (e : Nat) : FV → Nat × Bool
  | .fin s n x =>
    let (i, l) := limitInt (-127) 127 (fvRound s n (x + 127 - e))
    (unsgn 8 i, l)
  | _ => (0x80, false)

/-- The unit 2^(e − 127) of a Concord scale code. A byte 0xFF in a scale row, which R100 keeps out of images and commands, follows the
same formula of R99 and R156 (DEDUCED, log 103). -/
def concordUnit (e : Nat) : FV := fvPow2 ((e : Int) - 127)

/-- The value of a Concord-8 code under scale code e (R99, R156): poison is NaN, beyond FP32 becomes infinity. -/
def decConcord8 (e x : Nat) : FV :=
  if x = 0x80 then .nan else rn (fvMul (fvInt (sgn 8 x)) (concordUnit e))

/-- Poison of an INT32 value and of an accumulator (R161, R221). -/
def poison : Int := -2147483648

/-- Elements of one sparse Concord-8 block (R102): none for absent; the rest of the stream. -/
def decSparseBlock (bs : List Byte) : List (Option Nat) × List Byte :=
  let mask := leNat (bs.take 4)
  (List.range 32).foldl (fun (acc : List (Option Nat) × List Byte) i =>
    if bitsOf mask i 1 = 1 then (acc.1 ++ [some (acc.2.headD 0).toNat], acc.2.drop 1) else (acc.1 ++ [none], acc.2))
    ([], bs.drop 4)

/-- `n` sparse blocks. -/
def decSparse : Nat → List Byte → List (Option Nat)
  | 0, _ => []
  | n + 1, bs => let (b, r) := decSparseBlock bs; b ++ decSparse n r

/-- Encode blocks of 32 optional codes (R102). -/
def encSparse (blocks : List (List (Option Nat))) : List Byte :=
  blocks.flatMap fun b =>
    leBytes 4 ((List.range 32).foldl (fun m i => m + (if (b.getD i none).isSome then 2 ^ i else 0)) 0)
      ++ (b.filterMap id).map (BitVec.ofNat 8)

/-- Width in bits of a Concord-W WIDTH code (Table 3-4). -/
def cwWidth (h : Nat) : Nat := if h = 0 then 8 else if h = 1 then 16 else if h = 2 then 24 else 0

/-- One Concord-W block (R104): 32 elements, `poison` for the poison code; the rest of the stream. -/
def decConcordWBlock (bs : List Byte) : List Int × List Byte :=
  let w := cwWidth (bitsOf (bs.headD 0).toNat 0 2)
  let r := bs.drop 1
  if w = 0 then (List.replicate 32 0, r)
  else
    ((List.range 32).map fun i =>
      let x := leNat ((r.drop (i * (w / 8))).take (w / 8))
      if x = 2 ^ (w - 1) then poison else sgn w x, r.drop (32 * (w / 8)))

/-- `n` Concord-W blocks. -/
def decConcordW : Nat → List Byte → List Int
  | 0, _ => []
  | n + 1, bs => let (b, r) := decConcordWBlock bs; b ++ decConcordW n r

/-- Encode one block of 32 integers (R103): bytes and whether an element was limited. -/
def encConcordWBlock (xs : List Int) : List Byte × Bool :=
  let lim := xs.map fun x => if x = poison then (poison, false) else limitInt (-8388607) 8388607 x
  let mag := lim.foldl (fun m p => if p.1 = poison then m else max m p.1.natAbs) 0
  if xs.all (· = 0) then ([3], false)
  else
    let h : Nat := if mag ≤ 127 then 0 else if mag ≤ 32767 then 1 else 2
    let w := cwWidth h
    (BitVec.ofNat 8 h :: lim.flatMap (fun p =>
      leBytes (w / 8) (if p.1 = poison then 2 ^ (w - 1) else unsgn w p.1)), lim.any (·.2))

/-- The decode of a Concord-W element (R105): y = a × 2^(e − 127), then y × r. -/
def decConcordWVal (a : Int) (e : Nat) (r : FV) : FV :=
  if a = poison then .nan
  else if a = 0 then fvZero
  else rn (fvMul (rn (fvMul (fvInt a) (concordUnit e))) r)

/-- A table image of 8,256 bytes (Table 4-9). -/
abbrev Table := List Byte

/-- The FP32 at a byte offset of a table image. -/
def tabF (t : Table) (o : Nat) : FV := ofF32 (leNat ((t.drop o).take 4))

/-- floor of a finite value. -/
def fvFloor (s : Bool) (n : Nat) (e : Int) : Int := fvAt s n e (min e 0) / (2 ^ (-(min e 0)).toNat : Nat)

/-- A table evaluated at an FP32 input (R135). -/
def tabEval (t : Table) (x : FV) : FV :=
  match x with
  | .nan => .nan
  | _ =>
    let x := match x with
      | .inf s => .fin s 0xFFFFFF 104
      | v => v
    match rn (fvMul (rn (fvSub x (tabF t 0))) (tabF t 4)) with
    | .nan => .nan
    | tv =>
      let i : Nat := match tv with
        | .nan => 0
        | .inf s => if s then 0 else 255
        | .fin s n e => (min 255 (max 0 (fvFloor s n e))).toNat
      let o := 64 + 32 * i
      let u := rn (fvSub x (tabF t o))
      let p := rn (fvMul (tabF t (o + 16)) u)
      let p := rn (fvMul (rn (fvAdd p (tabF t (o + 12)))) u)
      let p := rn (fvMul (rn (fvAdd p (tabF t (o + 8)))) u)
      rn (fvAdd p (tabF t (o + 4)))

end Sys2Proof.Machine
end

