-- ==== Sys2Proof/Machine/Operands.lean ====
section
/-! DEFINITION. Operand forms that the engines share: fields of a descriptor, ranges in a core's SRAM, rows of elements, descriptors
in flight and what they write (R53–R57, R83, R84, R86). -/

namespace Sys2Proof.Machine

/-- A range of a core's SRAM: address and length. -/
abbrev Range := Nat × Nat

/-- Bytes of a row of n elements (R86). -/
def rowBytes (fmt n : Nat) : Nat := cdiv (fmtBits fmt * n) 8

/-- The whole range of n rows of b bytes at a stride; empty where there is no row or no byte. -/
def rowsRange (a stride n b : Nat) : Range := if n = 0 ∨ b = 0 then (a, 0) else (a, (n - 1) * stride + b)

/-- The ranges of n rows of b bytes, one per row. -/
def rowRanges (a stride n b : Nat) : List Range := (List.range n).map fun r => (a + r * stride, b)

/-- Nonempty ranges lie together in one memory of Table 2-3 (R84). -/
def oneMemory (rs : List Range) : Bool :=
  rs.all (fun r => r.2 = 0 || decide (r.1 + r.2 ≤ 0x400000))
  || rs.all (fun r => r.2 = 0 || decide (0x400000 ≤ r.1) && decide (r.1 + r.2 ≤ 0x600000))
  || rs.all (fun r => r.2 = 0 || decide (0x600000 ≤ r.1) && decide (r.1 + r.2 ≤ 0x640000))

/-- An address that starts in the accumulator buffer or the command store. -/
def startsAboveOperands (a : Nat) : Bool := 0x400000 ≤ a && a < 0x640000

/-- A range that starts in operand SRAM stays there (R129, R149). -/
def inOperands (r : Range) : Bool := r.2 = 0 || r.1 + r.2 ≤ 0x400000

/-- FP32 at an address of a core's SRAM. -/
def sramF32 (k : Core) (a : Nat) : FV := ofF32 (memNat k.sram a 4)

/-- Engine reads of several ranges (R44). -/
def sramTouches (k : Core) (rs : List Range) : Core := rs.foldl (fun k r => sramTouch k r.1 r.2) k

/-- Writes in order. -/
def sramWrites (k : Core) (ws : List (Nat × List Byte)) : Core := ws.foldl (fun k w => sramWrite k w.1 w.2) k

/-- A write of these ranges touches the drain slot while a drain runs (R144). -/
def touchesDrainSlot (k : Core) (rs : List Range) : Bool := rs.any fun r => hitsDrainSlot k r.1 r.2

/-! Descriptors in flight (R83, R139). Engine number 6 stands for a drain, 7 for a landed write. -/

def clash (ws vs : List Range) : Bool := ws.any fun w => vs.any fun v => overlap w.1 w.2 v.1 v.2

/-- What started descriptors of other engines, and a running drain, write. -/
def inFlight (k : Core) (e : Nat) : List Range :=
  ((List.range 6).flatMap fun g =>
    if g = e then [] else match (engineOf k g).run with | some r => r.writes | none => [])
  ++ (if e = 6 then [] else match k.drain with | some d => d.writes | none => [])

/-- R83: writes of engine e overlap those of a descriptor in flight beside it, or of one that was while it waited. -/
def overlapsInFlight (k : Core) (e : Nat) (seen ws : List Range) : Bool := clash ws (inFlight k e ++ seen)

/-- A descriptor that waits or runs remembers what others have written meanwhile. -/
def seeWrites (ws : List Range) (q : QEntry) : QEntry := { q with seen := q.seen ++ ws }

/-- Descriptors in flight remember the writes of a descriptor of engine e that completes. Those of the matrix engine enter a slot in
issue order (R121), so they remember none of each other (log 10). -/
def remember (k : Core) (e : Nat) (ws : List Range) : Core :=
  (List.range 6).foldl (fun k g =>
    if g = 0 ∧ e = 0 then k
    else
      let x := engineOf k g
      setEngine k g { x with
        queue := x.queue.map (seeWrites ws), run := x.run.map fun r => { r with entry := seeWrites ws r.entry } }) k

/-- What started transfers of the package's outbound ferries write in core c (R83). -/
def landing (s : State) (c : Nat) : List Range :=
  s.cores.flatMap fun x => match (engineOf x.2 5).run with
    | some r => (r.lands.filter fun l => l.1 = c).map (·.2)
    | none => []

/-- A transfer that waits or runs remembers writes in core c. -/
def seeAbroad (c : Nat) (ws : List Range) (q : QEntry) : QEntry := { q with seenAbroad := q.seenAbroad ++ ws.map fun w => (c, w) }

/-- The outbound ferry of a core remembers writes in core c. -/
def ferrySees (c : Nat) (ws : List Range) (k : Core) : Core :=
  let g := engineOf k 5
  setEngine k 5 { g with
    queue := g.queue.map (seeAbroad c ws), run := g.run.map fun r => { r with entry := seeAbroad c ws r.entry } }

/-- The outbound ferries of all cores remember writes in core c. -/
def tellFerries (s : State) (c : Nat) (ws : List Range) : State :=
  if ws.isEmpty then s else { s with cores := s.cores.map fun x => (x.1, ferrySees c ws x.2) }

/-- Writes in core c of a descriptor that ends in engine e, or of a drain or a landed write, are remembered by all in flight (R83). -/
def rememberAll (s : State) (c e : Nat) (ws : List Range) : State :=
  if ws.isEmpty then s else tellFerries (modCore s c fun k => remember k e ws) c ws

/-- R83 for writes in core c of its own engine e: against everything in flight in that core or landing there. -/
def writesClash (s : State) (c e : Nat) (seen ws : List Range) : Bool :=
  overlapsInFlight (coreOf s c) e seen ws || clash ws (landing s c)

/-- R83 for what a transfer writes in another core. -/
def landsClash (s : State) (seen : List (Nat × Nat × Nat)) (ls : List (Nat × Nat × Nat)) : Bool :=
  ls.any fun l => writesClash s l.1 7 ((seen.filter fun x => x.1 = l.1).map (·.2)) [l.2]

/-- The descriptor that engine e runs, at a phase. -/
def running (k : Core) (e : Nat) (p : Phase) : Option Run := (engineOf k e).run.filter fun r => r.phase = p

/-- The running descriptor of engine e goes to a phase. -/
def setPhase (k : Core) (e : Nat) (p : Phase) : Core :=
  let g := engineOf k e
  setEngine k e { g with run := g.run.map fun r => { r with phase := p } }

/-- R57: DESC_BAD; the running descriptor may complete. -/
def descBad (k : Core) (e : Nat) : Core := setPhase (coreErr k errDescBad) e .ready

/-- A row of an engine: the isles run, and the descriptor that engine e runs is at the phase and of the row's kind. -/
def engineRow (s : State) (c e : Nat) (p : Phase) (kind : Line → Bool) (f : Core → Run → Host.Outcome State Fault Refusal) :
    Host.Outcome State Fault Refusal :=
  match running (coreOf s c) e p with
  | none => .next s
  | some r => if coreOn s c && kind r.entry.desc then f (coreOf s c) r else .next s

end Sys2Proof.Machine
end

