-- ==== Sys2Proof/Machine/Matrix.lean ====
section
/-! DEFINITION. The matrix engine (04): descriptors, layout and contexts, K-steps, handoff, drain, tables. -/

namespace Sys2Proof.Machine

/-! Descriptor fields (Tables 4-6 to 4-8). -/

def mOp (d : Line) : Nat := fld d 1 0 2
def mCtx (d : Line) : Nat := fld d 4 0 6
def mInit (d : Line) : Nat := fld d 4 6 2
def mDrainEn (d : Line) : Bool := fld d 7 7 1 = 1
def mDrainDesc (d : Line) : Nat := fld d 6 0 12
def mK (d : Line) : Nat := fldB d 8 3
def mTerms (d : Line) : Nat := fld d 44 0 22

/-- ceil(K ÷ 128) K-steps (R111). -/
def mSteps (d : Line) : Nat := cdiv (mK d) 128

/-- An operand: format, TRANS, address and stride of its stored rows, address and stride of its scale rows, and the extent that is not
K. -/
structure Operand where
  fmt : Nat
  trans : Bool
  addr : Nat
  stride : Nat
  saddr : Nat
  sstride : Nat
  outer : Nat
  deriving DecidableEq, Repr

/-- Every stored row begins on a 64-byte boundary (R108): the low 6 bits of addresses and strides drop (log 46). -/
def operandA (k : Core) (d : Line) : Operand :=
  ⟨fld d 2 0 5, fld d 2 5 1 = 1, fldB d 12 4 / 64 * 64, fldB d 16 4 / 64 * 64, fldB d 28 4, fldB d 32 4 / 4 * 4, shapeRows k.shape⟩
def operandB (k : Core) (d : Line) : Operand :=
  ⟨fld d 3 0 5, fld d 3 5 1 = 1, fldB d 20 4 / 64 * 64, fldB d 24 4 / 64 * 64, fldB d 36 4, fldB d 40 4 / 4 * 4, shapeCols k.shape⟩

/-- The stored rows of an operand of depth K, and its scale rows (Table 4-2, R108). -/
def operandRange (o : Operand) (kk : Nat) : Range :=
  let (rows, width) := if o.trans then (kk, o.outer) else (o.outer, kk)
  rowsRange o.addr o.stride rows (rowBytes o.fmt width)
def scaleRange (o : Operand) (kk : Nat) : Range :=
  if fmtMX o.fmt then rowsRange o.saddr o.sstride o.outer (cdiv kk 32) else (o.saddr, 0)

/-! Contexts and slots (R115–R120). -/

def ctxOf (k : Core) (i : Nat) : AccCtx := tblGet ctxReset k.ctxs i
def setCtx (k : Core) (i : Nat) (x : AccCtx) : Core := { k with ctxs := tblSet ctxReset k.ctxs i x }
def ctxSlot (k : Core) (i : Nat) : Nat := (ctxOf k i).slot.getD i

/-- A context that holds slot j. -/
def slotField (i j : Nat) : Option Nat := if i = j then none else some j

/-- Address of element e of a slot's head plane, and of its tail plane (R116). -/
def headAddr (k : Core) (j e : Nat) : Nat := slotAddr k j + 4 * e
def tailAddr (k : Core) (j e : Nat) : Nat := slotAddr k j + 4 * (shapeRows k.shape * shapeCols k.shape) + 4 * e

/-! Checks at the start of a descriptor (R106, R109, R128–R130, R133, R134, R499). -/

def operandBad (o : Operand) : Bool :=
  !fmtMatrix o.fmt || (o.trans && fmtMX o.fmt) || startsAboveOperands o.addr || (fmtMX o.fmt && startsAboveOperands o.saddr)

def macBad (k : Core) (d : Line) : Bool :=
  fld d 2 6 2 != 0 || fld d 3 6 2 != 0 || mInit d = 3 || (mDrainEn d && fld d 7 4 3 != 0) || fldB d 11 1 != 0
    || operandBad (operandA k d) || operandBad (operandB k d)
    || fmtInt (operandA k d).fmt != fmtInt (operandB k d).fmt
    || slotCount k ≤ mCtx d + 1 || (mInit d = 2 && fld d 46 7 1 + fldB d 47 1 != 0)

def macRanges (k : Core) (d : Line) : List Range :=
  if mK d = 0 then []
  else [operandRange (operandA k d) (mK d), scaleRange (operandA k d) (mK d),
    operandRange (operandB k d) (mK d), scaleRange (operandB k d) (mK d)]

/-- Drain fields. -/
def dOut (d : Line) : Nat := fld d 2 0 5
def dFuse (d : Line) : Nat := fld d 4 0 2
def dFuseFmt (d : Line) : Nat := fld d 5 0 5
def dTab1 (d : Line) : Bool := fld d 6 0 1 = 1
def dTab2 (d : Line) : Bool := fld d 6 1 1 = 1
def dSetF2 (d : Line) : Bool := fld d 6 2 1 = 1
def dZFmt (d : Line) : Nat := fld d 7 0 5
def dNoStatus (d : Line) : Bool := fld d 35 7 1 = 1
def dStatusAddr (d : Line) : Nat := fld d 32 0 23 / 4 * 4
def dFuseOn (d : Line) : Bool := dFuse d = 1 || dFuse d = 2

/-- Formats of the fusion and pre-activation tensors (R133). -/
def fmtFusion (c : Nat) : Bool := c ∈ [0, 1, 2, 4, 5]

/-- What a drain writes: output, output scales, status (R133, R138, R139). -/
def drainOutputs (k : Core) (d : Line) : List Range :=
  let r := shapeRows k.shape
  let c := shapeCols k.shape
  rowRanges (fldB d 8 4) (fldB d 12 4 / 64 * 64) r (rowBytes (dOut d) c)
  ++ (if fmtMX (dOut d) then rowRanges (fldB d 40 4) (fldB d 44 4 / 4 * 4) r (c / 32) else [])
  ++ (if dNoStatus d then [] else [(dStatusAddr d, 4)])

/-- What it reads beside the tile. -/
def drainInputs (k : Core) (d : Line) : List Range :=
  let r := shapeRows k.shape
  let c := shapeCols k.shape
  (if dFuseOn d then rowRanges (fldB d 16 4) (fldB d 20 4 / 64 * 64) r (rowBytes (dFuseFmt d) c) else [])
  ++ (if dTab2 d then rowRanges (fldB d 24 4) (fldB d 28 4 / 64 * 64) r (rowBytes (dZFmt d) c) else [])

def drainBad (k : Core) (d : Line) : Bool :=
  fldB d 0 1 != 1 || fldB d 1 1 != 1 || !fmtMatrix (dOut d) || fld d 2 5 3 != 0 || dFuse d = 3 || fld d 4 2 6 != 0
    || (dFuseOn d && (!fmtFusion (dFuseFmt d) || startsAboveOperands (fldB d 16 4)))
    || fld d 6 3 5 != 0
    || (dTab2 d && (!fmtFusion (dZFmt d) || startsAboveOperands (fldB d 24 4) || k.shape = 3))
    || startsAboveOperands (fldB d 8 4)
    || fld d 34 7 1 + fld d 35 0 7 != 0 || (!dNoStatus d && startsAboveOperands (dStatusAddr d))
    || !semFieldOk (fldB d 36 1)
    || (fmtMX (dOut d) && startsAboveOperands (fldB d 40 4))

/-- A drain descriptor issued on its own also names its context. -/
def ownDrainBad (k : Core) (d : Line) : Bool := drainBad k d || fld d 3 6 2 != 0 || slotCount k ≤ fld d 3 0 6 + 1

/-- Source of a table image (Table 4-8). -/
def tableAddr (d : Line) : Nat := fldB d 8 4 / 64 * 64
def tableBad (d : Line) : Bool := !(fldB d 2 1 = 1 || fldB d 2 1 = 2) || startsAboveOperands (tableAddr d)

def layoutBad (d : Line) : Bool := 3 < fldB d 2 1 || 1 < fldB d 3 1

/-- A matrix descriptor with a wrong FORMAT or a reserved encoding (R57, R128). -/
def matrixBad (k : Core) (d : Line) : Bool :=
  fldB d 0 1 != 1 || fld d 1 2 6 != 0
    || (if mOp d = 0 then macBad k d else if mOp d = 1 then ownDrainBad k d else if mOp d = 2 then layoutBad d else tableBad d)

/-- Its ranges, which lie in operand SRAM (R84, R129). -/
def matrixRanges (k : Core) (d : Line) : List Range :=
  if mOp d = 0 then macRanges k d
  else if mOp d = 1 then drainOutputs k d ++ drainInputs k d
  else if mOp d = 2 then []
  else [(tableAddr d, 8256)]

/-- The descriptor asks for what the feature word leaves out: MX formats, compensated accumulation, table 2 (R41, log 102). -/
def drainAbsent (s : State) (d : Line) : Bool := (!feature s featMX && fmtMX (dOut d)) || (!feature s featTab2 && dTab2 d)
def matrixAbsent (s : State) (d : Line) : Bool :=
  if mOp d = 0 then !feature s featMX && (fmtMX (fld d 2 0 5) || fmtMX (fld d 3 0 5))
  else if mOp d = 1 then drainAbsent s d
  else if mOp d = 2 then !feature s featComp && fldB d 3 1 = 1
  else !feature s featTab2 && fldB d 2 1 = 2

/-- A multiply-accumulate starts its context from +0 (R118). -/
def startsAnew (k : Core) (d : Line) : Bool := mInit d = 1 || (mInit d = 0 && !(ctxOf k (mCtx d)).isOpen)

/-- What a started matrix descriptor writes itself: its context's slot, by its K-steps (R504), or zeros where it starts the context from
+0 and has no K-step (log 46). -/
def matrixWrites (k : Core) (d : Line) : List Range :=
  if mOp d = 0 && (mSteps d != 0 || startsAnew k d) then [(slotAddr k (ctxSlot k (mCtx d)), slotBytes k)] else []

/-! Multiply-accumulate. -/

/-- R118: the context as the descriptor opens it. An init of an open context clears BOUND_EXCEEDED with the counter (DESIGN CHOICE,
log 46). -/
def openCtx (x : AccCtx) (init terms : Nat) (bound : Bool) : AccCtx :=
  if init = 2 then { x with isOpen := true, terms := terms, bound := bound, zero := false }
  else if init = 1 || !x.isOpen then { x with isOpen := true, terms := 0, bound := false, zero := true }
  else x

/-- Where a multiply-accumulate goes after its last K-step (R131). -/
def afterSteps (d : Line) : Phase := if mDrainEn d then .handoff else .ready

def isMac (d : Line) : Bool := mOp d = 0
def isDrain (d : Line) : Bool := mOp d = 1
def isLayout (d : Line) : Bool := mOp d = 2
def isTableLoad (d : Line) : Bool := mOp d = 3

/-- R141: a tile that starts from +0 and has no K-step is +0 in its slot too, so that it may be spilled. -/
def clearTile (k : Core) (i : Nat) : Core :=
  setCtx (sramWrite k (slotAddr k (ctxSlot k i)) (List.replicate (slotBytes k) 0)) i { ctxOf k i with zero := false }

/-- R118, R111, R131. -/
def execMultiplyAccumulate (c : Fin 576) (s : State) : Host.Outcome State Fault Refusal :=
  engineRow s c 0 .work isMac fun k r =>
    let d := r.entry.desc
    let i := mCtx d
    let k' := setCtx k i (openCtx (ctxOf k i) (mInit d) (mTerms d) (fld d 46 6 1 = 1))
    let k' := if mSteps d = 0 && startsAnew k d then clearTile k' i else k'
    .next (setCore s c (setPhase k' 0 (if mSteps d = 0 then afterSteps d else .kStep 0)))

/-- Element (i, kk) of an operand with its block scale (R94, R108, R112). -/
def operandElem (k : Core) (o : Operand) (i kk : Nat) : FV :=
  let bits := fmtBits o.fmt
  let x := if o.trans then getElem (memGet k.sram) (o.addr + kk * o.stride) bits i
    else getElem (memGet k.sram) (o.addr + i * o.stride) bits kk
  if fmtMX o.fmt then decMX o.fmt (memGet k.sram (o.saddr + i * o.sstride + kk / 32)).toNat x else decElem o.fmt x

/-- The operand's values at positions ks, for each of its outer indices. -/
def operandRows (k : Core) (o : Operand) (ks : List Nat) : List (List FV) :=
  (List.range o.outer).map fun i => ks.map (operandElem k o i)

/-- The bytes a K-step reads of an operand (R504): the elements of its own k range, and their scales. -/
def stepReads (o : Operand) (ks : List Nat) : List Range :=
  let bits := fmtBits o.fmt
  let lo := ks.headD 0
  let n := ks.length
  (if o.trans then rowRanges (o.addr + lo * o.stride) o.stride n (rowBytes o.fmt o.outer)
   else rowRanges (o.addr + lo * bits / 8) o.stride o.outer (cdiv (bits * n) 8))
  ++ (if fmtMX o.fmt then rowRanges (o.saddr + lo / 32) o.sstride o.outer (cdiv n 32) else [])

/-- The tree (R113): the exact sum of the products of a K-step. -/
def treeSum (as bs : List FV) : FV := fvSum (List.zipWith fvMul as bs)

/-- A value rounded, a zero as +0 (R114). -/
def rnz (v : FV) : FV := posZero (rn v)

/-- R122. -/
def updatePlain (a sum : FV) : FV := rnz (fvAdd a sum)

/-- R123, R124: head and tail after a K-step. -/
def updateComp (h t sum : FV) : FV × FV :=
  let ph := rn sum
  let hs := rn (fvAdd h ph)
  if fvNonFinite h || fvNonFinite ph || fvNonFinite hs then (hs, fvZero)
  else
    let pt := rn (fvSub sum ph)
    let z := rn (fvSub hs h)
    let e := rn (fvAdd (rn (fvSub h (rn (fvSub hs z)))) (rn (fvSub ph z)))
    (posZero hs, rnz (fvAdd (rnz (fvAdd t e)) pt))

/-- FP32 values as bytes. -/
def f32Bytes (vs : List FV) : List Byte := vs.flatMap fun v => leBytes 4 (toF32 v)

/-- The tile of a context before an update: heads and tails, +0 where it starts from +0 (R118). -/
def tileElem (k : Core) (zero tail : Bool) (j e : Nat) : FV :=
  if zero then fvZero else sramF32 k (if tail then tailAddr k j e else headAddr k j e)

/-- R125: one more term. -/
def countTerm (x : AccCtx) : AccCtx :=
  { x with zero := false, terms := min 4194303 (x.terms + 1), bound := x.bound || x.terms = 4194303 }

/-- K-step j of the running descriptor enters its context (R111–R114, R121–R125). -/
def kStepEff (k : Core) (d : Line) (j : Nat) : Core :=
  let oa := operandA k d
  let ob := operandB k d
  let ks := span (128 * j) (min 128 (mK d - 128 * j))
  let ra := operandRows k oa ks
  let rb := operandRows k ob ks
  let x := ctxOf k (mCtx d)
  let slot := ctxSlot k (mCtx d)
  let sums := ra.flatMap fun a => rb.map fun b => treeSum a b
  let old := sums.zip (List.range sums.length)
  let bytes :=
    if k.comp then
      let ht := old.map fun (v, e) => updateComp (tileElem k x.zero false slot e) (tileElem k x.zero true slot e) v
      f32Bytes (ht.map (·.1)) ++ f32Bytes (ht.map (·.2))
    else f32Bytes (old.map fun (v, e) => updatePlain (tileElem k x.zero false slot e) v)
  let k := sramTouches k (stepReads oa ks ++ stepReads ob ks ++ if x.zero then [] else [(slotAddr k slot, slotBytes k)])
  setCtx (sramWrite k (slotAddr k slot) bytes) (mCtx d) (countTerm x)

/-- R122, R504: the next K-step of the running multiply-accumulate. -/
def execKStepUpdate (c : Fin 576) (s : State) : Host.Outcome State Fault Refusal :=
  match (engineOf (coreOf s c) 0).run with
  | none => .next s
  | some r =>
    match r.phase with
    | .kStep j =>
      let d := r.entry.desc
      when (coreOn s c) s
        (setCore s c (setPhase (kStepEff (coreOf s c) d j) 0 (if j + 1 < mSteps d then .kStep (j + 1) else afterSteps d)))
    | _ => .next s

/-! Handoff and drain. -/

/-- R130: a drain descriptor on its own asks for its handoff. -/
def execMatrixDrain (c : Fin 576) (s : State) : Host.Outcome State Fault Refusal :=
  engineRow s c 0 .work isDrain fun k _ => .next (setCore s c (setPhase k 0 .handoff))

/-- R119: the exchange of slots; the tile's counter and BOUND_EXCEEDED go with the drain. -/
def handoffCore (k : Core) (i : Nat) (d : Line) : Core :=
  let x := ctxOf k i
  let k' := setCtx k i { ctxReset with slot := slotField i k.drainSlot }
  { k' with
    drainSlot := ctxSlot k i
    drain := some ⟨d, i, if x.isOpen then x.terms else 0, x.isOpen && x.bound, !x.isOpen || x.zero, drainOutputs k d⟩ }

/-- The drain descriptor of a handoff and its context: the running descriptor itself, or the one that DRAIN_DESC names, read now
(R130). -/
def handoffDesc (k : Core) (d : Line) : Line :=
  if isDrain d then d else BitVec.ofNat 512 (memNat k.sram (0x600000 + 64 * mDrainDesc d) 64)
def handoffCtx (d : Line) : Nat := if isDrain d then fld d 3 0 6 else mCtx d

/-- R139: a drain is in flight from its handoff. -/
def handoffEff (s : State) (c : Nat) (k : Core) (d : Line) : Host.Outcome State Fault Refusal :=
  let dd := handoffDesc k d
  let k := if isDrain d then k else sramTouch k (0x600000 + 64 * mDrainDesc d) 64
  if !isDrain d && (drainBad k dd || drainAbsent s dd) then .next (setCore s c (descBad k 0))
  else if !(drainOutputs k dd ++ drainInputs k dd).all inOperands then undefinedCase .sramRange s
  else if writesClash s c 6 [] (drainOutputs k dd) then undefinedCase .writeOverlap s
  else .next (setCore s c (setPhase (handoffCore k (handoffCtx d) dd) 0 .ready))

/-- R119: no other drain runs. -/
def execHandoff (c : Fin 576) (s : State) : Host.Outcome State Fault Refusal :=
  engineRow s c 0 .handoff (fun _ => true) fun k r =>
    if k.drain.isSome then .next s else handoffEff s c k r.entry.desc

/-- What stage 4 leaves for element (r, i): R132, steps 1 to 4. -/
def drainElem (k : Core) (dr : Drain) (r i : Nat) : FV :=
  let d := dr.desc
  let e := r * shapeCols k.shape + i
  let j := k.drainSlot
  let h := tileElem k dr.zero false j e
  let v := posZero (if k.comp then rn (fvAdd h (tileElem k dr.zero true j e)) else h)
  let v := if dTab1 d then (match k.tab1 with | some t => tabEval t v | none => v) else v
  let v := if dTab2 d then
      (match k.tab2 with
       | some t =>
         let z := decElem (dZFmt d) (getElem (memGet k.sram) (fldB d 24 4 + r * (fldB d 28 4 / 64 * 64)) (fmtBits (dZFmt d)) i)
         rn (fvMul v (tabEval t z))
       | none => v)
    else v
  let f := decElem (dFuseFmt d) (getElem (memGet k.sram) (fldB d 16 4 + r * (fldB d 20 4 / 64 * 64)) (fmtBits (dFuseFmt d)) i)
  if dFuse d = 1 then rn (fvAdd v f) else if dFuse d = 2 then rn (fvMul v f) else v

/-- Blocks of 32 values. -/
def blocks32 : Nat → List FV → List (List FV)
  | 0, _ => []
  | n + 1, vs => if vs.isEmpty then [] else vs.take 32 :: blocks32 n (vs.drop 32)

/-- A row of values in a format without INT32 and Concord: element bytes, scale bytes, whether any saturated or was limited (R92, R96–
R98). A last block that is not full is completed with +0. -/
def encodeRow (fmt : Nat) (vs : List FV) : List Byte × List Byte × Bool :=
  if fmtMX fmt then
    let bl := (blocks32 (vs.length + 1) vs).map fun b => encMXBlock fmt (b ++ List.replicate (32 - b.length) fvZero)
    (packCodes (fmtBits fmt) (bl.flatMap (·.2.1)), bl.map fun b => BitVec.ofNat 8 b.1, bl.any (·.2.2))
  else
    let cs := vs.map (encElem fmt)
    (packCodes (fmtBits fmt) (cs.map (·.1)), [], cs.any (·.2))

/-- The status word (Table 4-10). -/
def drainStatus (dr : Drain) (comp sat nonfinite : Bool) : Nat :=
  dr.terms + 2 ^ 22 * bit dr.bound + 2 ^ 23 * bit nonfinite + 2 ^ 24 * bit sat + 2 ^ 25 * bit comp + 2 ^ 26 * dr.ctx

/-- R132, R138: the drain computes its tile, writes output, scales and status, adds DRAIN_N and sets F2. Where its own ranges overlap,
output rows stand in rising order, then scale rows, then the status word (DESIGN CHOICE, log 16). -/
def drainEff (k : Core) (dr : Drain) : Core :=
  let d := dr.desc
  let rows := (List.range (shapeRows k.shape)).map fun r => (List.range (shapeCols k.shape)).map (drainElem k dr r)
  let enc := rows.map (encodeRow (dOut d))
  let status := drainStatus dr k.comp (enc.any (·.2.2)) (rows.any fun r => r.any fvNonFinite)
  let idx := enc.zip (List.range enc.length)
  let ws := idx.map (fun (e, r) => (fldB d 8 4 + r * (fldB d 12 4 / 64 * 64), e.1))
    ++ (if fmtMX (dOut d) then idx.map (fun (e, r) => (fldB d 40 4 + r * (fldB d 44 4 / 4 * 4), e.2.1)) else [])
    ++ (if dNoStatus d then [] else [(dStatusAddr d, leBytes 4 status)])
  let absent := (dTab1 d && k.tab1.isNone) || (dTab2 d && k.tab2.isNone)
  let k := sramTouches k (drainInputs k d ++ if dr.zero then [] else [(slotAddr k k.drainSlot, slotBytes k)])
  let k := if absent then coreErr k errTable else k
  let k := { sramWrites k ws with drainStat := reg status, drain := none }
  let k := semAdd k (fldB d 36 1) (fldB d 38 2)
  if dSetF2 d then flagPut k 2 true else k

/-- A drain ends (R138, R139). -/
def drainEndEff (s : State) (c : Nat) (dr : Drain) : State :=
  rememberAll (setCore s c (noteBusy s (coreOf s c) (drainEff (coreOf s c) dr))) c 6 dr.writes

def execDrainEnd (c : Fin 576) (s : State) : Host.Outcome State Fault Refusal :=
  match (coreOf s c).drain with
  | none => .next s
  | some dr => when (coreOn s c) s (drainEndEff s c dr)

/-- R117: after any drain, the new layout: identity slot map, contexts closed, bytes unchanged. -/
def layoutCore (k : Core) (d : Line) : Core :=
  let k := { k with shape := fldB d 2 1, comp := fldB d 3 1 = 1, ctxs := [] }
  { k with drainSlot := slotCount k - 1 }

def execLayout (c : Fin 576) (s : State) : Host.Outcome State Fault Refusal :=
  engineRow s c 0 .work isLayout fun k r =>
    if k.drain.isSome then .next s else .next (setCore s c (setPhase (layoutCore k r.entry.desc) 0 .ready))

/-- R136: after any drain, the table is read from operand SRAM. -/
def execMatrixTableLoad (c : Fin 576) (s : State) : Host.Outcome State Fault Refusal :=
  engineRow s c 0 .work isTableLoad fun k r =>
    if k.drain.isSome then .next s
    else
      let a := tableAddr r.entry.desc
      let t := some (memRead k.sram a 8256)
      let k := sramTouch k a 8256
      .next (setCore s c (setPhase (if fldB r.entry.desc 2 1 = 1 then { k with tab1 := t } else { k with tab2 := t }) 0 .ready))

end Sys2Proof.Machine
end

