-- ==== Sys2Proof/Machine/Clause.lean ====
section
/-! DEFINITION. The clause engine (05): clause descriptors and tensor records, the stage chain, reduce lanes, permutation, masks,
convert-out, tables, MERGE. -/

namespace Sys2Proof.Machine

/-! Descriptor and records (Tables 5-2 to 5-4). -/

def cOp (d : Line) : Nat := fld d 1 0 2
def cCalc (d : Line) : Nat := fld d 1 2 2
def cMaskMode (d : Line) : Nat := fld d 1 4 1
def cFinal (d : Line) : Bool := fld d 1 5 1 = 1
def cEn (d : Line) (b : Nat) : Bool := (fldB d 2 2).testBit b
def cIsInt (d : Line) : Bool := cCalc d = 2
def cBf (d : Line) : Bool := cCalc d = 1
/-- The format a bypassed convert stage stands for (Table 5-1). -/
def cRaw (d : Line) : Nat := if cIsInt d then 0x12 else 0x00
def cFmt0 (d : Line) : Nat := if cEn d 0 then fld d 4 0 5 else cRaw d
def cFmt1 (d : Line) : Nat := if cEn d 0 then bitsOf (fldB d 4 2) 5 5 else cRaw d
def cFmtOut (d : Line) : Nat := if cEn d 11 then bitsOf (fldB d 4 2) 10 5 else cRaw d
def cT2Src (d : Line) : Bool := fld d 5 7 1 = 1
/-- Record field j: 0 SRC0, 1 SRC1, 2 DST, 3 MASK, 4 RED0, 5 RED1. -/
def cRecField (d : Line) (j : Nat) : Nat := fldB d (8 + 2 * j) 2
def cPermField (d : Line) : Nat := fldB d 6 2
def cArith (d : Line) (j : Nat) : Nat := fldB d (20 + 2 * j) 2
def cRedOp (d : Line) (l : Nat) : Nat := fld d 28 (4 * l) 4
def cRedAxis (d : Line) : Nat := fld d 29 0 1
def cPermAxis (d : Line) : Nat := fld d 29 1 1
def cPermMode (d : Line) : Nat := fld d 29 2 2
def cPermImm (d : Line) : Nat := fld d 29 4 3
def cMaskSrc (d : Line) : Nat := fld d 30 0 2
def cMaskImm (d : Line) : Nat := fld d 30 2 3
def cImm (d : Line) (j : Nat) : Nat := fldB d (32 + 4 * j) 4
def cRedOn (d : Line) (l : Nat) : Bool := cEn d (7 + l)
def cReduces (d : Line) : Bool := cRedOn d 0 || cRedOn d 1
def cSoftmax (d : Line) : Bool := cRedOn d 0 && cRedOp d 0 = 0xA
def cLse (d : Line) : Bool := (cRedOn d 0 && cRedOp d 0 = 0xB) || (cRedOn d 1 && cRedOp d 1 = 0xB)
/-- Presence of lanes matters to the mask stage and to the reduce stage (R165). -/
def cMaskUsed (d : Line) : Bool := cEn d 10 || cReduces d

/-- A field of an arithmetic stage. -/
def aOp (a : Nat) : Nat := bitsOf a 0 5
def aBsel (a : Nat) : Nat := bitsOf a 5 3
def aBimm (a : Nat) : Nat := bitsOf a 8 3
def aCsel (a : Nat) : Nat := bitsOf a 11 2
def aCimm (a : Nat) : Nat := bitsOf a 13 3

/-- Operations of Table 5-5 by mode. -/
def opDefined (int : Bool) (op : Nat) : Bool :=
  if int then op ∈ [1, 2, 3, 4, 6, 7, 8, 9, 0xE, 0xF, 0x10, 0x14, 0x18, 0x19, 0x1A, 0x1B, 0x1C, 0x1D]
  else op ∈ [1, 2, 3, 4, 5, 6, 7, 8, 9, 0xA, 0xB, 0xC, 0xD, 0xE, 0xF, 0x10, 0x11, 0x12, 0x14]
def opTakesB (op : Nat) : Bool := !(op ∈ [8, 9, 0xA, 0xB, 0xC, 0x11, 0x12])
def opTakesC (op : Nat) : Bool := op = 5 || op = 0x10

/-- Source 1 is selected by an enabled stage. -/
def cNeeds1 (d : Line) : Bool :=
  (List.range 4).any (fun j => cEn d (1 + j) &&
    ((opTakesB (aOp (cArith d j)) && aBsel (cArith d j) = 1) || (opTakesC (aOp (cArith d j)) && aCsel (cArith d j) = 1)))
  || (cEn d 6 && cT2Src d) || (cRedOn d 0 && cRedOp d 0 = 9) || (cRedOn d 1 && cRedOp d 1 = 9)

/-- The destination record is used: by the write stage, or for the block scales of Concord-8 (R176). -/
def cNeedsDst (d : Line) : Bool := cEn d 12 || (!cIsInt d && (cFmtOut d = 0x18 || cFmtOut d = 0x19))

/-- Record j is used by the clause (R499). -/
def cUses (d : Line) (j : Nat) : Bool :=
  if cOp d = 2 then j < 3
  else if cOp d = 1 then false
  else if j = 0 then true
  else if j = 1 then cNeeds1 d
  else if j = 2 then cNeedsDst d
  else if j = 3 then cMaskUsed d && cMaskSrc d = 1
  else if j = 4 then cRedOn d 0 && !cSoftmax d
  else cRedOn d 1

def cUsesTable (d : Line) : Bool := cOp d = 0 && cEn d 9 && cPermMode d = 0

/-- Record i of the command store. -/
def recordLine (k : Core) (i : Nat) : Line := BitVec.ofNat 512 (memNat k.sram (0x600000 + 64 * i) 64)

/-- The records that a clause or MERGE reads at its start (R147): each used one, and the permute table. -/
def clauseRecs (k : Core) (d : Line) : List Line :=
  (List.range 6).map (fun j => if cUses d j then recordLine k (cRecField d j % 4096) else 0)
  ++ (if cUsesTable d then [recordLine k (cPermField d % 4096), recordLine k (cPermField d % 4096 + 1)] else [])

/-- The bytes those reads touch. -/
def clauseRecRanges (d : Line) : List Range :=
  ((List.range 6).filter (cUses d)).map (fun j => (0x600000 + 64 * (cRecField d j % 4096), 64))
  ++ (if cUsesTable d then [(0x600000 + 64 * (cPermField d % 4096), 128)] else [])

/-- A range of the command store stays there (R84). -/
def inStore (r : Range) : Bool := r.1 + r.2 ≤ 0x640000

/-- A tensor record (Table 5-3). -/
structure Rec where
  addr : Nat
  bcast : Bool
  saddr : Nat
  len0 : Nat
  len1 : Nat
  len2 : Nat
  len3 : Nat
  len4 : Nat
  st1 : Nat
  st2 : Nat
  st3 : Nat
  st4 : Nat
  sst : Nat
  tail : Nat
  count : Nat
  deriving DecidableEq, Repr

def recOf (x : Line) : Rec where
  addr := fld x 0 0 23
  bcast := fld x 2 7 1 = 1
  saddr := fld x 4 0 23
  len0 := fld x 8 0 25
  len1 := fldB x 12 2
  len2 := fldB x 14 2
  len3 := fldB x 16 2
  len4 := fldB x 18 2
  st1 := fldB x 20 4 / 64 * 64
  st2 := fldB x 24 4 / 64 * 64
  st3 := fldB x 28 4 / 64 * 64
  st4 := fldB x 32 4 / 64 * 64
  sst := fldB x 36 4 / 4 * 4
  tail := fldB x 40 4
  count := fld x 44 0 23

/-- Reserved bits of ADDR; for the record that sets the shape also LEN0 (R150, R499). -/
def recBad (x : Line) (shape : Bool) : Bool :=
  fldB x 3 1 != 0 || (shape && (fld x 11 1 7 != 0 || 16777216 < fld x 8 0 25))

def recJ (recs : List Line) (j : Nat) : Line := recs.getD j 0

/-! Checks (R148, R158, R162, R164, R171, R176). -/

def arithBad (d : Line) (j : Nat) : Bool :=
  let a := cArith d j
  cEn d (1 + j) && (!opDefined (cIsInt d) (aOp a) || (opTakesB (aOp a) && 2 < aBsel a) || (opTakesC (aOp a) && aCsel a = 3))

/-- Reduce operation of lane l reserved by Table 5-6. -/
def redBad (d : Line) (l : Nat) : Bool :=
  let op := cRedOp d l
  cRedOn d l && (12 < op || (l = 1 && (op = 0xA || op = 0xC))
    || (cIsInt d && !(op ∈ [0, 2, 3, 4, 5, 6])) || (cRedAxis d = 1 && 0xA ≤ op))

/-- R185: reduce and permute on one axis. -/
def redPermuteOneAxis (d : Line) : Bool := cOp d = 0 && cReduces d && cEn d 9 && cRedAxis d = cPermAxis d

/-- R171. -/
def bufferBad (d : Line) (n : Nat) : Bool :=
  let row := cSoftmax d || cLse d
  let red1 := cReduces d && cRedAxis d = 1
  let perm1 := cEn d 9 && cPermAxis d = 1
  (row && 16384 < n) || (red1 && 16384 < n * (bit (cRedOn d 0) + bit (cRedOn d 1))) || (perm1 && 128 < n) || (row && perm1)

/-- Formats written by whole blocks (R176). -/
def fmtWhole (c : Nat) : Bool := fmtMX c || c = 0x18 || c = 0x19 || c = 0x1A

def clauseOpBad (d : Line) (recs : List Line) : Bool :=
  cCalc d = 3 || fld d 3 5 3 != 0 || fld d 29 7 1 != 0 || fld d 30 5 3 != 0
    || !fmtClause (cFmt0 d) || (cNeeds1 d && !fmtClause (cFmt1 d)) || !fmtClause (cFmtOut d)
    || (cFmtOut d = 0x1A && !cIsInt d) || (cEn d 10 && cMaskMode d = 0 && fmtWhole (cFmtOut d))
    || (List.range 4).any (arithBad d) || (cIsInt d && (cEn d 5 || cEn d 6)) || (cIsInt d && cMaskUsed d && cMaskSrc d = 3)
    || redBad d 0 || redBad d 1 || (cNeeds1 d && cRecField d 1 % 4096 = 0xFFF)
    || (List.range 6).any (fun j => cUses d j && (4095 < cRecField d j || recBad (recJ recs j) (j = 0)))
    || (cUsesTable d && 4095 < cPermField d) || (cNeedsDst d && (recOf (recJ recs 2)).bcast)
    || bufferBad d (recOf (recJ recs 0)).len0

/-- R179: FP32 or BF16 everywhere. CALC 1 and 2 break a duty and change nothing (R10). -/
def mergeBad (d : Line) (recs : List Line) : Bool :=
  cCalc d = 3 || 1 < fld d 4 0 5 || 1 < bitsOf (fldB d 4 2) 5 5 || 1 < bitsOf (fldB d 4 2) 10 5
    || cRecField d 1 % 4096 = 0xFFF
    || (List.range 3).any (fun j => 4095 < cRecField d j || recBad (recJ recs j) (j = 0))
    || (recOf (recJ recs 2)).bcast

def clauseBad (d : Line) (recs : List Line) : Bool :=
  fldB d 0 1 != 2 || fld d 1 6 2 != 0 || cOp d = 3
    || (if cOp d = 0 then clauseOpBad d recs else if cOp d = 1 then tableBad d else mergeBad d recs)

/-- The clause asks for what the feature word leaves out: MX formats, MERGE, EXP_HIST (R41, log 102). -/
def clauseAbsent (s : State) (d : Line) : Bool :=
  (!feature s featMX && cOp d = 0 && (fmtMX (cFmt0 d) || (cNeeds1 d && fmtMX (cFmt1 d)) || fmtMX (cFmtOut d)))
    || (!feature s featMerge && (cOp d = 2 || (cOp d = 0 && cRedOn d 0 && cRedOp d 0 = 0xC)))

/-! Rows (R149). -/

structure Row where
  r : Nat
  i1 : Nat
  i2 : Nat
  i3 : Nat
  i4 : Nat
  deriving DecidableEq, Repr

def rowCount (s : Rec) : Nat := s.len1 * s.len2 * s.len3 * s.len4
def rowOf (s : Rec) (r : Nat) : Row :=
  ⟨r, r % s.len1, r / s.len1 % s.len2, r / s.len1 / s.len2 % s.len3, r / s.len1 / s.len2 / s.len3⟩
def rowsOf (s : Rec) : List Row := (List.range (rowCount s)).map (rowOf s)

/-- Address of a row, of its scale row, of the part that i2 to i4 give. -/
def outerAddr (x : Rec) (w : Row) : Nat := x.addr + w.i2 * x.st2 + w.i3 * x.st3 + w.i4 * x.st4
def rowAddr (x : Rec) (w : Row) : Nat := outerAddr x w + w.i1 * x.st1
def scaleAddr (x : Rec) (w : Row) : Nat := x.saddr + w.r * x.sst

/-! Reading a source (R153, R155–R157). A value of INT32 mode stands as the number it is. -/

/-- The integer a value of INT32 mode stands for. -/
def cvInt : FV → Int
  | .fin s n e => fvAt s n e 0
  | _ => 0

/-- A decoded element, before the mode's rounding: FP32 in FP modes, an integer in INT32 mode (R156). `e` is its block's scale
code. -/
def decodeIn (int : Bool) (fmt e x : Nat) : FV :=
  if int then
    (if fmt = 0x10 ∨ fmt = 0x11 ∨ fmt = 0x12 then decElem fmt x
     else if fmt = 0x18 ∨ fmt = 0x19 then fvInt (if x = 0x80 then poison else sgn 8 x)
     else fvInt (toInt 32 (if fmtMX fmt then decMX fmt e x else decElem fmt x)).1)
  else if fmtMX fmt then rn (decMX fmt e x)
  else if fmt = 0x18 ∨ fmt = 0x19 then decConcord8 e x
  else rn (decElem fmt x)

/-- The value enters the chain (R155). -/
def enter (d : Line) (v : FV) : FV := if cBf d then rnBF16 v else v

/-- A source record in the accumulator buffer (R153). -/
def inAccBuffer (x : Rec) : Bool := 0x400000 ≤ x.addr && x.addr < 0x600000

/-- Elements of a packed stream of n elements at address a (R102, R104, R157): none for an absent one. -/
def streamElems (k : Core) (int : Bool) (fmt a sa n : Nat) (r : FV) : List FV :=
  let nb := cdiv n 32
  let scale := fun i => (memGet k.sram (sa + i / 32)).toNat
  if fmt = 0x19 then
    let cs := (decSparse nb (memRead k.sram a (36 * nb))).take n
    (cs.zip (List.range n)).map fun (c, i) =>
      match c with | some q => decodeIn int fmt (scale i) q | none => fvZero
  else
    let cs := (decConcordW nb (memRead k.sram a (97 * nb))).take n
    (cs.zip (List.range n)).map fun (q, i) => if int then fvInt q else decConcordWVal q (scale i) r

/-- Bytes of a packed stream of nb blocks. -/
def streamLen (k : Core) (fmt : Nat) : Nat → Nat → Nat
  | _, 0 => 0
  | a, nb + 1 =>
    let b := if fmt = 0x19 then 4 + ((List.range 32).filter fun i => (memNat k.sram a 4).testBit i).length
      else 1 + 4 * cwWidth (bitsOf (memGet k.sram a).toNat 0 2)
    b + streamLen k fmt (a + b) nb

/-- Element i of a row, before the mode's rounding. -/
def srcElem (k : Core) (d : Line) (x : Rec) (fmt : Nat) (w : Row) (i : Nat) : FV :=
  let int := cIsInt d
  if inAccBuffer x then
    let h := sramF32 k (rowAddr x w + 4 * i)
    let v := if x.tail = 0 then h else rnz (fvAdd h (sramF32 k (rowAddr x w + x.tail + 4 * i)))
    if int then fvInt (toInt 32 v).1 else v
  else
    decodeIn int fmt (memGet k.sram (scaleAddr x w + i / 32)).toNat (getElem (memGet k.sram) (rowAddr x w) (fmtBits fmt) i)

/-- Lanes lo to lo + n − 1 of a row of a source. -/
def srcLanes (k : Core) (d : Line) (x : Rec) (fmt : Nat) (w : Row) (lo n : Nat) : List FV :=
  let vs :=
    if fmtStream fmt && !inAccBuffer x then
      let es := streamElems k (cIsInt d) fmt (rowAddr x w) (scaleAddr x w) (if x.bcast then 1 else lo + n) (ofF32 (cImm d 7))
      if x.bcast then List.replicate n (es.headD fvZero) else es.drop lo
    else if x.bcast then List.replicate n (srcElem k d x fmt w 0)
    else (span lo n).map (srcElem k d x fmt w)
  vs.map (enter d)

/-- A range by what it holds, of which each lies in one memory (R84): of a source its elements 0, its scales 1, its tails 2; 3 more for
source 1; 6 the mask, 7 the destination's scales; written: 8 the destination's rows, 9 its scales, 10 and 11 the results of the reduce
lanes, 12 the count word. -/
abbrev Tagged := Nat × Range

/-- The ranges of each kind lie in one memory. -/
def rangesOk (rs : List Tagged) : Bool := (List.range 13).all fun g => oneMemory ((rs.filter fun r => r.1 = g).map (·.2))

/-- What a source read of those lanes touches: elements, tails and scales; `t` is the tag of the source's elements. -/
def srcReads (k : Core) (d : Line) (x : Rec) (fmt t : Nat) (w : Row) (lo n : Nat) : List Tagged :=
  let (lo, n) := if x.bcast then (0, min n 1) else (lo, n)
  if n = 0 then []
  else if inAccBuffer x then
    (t, rowAddr x w + 4 * lo, 4 * n) :: (if x.tail = 0 then [] else [(t + 2, rowAddr x w + x.tail + 4 * lo, 4 * n)])
  else
    let scaled := fmtMX fmt || (!cIsInt d && (fmt = 0x18 || fmtStream fmt))
    let scales : List Tagged := if scaled then [(t + 1, scaleAddr x w + lo / 32, cdiv (lo + n) 32 - lo / 32)] else []
    if fmtStream fmt then (t, rowAddr x w, streamLen k fmt (rowAddr x w) (cdiv (lo + n) 32)) :: scales
    else
      let b := fmtBits fmt
      (t, rowAddr x w + lo * b / 8, cdiv ((lo + n) * b) 8 - lo * b / 8) :: scales

/-! Arithmetic stages (Table 5-5). -/

/-- R161. -/
def limit161 (x : Int) : Int × Bool := limitInt (-2147483647) 2147483647 x

/-- 32-bit two's complement of an integer, as an integer. -/
def wrap32 (x : Nat) : Int := sgn 32 (x % 2 ^ 32)

def arithInt (op : Nat) (x b c : Int) : Int × Bool :=
  let p2 := x = poison || b = poison
  let p1 := x = poison
  let guarded := fun (p : Bool) (v : Int) => if p then (poison, false) else limit161 v
  if op = 1 then guarded p2 (x + b)
  else if op = 2 then guarded p2 (x - b)
  else if op = 3 then guarded p2 (b - x)
  else if op = 4 then guarded p2 (x * b)
  else if op = 6 then (max x b, false)
  else if op = 7 then (min x b, false)
  else if op = 8 then guarded p1 (x.natAbs : Int)
  else if op = 9 then guarded p1 (-x)
  else if op = 0xE then ((bit (decide (b < x)) : Nat), false)
  else if op = 0xF then ((bit (decide (x = b)) : Nat), false)
  else if op = 0x10 then (if x = 0 then c else b, false)
  else if op = 0x14 then (b, false)
  else if op = 0x18 then (wrap32 (unsgn 32 x &&& unsgn 32 b), false)
  else if op = 0x19 then (wrap32 (unsgn 32 x ||| unsgn 32 b), false)
  else if op = 0x1A then (wrap32 (unsgn 32 x ^^^ unsgn 32 b), false)
  else if op = 0x1B then (wrap32 (unsgn 32 x * 2 ^ (b % 32).toNat), false)
  else if op = 0x1C then (x / 2 ^ (b % 32).toNat, false)
  else (wrap32 (unsgn 32 x / 2 ^ (b % 32).toNat), false)

/-- R160: the larger and the smaller, NaN if either is. -/
def fvMax (a b : FV) : FV := if fvIsNan a || fvIsNan b then .nan else if fvBelow a b then b else a
def fvMin (a b : FV) : FV := if fvIsNan a || fvIsNan b then .nan else if fvBelow b a then b else a

def fvOne (b : Bool) : FV := if b then .fin false 1 0 else fvZero

def arithFp (bf : Bool) (op : Nat) (x b c : FV) : FV :=
  if op = 1 then rmode bf (fvAdd x b)
  else if op = 2 then rmode bf (fvSub x b)
  else if op = 3 then rmode bf (fvSub b x)
  else if op = 4 then rmode bf (fvMul x b)
  else if op = 5 then rmode bf (fvAdd (fvMul x b) c)
  else if op = 6 then fvMax x b
  else if op = 7 then fvMin x b
  else if op = 8 then fvAbs x
  else if op = 9 then fvNeg x
  else if op = 0xA then fvDiv bf (.fin false 1 0) x
  else if op = 0xB then fvSqrt bf x
  else if op = 0xC then fvRsqrt bf x
  else if op = 0xD then fvDiv bf x b
  else if op = 0xE then fvOne (fvLt b x)
  else if op = 0xF then fvOne (fvEq x b)
  else if op = 0x10 then (if fvIsZero x then c else b)
  else if op = 0x11 then fvExp bf x
  else if op = 0x12 then fvLn bf x
  else b

/-- An immediate as an operand (R159). -/
def immOperand (d : Line) (j : Nat) : FV := if cIsInt d then fvInt (sgn 32 (cImm d j)) else enter d (ofF32 (cImm d j))

/-- Stage j at one lane: value, and whether R161 limited it. -/
def arithLane (d : Line) (j : Nat) (x x0 x1 : FV) : FV × Bool :=
  let a := cArith d j
  let b := if aBsel a = 0 then immOperand d (aBimm a) else if aBsel a = 1 then x1 else x0
  let c := if aCsel a = 0 then immOperand d (aCimm a) else if aCsel a = 1 then x1 else x0
  if cIsInt d then
    let (v, l) := arithInt (aOp a) (cvInt x) (cvInt b) (cvInt c)
    (fvInt v, l)
  else (arithFp (cBf d) (aOp a) x b c, false)

/-- A1 to A4. -/
def arithChain (d : Line) (x x0 x1 : FV) : FV × Bool :=
  (List.range 4).foldl (fun v j =>
    if cEn d (1 + j) then (let (y, l) := arithLane d j v.1 x0 x1; (y, v.2 || l)) else v) (x, false)

/-- Table stages (R162, R163). -/
def tableStages (k : Core) (d : Line) (v x1 : FV) : FV :=
  let v := if cEn d 5 then (match k.ctab1 with | some t => rmode (cBf d) (tabEval t v) | none => v) else v
  if cEn d 6 then
    match k.ctab2 with
    | some t => if cT2Src d then rmode (cBf d) (fvMul v (tabEval t x1)) else rmode (cBf d) (tabEval t v)
    | none => v
  else v

/-! Masks (R164). -/

/-- The position whose bit of the mask tensor counts: with BCAST0 that of element 0 (R150). -/
def maskPos (mask : Rec) (c : Nat) : Nat := if mask.bcast then 0 else c

def lanePresent (k : Core) (d : Line) (mask : Rec) (w : Row) (c : Nat) (v : FV) : Bool :=
  if cMaskSrc d = 1 then
    (memGet k.sram (rowAddr mask w + maskPos mask c / 8)).getLsbD (maskPos mask c % 8)
  else if cMaskSrc d = 2 then decide ((c : Int) ≤ w.i1 + sgn 32 (cImm d (cMaskImm d)))
  else if cMaskSrc d = 3 then
    let t := ofF32 (cImm d (cMaskImm d))
    !fvIsNan v && !fvIsNan t && !fvLt (fvAbs v) t
  else true

/-! Reduce lanes (R166–R173). -/

/-- A lane that reaches the reduce stage: row, position, presence, value, element of source 1. -/
structure LaneVal where
  row : Row
  pos : Nat
  present : Bool
  v : FV
  x1 : FV
  deriving DecidableEq, Repr

/-- Consecutive values by vector; empty vectors left out (R167). -/
def byVector (ls : List LaneVal) : List (List LaneVal) :=
  let vs := (ls.map fun l => l.pos / 128).eraseDups
  vs.map fun v => ls.filter fun l => l.pos / 128 = v

def exactSum : List FV → FV
  | [] => fvZero
  | v :: vs => vs.foldl fvAdd v

/-- Terms added in order in an FP32 accumulator (R167, R171): each addition is rounded, and so is the term that starts the chain. -/
def chainSum : List FV → FV
  | [] => fvZero
  | v :: vs => vs.foldl (fun a t => rn (fvAdd a t)) (rn v)

/-- The sum rule of R167 over the present lanes of a row (axis 0) or of a lane position (axis 1), whose terms are exact. -/
def sumRule (axis : Nat) (term : LaneVal → FV) (ls : List LaneVal) : FV :=
  if axis = 0 then chainSum ((byVector ls).map fun g => rn (exactSum (g.map term))) else chainSum (ls.map term)

/-- INT32 SUM (R161, R167): the sum is limited after every element (DESIGN CHOICE, log 103). -/
def sumInt (ls : List LaneVal) : Int × Bool :=
  ls.foldl (fun a l =>
    if a.1 = poison || cvInt l.v = poison then (poison, a.2)
    else (let (x, b) := limit161 (a.1 + cvInt l.v); (x, a.2 || b))) (0, false)

/-- Position of the best value: the first NaN, else the lowest position of the best (R168). -/
def argBest (better : FV → FV → Bool) (pos : LaneVal → Nat) (ls : List LaneVal) : Nat :=
  match ls.find? fun l => fvIsNan l.v with
  | some l => pos l
  | none =>
    match ls with
    | [] => 0xFFFFFFFF
    | l :: r => pos (r.foldl (fun b x => if better x.v b.v then x else b) l)

def maxOf : List FV → FV
  | [] => .inf true
  | v :: vs => vs.foldl fvMax v
def minOf : List FV → FV
  | [] => .inf false
  | v :: vs => vs.foldl fvMin v

/-- The exponentials of R170 over the maximum m. -/
def expTerm (m : FV) (l : LaneVal) : FV := fvExp false (rn (fvSub l.v m))

def lse (ls : List LaneVal) : FV :=
  let m := maxOf (ls.map (·.v))
  if fvNonFinite m then m else rn (fvAdd m (fvLn false (sumRule 0 (expTerm m) ls)))

/-- SOFTMAX of a row: lanes not present give +0. -/
def softmaxRow (d : Line) (ls : List LaneVal) : List FV :=
  let ps := ls.filter (·.present)
  let m := maxOf (ps.map (·.v))
  let s := sumRule 0 (expTerm m) ps
  ls.map fun l => if !l.present then fvZero else if fvNonFinite m then .nan else enter d (fvDiv false (expTerm m l) s)

/-- The code that a lane operation writes (R168, R169, Table 5-7), whether R161 limited it, whether it is a NaN or an infinity. In BF16
mode too it is the FP32 value as computed: R168 has it written as FP32 in all modes (DEDUCED, log 103). -/
def reduceCode (d : Line) (op : Nat) (ls : List LaneVal) : Nat × Bool × Bool :=
  let axis := cRedAxis d
  let pos := fun (l : LaneVal) => if axis = 0 then l.pos else l.row.i1
  let fp := fun (v : FV) => (toF32 v, false, fvNonFinite v)
  let raw := fun (n : Nat) => (n % 2 ^ 32, false, false)
  if op = 6 then raw ls.length
  else if op = 4 then raw (argBest (fun a b => fvBelow b a) pos ls)
  else if op = 5 then raw (argBest fvBelow pos ls)
  else if cIsInt d then
    (if op = 0 then (let (x, l) := sumInt ls; (unsgn 32 x, l, false))
     else if op = 2 then raw (if ls.isEmpty then 0x80000000 else unsgn 32 (cvInt (maxOf (ls.map (·.v)))))
     else raw (if ls.isEmpty then 0x7FFFFFFF else unsgn 32 (cvInt (minOf (ls.map (·.v))))))
  else if op = 0 then fp (sumRule axis (·.v) ls)
  else if op = 1 then fp (ls.foldl (fun a l => rn (fvMul a l.v)) (.fin false 1 0))
  else if op = 2 then fp (maxOf (ls.map (·.v)))
  else if op = 3 then fp (minOf (ls.map (·.v)))
  else if op = 7 then fp (if ls.isEmpty then .nan else fvDiv false (sumRule axis (·.v) ls) (fvInt ls.length))
  else if op = 8 then fp (sumRule axis (fun l => fvMul l.v l.v) ls)
  else if op = 9 then fp (sumRule axis (fun l => fvMul l.v l.x1) ls)
  else fp (lse ls)

/-- EXP_HIST (R173). -/
def expHist (ls : List LaneVal) : List Byte :=
  let bins := (ls.filter (·.present)).map fun l => bitsOf (toF32 l.v) 23 8
  (List.range 256).flatMap fun b => leBytes 4 (min 0xFFFFFFFF (bins.filter (· = b)).length)

/-- Writes of reduce lane l at the end: (address, bytes), limited, non-finite. -/
def laneResults (d : Line) (src red : Rec) (l : Nat) (ls : List LaneVal) : List (Nat × List Byte × Bool × Bool) :=
  let op := cRedOp d l
  let one := fun (w : Row) (a : Nat) (p : LaneVal → Bool) =>
    let (c, lim, nf) := reduceCode d op (ls.filter fun x => x.present && p x)
    (if cRedAxis d = 0 then rowAddr { red with st1 := 4 } w else a, leBytes 4 c, lim, nf)
  if !cRedOn d l || op = 0xA then []
  else if op = 0xC then [(red.addr, expHist ls, false, false)]
  else if cRedAxis d = 0 then (rowsOf src).map fun w => one w 0 fun x => x.row = w
  else
    ((rowsOf src).filter fun w => w.i1 = 0).flatMap fun w => (List.range src.len0).map fun c =>
      one w (outerAddr red w + 4 * c) fun x => x.pos = c && x.row.i2 = w.i2 && x.row.i3 = w.i3 && x.row.i4 = w.i4

/-! Permutation (R174, R175). -/

/-- The source position of destination j in a vector or group of length n. -/
def permSource (d : Line) (table : List Byte) (n j : Nat) : Nat :=
  let k := (sgn 32 (cImm d (cPermImm d)) % 128).toNat
  if cPermMode d = 0 then (table.getD j 0).toNat
  else if cPermMode d = 1 then (j + k) % 128
  else if cPermMode d = 2 then n - 1 - j
  else k

def permute {α : Type} (d : Line) (table : List Byte) (zero : α) (vs : List α) : List α :=
  (List.range vs.length).map fun j => vs.getD (permSource d table vs.length j) zero

/-- Each vector of a row's values, permuted. -/
def permuteRow (d : Line) (table : List Byte) : Nat → List FV → List FV
  | 0, _ => []
  | n + 1, vs => if vs.isEmpty then [] else permute d table fvZero (vs.take 128) ++ permuteRow d table n (vs.drop 128)

/-! Convert-out and write (R176–R178). -/

/-- What one row part writes: (address, bytes) of elements and of scales, whether a value was limited, bytes of a sparse stream. -/
structure OutPart where
  writes : List (Nat × List Byte)
  scales : List (Nat × List Byte)
  limited : Bool
  sparse : Nat
  deriving DecidableEq, Repr

/-- A Concord-8 code: in INT32 mode the integer itself (R176). -/
def concord8Out (int : Bool) (e : Nat) (v : FV) : Nat × Bool :=
  if int then
    (if cvInt v = poison then (0x80, false) else (let (x, l) := limitInt (-127) 127 (cvInt v); (unsgn 8 x, l)))
  else encConcord8 e v

/-- A code of a format that is not written by whole blocks. -/
def plainOut (int : Bool) (fmt : Nat) (v : FV) : Nat × Bool :=
  if int then
    (if fmtBits fmt != 0 && (fmt = 0x10 || fmt = 0x11 || fmt = 0x12) then
       (let b := fmtBits fmt
        let (x, l) := limitInt (-(2 ^ (b - 1) : Int)) (2 ^ (b - 1) - 1) (cvInt v); (unsgn b x, l))
     else encElem fmt (rn v))
  else encElem fmt v

/-- Bytes of a row part with kept lanes left as they are: runs of bytes that hold written lanes (R178). The other half of a last byte
with one 4-bit element and nothing else is free (log 3). -/
def plainBytes (k : Core) (free : Nat) (fmt a : Nat) (codes : List (Nat × Bool)) (rowEnd : Bool) : List (Nat × List Byte) :=
  let b := fmtBits fmt
  if 8 ≤ b then
    let n := b / 8
    ((codes.zip (List.range codes.length)).filter fun c => c.1.2).map fun (c, i) => (a + n * i, leBytes n c.1)
  else
    (List.range (cdiv codes.length 2)).filterMap fun i =>
      let lo := codes.getD (2 * i) (0, false)
      let old := (memGet k.sram (a + i)).toNat
      let hi := match codes[2 * i + 1]? with
        | some c => c
        | none => ((Config.padNibble free (a + i)).toNat, rowEnd && lo.2)
      if lo.2 || hi.2 then
        some (a + i, [BitVec.ofNat 8 ((if lo.2 then lo.1 else old % 16) + 16 * (if hi.2 then hi.1 else old / 16))])
      else none

/-- Convert-out and write of lanes lo and up of a row: `vs` the values after permute, `ps` the presence (R165). A dense Concord-8 row ends
with its last block, a packed stream with zero bytes up to a multiple of 64 (DESIGN CHOICE between R102, R104 and R178, log 103). -/
def outPart (k : Core) (d : Line) (free : Nat) (dst : Rec) (w : Row) (lo : Nat) (vs : List FV) (ps : List Bool) : OutPart :=
  let int := cIsInt d
  let fmt := cFmtOut d
  let masked := cEn d 10
  let lanes := vs.zip ps
  let vals := lanes.map fun l => if masked && !l.2 then fvZero else l.1
  let a := rowAddr dst w
  let sa := scaleAddr dst w + lo / 32
  let scale := fun i => (memGet k.sram (sa + i / 32)).toNat
  let pad := fun (bl : List FV) => bl ++ List.replicate (32 - bl.length) fvZero
  let on := cEn d 12
  if fmtMX fmt then
    let (es, ss, l) := encodeRow fmt (if int then vals.map rn else vals)
    ⟨if on then [(a + lo * fmtBits fmt / 8, es)] else [], if on then [(sa, ss)] else [], l, 0⟩
  else if fmt = 0x18 then
    let cs := (vals.zip (List.range vals.length)).map fun (v, i) => concord8Out int (scale i) v
    let bs := cs.map fun c => BitVec.ofNat 8 c.1
    ⟨if on then [(a + lo, padTo 32 bs)] else [], [], cs.any (·.2), 0⟩
  else if fmt = 0x19 then
    let cs := (lanes.zip (List.range lanes.length)).map fun (l, i) =>
      let bad := if int then decide (cvInt l.1 = poison) else fvNonFinite l.1
      if masked && !l.2 && !bad then (none, false) else (let (c, b) := concord8Out int (scale i) l.1; (some c, b))
    let bytes := padTo 64 (encSparse ((List.range (cdiv cs.length 32)).map fun b => ((cs.drop (32 * b)).take 32).map (·.1)))
    ⟨if on then [(a, bytes)] else [], [], cs.any (·.2), bytes.length⟩
  else if fmt = 0x1A then
    let bl := (blocks32 (vals.length + 1) vals).map fun b => encConcordWBlock ((pad b).map cvInt)
    ⟨if on then [(a, padTo 64 (bl.flatMap (·.1)))] else [], [], bl.any (·.2), 0⟩
  else
    let cs := (vals.map (plainOut int fmt)).zip ps
    let ws := cs.map fun (c, p) => (c.1, !masked || p || cMaskMode d = 1)
    ⟨if on then plainBytes k free fmt (a + lo * fmtBits fmt / 8) ws true else [], [], cs.any fun (c, p) => c.2 && (!masked || p), 0⟩

/-! The pass. -/

/-- A part of a row: lanes lo to lo + n − 1. -/
structure Part where
  row : Row
  lo : Nat
  n : Nat
  deriving DecidableEq, Repr

/-- Parts in the order the clause visits them, those that are read before any of them is written together: a vector; a row where the row
buffer or a packed stream holds the row; a group of rows under a permute along axis 1 (R149, R154, R170, R174). -/
def parts (d : Line) (src : Rec) : List (List Part) :=
  let n := src.len0
  let rows := rowsOf src
  if cEn d 9 && cPermAxis d = 1 then
    ((rows.filter fun w => w.i1 % 128 = 0).map fun w =>
      (rows.filter fun x => x.i1 / 128 = w.i1 / 128 && x.i2 = w.i2 && x.i3 = w.i3 && x.i4 = w.i4).map fun x => ⟨x, 0, n⟩)
  else if cSoftmax d || cLse d || fmtStream (cFmt0 d) || (cNeeds1 d && fmtStream (cFmt1 d)) || fmtStream (cFmtOut d) then
    rows.map fun w => [⟨w, 0, n⟩]
  else rows.flatMap fun w => (List.range (cdiv n 128)).map fun v => [⟨w, 128 * v, min 128 (n - 128 * v)⟩]

/-- What the pass has done: the SRAM so far, its writes, the ranges that it read and wrote, lanes at the reduce stage, CLAUSE_STAT's
bits, sparse bytes. -/
structure Pass where
  now : Core
  writes : List (Nat × List Byte)
  reads : List Tagged
  wrote : List Tagged
  lanes : List LaneVal
  limited : Bool
  nonfinite : Bool
  sparse : Nat
  deriving DecidableEq, Repr

/-- The ranges of writes. -/
def writeRanges (ws : List (Nat × List Byte)) : List Range := ws.map fun w => (w.1, w.2.length)

def tagAll (t : Nat) (rs : List Range) : List Tagged := rs.map fun r => (t, r)

/-- The 64-byte lines that writes touch. -/
def writeLinesOf (ws : List (Nat × List Byte)) : List Nat :=
  (ws.flatMap fun w => (span (w.1 / 64) (cdiv (w.1 % 64 + w.2.length) 64)).map (64 * ·)).eraseDups

/-- Source and destination coincide exactly: same address, strides and element width (R154). -/
def coincide (d : Line) (x dst : Rec) (fmt : Nat) : Bool :=
  x.addr = dst.addr && x.st1 = dst.st1 && x.st2 = dst.st2 && x.st3 = dst.st3 && x.st4 = dst.st4 &&
    fmtBits (if inAccBuffer x then 0 else fmt) = fmtBits (cFmtOut d)

/-- The SRAM that a source read finds: as before the clause where the ranges coincide; else, for each line that the clause has written
by now, as before or as written (R60, R154): which is free (log 3). -/
def viewOf (before : Core) (p : Pass) (free : Nat) (same : Bool) : Core :=
  if same then before
  else
    { before with sram := (writeLinesOf p.writes).foldl (fun m l =>
        if Config.readsNew free p.writes.length l then memWrite m l (memRead p.now.sram l 64) else m) before.sram }

/-- One unit of parts through all stages. -/
def passUnit (k : Core) (d : Line) (recs : List Line) (free : Nat) (p : Pass) (us : List Part) : Pass :=
  let src := recOf (recJ recs 0)
  let src1 := recOf (recJ recs 1)
  let dst := recOf (recJ recs 2)
  let mask := recOf (recJ recs 3)
  let table := lineBytes (recJ recs 6) ++ lineBytes (recJ recs 7)
  let v0 := viewOf k p free (coincide d src dst (cFmt0 d))
  let v1 := viewOf k p free (coincide d src1 dst (cFmt1 d))
  let vm := viewOf k p free false
  let staged : List (List LaneVal × Bool) := us.map fun u =>
    let x0 := srcLanes v0 d src (cFmt0 d) u.row u.lo u.n
    let x1 := if cNeeds1 d then srcLanes v1 d src1 (cFmt1 d) u.row u.lo u.n else List.replicate u.n fvZero
    let ys := (x0.zip x1).map fun (a, b) =>
      let (v, l) := arithChain d a a b
      (tableStages k d v b, l)
    let lanes := ((ys.zip x1).zip (span u.lo u.n)).map fun ((y, b), c) =>
      (⟨u.row, c, lanePresent vm d mask u.row c y.1, y.1, b⟩ : LaneVal)
    (lanes, ys.any (·.2))
  let vals : List (List FV) := staged.map fun st => if cSoftmax d then softmaxRow d st.1 else st.1.map (·.v)
  let vals : List (List FV) := if !cEn d 9 then vals
    else if cPermAxis d = 0 then vals.map fun vs => permuteRow d table (vs.length + 1) vs
    else permute d table (List.replicate src.len0 fvZero) vals
  let outs := ((us.zip staged).zip vals).map fun ((u, st), vs) =>
    outPart p.now d free dst u.row u.lo vs (st.1.map LaneVal.present)
  let nonfin := !cIsInt d && (staged.zip vals).any fun (st, vs) =>
    (vs.zip st.1).any fun (v, l) => fvNonFinite v && (!cEn d 10 || LaneVal.present l || cFmtOut d = 0x19)
  let ws := outs.flatMap fun o => o.writes ++ o.scales
  { now := sramWrites p.now ws
    writes := p.writes ++ ws
    reads := p.reads ++ us.flatMap (fun u => srcReads v0 d src (cFmt0 d) 0 u.row u.lo u.n)
      ++ (if cNeeds1 d then us.flatMap fun u => srcReads v1 d src1 (cFmt1 d) 3 u.row u.lo u.n else [])
      ++ (if cUses d 3 then us.map fun u =>
            let lo := maskPos mask u.lo
            (6, rowAddr mask u.row + lo / 8, cdiv (if mask.bcast then min 1 u.n else u.lo + u.n) 8 - lo / 8) else [])
      ++ (if !cIsInt d && (cFmtOut d = 0x18 || cFmtOut d = 0x19) then
            us.map fun u => (7, scaleAddr dst u.row + u.lo / 32, cdiv (u.lo + u.n) 32 - u.lo / 32) else [])
    wrote := p.wrote ++ tagAll 8 (writeRanges (outs.flatMap (·.writes))) ++ tagAll 9 (writeRanges (outs.flatMap (·.scales)))
    lanes := p.lanes ++ if cReduces d then staged.flatMap (·.1) else []
    limited := p.limited || staged.any (·.2) || outs.any (·.limited)
    nonfinite := p.nonfinite || nonfin
    sparse := p.sparse + (outs.map (·.sparse)).foldl (· + ·) 0 }

/-- The whole pass, and the results that its end writes: reduce lanes, histogram, count word (R172, R173, R177). A clause whose LEN1 to
LEN4 hold a 0 has no rows (R152). -/
def clausePass (k : Core) (d : Line) (recs : List Line) (free : Nat) : Pass :=
  let src := recOf (recJ recs 0)
  let p0 : Pass := ⟨k, [], [], [], [], false, false, 0⟩
  let p := if rowCount src = 0 || src.len0 = 0 then p0 else (parts d src).foldl (passUnit k d recs free) p0
  let lane := fun (l : Nat) => if rowCount src = 0 then [] else laneResults d src (recOf (recJ recs (4 + l))) l p.lanes
  let res := lane 0 ++ lane 1
  let bytes := fun (rs : List (Nat × List Byte × Bool × Bool)) => rs.map fun r => (r.1, r.2.1)
  let count := if cFmtOut d = 0x19 && cEn d 12 && rowCount src != 0 then
    [((recOf (recJ recs 2)).count, leBytes 4 p.sparse)] else []
  let ws := bytes res ++ count
  { p with
    now := sramWrites p.now ws
    writes := p.writes ++ ws
    wrote := p.wrote ++ tagAll 10 (writeRanges (bytes (lane 0))) ++ tagAll 11 (writeRanges (bytes (lane 1))) ++ tagAll 12 (writeRanges count)
    limited := p.limited || res.any (·.2.2.1)
    nonfinite := p.nonfinite || res.any (·.2.2.2) }

/-- CLAUSE_STAT bits 3:2. -/
def clauseStatBits (limited nonfinite : Bool) : Reg := reg (4 * bit limited + 8 * bit nonfinite)

/-- The clause has written everything (R181). -/
def clauseFinish (k : Core) (d : Line) (p : Pass) : Core :=
  let absent := cOp d = 0 && ((cEn d 5 && k.ctab1.isNone) || (cEn d 6 && k.ctab2.isNone))
  let k1 := sramTouches k (p.reads.map (·.2))
  let k1 := if absent then coreErr k1 errClTable else k1
  let k1 := { k1 with
    sram := p.now.sram
    badWords := p.now.badWords
    clauseStat := clauseStatBits p.limited p.nonfinite
    sparseBytes := if cOp d = 0 && cFmtOut d = 0x19 && cEn d 12 then p.sparse else k1.sparseBytes }
  let g := engineOf k1 1
  setEngine k1 1 { g with run := g.run.map fun r => { r with phase := .ready, writes := writeRanges p.writes } }

def isClause (d : Line) : Bool := cOp d = 0
def isClTable (d : Line) : Bool := cOp d = 1
def isMerge (d : Line) : Bool := cOp d = 2

/-- What a finished pass of clause or MERGE comes to: an undefined case, or its writes. -/
def landPass (s : State) (c : Nat) (k : Core) (r : Run) (p : Pass) : Host.Outcome State Fault Refusal :=
  if !rangesOk (p.reads ++ p.wrote) then undefinedCase .sramRange s
  else if touchesDrainSlot k (writeRanges p.writes) then undefinedCase .drainSlotWrite s
  else if writesClash s c 1 r.entry.seen (writeRanges p.writes) then undefinedCase .writeOverlap s
  else .next (useFree (setCore s c (clauseFinish k r.entry.desc p)))

/-- R146–R178, R181: one pass of the stage chain. -/
def execClause (c : Fin 576) (s : State) : Host.Outcome State Fault Refusal :=
  engineRow s c 1 .work isClause fun k r =>
    if redPermuteOneAxis r.entry.desc then undefinedCase .reducePermute s
    else landPass s c k r (clausePass k r.entry.desc r.recs s.freeCtr)

/-- R163: a table of the clause engine. -/
def execClauseTableLoad (c : Fin 576) (s : State) : Host.Outcome State Fault Refusal :=
  engineRow s c 1 .work isClTable fun k r =>
    let a := tableAddr r.entry.desc
    let t := some (memRead k.sram a 8256)
    let k := sramTouch k a 8256
    .next (setCore s c (setPhase (if fldB r.entry.desc 2 1 = 1 then { k with ctab1 := t } else { k with ctab2 := t }) 1 .ready))

/-! MERGE (R179, R180). -/

/-- A triple row: m, s, v. -/
structure Triple where
  m : FV
  s : FV
  v : List FV
  deriving DecidableEq, Repr

/-- The format of a MERGE source's elements: FP32 in the accumulator buffer (R153). -/
def mergeFmt (x : Rec) (fmt : Nat) : Nat := if inAccBuffer x then 0 else fmt

/-- A source row of MERGE. In the accumulator buffer an element of v is formed from its head and its tail (R153); m and s are no
elements (DESIGN CHOICE, log 103). -/
def tripleAt (k : Core) (x : Rec) (fmt : Nat) (w : Row) (n : Nat) : Triple :=
  let a := rowAddr x w
  let elem := fun i =>
    if inAccBuffer x && x.tail != 0 then rnz (fvAdd (sramF32 k (a + 64 + 4 * i)) (sramF32 k (a + x.tail + 64 + 4 * i)))
    else rn (decElem (mergeFmt x fmt) (getElem (memGet k.sram) (a + 64) (fmtBits (mergeFmt x fmt)) i))
  ⟨sramF32 k a, sramF32 k (a + 4), if x.bcast then List.replicate n (elem 0) else (List.range n).map elem⟩

def mergeWeight (mi m : FV) : FV := if mi = .inf true then fvZero else fvExp false (rn (fvSub mi m))

def mergeTriples (x y : Triple) : Triple :=
  let m := fvMax x.m y.m
  let a := mergeWeight x.m m
  let b := mergeWeight y.m m
  let mix := fun (p q : FV) => rn (fvAdd (rn (fvMul p a)) (rn (fvMul q b)))
  ⟨m, mix x.s y.s, List.zipWith mix x.v y.v⟩

/-- What MERGE reads of a source row: header and elements, of which a BCAST0 source has one; tails. -/
def mergeReads (x : Rec) (fmt t : Nat) (w : Row) (n : Nat) : List Tagged :=
  let n := if x.bcast then min n 1 else n
  (t, rowAddr x w, 64 + rowBytes (mergeFmt x fmt) n)
    :: (if inAccBuffer x && x.tail != 0 then [(t + 2, rowAddr x w + x.tail + 64, 4 * n)] else [])

/-- The bytes of a merged row and its values: a triple row, whose reserved bytes are zero (log 13), or with FINAL the quotients. -/
def mergeRow (d : Line) (t : Triple) : List FV × List Byte :=
  let fmt := bitsOf (fldB d 4 2) 10 5
  let v := if cFinal d then t.v.map fun x => if fvIsZero t.s then fvZero else fvDiv false x t.s else t.v
  let body := packCodes (fmtBits fmt) (v.map fun x => (encElem fmt x).1)
  (v, if cFinal d then body else f32Bytes [t.m, t.s] ++ List.replicate 56 0 ++ body)

def mergeUnit (k : Core) (d : Line) (recs : List Line) (free : Nat) (p : Pass) (w : Row) : Pass :=
  let src := recOf (recJ recs 0)
  let src1 := recOf (recJ recs 1)
  let dst := recOf (recJ recs 2)
  let f0 := fld d 4 0 5
  let f1 := bitsOf (fldB d 4 2) 5 5
  let n := src.len0
  let same := fun (x : Rec) (fmt : Nat) =>
    x.addr = dst.addr && x.st1 = dst.st1 && x.st2 = dst.st2 && x.st3 = dst.st3 && x.st4 = dst.st4 &&
      fmtBits (mergeFmt x fmt) = fmtBits (bitsOf (fldB d 4 2) 10 5) && !cFinal d
  let v0 := viewOf k p free (same src f0)
  let v1 := viewOf k p free (same src1 f1)
  let (vs, bs) := mergeRow d (mergeTriples (tripleAt v0 src f0 w n) (tripleAt v1 src1 f1 w n))
  let ws := [(rowAddr dst w, bs)]
  { p with
    now := sramWrites p.now ws
    writes := p.writes ++ ws
    reads := p.reads ++ mergeReads src f0 0 w n ++ mergeReads src1 f1 3 w n
    wrote := p.wrote ++ tagAll 8 (writeRanges ws)
    nonfinite := p.nonfinite || vs.any fvNonFinite }

def execMerge (c : Fin 576) (s : State) : Host.Outcome State Fault Refusal :=
  engineRow s c 1 .work isMerge fun k r =>
    let d := r.entry.desc
    landPass s c k r ((rowsOf (recOf (recJ r.recs 0))).foldl (mergeUnit k d r.recs s.freeCtr) ⟨k, [], [], [], [], false, false, 0⟩)

end Sys2Proof.Machine
end

