-- ==== Sys2Proof/Machine/Frames.lean ====
section
/-! DEFINITION. Frames of the strait ports as they stand on the line (R241–R243, Tables 8-2, 8-3): header, payload area, CRC, start
marker, blocks. -/

namespace Sys2Proof.Machine

/-- Bytes of the payload area of a SIZE code; 0 for a control frame or a reserved code (Table 8-2). -/
def sizeBytes (code : Nat) : Nat := if 1 ≤ code ∧ code ≤ 5 then 128 * 2 ^ code else 0

/-- Frame types of Table 8-3 and of the tide and barrier frames. -/
def knownType (t : Nat) : Bool := t = 1 || t = 2 || t = 3 || t = 4 || t = 8 || t = 9 || (0x10 ≤ t && t ≤ 0x14)

/-- The 32-byte header (Table 8-2). -/
def headerBytes (f : Frame) : List Byte :=
  [f.typ, f.flags] ++ leBytes 2 f.jobTag.toNat ++ leBytes 2 f.flow.toNat ++ leBytes 4 f.seq.toNat ++ leBytes 2 f.valid.toNat
    ++ [f.size, f.destSem] ++ leBytes 2 f.destN.toNat ++ leBytes 8 f.stamp.toNat ++ leBytes 8 f.destAddr.toNat

/-- The CRC of a frame: over its header and its payload area or body (R243). -/
def frameCrc (f : Frame) : Reg := crc32c (headerBytes f ++ f.body)

/-- A frame with its CRC attached (R243). -/
def sealFrame (f : Frame) : Frame := { f with crc := frameCrc f }

/-- Bytes between header and CRC: a payload area, or a control frame's body (R242). -/
def frameArea (f : Frame) : Nat := if f.size = 0 then 20 else sizeBytes f.size.toNat

/-- The frame has the layout of R242 and its CRC passes (R243): a frame without that layout has no CRC where it is looked for
(DEDUCED, log 104). -/
def frameGood (f : Frame) : Bool :=
  decide (f.size.toNat ≤ 5) && (!knownType f.typ.toNat || (decide (f.size = 0) != decide (f.typ = 1)))
    && decide (f.body.length = frameArea f) && decide (f.crc = frameCrc f)

/-- The payload bytes that count: those beyond VALID are discarded (R242). -/
def payload (f : Frame) : List Byte := f.body.take f.valid.toNat

/-- The start marker (R241). -/
def startMarker : List Byte := [0x5A, 0xA5, 0x5A, 0xA5, 0x3C, 0xC3, 0x3C, 0xC3]

/-- A frame on the line: its marker, its bytes, its CRC, zero bytes to the end of its last block (R241–R243). -/
def frameLine (f : Frame) : List Byte := padTo 64 (startMarker ++ headerBytes f ++ f.body ++ leBytes 4 f.crc.toNat)

/-- What stands at a block boundary: a frame's marker, or an idle block of 64 zero bytes (R241). -/
def boundaryGood (block : List Byte) : Bool := block.take 8 = startMarker || block.all (· = 0)

end Sys2Proof.Machine
end

