-- ==== Sys2Proof/Machine/Memory.lean ====
section
/-! DEFINITION. Package memory, its error code and its controllers (07): line reads and writes, write-backs, scrub, wipe, stack
training and failure, digest units. -/

namespace Sys2Proof.Machine

/-- Package memory ends here (Table 7-1). -/
def memTop : Nat := 0x024000000000

/-- A range lies wholly in package memory. -/
def inMem (a n : Nat) : Bool := a + n ≤ memTop

/-- Isle, page and controller of a package memory address (R209). -/
def isleOf (p : Nat) : Nat := p / 0x9000000000
def pageOf (p : Nat) : Nat := (p - isleOf p * 0x9000000000) / 4096
def stackIdx (p : Nat) : Nat := 6 * isleOf p + pageOf p % 6
def localAddr (p : Nat) : Nat := pageOf p / 6 * 4096 + (p - isleOf p * 0x9000000000) % 4096
/-- Pseudo-channel, channel and half of a stack-local address (R209). -/
def pseudoChannel (a : Nat) : Nat := bitsOf a 6 6 ^^^ bitsOf a 12 6
def channelOf (a : Nat) : Nat := pseudoChannel a / 2
def halfOf (a : Nat) : Nat := pseudoChannel a % 2

/-- The package memory address of a stack-local address of controller s: the inverse of R209. -/
def globalAddr (s a : Nat) : Nat := s / 6 * 0x9000000000 + (a / 4096 * 6 + s % 6) * 4096 + a % 4096

/-- A saturating 32-bit counter (R9). -/
def sat32 (x : Nat) : Nat := min 0xFFFFFFFF x

/-- One symbol of a pattern changes by an exclusive-or. -/
def upsetSym (p : List (Nat × Byte)) (i : Nat) (x : Byte) : List (Nat × Byte) := tblMod 0 p i (fun y => y ^^^ x)

/-- A pattern that new wrong symbols join; symbols 0–71 exist. -/
def upsetLine (p : List (Nat × Byte)) (ys : List (Nat × Byte)) : List (Nat × Byte) :=
  ys.foldl (fun p y => if y.1 < 72 then upsetSym p y.1 y.2 else p) p

/-- New wrong symbols join the patterns of their lines. -/
def addUpset (s : State) (u : Upset) : State :=
  let a := u.addr / 64 * 64
  if inMem a 64 then
    { s with memory := { s.memory with upset := tblMod [] s.memory.upset a (upsetLine · u.syms) } }
  else s

def addUpsets (s : State) (us : List Upset) : State := us.foldl addUpset s

/-- A line's bytes with a pattern left in them. -/
def withPattern (bs : List Byte) (p : List (Nat × Byte)) : List Byte :=
  (bs.zip (List.range bs.length)).map fun (b, i) => b ^^^ tblGet 0 p i

/-- A pattern that is a codeword of R211: a line with it is a valid codeword again. -/
def patternValid (p : List (Nat × Byte)) : Bool :=
  decide (rsCheck ((List.range 64).map (tblGet 0 p)) = (span 64 8).map (tblGet 0 p))

/-- What the decoder makes of a line (R212): the bytes delivered, whether it corrected, whether the error is uncorrectable. A valid
codeword shows no error. Beyond 4 symbols the outcome is else Config.eccMiss (log 3). -/
def decodeLine (bs : List Byte) (p : List (Nat × Byte)) : List Byte × Bool × Bool :=
  if p.isEmpty then (bs, false, false)
  else if p.length ≤ 4 then (bs, true, false)
  else if patternValid p then (withPattern bs p, false, false)
  else match Config.eccMiss p with
    | none => (withPattern bs p, false, true)
    | some q => (withPattern bs q, true, false)

/-- Who reads: a read by the package faults the step (R214); reads of the host, of JTAG and of the scrub do not. A read at an
evaluation faults its step. -/
inductive Reader where
  | package | host | step (n : Nat)
  deriving DecidableEq, Repr

def memFault (s : State) : Reader → State
  | .package => faultNow s 1
  | .host => s
  | .step n => faultAt s n 1

/-- An uncorrectable read at P of stack i: counted, recorded, reported (R213, R214, R216). -/
def countUe (s : State) (p : Nat) (r : Reader) : State :=
  let t := modStack s (stackIdx p) fun k => { k with ue := sat32 (k.ue + 1), ueAddr := p, ueValid := true }
  setSupEvent (memFault t r) 3

/-- A read of the line at P (R213). -/
def readLine (s : State) (p : Nat) (r : Reader) : State × List Byte :=
  if (stackOf s (stackIdx p)).state = 2 then (countUe s p r, List.replicate 64 0)
  else
    let (bs, ce, ue) := decodeLine (memRead s.memory.data p 64) (tblGet [] s.memory.upset p)
    if ue then (countUe s p r, bs)
    else if ce then
      let t := modStack s (stackIdx p) fun k => { k with ce := sat32 (k.ce + 1) }
      ({ t with memory := { t.memory with
          writeBack := if t.memory.writeBack.any (·.1 = p) then t.memory.writeBack else t.memory.writeBack ++ [(p, bs)] } }, bs)
    else (s, bs)

/-- Reads of `n` consecutive lines from P. -/
def readLines : State → Nat → Nat → Reader → State × List Byte
  | s, _, 0, _ => (s, [])
  | s, p, n + 1, r =>
    let (s, a) := readLine s p r
    let (s, b) := readLines s (p + 64) n r
    (s, a ++ b)

/-- A read of any range: the lines that hold it. -/
def readRange (s : State) (p n : Nat) (r : Reader) : State × List Byte :=
  let a := p / 64 * 64
  let (s, bs) := readLines s a (cdiv (p + n - a) 64) r
  (s, (bs.drop (p - a)).take n)

/-- The digest regions that take a line write (R225). -/
def digestLine (m : Memory) (p : Nat) (bs : List Byte) : Memory :=
  let hit := m.digests.filter fun d => d.2.en && decide (d.2.base ≤ p) && decide (p < d.2.last)
  if hit.isEmpty then m
  else
    let h := leNat (shake256 (leBytes 8 p ++ bs))
    { m with digests := hit.foldl (fun ds d => tblSet digestReset ds d.1
        { d.2 with sums := tblMod 0 d.2.sums (stackIdx p) fun x => (x + h) % 2 ^ 256 }) m.digests }

/-- The bytes of a line in package memory, without errors: what a write leaves (R210, R213). -/
def putLine (m : Memory) (p : Nat) (bs : List Byte) : Memory :=
  { m with data := memWrite m.data p bs, upset := tblErase m.upset p, writeBack := m.writeBack.filter (·.1 != p) }

/-- A controller accepts a write of the line at P. A failed stack discards it (R205). -/
def writeLine (s : State) (p : Nat) (bs : List Byte) (counted : Bool) : State :=
  let m := if counted then digestLine s.memory p bs else s.memory
  { s with memory := if (stackOf s (stackIdx p)).state = 2 then m else putLine m p bs }

/-- Writes of consecutive lines. -/
def writeLines (s : State) (p : Nat) (bs : List Byte) (counted : Bool) : State :=
  (((chunks 64 (bs.length + 1) bs).zip (List.range (bs.length + 1)))).foldl
    (fun s l => writeLine s (p + 64 * l.2) (padTo 64 l.1) counted) s

/-- A line with bytes merged into it at `p`. -/
def mergedLine (old : List Byte) (p : Nat) (bs : List Byte) : List Byte := old.take (p % 64) ++ bs ++ old.drop (p % 64 + bs.length)

/-- A write of part of a line: read, merge, write (R194, R421). -/
def mergeLine (s : State) (p : Nat) (bs : List Byte) (counted : Bool) (r : Reader) : State :=
  let a := p / 64 * 64
  let (s, old) := readLine s a r
  writeLine s a (old.take (p - a) ++ bs ++ old.drop (p - a + bs.length)) counted

/-- The first access of a short window write: the line is read, and the merged line waits for its write (R421). -/
def mergeRead (s : State) (p : Nat) (bs : List Byte) : State :=
  let (t, old) := readLine s (p / 64 * 64) .host
  { t with memory := { t.memory with merging := some (p / 64 * 64, mergedLine old p bs) } }

/-- The second access of a short window write, if one is to come: the merged line is written, and what an engine has written of that line
meanwhile is lost (R421). -/
def landMerge (s : State) : State :=
  match s.memory.merging with
  | none => s
  | some (p, bs) =>
    let t := { s with memory := { s.memory with merging := none } }
    if memOn s && s.memory.wipe = 0 then writeLine t p bs true else t

/-- A write of any range: whole lines as such, the pieces at its ends merged into theirs. -/
def writeRange (s : State) (p : Nat) (bs : List Byte) (counted : Bool) (r : Reader) : State :=
  let head := min bs.length ((64 - p % 64) % 64)
  let full := (bs.length - head) / 64 * 64
  let s := if head = 0 then s else mergeLine s p (bs.take head) counted r
  let s := writeLines s (p + head) ((bs.drop head).take full) counted
  let tail := bs.drop (head + full)
  if tail.isEmpty then s else mergeLine s (p + head + full) tail counted r

/-! Accumulation caches (R217, R223). -/

def accBase (s : Nat) : Nat := 0x110000000000 + 0x800000 * s

/-- A range lies wholly in one accumulation cache window; the controller. -/
def inAcc (a n : Nat) : Bool :=
  decide (0x110000000000 ≤ a) && decide (a < 0x11000C000000) &&
    decide (a + n ≤ accBase ((a - 0x110000000000) / 0x800000) + 0x800000)

def accKey (s i : Nat) : Nat := 2097152 * s + i
def accGet (s : State) (k : Nat) : Reg := tblGet 0 s.memory.acc k
def accSet (s : State) (k : Nat) (v : Reg) : State :=
  { s with memory := { s.memory with acc := tblSet 0 s.memory.acc k v } }

/-- A use of accumulator key k by the adder or a reader: an uncorrectable one counts and faults (R217). -/
def accTouch (s : State) (k : Nat) (r : Reader) : State :=
  if tblGet false s.memory.accBad k then
    setSupEvent (memFault (modStack s (k / 2097152) fun x => { x with accUe := sat32 (x.accUe + 1) }) r) 3
  else s

/-- Read bytes of a cache window; `p` a multiple of 4. -/
def readAcc (s : State) (p n : Nat) (r : Reader) : State × List Byte :=
  let k0 := (p - 0x110000000000) / 4
  (span k0 (n / 4)).foldl (fun x k => (accTouch x.1 k r, x.2 ++ leBytes 4 (accGet x.1 k).toNat)) (s, [])

/-- Write bytes of a cache window; `p` a multiple of 4. A written accumulator holds no error. -/
def writeAcc (s : State) (p : Nat) (bs : List Byte) : State :=
  let k0 := (p - 0x110000000000) / 4
  ((chunks 4 (bs.length + 1) bs).zip (List.range (bs.length + 1))).foldl (fun s l =>
    let s := accSet s (k0 + l.2) (BitVec.ofNat 32 (leNat l.1))
    { s with memory := { s.memory with accBad := tblSet false s.memory.accBad (k0 + l.2) false } }) s

/-! Write-back, scrub, wipe, stacks. -/

/-- R213: the oldest corrected line of controller s waiting is written back as it was delivered; it is no write in the sense of R210 or
R225. -/
def execEccWriteBack (i : Fin 24) (s : State) : Host.Outcome State Fault Refusal :=
  match s.memory.writeBack.find? fun p => stackIdx p.1 = i.val with
  | none => .next s
  | some p => when (memOn s) s { s with memory := putLine s.memory p.1 p.2 }

/-- A failed stack is skipped by scrub and wipe (R205). -/
def stackUp (s : State) (i : Nat) : Bool := (stackOf s i).state = 1

/-- R215: the next codeword of the scrub pass, in ascending stack-local address; a corrected line is written back by R213. -/
def execPatrolScrub (i : Fin 24) (upsets : List Upset) (s : State) : Host.Outcome State Fault Refusal :=
  let a := (stackOf s i).scrub
  let (t, _) := readLine (addUpsets s upsets) (globalAddr i a) .host
  when (memOn s && s.memory.wipe = 0 && s.memory.hours != 0 && stackUp s i) s
    (modStack t i fun k => { k with scrub := (a + 64) % 0x1800000000 })

/-- R205: a stack stops responding during a job. Every read it was serving is served as failed from now on. -/
def execStackFailure (i : Fin 24) (s : State) : Host.Outcome State Fault Refusal :=
  when (memOn s && stackUp s i && jobRuns s) s
    (modStack { s with memory := { s.memory with
      writeBack := s.memory.writeBack.filter fun p => stackIdx p.1 != i.val } } i fun k => { k with state := 2 })

/-- R230: phase 1 ends; the core SRAM windows are accepted from now on. -/
def execWipeSramDone (s : State) : Host.Outcome State Fault Refusal :=
  when (alive s && s.memory.wipe = 1 && !s.memory.sramDone) s { s with memory := { s.memory with sramDone := true } }

/-- R205, R230: the stacks have trained; those that fail are marked failed; the write pass begins. With every stack failed the wipe, which
skips them, has nothing to do and ends. -/
def execStackTrainingDone (failed : List (Fin 24)) (s : State) : Host.Outcome State Fault Refusal :=
  when (alive s && s.memory.wipe = 1 && s.memory.sramDone) s
    ((List.range 24).foldl (fun s i => modStack s i fun k =>
        { k with state := if failed.any (·.val = i) then 2 else 1 }) { s with memory := { s.memory with wipe := if (List.range 24).all fun i => failed.any (·.val = i) then 0 else 2 } })

/-- Every stack that works has ended a pass. -/
def allStacks (s : State) (f : Stack → Bool) : Bool :=
  (List.range 24).all fun i => (stackOf s i).state = 2 || f (stackOf s i)

/-- R229: a controller has written zero with valid check bytes to its whole stack; the verify pass begins when all have. -/
def execWipeWritePassDone (i : Fin 24) (s : State) : Host.Outcome State Fault Refusal :=
  let m := { s.memory with
    data := s.memory.data.filter fun c => stackIdx c.1 != i.val
    upset := s.memory.upset.filter fun c => stackIdx c.1 != i.val
    writeBack := s.memory.writeBack.filter fun p => stackIdx p.1 != i.val }
  let t := modStack { s with memory := m } i fun k => { k with wroteAll := true }
  when (alive s && s.memory.wipe = 2 && stackUp s i && !(stackOf s i).wroteAll) s
    (if allStacks t (·.wroteAll) then { t with memory := { t.memory with wipe := 3 } } else t)

/-- R229, R231: a controller has read its whole stack back; lines with errors are treated by R213, and an uncorrectable one sets
UE_SEEN. The wipe ends when all have. -/
def execWipeVerifyDone (i : Fin 24) (upsets : List Upset) (s : State) : Host.Outcome State Fault Refusal :=
  let s0 := addUpsets s (upsets.filter fun u => stackIdx u.addr = i.val)
  let lines := (s0.memory.upset.filter fun c => stackIdx c.1 = i.val).map (·.1)
  let t := lines.foldl (fun t p =>
    let ue := (decodeLine (memRead t.memory.data p 64) (tblGet [] t.memory.upset p)).2.2
    let u := (readLine t p .host).1
    if ue then { u with memory := { u.memory with ueSeen := true } } else u) s0
  let t := modStack t i fun k => { k with readAll := true }
  when (alive s && s.memory.wipe = 3 && stackUp s i && !(stackOf s i).readAll) s
    (if allStacks t (·.readAll) then { t with memory := { t.memory with wipe := 0 } } else t)

/-! Digest units. -/

def digestOf (s : State) (r : Nat) : Digest := tblGet digestReset s.memory.digests r

def modDigest (s : State) (r : Nat) (f : Digest → Digest) : State :=
  { s with memory := { s.memory with digests := tblMod digestReset s.memory.digests r f } }

/-- The digest of a region: the sum of the 24 partial sums (R226). -/
def digestTotal (d : Digest) : Nat := (d.sums.map (·.2)).foldl (· + ·) 0 % 2 ^ 256

/-- A write of DIG_CTRL_r (R227): SNAP first takes the partial sums, CLEAR then sets them to 0; EN as written. -/
def digestCtrl (s : State) (r : Nat) (v : Reg) : State :=
  modDigest s r fun d =>
    let d := { d with en := v.getLsbD 0 }
    let d := if v.getLsbD 2 then { d with snap := true, taken := digestTotal d } else d
    if v.getLsbD 1 then { d with sums := [] } else d

/-- R227: the sums taken land in DIG_SUM_r and SNAP clears. -/
def execDigestSnapDone (r : Fin 16) (s : State) : Host.Outcome State Fault Refusal :=
  when (alive s && (digestOf s r).snap) s (modDigest s r fun d => { d with snap := false, sum := d.taken })

end Sys2Proof.Machine
end

