-- ==== Sys2Proof/Machine/JobImage.lean ====
section
/-! DEFINITION. The loaded job image, read in place from package memory (11, Tables 11-5 to 11-8; R356): sections, the fields of
the tide, reduction, commit, power, slot, reshard and stash sections, and the program variant in force. -/

namespace Sys2Proof.Machine

/-- Bytes of package memory as their decoder delivers them, without the counters (log 7). -/
def peek (s : State) (p n : Nat) : List Byte :=
  let a := p / 64 * 64
  let ls := (List.range (cdiv (p + n - a) 64)).flatMap fun i =>
    let q := a + 64 * i
    if (stackOf s (stackIdx q)).state = 2 then List.replicate 64 0
    else (decodeLine (memRead s.memory.data q 64) (tblGet [] s.memory.upset q)).1
  (ls.drop (p - a)).take n

def peekNat (s : State) (p n : Nat) : Nat := leNat (peek s p n)

/-- A section directory entry of an image at `img`: TYPE, VARIANT, OFFSET, LENGTH. -/
structure Entry where
  typ : Nat
  variant : Nat
  offset : Nat
  len : Nat
  deriving DecidableEq, Repr

def dirEntry (s : State) (img i : Nat) : Entry :=
  let o := img + 128 + 16 * i
  ⟨peekNat s o 2, peekNat s (o + 2) 1, peekNat s (o + 4) 8, peekNat s (o + 12) 4⟩

def directory (s : State) (img : Nat) : List Entry :=
  (List.range (peekNat s (img + 6) 2)).map (dirEntry s img)

/-- Section types (Table 11-6). -/
def secMapping : Nat := 1
def secPrograms : Nat := 2
def secFlows : Nat := 3
def secRoles : Nat := 4
def secPlan : Nat := 5
def secStash : Nat := 6
def secTide : Nat := 7
def secReduction : Nat := 8
def secBarriers : Nat := 9
def secCommit : Nat := 10
def secPower : Nat := 11
def secSlots : Nat := 12
def secReshard : Nat := 13

def findSec (es : List Entry) (typ variant : Nat) : Option Entry := es.find? fun e => e.typ = typ && e.variant = variant

/-- Physical address and length of a section of the loaded image. -/
def section_ (s : State) (typ variant : Nat) : Option (Nat × Nat) :=
  s.job.img.bind fun im => (findSec (directory s im.1) typ variant).map fun e => (im.1 + e.offset, e.len)

/-- `n` bytes at an offset of a section as a number; 0 without the section. -/
def secNat (s : State) (typ o n : Nat) : Nat :=
  match section_ s typ 0 with
  | some (a, _) => peekNat s (a + o) n
  | none => 0

/-- The supervisor reads sections of the image in place: its reads count and fault steps in RUNNING and HALTING, and count as window reads
do in other states (R213, R214; log 7). -/
def readSections (s : State) (typs : List Nat) : State :=
  typs.foldl (fun s t =>
    match (section_ s t s.job.variant).orElse fun _ => section_ s t 0 with
    | some (a, n) => (readRange s a n (if jobRuns s then .package else .host)).1
    | none => s) s

/-- Tide section (Table 9-9). -/
def frameTicks (s : State) : Nat := secNat s secTide 0 8 % 2 ^ 48
def tempoStart (s : State) : Nat := secNat s secTide 8 2
def tempoMax (s : State) : Nat := secNat s secTide 10 2
def policyAuto (s : State) : Bool := secNat s secTide 12 1 % 2 = 1
def policyOverrun (s : State) : Bool := secNat s secTide 12 1 / 2 % 2 = 1
def retryReserve (s : State) : Nat := secNat s secTide 16 4
def releaseLead (s : State) : Nat := secNat s secTide 20 4
def podExpect (s : State) (i : Nat) : Nat := secNat s secTide (160 + 80 * i) 2
def podShare (s : State) (i : Nat) : Nat := secNat s secTide (162 + 80 * i) 2
def podRelSem (s : State) (i : Nat) : Nat := secNat s secTide (164 + 80 * i) 1
def podMembers (s : State) (i : Nat) : Nat := secNat s secTide (168 + 80 * i) 72

/-- Commit-policy section (Table 12-9). -/
def polFlag (s : State) (b : Nat) : Bool := (secNat s secCommit 1 1).testBit b
def commitBar (s : State) : Nat := secNat s secCommit 0 1
def polMirror (s : State) : Bool := polFlag s 0
def polTwin (s : State) : Bool := polFlag s 1
def polStrict (s : State) : Bool := polFlag s 2
def evalTicks (s : State) : Nat := secNat s secCommit 4 4
def commitTicks (s : State) : Nat := secNat s secCommit 8 4

/-- Reduction section (Tables 10-4, 10-5). -/
structure Use where
  bucket : Nat
  stage : Nat
  ctrl : Nat
  record : Nat
  relBar : Nat
  relCount : Nat
  sparse : Bool
  base : Nat
  length : Nat
  expect : Nat
  owner : Nat
  sem : Nat
  addN : Nat
  deriving DecidableEq, Repr

def useOfBytes (b : List Byte) : Use :=
  let f := fun o n => leNat ((b.drop o).take n)
  ⟨f 0 2, f 2 1, f 3 1, f 4 1, f 5 1, f 6 1, f 7 1 % 2 = 1, f 8 4, f 12 4, f 16 2, f 18 2, f 20 1, f 22 2⟩

def useCount (s : State) : Nat := secNat s secReduction 2 2

/-- Offset of use u in the section. -/
def useOffset (s : State) (u : Nat) : Nat := 64 + 32 * secNat s secReduction 0 2 + 32 * u

/-- Use u of the list. -/
def useAt (s : State) (u : Nat) : Use :=
  match section_ s secReduction 0 with
  | some (a, _) => useOfBytes (peek s (a + useOffset s u) 32)
  | none => useOfBytes []

/-- STAGES of a bucket. -/
def bucketStages (s : State) (b : Nat) : Nat := secNat s secReduction (64 + 32 * b + 10) 1

/-- A region of the memory plan (Table 11-8). -/
structure Region where
  kind : Nat
  jobState : Bool
  digest : Nat
  base : Nat
  len : Nat
  deriving DecidableEq, Repr

def regionAt (s : State) (i : Nat) : Region :=
  let o := 64 + 32 * i
  ⟨secNat s secPlan o 1, secNat s secPlan (o + 1) 1 % 2 = 1, secNat s secPlan (o + 2) 1, secNat s secPlan (o + 8) 8,
    secNat s secPlan (o + 16) 8⟩

def regions (s : State) : List Region := (List.range (secNat s secPlan 0 2)).map (regionAt s)

/-- Reshard plan p (RESHARD_PLANS). -/
def planNat (s : State) (p o n : Nat) : Nat := secNat s secReshard (64 + 64 * p + o) n

/-- Every core that holds a program. -/
def programCores (s : State) : List Nat := (s.cores.filter fun c => c.2.program).map (·.1)

/-- Reshard frames run (R352): from boundary b, FRAMES frames. -/
def inReshard (s : State) : Bool := s.job.rsState = 2

/-- Role of a port in the job (R259); UNUSED without a job. -/
def portRole (s : State) (p : Nat) : Nat := secNat s secRoles (16 * p) 1
def peerPort (s : State) (p : Nat) : Nat := secNat s secRoles (16 * p + 1) 1
/-- PEER_COORD; bits 31:20 are reserved (R7, R259). -/
def peerCoord (s : State) (p : Nat) : Nat := secNat s secRoles (16 * p + 4) 4 % 2 ^ 20

/-- Roles LINK, TREE_PARENT, TREE_CHILD. -/
def roleLinked (r : Nat) : Bool := r = 1 || r = 3 || r = 4

end Sys2Proof.Machine
end

