-- ==== Sys2Proof/Machine/Sequencer.lean ====
section
/-! DEFINITION. The sequencer's commands (02, The sequencer; Tables 2-4, 2-5): fetch, waits, flags, loops, ISSUE, TIDE_ARM, FENCE,
BARRIER, STEP_END, HALT, bad words. STEP_DONE and FRAME_REFERENCE_DELIVERY stand with the schedule. -/

namespace Sys2Proof.Machine

/-- The word at an index of the command store (R43). -/
def storeWord (k : Core) (i : Nat) : W64 := BitVec.ofNat 64 (memNat k.sram (0x600000 + 8 * i) 8)

/-- The word the sequencer executes: one it holds is not fetched again (R46). -/
def curWord (k : Core) : W64 := ((k.held.find? fun p => p.1 = k.pc).map (·.2)).getD (storeWord k k.pc)

/-- A field of a command word (R5). -/
def wfld (w : W64) (lo n : Nat) : Nat := bitsOf w.toNat lo n

def opcodeOf (w : W64) : Nat := wfld w 56 8

/-- The word at an index is held. -/
def holdsWord (k : Core) (i : Nat) : Bool := (k.held.find? fun p => p.1 = i).isSome

/-- The words held while the word at PC executes: it, those prefetched before, which are not fetched again, and those prefetched now, up
to 8 beyond it (R46). How many are fetched now is free. -/
def prefetchWords (k : Core) (n : Nat) : List (Nat × W64) :=
  (k.pc, curWord k) :: ((span (k.pc + 1) 8).filter fun i => holdsWord k i || i ≤ k.pc + n % 9).map fun i =>
    (i, ((k.held.find? fun p => p.1 = i).map (·.2)).getD (storeWord k i))

/-- The fetch of the word at PC and of n words beyond it, but for those held already, is a read of the command store (R44). -/
def fetchTouch (k : Core) (n : Nat) : Core :=
  ((span k.pc (n % 9 + 1)).filter fun i => !holdsWord k i).foldl
    (fun k i => sramTouch k (0x600000 + 8 * i) 8) k

/-- The index after PC; beyond the last index of the store the spec names none, and a free value stands (log 6). -/
def nextPc (s : State) (k : Core) : Nat := if k.pc = 32767 then freeNat s % 32768 else k.pc + 1

/-- The debug logic does not hold the sequencer, or lets it go for one command (R482). -/
def notHeld (k : Core) : Bool := !k.dbgHalt || k.dbgStep

/-- The core's sequencer runs and waits for nothing. -/
def seqRuns (s : State) (c : Nat) : Bool :=
  coreOn s c && (coreOf s c).mode = .running && (coreOf s c).wait = .none && notHeld (coreOf s c)

/-- The sequencer waits as given. -/
def seqWaits (s : State) (c : Nat) (w : SeqWait) : Bool :=
  coreOn s c && (coreOf s c).mode = .running && (coreOf s c).wait = w && notHeld (coreOf s c)

/-- PC takes a value; a change of it counts as activity for the core watchdog (R466). -/
def movePc (s : State) (k : Core) (pc : Nat) : Core :=
  { k with pc := pc, changed := if pc = k.pc then k.changed else s.tide.now, dbgStep := false }

/-- The word at PC is done: the next is executed, with the words prefetched meanwhile held. -/
def advanceCore (s : State) (k : Core) : Core :=
  let n := Config.prefetch s.freeCtr
  movePc s { fetchTouch k n with wait := .none, held := prefetchWords k n } (nextPc s k)

/-- The core after its word is done, and the free values used. -/
def advance (s : State) (c : Nat) (k : Core) : State := useFree (setCore s c (advanceCore s k))

/-- Continue at a target: words held are dropped, and the target is fetched anew (R46). -/
def jumpCore (s : State) (k : Core) (target : Nat) : Core := movePc s { k with wait := .none, held := [] } target

/-- Wait at the present word, which stays held with the words prefetched beyond it (R46). -/
def waitCore (k : Core) (w : SeqWait) : Core :=
  { fetchTouch k 0 with wait := w, held := prefetchWords k 0, dbgStep := false }

/-- A word that R47 refuses: an opcode not in Table 2-4, or a reserved value in a field. -/
def badWord (w : W64) : Bool :=
  let op := opcodeOf w
  if op = 0x00 ∨ op = 0x09 ∨ op = 0x0A ∨ op = 0x18 ∨ op = 0x20 ∨ op = 0x21 ∨ op = 0x22 ∨ op = 0x28 ∨ op = 0x38 ∨ op = 0x3F then false
  else if 1 ≤ op ∧ op ≤ 4 then !semFieldOk (wfld w 50 6)
  else if op = 0x08 then wfld w 53 3 < 3
  else if op = 0x10 then 6 ≤ wfld w 53 3 || !semFieldOk (wfld w 47 6) || !semFieldOk (wfld w 24 6)
  else if op = 0x30 then
    let sc := wfld w 54 2
    sc = 3 || (if sc = 1 then 16 else if sc = 2 then 8 else 64) ≤ wfld w 48 6
  else true

/-- R47: CORE_ERR.BAD_CMD, and the sequencer halts at the word. -/
def badCmdEff (s : State) (c : Nat) : State :=
  let k := coreErr (fetchTouch (coreOf s c) 0) errBadCmd
  setCore s c { k with mode := .halted, wait := .none, held := [] }

/-- A sequencer row: the core runs and its word has the row's opcode. A reserved field makes the word bad (R47). -/
def seqRow (s : State) (c op : Nat) (f : Core → W64 → Host.Outcome State Fault Refusal) : Host.Outcome State Fault Refusal :=
  let w := curWord (coreOf s c)
  if seqRuns s c && opcodeOf w = op then
    (if badWord w then .next (badCmdEff s c) else f (coreOf s c) w)
  else .next s

/-- A wait row wakes: the core waits as given and its word has one of the opcodes. -/
def wakeRow (s : State) (c : Nat) (wt : SeqWait) (f : Core → W64 → Host.Outcome State Fault Refusal) :
    Host.Outcome State Fault Refusal :=
  if seqWaits s c wt then f (coreOf s c) (curWord (coreOf s c)) else .next s

/-- R45: nothing but the next word. -/
def execNop (c : Fin 576) (s : State) : Host.Outcome State Fault Refusal :=
  seqRow s c 0x00 fun k _ => .next (advance s c k)

/-- R63: continue once the semaphore is at least N. -/
def execSemWait (c : Fin 576) (s : State) : Host.Outcome State Fault Refusal :=
  seqRow s c 0x03 fun k w =>
    let sem := wfld w 50 6
    if sem = 63 || wfld w 0 16 ≤ semGet k sem then .next (advance s c k) else .next (setCore s c (waitCore k .sem))

/-- R49, R66: set F3–F7. -/
def execFlagSet (c : Fin 576) (s : State) : Host.Outcome State Fault Refusal :=
  seqRow s c 0x08 fun k w => .next (advance s c (flagPut k (wfld w 53 3) true))

/-- R67, R69: clear a flag; a set of the same cycle prevails. CORE_ERR is untouched. -/
def execFlagClear (c : Fin 576) (setToo : Bool) (s : State) : Host.Outcome State Fault Refusal :=
  seqRow s c 0x09 fun k w => .next (advance s c (flagPut k (wfld w 53 3) setToo))

/-- R68: continue when the flag equals VALUE; CLEAR_ON_WAKE clears it, and with it a set of the same cycle. -/
def flagWaitEff (s : State) (c : Nat) (k : Core) (w : W64) (setToo : Bool) : State :=
  let n := wfld w 53 3
  let value := wfld w 51 1 = 1
  let k' := if setToo then flagPut k n true else k
  if flagGet k n = value ∨ setToo ∧ value then
    advance s c (if wfld w 52 1 = 1 then flagPut k n false else k')
  else setCore s c (waitCore k' .flag)

def execFlagWait (c : Fin 576 × Bool) (s : State) : Host.Outcome State Fault Refusal :=
  seqRow s c.1 0x0A fun k w => .next (flagWaitEff s c.1 k w c.2)

def execFlagWaitWake (c : Fin 576 × Bool) (s : State) : Host.Outcome State Fault Refusal :=
  wakeRow s c.1 .flag fun k w => .next (flagWaitEff s c.1 k w c.2)

/-- The queue entry of an ISSUE word: the 64 bytes of the descriptor as they stand (R53), the wait and signal fields, and the target
the comparator holds (R55). -/
def issueEntry (k : Core) (w : W64) : QEntry where
  desc := BitVec.ofNat 512 (memNat k.sram (0x600000 + 64 * wfld w 0 12) 64)
  waitSem := wfld w 47 6
  waitN := wfld w 31 16
  consume := wfld w 30 1 = 1
  sigSem := wfld w 24 6
  sigN := wfld w 16 8
  tideHold := wfld w 15 1 = 1
  target := k.target
  seen := []
  seenAbroad := []

/-- R53, R54: the queue of 8 accepts the descriptor, or the sequencer stalls. -/
def issueEff (s : State) (c : Nat) (k : Core) (w : W64) : State :=
  let e := wfld w 53 3
  let g := engineOf k e
  if g.queue.length < 8 then
    let k := sramTouch k (0x600000 + 64 * wfld w 0 12) 64
    advance s c { setEngine k e { g with queue := g.queue ++ [issueEntry k w] } with changed := s.tide.now }
  else setCore s c (waitCore k .issue)

def execIssue (c : Fin 576) (s : State) : Host.Outcome State Fault Refusal :=
  seqRow s c 0x10 fun k w => .next (issueEff s c k w)

def execIssueQueueAccept (c : Fin 576) (s : State) : Host.Outcome State Fault Refusal :=
  wakeRow s c .issue fun k w => .next (issueEff s c k w)

/-- ns(n, Q) of R280. -/
def ticksNs (n q : Nat) : Nat := (n * q + 2048) / 4096

/-- R71, R280: the comparator holds T + ns(TICKS, Q) in 64 bits and F0 is cleared; if the comparator reaches the target before it in
the same cycle, the set prevails (R67). -/
def execTideArm (c : Fin 576 × Bool) (s : State) : Host.Outcome State Fault Refusal :=
  seqRow s c.1 0x18 fun k w =>
    .next (advance s c.1 { flagPut k 0 (c.2 && k.armed) with
      target := some ((k.frameT + ticksNs (wfld w 0 48) k.frameQ) % 2 ^ 64), armed := true })

/-- Table 2-5: continue at TARGET. -/
def execJump (c : Fin 576) (s : State) : Host.Outcome State Fault Refusal :=
  seqRow s c 0x20 fun k w => .next (setCore s c (jumpCore s k (wfld w 0 15)))

/-- R48. -/
def execLoopSet (c : Fin 576) (s : State) : Host.Outcome State Fault Refusal :=
  seqRow s c 0x21 fun k w => .next (advance s c { k with lc := tblSet 0 k.lc (wfld w 53 3) (wfld w 0 32) })

/-- R48: a counter at 0 stays 0 and does not jump. -/
def execLoopBack (c : Fin 576) (s : State) : Host.Outcome State Fault Refusal :=
  seqRow s c 0x22 fun k w =>
    let n := tblGet 0 k.lc (wfld w 53 3)
    let k := { k with lc := tblSet 0 k.lc (wfld w 53 3) (n - 1) }
    if 1 < n then .next (setCore s c (jumpCore s k (wfld w 0 15))) else .next (advance s c k)

/-- Every engine of a mask is idle with an empty queue (Table 2-4, R131). -/
def maskIdle (k : Core) (m : Nat) : Bool := (List.range 6).all fun e => !m.testBit e || engineIdleNow k e

def fenceEff (s : State) (c : Nat) (k : Core) (w : W64) : State :=
  if maskIdle k (wfld w 50 6) then advance s c k else setCore s c (waitCore k .fence)

def execFence (c : Fin 576) (s : State) : Host.Outcome State Fault Refusal :=
  seqRow s c 0x28 fun k w => .next (fenceEff s c k w)

def execFenceRelease (c : Fin 576) (s : State) : Host.Outcome State Fault Refusal :=
  wakeRow s c .fence fun k w => .next (fenceEff s c k w)

/-- R75, R292: one arrival leaves for the counter, tagged with the step of the core's frame. -/
def execBarrier (c : Fin 576) (s : State) : Host.Outcome State Fault Refusal :=
  seqRow s c 0x30 fun k w =>
    let t := advance s c k
    .next { t with bars := { t.bars with
      transit := t.bars.transit ++ [⟨c, wfld w 54 2, wfld w 48 6, k.frameStep⟩] } }

/-- R50: the sequencer waits at STEP_END. -/
def execStepEnd (c : Fin 576) (s : State) : Host.Outcome State Fault Refusal :=
  seqRow s c 0x38 fun k _ => .next (setCore s c (waitCore k .stepEnd))

/-- R52: the sequencer stops; the engines go on. -/
def haltCore (k : Core) : Core := { fetchTouch k 0 with mode := .halted, wait := .none, held := [] }

def execHalt (c : Fin 576) (s : State) : Host.Outcome State Fault Refusal :=
  seqRow s c 0x3F fun k _ => .next (setCore s c (haltCore k))

/-- R47: an unknown opcode or a reserved field. -/
def execBadCmd (c : Fin 576) (s : State) : Host.Outcome State Fault Refusal :=
  when (seqRuns s c && badWord (curWord (coreOf s c))) s (badCmdEff s c)

/-- R72: the comparator sets F0 once the local tide is at or past the target. -/
def execTideTargetReached (c : Fin 576) (now : Nat) (s : State) : Host.Outcome State Fault Refusal :=
  let t := atTide s now
  let k := coreOf s c
  when (coreOn s c && k.armed && (match k.target with | some g => g ≤ t.tide.now | none => false)) s
    (setCore t c { flagPut k 0 true with armed := false })

/-- R61: the core's inbound ferry performs the oldest add sent to it; a core under reset discards it (R464). -/
def inboundEff (s : State) (c : Nat) : State :=
  match s.adds.find? fun a => a.core = c with
  | none => s
  | some a =>
    let t := { s with adds := s.adds.erase a }
    if !alive s then s
    else if coreOn s c then modCore t c fun k => semAdd k a.sem a.n
    else if coreResetting s c then t else s

def execInboundAdd (c : Fin 576) (s : State) : Host.Outcome State Fault Refusal := .next (inboundEff s c)

end Sys2Proof.Machine
end

