-- ==== Sys2Proof/Machine/Reduction.lean ====
section
/-! DEFINITION. Arenas and the reduction (07 The accumulation cache, 10 Arenas in use), barrier counters of the package (02
Barriers, R316). -/

namespace Sys2Proof.Machine

/-! Arena records (Table 7-2). -/

abbrev Arena := BitVec 256

def arenaKey (s a : Nat) : Nat := 64 * s + a
def arenaAt (s : State) (k : Nat) : Arena := tblGet 0 s.memory.arenas k
def setArena (s : State) (k : Nat) (r : Arena) : State :=
  { s with memory := { s.memory with arenas := tblSet 0 s.memory.arenas k r } }
def aFld (r : Arena) (byte n : Nat) : Nat := bitsOf r.toNat (8 * byte) n
def aPut (r : Arena) (byte n v : Nat) : Arena :=
  BitVec.ofNat 256 (r.toNat - aFld r byte n * 2 ^ (8 * byte) + v % 2 ^ n * 2 ^ (8 * byte))
def aBase (r : Arena) : Nat := aFld r 0 21
def aLength (r : Arena) : Nat := aFld r 4 22
def aExpect (r : Arena) : Nat := aFld r 8 16
def aCount (r : Arena) : Nat := aFld r 10 16
def aOwner (r : Arena) : Nat := aFld r 14 10
def aSem (r : Arena) : Nat := aFld r 16 8
def aState (r : Arena) : Nat := aFld r 17 2
def aSparse (r : Arena) : Bool := bitsOf r.toNat 138 1 = 1
def aN (r : Arena) : Nat := aFld r 18 16
def aPoisoned (r : Arena) : Nat := aFld r 20 32
def arenaFree : Nat := 0
def arenaOpen : Nat := 1
def arenaComplete : Nat := 2
def setAState (r : Arena) (v : Nat) : Arena := aPut r 17 2 v

/-- The key of use u in step n. -/
def useKey (n u : Nat) : Nat := 4096 * n + u
def useState (s : State) (k : Nat) : UseState := tblGet .idle s.reduction.uses k
def setUse (s : State) (k : Nat) (v : UseState) : State :=
  { s with reduction := { s.reduction with uses := tblSet .idle s.reduction.uses k v } }

/-- The use that a record serves. -/
def recordUse (s : State) (k : Nat) : Option Nat :=
  let v := tblGet 0 s.reduction.recUse k
  if v = 0 then none else some (v - 1)
def setRecordUse (s : State) (k v : Nat) : State :=
  { s with reduction := { s.reduction with recUse := tblSet 0 s.reduction.recUse k v } }

/-! The adder (R220–R222). -/

/-- One present element with code q (R221): the accumulator, and whether it became poisoned. -/
def addCode (a : Reg) (q : Nat) : Reg × Bool :=
  if a = 0x80000000#32 then (a, false)
  else if q = 0x80 then (0x80000000#32, true)
  else (BitVec.ofInt 32 (max (-2147483647) (min 2147483647 (a.toInt + sgn 8 q))), false)

/-- A code goes to element e of the arena of record k; elements beyond LENGTH are discarded. -/
def addElement (s : State) (k e q : Nat) : State :=
  let r := arenaAt s k
  if aLength r ≤ e then s
  else
    let i := accKey (k / 64) (aBase r + e)
    let s := accTouch s i .package
    let (v, p) := addCode (accGet s i) q
    let s := accSet s i v
    let s := { s with memory := { s.memory with accBad := tblSet false s.memory.accBad i false } }
    if p then setArena s k (aPut r 20 32 (aPoisoned r + 1)) else s

/-- Codes of consecutive elements; none for an element that is absent. -/
def addCodes (s : State) (k e : Nat) (qs : List (Option Nat)) : State :=
  (qs.zip (List.range qs.length)).foldl (fun s q => match q.1 with | some c => addElement s k (e + q.2) c | none => s) s

/-- Bytes of the sparse block at the front of a stream, once its mask is there (R102). -/
def sparseLen (bs : List Byte) : Nat :=
  4 + ((List.range 32).filter fun i => (leNat (bs.take 4)).testBit i).length

/-- Whole sparse blocks at the front of a stream: codes and the rest (R102, R220). -/
def sparseBlocks : Nat → List Byte → List (Option Nat) × List Byte
  | 0, bs => ([], bs)
  | n + 1, bs =>
    if bs.length < 4 || bs.length < sparseLen bs then ([], bs)
    else
      let (b, r) := decSparseBlock bs
      let (bs', r') := sparseBlocks n r
      (b ++ bs', r')

/-- Fields of an OP 2 DEST_ADDR (R219). ELEMENT is read with the bits above it, into which a sender's ELEMENT + k × F may carry:
such elements lie beyond any LENGTH (log 8). -/
def dElement (f : Frame) : Nat := bitsOf f.destAddr.toNat 0 24
def dArena (f : Frame) : Nat := bitsOf f.destAddr.toNat 24 6
def dCtrl (f : Frame) : Nat := bitsOf f.destAddr.toNat 32 5

def isFirst (f : Frame) : Bool := f.flags.getLsbD 2
def isLast (f : Frame) : Bool := f.flags.getLsbD 3
def frameOp (f : Frame) : Nat := bitsOf f.flags.toNat 0 2

/-- A frame's payload enters the adder of record k (R220, R249). A sparse transfer's stream goes on from frame to frame; adders without
the feature take nothing of it (log 102). -/
def addFrame (s : State) (k : Nat) (x : InFrame) : State :=
  let f := x.frame
  if aSparse (arenaAt s k) && !feature s featSparse then s
  else if aSparse (arenaAt s k) then
    let st : Stream := if isFirst f then ⟨dElement f, payload f⟩ else
      let o := tblGet ⟨0, []⟩ s.memory.streams x.xfer
      ⟨o.element, o.rest ++ payload f⟩
    let (qs, rest) := sparseBlocks st.rest.length st.rest
    let s := addCodes s k st.element qs
    let s := if isLast f then addCodes s k (st.element + qs.length) (decSparseBlock rest).1 else s
    let next : Stream := if isLast f then ⟨0, []⟩ else ⟨st.element + qs.length, rest⟩
    { s with memory := { s.memory with streams := tblSet ⟨0, []⟩ s.memory.streams x.xfer next } }
  else addCodes s k (dElement f) ((payload f).map fun b => some b.toNat)

/-- R315: COUNT has reached EXPECT: the use reads complete and OWNER's inbound ferry is told to add N to SEM. -/
def completeUse (s : State) (k : Nat) : State :=
  let r := arenaAt s k
  let s := setArena s k (setAState r arenaComplete)
  let s := queueAdd s (coreField (aOwner r)) (aSem r) (aN r)
  match recordUse s k with
  | none => s
  | some u =>
    let s := setUse s u .complete
    let d := useAt s (u % 4096)
    if u / 4096 = s.tide.step then
      { s with reduction := { s.reduction with
        usesDone := s.reduction.usesDone + 1
        poison := if d.stage = bucketStages s d.bucket then sat32 (s.reduction.poison + aPoisoned r) else s.reduction.poison } }
    else s

/-- Credits of a frame in 256-byte units (R251). -/
def frameCredits (f : Frame) : Nat := if f.typ = 2 then 1 else sizeBytes f.size.toNat / 256

/-- Fields of a flow context (Table 8-5), by byte offset and bits. -/
def cState (d : Line) : Nat := fld d 0 0 2
def cRole (d : Line) : Nat := fld d 0 2 2
def cPut (d : Line) (byte n v : Nat) : Line := setFld d (8 * byte) n v
def cSet (s : State) (f byte n v : Nat) : State := setFlow s f (cPut (flowOf s f) byte n v)

/-- R252: a frame has left the buffers of a strait context: its credits are granted again. A local flow has none. -/
def returnCredits (s : State) (x : InFrame) : State :=
  match x.core with
  | some _ => s
  | none =>
    let d := flowOf s x.flow
    modRt (cSet s x.flow 28 32 (fldB d 28 4 + frameCredits x.frame)) x.flow fun r => { r with ackOwed := true }

/-- R222: the adder takes a frame of an open record; the last frame of a contribution counts. -/
def takeFrameEff (s : State) (k : Nat) (x : InFrame) : State :=
  let s := returnCredits (addFrame s k x) x
  if isLast x.frame then
    let r := arenaAt s k
    let s := setArena s k (aPut r 10 16 (aCount r + 1))
    if aCount (arenaAt s k) = aExpect r then completeUse s k else s
  else s

/-- The transfers of which the present use of record k has taken a frame. -/
def begunOf (s : State) (k : Nat) : List Nat := tblGet [] s.memory.begun k
def setBegun (s : State) (k : Nat) (l : List Nat) : State :=
  { s with memory := { s.memory with begun := tblSet [] s.memory.begun k l } }

/-- A use that takes a frame of one transfer more than it expects: an excess contribution (R331). A contribution sent for one use and fed
whole into a later one carries no mark by which it could be told (log 4). -/
def takeFrame (s : State) (k : Nat) (x : InFrame) : Land :=
  let old := begunOf s k
  if old.contains x.xfer then .ok (takeFrameEff s k x)
  else if aExpect (arenaAt s k) ≤ old.length then .error (.excessContribution (keptOf s))
  else .ok (takeFrameEff (setBegun s k (old ++ [x.xfer])) k x)

def parkOf (s : State) (i : Nat) : List InFrame := tblGet [] s.memory.park i
def setPark (s : State) (i : Nat) (l : List InFrame) : State :=
  { s with memory := { s.memory with park := tblSet [] s.memory.park i l } }
def parkBytes (s : State) (i : Nat) : Nat := ((parkOf s i).map fun x => (payload x.frame).length).foldl (· + ·) 0
def inqOf (s : State) (i : Nat) : List InFrame := tblGet [] s.memory.inq i
def setInq (s : State) (i : Nat) (l : List InFrame) : State :=
  { s with memory := { s.memory with inq := tblSet [] s.memory.inq i l } }

def recordOpen (s : State) (k : Nat) : Bool := aState (arenaAt s k) = arenaOpen

/-- R354: from the abandonment to the end of the last reshard frame every contribution is discarded. -/
def discarding (s : State) : Bool := s.reduction.stopped

/-- Where a waiting frame waits (R314): the sink die, or the sending core's outbound ferry. -/
def sourceOf (x : InFrame) : Nat := match x.core with | some c => 8 + c | none => x.flow / 2048

/-- The controller takes a frame: it is discarded, added, or parked. -/
def acceptFrame (s : State) (i : Nat) (x : InFrame) : Land :=
  let k := arenaKey i (dArena x.frame)
  if discarding s then .ok (returnCredits s x)
  else if recordOpen s k then takeFrame s k x
  else .ok (setPark s i (parkOf s i ++ [x]))

/-- R314: the controller has no room to take the frame. -/
def mustWait (s : State) (i : Nat) (x : InFrame) : Bool :=
  !discarding s && !recordOpen s (arenaKey i (dArena x.frame)) &&
    decide (4194304 < parkBytes s i + (payload x.frame).length)

/-- Accumulators of controller i that have become uncorrectable: what they read as is free (log 3). -/
def upsetAcc (s : State) (i : Nat) (us : List Nat) : State :=
  us.foldl (fun s u =>
    if u < 2097152 then
      let s := accSet s (accKey i u) (BitVec.ofNat 32 (freeNat s))
      useFree { s with memory := { s.memory with accBad := tblSet false s.memory.accBad (accKey i u) true } }
    else s) s

/-! Opening (R311, R312). -/

/-- A use of step n is being opened on controller i. -/
def openingOn (s : State) (i : Nat) : Option Nat :=
  ((List.range 64).find? fun a => match recordUse s (arenaKey i a) with
    | some u => useState s u = .opening
    | none => false).map (arenaKey i ·)

/-- The first use of step n on controller i, in list order, that has not begun to open. -/
def nextUse (s : State) (i n : Nat) : Option Nat :=
  (List.range (useCount s)).find? fun u => (useAt s u).ctrl = i && useState s (useKey n u) = .idle

/-- Conditions 3 and 4 of R311. -/
def rangeFree (s : State) (i : Nat) (d : Use) : Bool :=
  aState (arenaAt s (arenaKey i d.record)) = arenaFree &&
  (List.range 64).all fun a =>
    let r := arenaAt s (arenaKey i a)
    aState r = arenaFree || !overlap (aBase r) (aLength r) d.base d.length

/-- The record of a use as it is written before it reads open (R312). -/
def useRecord (n : Nat) (d : Use) : Arena :=
  BitVec.ofNat 256 (leNat (leBytes 4 d.base ++ leBytes 4 d.length ++ leBytes 2 d.expect ++ leBytes 2 0 ++ leBytes 2 n
    ++ leBytes 2 d.owner ++ leBytes 1 d.sem ++ leBytes 1 (if d.sparse then 4 else 0) ++ leBytes 2 d.addN))

/-- The supervisor clears a range of accumulators (R218). -/
def clearRange (s : State) (i base len : Nat) : State :=
  let lo := accKey i base
  let inR := fun k => decide (lo ≤ k) && decide (k < lo + len)
  { s with memory := { s.memory with
    acc := s.memory.acc.filter fun p => !inR p.1
    accBad := s.memory.accBad.filter fun p => !inR p.1 } }

/-- The supervisor's read of a use record from the image (R214). -/
def readUse (s : State) (u : Nat) : State :=
  match section_ s secReduction 0 with
  | some (a, _) => (readRange s (a + useOffset s u) 32 .package).1
  | none => s

def beginUse (s : State) (i n u : Nat) : State :=
  let s := readUse s u
  let d := useAt s u
  let k := arenaKey i d.record
  let s := setBegun (setArena (clearRange s i d.base d.length) k (useRecord (n % 65536) d)) k []
  setRecordUse (setUse s (useKey n u) .opening) k (useKey n u + 1)

/-- Steps whose uses may still open while frame n runs (R311): the step before it, which is decided only within that frame (R364), then
its own. -/
def openSteps (s : State) : List Nat :=
  let n := s.tide.step
  if 0 < n && decide (s.commit.runFrom ≤ n - 1) then [n - 1, n] else [n]

/-- The next use to open on controller i: in the order of the steps, then of the list. -/
def nextOpen (s : State) (i : Nat) : Option (Nat × Nat) :=
  (openSteps s).findSome? fun n => (nextUse s i n).map fun u => (n, u)

/-- R311: the supervisor begins to open the next use on controller i. -/
def execArenaOpen (i : Fin 24) (now : Nat) (s : State) : Host.Outcome State Fault Refusal :=
  let t := atTide s now
  match nextOpen s i with
  | none => .next s
  | some (n, u) =>
    when (memOn s && jobRuns s && s.tide.running && !s.reduction.stopped && !inReshard s && (openingOn s i).isNone
        && rangeFree s i (useAt s u) && decide (s.tide.start ≤ t.tide.now)) s
      (beginUse t i n u)

/-- Parked frames of record k enter the adder in order while the record is open (R313). -/
def feedParked (s : State) (i k : Nat) : Land :=
  ((parkOf s i).filter fun x => arenaKey i (dArena x.frame) = k).foldl (fun l x =>
    l.bind fun s => if recordOpen s k then takeFrame (setPark s i ((parkOf s i).erase x)) k x else .ok s) (.ok s)

/-- R312, R313: clearing has ended, STATE reads open, and parked contributions are fed. -/
def execArenaOpened (i : Fin 24) (s : State) : Host.Outcome State Fault Refusal :=
  match openingOn s i with
  | none => .next s
  | some k =>
    let s1 := setArena s k (setAState (arenaAt s k) arenaOpen)
    let s2 := match recordUse s k with | some u => setUse s1 u .opened | none => s1
    if memOn s then ofLand (feedParked s2 i k) else .next s

/-! Release and abandonment. -/

/-- Parked frames of a record are discarded and their credits returned. -/
def dropParked (s : State) (i k : Nat) : State :=
  ((parkOf s i).filter fun x => arenaKey i (dArena x.frame) = k).foldl (fun s x =>
    returnCredits (setPark s i ((parkOf s i).erase x)) x) s

/-- The record reads free. -/
def freeRecord (s : State) (k : Nat) : State := setRecordUse (setArena s k (setAState (arenaAt s k) arenaFree)) k 0

/-- R316: a use is set free at its release; one that has not completed makes EARLY_REL and a reduction fault of its step. -/
def releaseUse (s : State) (n u : Nat) : State :=
  let d := useAt s u
  let key := useKey n u
  let k := arenaKey d.ctrl d.record
  let early := fun (t : State) => faultAt { t with reduction := { t.reduction with earlyRel := true } } n 3
  match useState s key with
  | .complete => setUse (if recordUse s k = some key then freeRecord s k else s) key .freed
  | .opened => early (setUse (if recordUse s k = some key then freeRecord s k else s) key .early)
  | .opening => early (setUse (dropParked (freeRecord s k) d.ctrl k) key .early)
  | .idle => early (setUse (dropParked s d.ctrl k) key .early)
  | .freed => s
  | .early => s

/-- Releases of a package counter in a step so far (R316). -/
def releasesOf (s : State) (n b : Nat) : Nat :=
  ((s.bars.releases.find? fun r => r.1 = n && r.2.1 = b).map (·.2.2)).getD 0

/-- R316: release number `releasesOf` of counter b in step n has come. -/
def countRelease (s : State) (n b : Nat) : State :=
  let m := releasesOf s n b
  let rest := s.bars.releases.filter fun r => !(r.1 = n && r.2.1 = b)
  let s := { s with bars := { s.bars with releases := (n, b, m + 1) :: rest } }
  if jobRuns s && !s.reduction.stopped then
    ((List.range (useCount s)).filter fun u => (useAt s u).relBar = b && (useAt s u).relCount = m).foldl
      (fun s u => releaseUse s n u) s
  else s

/-- Every park buffer empty, credits returned (R319). -/
def emptyParks (s : State) : State :=
  (List.range 24).foldl (fun s i => (parkOf s i).foldl (fun s x => returnCredits s x) (setPark s i [])) s

/-- Every record free, every park buffer empty, credits returned (R319). -/
def freeArenas (s : State) : State :=
  let s := emptyParks s
  { s with
    memory := { s.memory with arenas := (s.memory.arenas.map fun r => (r.1, setAState r.2 arenaFree)).filter fun r => r.2 != 0 }
    reduction := { s.reduction with recUse := [] } }

/-- R319: abandon the reduction of the current epoch. -/
def abandonReduction (s : State) : State :=
  let s := freeArenas s
  { s with reduction := { s.reduction with abandoned := true, stopped := true } }

/-- R318: a bucket is open in step n: a use of it has been opened and its last is not yet released. -/
def bucketOpenIn (s : State) (n : Nat) : Bool :=
  (List.range (useCount s)).any fun u =>
    let v := useState s (useKey n u)
    v != .idle && v != .opening &&
      (List.range (useCount s)).any fun w => (useAt s w).bucket = (useAt s u).bucket &&
        useState s (useKey n w) != .freed && useState s (useKey n w) != .early

/-- R318: a bucket is open, of the present step or of the one before it. -/
def bucketOpen (s : State) : Bool := (openSteps s).any (bucketOpenIn s)

/-- R317: the reduction of step n is done. -/
def reductionDone (s : State) (n : Nat) : Bool :=
  (List.range (useCount s)).all fun u =>
    useState s (useKey n u) = .complete || useState s (useKey n u) = .freed

end Sys2Proof.Machine
end

