-- ==== Sys2Proof/Machine/Schedule.lean ====
section
/-! DEFINITION. The tide, its tree and its frames (09): markers, parent choice, states, tempo announcements and requirements, pod
barriers, arrivals at barrier counters (02 Barriers). -/

namespace Sys2Proof.Machine

/-- Tide states (Table 9-3). -/
def tideFree : Nat := 0
def tideAcquiring : Nat := 1
def tideTracking : Nat := 2
def tideLocked : Nat := 3
def tideHoldover : Nat := 4
def tideSource : Nat := 5

/-- Bits of TIDE_EVENT. -/
def evSourceChange : Nat := 0
def evHoldover : Nat := 1
def evAnnounced : Nat := 2
def evReqRise : Nat := 3
def evTempoLimit : Nat := 4
def evMismatch : Nat := 5
def evLateRelease : Nat := 6
def evOverrun : Nat := 7
def evUseOvf : Nat := 8

def setTide (s : State) (f : Tide → Tide) : State := { s with tide := f s.tide }

/-- A job is armed: ARMED, RUNNING or HALTING. -/
def armed (s : State) : Bool := s.job.state = jobArmed || jobRuns s

/-! Frames. -/

/-- A control frame (R242). -/
def ctlFrame (s : State) (typ tag flow seq : Nat) (body : List Byte) : Frame where
  typ := BitVec.ofNat 8 typ
  flags := 0
  jobTag := BitVec.ofNat 16 tag
  flow := BitVec.ofNat 16 flow
  seq := BitVec.ofNat 32 seq
  valid := 0
  size := 0
  destSem := 0
  destN := 0
  stamp := BitVec.ofNat 64 s.tide.now
  destAddr := 0
  body := (body ++ List.replicate 20 0).take 20
  crc := 0

def portUp (s : State) (p : Nat) : Bool := (portOf s p).state = 2

/-- A frame leaves port p with its CRC (R243). While the direction pauses for a lane change it waits (R238). -/
def sendOut (s : State) (p : Nat) (f : Frame) : State :=
  if (portOf s p).pauseTx then modPort s p fun k => { k with held := k.held ++ [f] } else emit s (.frame p (sealFrame f))

/-- A good frame arrives on a port that is up and whose receive direction does not pause: its marker ends the discarding of blocks
(R241, R243). -/
def arrives (s : State) (p typ : Nat) (f : Frame) : Bool :=
  alive s && portUp s p && !(portOf s p).pauseRx && f.typ.toNat = typ && frameGood f

def marked (s : State) (p : Nat) : State := modPort s p fun k => { k with hunting := false }

def upPorts (s : State) : List Nat := (List.range 8).filter (portUp s)

/-- R269: a tide frame leaves a port that is up, with the package's POD_ID. -/
def sendTide (s : State) (p typ seq : Nat) (body : List Byte) : State :=
  if s.tide.podId != 0 && portUp s p then sendOut s p (ctlFrame s typ s.tide.podId 0 seq body) else s

/-- Flood on every up port but one. -/
def flood (s : State) (but : Nat) (typ : Nat) (body : List Byte) : State :=
  (upPorts s).foldl (fun s p => if p = but then s else sendTide s p typ 0 body) s

def bNat (b : List Byte) (o n : Nat) : Nat := leNat ((b.drop o).take n)

/-- One more frame counted as unknown (R258, R269). -/
def countUnknown (s : State) (p : Nat) : State := modPort s p fun k => { k with unknown := sat32 (k.unknown + 1) }

/-- A tide frame of the row's type arrives on a port that is up; one of another pod is discarded and counted (R269). -/
def tideRow (s : State) (p typ : Nat) (f : Frame) (eff : State → State) : Host.Outcome State Fault Refusal :=
  if arrives s p typ f then
    (if s.tide.podId = 0 || f.jobTag.toNat != s.tide.podId then .next (countUnknown (marked s p) p) else .next (eff (marked s p)))
  else .next s

/-! Pod barriers (R292–R297). -/

def isUse (i n u : Nat) (x : PodUse) : Bool := x.idx = i && x.step = n && x.use = u

def podUse (s : State) (i n u : Nat) : PodUse :=
  (s.tide.uses.find? (isUse i n u)).getD ⟨i, n, u, false, [], none, false, false⟩

def putUse (s : State) (x : PodUse) : State :=
  setTide s fun t => { t with uses := t.uses.filter (fun y => !isUse x.idx x.step x.use y) ++ [x] }

/-- A package's total of an entry: its own completion and the totals of its children (R294). -/
def podTotal (x : PodUse) : Nat := (if x.own then 1 else 0) + (x.totals.map (·.2)).foldl (· + ·) 0

def arriveBody (x : PodUse) : List Byte :=
  leBytes 1 x.idx ++ leBytes 1 x.use ++ leBytes 2 x.step ++ leBytes 2 (podTotal x)

/-- A total goes to the parent (R294). -/
def sendTotal (s : State) (x : PodUse) : State :=
  if s.tide.parent < 8 then sendTide s s.tide.parent 0x12 0 (arriveBody x) else s

/-- Entries this package holds something of and no release for. -/
def openUses (s : State) : List PodUse := s.tide.uses.filter fun x => x.release.isNone && !x.closed && podTotal x != 0

/-- R294: every total of an entry without a release goes to the parent. -/
def resendTotals (s : State) : State := (s.tide.uses.filter fun x => x.release.isNone && !x.closed).foldl sendTotal s

/-- The source has no room for one more open entry (R295). -/
def sourceFull (s : State) : Bool := s.tide.state = tideSource && decide (64 ≤ (openUses s).length)

/-- T of the frame after the present one (R281). -/
def nextStart (s : State) : Nat := s.tide.start + ticksNs (frameTicks s) s.tide.curQ

/-- Tempo of frame n under the announcements held (R285). -/
def tempoOf (s : State) (n : Nat) : Nat :=
  ((s.tide.pending.filter fun a => a.step ≤ n).getLast?.map (·.q)).getD s.tide.curQ

/-- The instant C_n of a decision, D_n − 1,000 ns (The commit barrier), while frame n + 1 runs or, under the announcements held, is the
next one; none otherwise. -/
def decisionTide (s : State) (n : Nat) : Option Nat :=
  if !s.tide.running then none
  else if s.tide.step = n + 1 then some (s.tide.start + ticksNs (commitTicks s) s.tide.curQ - 1000)
  else if s.tide.step = n then some (nextStart s + ticksNs (commitTicks s) (tempoOf s (n + 1)) - 1000)
  else none

/-- R296: a package acts on the first release it receives for an entry. -/
def takeRelease (s : State) (x : PodUse) (rel but : Nat) : State :=
  let s := putUse s { x with release := some (rel, s.tide.now), addDue := true }
  let s := flood s but 0x13 (leBytes 1 x.idx ++ leBytes 1 x.use ++ leBytes 2 x.step ++ leBytes 8 rel)
  if rel < s.tide.now then
    let s := setTide s fun t => { t with lateRels := sat32 (t.lateRels + 1) }
    let s := setTideEvent s evLateRelease
    let s := queueAddAll s (podMembers s x.idx) (podRelSem s x.idx)
    putUse s { x with release := some (rel, s.tide.now), addDue := false }
  else s

/-- R295, R363: the source completes an entry whose total reaches EXPECT. COMMIT_BAR's entry is released only when RELEASE_TIDE
lies at or before C_s. -/
def tryRelease (s : State) (x : PodUse) : State :=
  if s.tide.state = tideSource && x.release.isNone && !x.closed && podExpect s x.idx ≤ podTotal x && podTotal x != 0 then
    let rel := s.tide.now + releaseLead s
    let late := x.idx = commitBar s && x.use = 0 &&
      (match decisionTide s x.step with | some c => decide (c < rel) | none => decide (x.step + 1 < s.tide.step))
    if late then s else takeRelease s x rel 8
  else s

/-- A use changed: its total goes up, or the source completes it (R294, R295). -/
def podChanged (s : State) (x : PodUse) : State :=
  let s := putUse s x
  if s.tide.state = tideSource then tryRelease s x else sendTotal s x

/-- Own completions that found no room come in while there is room, and at once on a package that is no source (R295). -/
def admitOwn : Nat → State → State
  | 0, s => s
  | k + 1, s =>
    match s.tide.noRoom with
    | [] => s
    | (i, n, u) :: rest =>
      if sourceFull s then s
      else admitOwn k (podChanged (setTide s fun t => { t with noRoom := rest }) { podUse s i n u with own := true })

def settlePods (s : State) : State := admitOwn s.tide.noRoom.length s

/-- The package completes use u of counter i in step n (R292). At the source one that would be the 65th open entry waits for room
(R295). -/
def completeOwn (s : State) (i n u : Nat) : State :=
  settlePods (setTide s fun t => { t with noRoom := t.noRoom ++ [(i, n, u)] })

/-- Arrivals and uses of a pod counter in a step. -/
def podCount (s : State) (i n : Nat) : PodCount :=
  (s.tide.counts.find? fun c => c.idx = i && c.step = n).getD ⟨i, n, 0, 0⟩

def putCount (s : State) (c : PodCount) : State :=
  setTide s fun t => { t with counts := t.counts.filter (fun d => !(d.idx = c.idx && d.step = c.step)) ++ [c] }

/-- R292, R293: one member arrival at pod counter i in step n. -/
def podArrive (s : State) (i n : Nat) : State :=
  let c := podCount s i n
  if c.arrivals + 1 = podShare s i then
    if c.uses < 256 then completeOwn (putCount s { c with arrivals := 0, uses := c.uses + 1 }) i n c.uses
    else faultAt (setTideEvent (putCount s { c with arrivals := 0 }) evUseOvf) n 0
  else putCount s { c with arrivals := c.arrivals + 1 }

/-! Barrier counters of isle and package (R75, R76). -/

def pkgBar (s : State) (b : Nat) : Bar := tblGet barReset s.bars.pkg b
def isleBar (s : State) (k : Nat) : Bar := tblGet barReset s.bars.isle k

def setPkgBar (s : State) (b : Nat) (x : Bar) : State := { s with bars := { s.bars with pkg := tblSet barReset s.bars.pkg b x } }
def setIsleBar (s : State) (k : Nat) (x : Bar) : State := { s with bars := { s.bars with isle := tblSet barReset s.bars.isle k x } }

/-- An arrival reaches its counter. At EXPECT the count returns to 0 and every member is released once. -/
def arrive (s : State) (a : Arrival) : State :=
  if a.scope = 2 then
    (if podExpect s a.index = 0 then modCore s a.core fun k => coreErr k errBarCfg else podArrive s a.index a.step)
  else
    let isleKey := 64 * (a.core / 144) + a.index
    let b := if a.scope = 0 then isleBar s isleKey else pkgBar s a.index
    let put := fun (s : State) (x : Bar) => if a.scope = 0 then setIsleBar s isleKey x else setPkgBar s a.index x
    if b.expect = 0 then modCore s a.core fun k => coreErr k errBarCfg
    else if b.expect ≤ b.count + 1 then
      let members := if a.scope = 0 then b.members <<< (144 * (a.core / 144)) else b.members
      let s := queueAddAll (put s { b with count := 0 }) members b.relSem
      if a.scope = 1 then countRelease s a.step a.index else s
    else put s { b with count := b.count + 1 }

/-- R75, R292: the oldest arrival of core c reaches its counter. -/
def execBarrierArrival (c : Fin 576) (now : Nat) (s : State) : Host.Outcome State Fault Refusal :=
  match s.bars.transit.find? fun a => a.core = c.val with
  | none => .next s
  | some a =>
    let t := atTide s now
    when (alive s) s (arrive { t with bars := { t.bars with transit := t.bars.transit.erase a } } a)

/-- The step nearest the present one whose low 16 bits a frame carries. -/
def nearStep (s : State) (low : Nat) : Nat :=
  let step := s.tide.step
  let off := (low + 65536 - (step + 32768) % 65536) % 65536
  if off + step < 32768 then low else step + off - 32768

/-- BAR_RELEASE of an entry (Table 9-2), on every up port but one. -/
def floodRelease (s : State) (x : PodUse) (rel but : Nat) : State :=
  flood s but 0x13 (leBytes 1 x.idx ++ leBytes 1 x.use ++ leBytes 2 x.step ++ leBytes 8 rel)

/-- A child's total of an entry is stored. An entry that the source has already seen released is released again by its RELEASE_TIDE where
the total changes (R297, log 105). -/
def childTotal (s : State) (x : PodUse) (p total : Nat) : State :=
  let y := { x with totals := tblSet 0 x.totals p total }
  match x.release with
  | none => podChanged s y
  | some (rel, _) => if s.tide.state = tideSource && x != y then floodRelease (putUse s y) x rel 8 else putUse s y

/-- R294: a child's TOTAL is stored and the package's total sent on. At the source an entry that would be the 65th open one is
dropped (R295), and one that R363 closed is ignored. -/
def barArriveEff (s : State) (p : Nat) (f : Frame) : State :=
  let x := podUse s (bNat f.body 0 1 % 8) (nearStep s (bNat f.body 2 2)) (bNat f.body 1 1)
  let child := match (portOf s p).marker with | some m => m.child | none => false
  let held := s.tide.uses.any fun y => isUse x.idx x.step x.use y && (y.release.isSome || podTotal y != 0)
  if !child || x.closed || (sourceFull s && !held) then s
  else settlePods (childTotal s x p (bNat f.body 4 2))

def execBarArrive (p : Fin 8) (f : Frame) (now : Nat) (s : State) : Host.Outcome State Fault Refusal :=
  tideRow s p 0x12 f fun t => barArriveEff (atTide t now) p f

/-- R294: every 10 µs. -/
def execBarArriveResend (now : Nat) (s : State) : Host.Outcome State Fault Refusal :=
  when (alive s) s (resendTotals (atTide s now))

/-- The decision of step n has passed: its instant C_n lies behind, or the step has been decided (R364). -/
def lateFor (s : State) (n : Nat) : Bool :=
  (decide (s.commit.runFrom ≤ n) && decide (n < s.commit.evalNext) && !s.commit.evals.any fun e => e.step = n) ||
    (match decisionTide s n with | some c => decide (c < s.tide.now) | none => s.tide.running && decide (n + 1 < s.tide.step))

/-- R296: the first BAR_RELEASE of an entry is flooded and its adds are scheduled. For COMMIT_BAR one received after C_s is ignored
and sets COMMIT_STAT.LATE_RELEASE (R364). -/
def barReleaseEff (s : State) (p : Nat) (f : Frame) : State :=
  let x := podUse s (bNat f.body 0 1 % 8) (nearStep s (bNat f.body 2 2)) (bNat f.body 1 1)
  if x.release.isSome then s
  else
    let t := settlePods (takeRelease s x (bNat f.body 4 8) p)
    if x.idx = commitBar s && x.use = 0 && lateFor s x.step then { t with commit := { t.commit with lateRelease := true } } else t

def execBarRelease (p : Fin 8) (f : Frame) (now : Nat) (s : State) : Host.Outcome State Fault Refusal :=
  tideRow s p 0x13 f fun t => barReleaseEff (atTide t now) p f

/-- R77, R296: at RELEASE_TIDE every member core's inbound ferry is told to add 1. -/
def execPodReleaseAdd (i : Fin 8) (now : Nat) (s : State) : Host.Outcome State Fault Refusal :=
  let t := atTide s now
  match t.tide.uses.find? fun x => x.idx = i.val && x.addDue &&
      (match x.release with | some r => decide (r.1 ≤ t.tide.now) | none => false) with
  | none => .next s
  | some x => when (alive s) s (putUse (queueAddAll t (podMembers t i) (podRelSem t i)) { x with addDue := false })

/-! Tempo requirements (R287–R290). -/

/-- A port's active lanes (R237). -/
def activeLanes (failed : Reg) : Nat := ((List.range 32).filter fun n => !failed.getLsbD n).length
def lanesTx (k : Port) : Nat := if k.trained then activeLanes k.failTx else 0
def lanesRx (k : Port) : Nat := if k.trained then activeLanes k.failRx else 0

/-- q of an armed source or transit context (R287). -/
def flowQ (s : State) (d : Line) : Nat :=
  let lanes := if portUp s (fld d 2 0 3) then lanesTx (portOf s (fld d 2 0 3)) else 0
  let budget := fldB d 40 4
  if cState d = 2 ∧ cRole d ≤ 1 ∧ budget ≠ 0 ∧ lanes ≠ 0 then
    let f := sizeBytes (fldB d 3 1)
    let line := cdiv (fldB d 44 8) f * (64 * cdiv (f + 44) 64)
    let need := cdiv (line * 8) (lanes * 200)
    cdiv (4096 * (need + retryReserve s)) budget
  else 0

/-- Active lanes of an isthmus per direction (R18). -/
def isthMod (s : State) (k m : Nat) : IsthModule := tblGet moduleReset s.isth.mods (16 * k + m)
def modLanes (w : Nat) : Nat := if w = 1 then 64 else if w = 2 then 32 else 0
def isthLanes (s : State) (k : Nat) : Nat := ((List.range 16).map fun m => modLanes (isthMod s k m).width).foldl (· + ·) 0

/-- q of isthmus budget j (R288). -/
def isthQ (s : State) (j : Nat) : Nat :=
  let lanes := isthLanes s (j / 2)
  let budget := secNat s secTide (40 + 16 * j) 4
  if budget = 0 ∨ lanes = 0 then 0
  else cdiv (4096 * (cdiv (secNat s secTide (32 + 16 * j) 6 * 8) (lanes * 32) + retryReserve s)) budget

/-- The overrun term (R289): it applies only when d lies past the frame's end. -/
def overrunQ (s : State) : Nat :=
  match s.tide.lastDone with
  | some (d, t0, t1, q) => if policyOverrun s && t1 < d then cdiv (q * (d - t0)) (t1 - t0) else 0
  | none => 0

/-- The package's required tempo before its limit (R289). -/
def requiredQ (s : State) : Nat :=
  max (max 4096 (overrunQ s))
    (max ((s.straits.flows.map fun d => flowQ s d.2).foldl max 0) (((List.range 8).map (isthQ s)).foldl max 0))

/-- The largest requirement of package and children (R290). -/
def aggregateQ (s : State) : Nat := ((List.range 8).map fun p => (portOf s p).reqQ).foldl max s.tide.pkgQ

def reqBody (s : State) : List Byte := leBytes 2 (aggregateQ s) ++ leBytes 1 (if s.tide.limit then 1 else 0)

/-- The tempo of the last frame announced or in force (R291); before the first frame, the tempo that JOB_START gave. -/
def lastQ (s : State) : Nat :=
  (s.tide.pending.getLast?.map (·.q)).getD (match s.tide.due with | some d => d.2.2 | none => s.tide.curQ)

/-- The source shows the pod's requirement in POD_Q; a rise and a requirement beyond TEMPO_MAX are reported (R290, R291). -/
def showPodQ (s : State) : State :=
  if s.tide.state = tideSource then
    let n := aggregateQ s
    let t := setTide s fun t => { t with podQ := n }
    let t := if s.tide.podQ < n then setTideEvent t evReqRise else t
    if policyAuto s && tempoMax s < n then setTideEvent t evTempoLimit else t
  else s

/-- The aggregate may have changed: the parent hears of a change, the source shows it (R290, R291). -/
def aggregateChanged (s : State) (old : Nat) : State :=
  let t := showPodQ s
  if old != aggregateQ s && s.tide.parent < 8 then sendTide t t.tide.parent 0x14 0 (reqBody t) else t

/-- R289: recompute the required tempo. -/
def recomputeTempo (s : State) : State :=
  let old := aggregateQ s
  let q := requiredQ s
  let t := setTide s fun t => { t with pkgQ := min 16384 q, limit := 16384 < q }
  aggregateChanged (if s.tide.pkgQ < min 16384 q then setTideEvent t evReqRise else t) old

/-- A neighbour is no child any more: its requirement and its totals count no longer (R290, R294). -/
def loseChild (s : State) (p : Nat) : State :=
  let lost := s.tide.uses.filter fun x => tblGet 0 x.totals p != 0
  let t := aggregateChanged (modPort s p fun k => { k with reqQ := 0 }) (aggregateQ s)
  lost.foldl (fun t x =>
    let y := { x with totals := tblErase x.totals p }
    if x.release.isNone && !x.closed then podChanged t y else putUse t y) t

/-- A child's port has gone down or its markers live no longer. -/
def dropChild (s : State) (p : Nat) : State :=
  loseChild (modPort s p fun k => { k with marker := k.marker.map fun m => { m with child := false } }) p

/-- R290: a child's requirement is kept while its markers set CHILD. -/
def execTempoReq (p : Fin 8) (f : Frame) (s : State) : Host.Outcome State Fault Refusal :=
  tideRow s p 0x14 f fun s =>
    let child := match (portOf s p).marker with | some m => m.child | none => false
    if child then aggregateChanged (modPort s p fun k => { k with reqQ := bNat f.body 0 2 }) (aggregateQ s) else s

/-- R290: every 100 µs. -/
def execTempoReqSend (now : Nat) (s : State) : Host.Outcome State Fault Refusal :=
  let t := atTide s now
  when (alive s && s.tide.parent < 8) s (sendTide t t.tide.parent 0x14 0 (reqBody t))

/-! Frames of the schedule and tempo announcements (R281–R286, R291). -/

/-- TEMPO_CUR.NEXT_Q. -/
def nextQ (s : State) : Nat :=
  if s.tide.running then tempoOf s (s.tide.step + 1) else match s.tide.due with | some d => d.2.2 | none => 0

/-- The current step; before the first frame it is s0 − 1 (R436). -/
def currentStep (s : State) : Int :=
  match s.tide.due with
  | some d => (d.1 : Int) - 1
  | none => s.tide.step

/-- The earliest boundary a command may name now: s + 2, or s + 3 in the last 200 µs of a frame (R284, R350, R436). -/
def earliestBoundary (s : State) : Int :=
  let last := s.tide.running && decide (nextStart s ≤ s.tide.now + 200000)
  let lastFirst := match s.tide.due with | some d => decide (d.2.1 ≤ s.tide.now + 200000) | none => false
  currentStep s + (if last || lastFirst then 3 else 2)

/-- The boundary of the next announcement (R284). -/
def announceBoundary (s : State) : Nat :=
  max (earliestBoundary s).toNat ((s.tide.pending.map fun a => a.step + 1).foldl max 0)

def announceBody (a : Announce) : List Byte := leBytes 1 1 ++ [0] ++ leBytes 2 a.q ++ leBytes 8 a.step

/-- R284: the source announces q. -/
def announce (s : State) (q : Nat) : State :=
  let a : Announce := ⟨announceBoundary s, q⟩
  let s := setTide s fun t => { t with pending := t.pending ++ [a] }
  setTideEvent (flood s 8 0x11 (announceBody a)) evAnnounced

/-- R291: POLICY AUTO. -/
def execTempoAnnounce (now : Nat) (s : State) : Host.Outcome State Fault Refusal :=
  let t := atTide s now
  let q := min t.tide.podQ (tempoMax t)
  when (alive s && t.tide.state = tideSource && jobRuns t && policyAuto t && decide (lastQ t < q)
    && decide (t.tide.pending.length < 4)) s (announce t q)

/-- R284: the source repeats each pending announcement. -/
def execScheduleRepeat (now : Nat) (s : State) : Host.Outcome State Fault Refusal :=
  let t := atTide s now
  when (alive s && t.tide.state = tideSource) s
    (t.tide.pending.foldl (fun s a => flood s 8 0x11 (announceBody a)) t)

/-- The frame k frames after frame (n, T, Q), by the recurrence of R281 with the announcements held (R285). -/
def frameAfter (s : State) : Nat → Nat × Nat × Nat → Nat × Nat × Nat
  | 0, f => f
  | k + 1, (n, t, q) =>
    frameAfter s k (n + 1, t + ticksNs (frameTicks s) q, ((s.tide.pending.filter fun a => a.step ≤ n + 1).getLast?.map (·.q)).getD q)

/-- The first frame of a skerry follows the announcements held (R298). -/
def rejoin (s : State) : State :=
  match s.tide.joinRef, s.tide.due with
  | some r, some d => setTide s fun t => { t with due := some (frameAfter s (d.1 - r.1) r) }
  | _, _ => s

/-- R285: a KIND 1 frame received for the first time is stored and flooded. -/
def takeAnnounce (s : State) (p : Nat) (a : Announce) : State :=
  if s.tide.pending.contains a then s
  else
    let ps := (s.tide.pending.filter fun b => b.step < a.step) ++ [a] ++ s.tide.pending.filter fun b => a.step ≤ b.step
    rejoin (setTideEvent (flood (setTide s fun t => { t with pending := ps }) p 0x11 (announceBody a)) evAnnounced)

/-- R269, R285: a SCHEDULE frame of KIND 1. -/
def execScheduleTempoChange (p : Fin 8) (f : Frame) (s : State) : Host.Outcome State Fault Refusal :=
  tideRow s p 0x11 f fun s => if bNat f.body 0 1 = 1 then takeAnnounce s p ⟨bNat f.body 4 8, bNat f.body 2 2⟩ else s

def stateBody (s : State) : List Byte :=
  leBytes 1 2 ++ [0] ++ leBytes 2 s.tide.curQ ++ leBytes 8 s.tide.step ++ leBytes 8 s.tide.start

/-- The first boundary after frame (n, T, Q) whose start lies at least 1 ms ahead (R298): the recurrence of R281 with the
announcements held. -/
def joinBoundary (s : State) : Nat → Nat → Nat → Nat → Nat × Nat × Nat
  | 0, n, t, q => (n, t, q)
  | fuel + 1, n, t, q =>
    let t' := t + ticksNs (frameTicks s) q
    let q' := ((s.tide.pending.filter fun a => a.step ≤ n + 1).getLast?.map (·.q)).getD q
    if s.tide.now + 1000000 ≤ t' then (n + 1, t', q') else joinBoundary s fuel (n + 1) t' q'

/-- The package's own values for step n: by the recurrence from the frame in force or the first one, or a frame that it remembers. -/
def ownFrame (s : State) (n : Nat) : Option (Nat × Nat × Nat) :=
  if s.tide.running then
    (if s.tide.step ≤ n then some (frameAfter s (min 65536 (n - s.tide.step)) (s.tide.step, s.tide.start, s.tide.curQ))
     else s.tide.frames.find? fun f => f.1 = n)
  else s.tide.due.bind fun d => if d.1 ≤ n then some (frameAfter s (min 65536 (n - d.1)) d) else none

/-- A skerry that is armed and LOCKED, with a frame of its parent as its reference, has its first boundary (R298). -/
def tryJoin (s : State) : State :=
  match s.tide.joinRef with
  | some v =>
    if s.job.state = jobArmed && s.job.adopted && s.tide.locked && s.tide.due.isNone then
      setTide s fun t => { t with due := some (joinBoundary s 20000 v.1 v.2.1 v.2.2) }
    else s
  | none => s

/-- R283: the parent's frame state is compared with the package's own for that step; other values are taken from the next frame start
on, which before the first frame is that frame's own. A skerry joins by it (R298). -/
def frameState (s : State) (p : Nat) (v : Nat × Nat × Nat) : State :=
  if s.tide.parent != p then s
  else if s.job.state = jobArmed && s.job.adopted then tryJoin (setTide s fun t => { t with joinRef := some v })
  else if s.tide.running then
    (if ownFrame s v.1 = some v then s else setTideEvent (setTide s fun t => { t with adopt := some v }) evMismatch)
  else match ownFrame s v.1 with
    | none => s
    | some own => if own = v then s else setTideEvent (setTide s fun t => { t with due := some v }) evMismatch

/-- R269, R283: a SCHEDULE frame of KIND 2. -/
def execScheduleFrameState (p : Fin 8) (f : Frame) (s : State) : Host.Outcome State Fault Refusal :=
  tideRow s p 0x11 f fun s =>
    if bNat f.body 0 1 = 2 then frameState s p (bNat f.body 4 8, bNat f.body 12 8, bNat f.body 2 2) else s

/-! Markers and states of the tide (R270–R278). -/

/-- A marker is live (R270). -/
def markerLive (m : Marker) (now : Nat) : Bool := now ≤ m.changedAt + 3000

/-- A neighbour may be taken as parent (R272). -/
def candidate (s : State) (p : Nat) : Option Marker :=
  match (portOf s p).marker with
  | some m => if portUp s p && markerLive m s.tide.now && decide (m.depth ≤ 253) && !m.child then some m else none
  | none => none

/-- The neighbour with the lowest RANK, then DEPTH, then port (R272). -/
def bestParent (s : State) : Option (Nat × Marker) :=
  ((List.range 8).filterMap fun p => (candidate s p).map fun m => (p, m)).foldl (fun b x =>
    match b with
    | none => some x
    | some y => if x.2.rank < y.2.rank || (x.2.rank = y.2.rank && x.2.depth < y.2.depth) then some x else some y) none

/-- The package takes a parent (R272, Table 9-3): ACQUIRING where a step is allowed, else TRACKING; its totals and requirement go
up (R294). -/
def takeParent (s : State) (p : Nat) (m : Marker) : State :=
  let first := (s.tide.state = tideFree || s.tide.mayStep) && !armed s
  let t := setTide s fun t => { t with
    parent := p, depth := m.depth + 1, srcRank := m.rank, srcSeq := m.seq, inBound := none, podQ := 0
    state := if first then tideAcquiring
      else if t.state = tideFree || t.state = tideHoldover || t.state = tideSource then tideTracking else t.state
    locked := t.locked && t.state != tideSource && !first && t.state != tideHoldover
    mayStep := first }
  let t := if s.tide.locked && !t.tide.locked then setTideEvent t evHoldover else t
  let t := resendTotals (settlePods (setTideEvent t evSourceChange))
  sendTide t p 0x14 0 (reqBody t)

/-- R272: choose or keep the parent. A source gives way only to a lower RANK (R278). -/
def chooseParent (s : State) : State :=
  match bestParent s with
  | none => s
  | some (p, m) =>
    if s.tide.state = tideSource then (if m.rank < s.tide.rank then takeParent s p m else s)
    else
      match (if s.tide.parent < 8 then candidate s s.tide.parent else none) with
      | some mine => if p = s.tide.parent || mine.rank ≤ m.rank then s else takeParent s p m
      | none => takeParent s p m

/-- R271: the offset by a marker of the parent that carries ECHO_VALID, in 2⁻⁸ ns. -/
def markerOffset (t1 t2 : Nat) (echo : Int) : Int := (((t2 : Int) - t1) - echo) / 2
def markerDelay (t1 t2 : Nat) (echo : Int) : Int := (((t2 : Int) - t1) + echo) / 2

/-- TIDE_OFFSET.PS of an offset. -/
def offsetPs (o : Int) : Reg := BitVec.ofInt 32 (max (-2147483647) (min 2147483647 (o * 1000 / 256)))

/-- LOCKED is lost (R273). -/
def loseLock (s : State) : State :=
  setTideEvent (setTide s fun t => { t with locked := false, state := if t.state = tideLocked then tideTracking else t.state })
    evHoldover

/-- A moment of the tide's time, after a step of the tide by d. -/
def movedBy (d : Int) (t : Nat) : Nat := ((t : Int) + d).toNat

/-- A step of the tide by d ns (R267): the moments from which time is measured move with it. -/
def moveTimes (s : State) (d : Int) : State :=
  let m := movedBy d
  let port := fun (k : Port) => { k with
    ueAt := k.ueAt.map fun x => (x.1, m x.2)
    marker := k.marker.map fun x => { x with changedAt := m x.changedAt, arrival := movedBy (256 * d) x.arrival } }
  let session := fun (k : Session) => { k with
    out := k.out.map fun h => { h with lastTx := m h.lastTx }, nack := k.nack.map fun n => (n.1, m n.2) }
  { s with
    cores := s.cores.map fun c => (c.1, { c.2 with changed := m c.2.changed })
    straits := { s.straits with
      ports := s.straits.ports.map fun x => (x.1, port x.2), sessions := s.straits.sessions.map fun x => (x.1, session x.2) }
    tide := { s.tide with roleAt := m s.tide.roleAt, holdSince := m s.tide.holdSince }
    boot := { s.boot with resetDue := s.boot.resetDue.map m, lifecycleDue := s.boot.lifecycleDue.map m } }

/-- An offset from the parent is known: ACQUIRING steps the tide once (R267), other states keep watch on ±2 ns (R273). -/
def applyOffset (s : State) (o : Int) : State :=
  let s := setTide s fun t => { t with offset := offsetPs o }
  if s.tide.state = tideAcquiring && s.tide.mayStep && !armed s then
    let t256 := ((s.tide.now * 256 + s.tide.frac : Nat) : Int) - o
    setTide (moveTimes s (((t256.toNat / 256 : Nat) : Int) - s.tide.now)) fun t => { t with
      now := t256.toNat / 256, frac := t256.toNat % 256, state := tideTracking, mayStep := false, inBound := none }
  else if o.natAbs ≤ 512 then setTide s fun t => { t with inBound := some (t.inBound.getD t.now) }
  else
    let s := setTide s fun t => { t with inBound := none }
    if s.tide.locked then loseLock s else s

/-- R270–R272, R278: a MARKER arrives. -/
def markerEff (s : State) (p : Nat) (f : Frame) : State :=
  let flags := bNat f.body 1 1
  let seq := f.seq.toNat
  let old := (portOf s p).marker
  let changed := match old with | some m => if m.seq = seq then m.changedAt else s.tide.now | none => s.tide.now
  let m : Marker := ⟨seq, changed, flags % 8, bNat f.body 0 1, flags.testBit 3, flags.testBit 4,
    f.stamp.toNat * 256 + bNat f.body 2 1, s.tide.now * 256 + s.tide.frac⟩
  let s := modPort s p fun k => { k with marker := some m }
  let s := chooseParent (if m.child then s else loseChild s p)
  if s.tide.parent = p && s.tide.state != tideSource then
    let s := if s.tide.srcRank = m.rank then s else setTideEvent s evSourceChange
    let s := setTide s fun t => { t with srcSeq := seq, depth := m.depth + 1, srcRank := m.rank }
    let s := if s.tide.state = tideLocked && !m.locked then loseLock s else s
    if flags.testBit 5 then applyOffset s (markerOffset m.stamp m.arrival (sgn 64 (bNat f.body 4 8))) else s
  else s

def execMarker (p : Fin 8) (f : Frame) (now : Nat) (s : State) : Host.Outcome State Fault Refusal :=
  tideRow s p 0x10 f fun t => markerEff (atTide t now) p f

/-- The body of a MARKER for port p (Table 9-2). -/
def markerBody (s : State) (p : Nat) : List Byte :=
  let m := (portOf s p).marker
  let echo := match m with | some m => decide (s.tide.now * 256 + s.tide.frac ≤ m.arrival + 512000) | none => false
  let diff : Int := match m with | some m => (m.arrival : Int) - m.stamp | none => 0
  leBytes 1 s.tide.depth ++
    leBytes 1 (s.tide.srcRank + (if s.tide.locked then 8 else 0) + (if s.tide.parent = p then 16 else 0) + (if echo then 32 else 0)) ++
    leBytes 1 s.tide.frac ++ [0] ++ leBytes 8 (if echo then unsgn 64 diff else 0)

/-- The children whose markers live no longer are dropped (R290, R294). -/
def dropLost (s : State) : State :=
  (List.range 8).foldl (fun s p =>
    match (portOf s p).marker with
    | some m => if m.child && !markerLive m s.tide.now then dropChild s p else s
    | none => s) s

/-- R270: every 1 µs a MARKER leaves every up port that does not pause; the source advances the source sequence. -/
def execMarkerSend (now : Nat) (s : State) : Host.Outcome State Fault Refusal :=
  let t := dropLost (atTide s now)
  let t := if t.tide.state = tideSource then setTide t fun x => { x with srcSeq := (x.srcSeq + 1) % 2 ^ 32 } else t
  when (alive s && s.tide.podId != 0) s
    ((List.range 8).foldl (fun s p => if (portOf s p).pauseTx then s else sendTide s p 0x10 s.tide.srcSeq (markerBody s p)) t)

/-- The package enters HOLDOVER: no parent, no present source (log 9); LOCKED stays for 100 ms (R273). -/
def enterHoldover (s : State) : State :=
  setTideEvent (setTide s fun t => { t with
    state := tideHoldover, parent := 8, depth := 0xFF, srcRank := 7, inBound := none, podQ := 0, holdSince := t.now }) evHoldover

/-- R272: no neighbour qualifies. -/
def execHoldover (now : Nat) (s : State) : Host.Outcome State Fault Refusal :=
  let t := atTide s now
  when (alive s && (t.tide.state = tideAcquiring || t.tide.state = tideTracking || t.tide.state = tideLocked)
    && (bestParent t).isNone) s (enterHoldover t)

/-- R273: after 100 ms in HOLDOVER. -/
def execLockedLoss (now : Nat) (s : State) : Host.Outcome State Fault Refusal :=
  let t := atTide s now
  when (alive s && t.tide.state = tideHoldover && t.tide.locked && decide (t.tide.holdSince + 100000000 ≤ t.tide.now)) s (loseLock t)

/-- R273: within ±2 ns for 1 s under a LOCKED parent. -/
def execLockAcquired (now : Nat) (s : State) : Host.Outcome State Fault Refusal :=
  let t := atTide s now
  let parentLocked := match (portOf t t.tide.parent).marker with | some m => m.locked && markerLive m t.tide.now | none => false
  when (alive s && t.tide.state = tideTracking && parentLocked &&
      (match t.tide.inBound with | some b => decide (b + 1000000000 ≤ t.tide.now) | none => false)) s
    (tryJoin (setTide t fun x => { x with state := tideLocked, locked := true }))

/-- The package enters SOURCE (R273, R276, R277); a new source takes over the pod barrier counters (R297). -/
def enterSource (s : State) : State :=
  let s := setTide s fun t => { t with
    state := tideSource, parent := 8, depth := 0, srcRank := t.rank, locked := true, mayStep := false, inBound := none }
  let s := (openUses s).foldl tryRelease (showPodQ (setTideEvent s evSourceChange))
  -- of more open entries than the source holds, the first stay; own completions among the others wait for room (R295)
  let excess := (openUses s).drop 64
  setTide s fun t => { t with
    uses := t.uses.filter fun x => !excess.contains x
    noRoom := t.noRoom ++ (excess.filter (·.own)).map fun x => (x.idx, x.step, x.use) }

/-- R297: the entries that a new source has already seen released it releases by their RELEASE_TIDE. -/
def releaseKnown (s : State) : State :=
  s.tide.uses.foldl (fun s x => match x.release with | some (rel, _) => floodRelease s x rel 8 | none => s) s

/-- R277: time of the last live marker from any neighbour, or of the role. -/
def lastLive (s : State) : Nat :=
  ((List.range 8).map fun p => match (portOf s p).marker with | some m => m.changedAt | none => 0).foldl max s.tide.roleAt

def execBackupTakeover (now : Nat) (s : State) : Host.Outcome State Fault Refusal :=
  let t := atTide s now
  let k := t.tide.rank
  when (alive s && t.tide.podId != 0 && decide (1 ≤ k) && decide (k ≤ 4) && t.tide.state != tideSource
    && s.boot.clkMode != 3 && decide (lastLive t + 10000 + 40000 * (k - 1) ≤ t.tide.now)) s (releaseKnown (enterSource t))

end Sys2Proof.Machine
end

