-- ==== Sys2Proof/Machine/Flows.lean ====
section
/-! DEFINITION. Flows (08): flow contexts, landing at a core and in memory, the sequence, credit and retry rules, the frames that
cross a port. -/

namespace Sys2Proof.Machine

/-! Fields of a flow context (Table 8-5). -/

def fFree : Nat := 0
def fLoaded : Nat := 1
def fArmed : Nat := 2
def fFaulted : Nat := 3
def roleSource : Nat := 0
def roleTransit : Nat := 1
def roleSink : Nat := 2
def roleLocal : Nat := 3
def cNoPort (d : Line) : Bool := fld d 2 3 1 = 1
def cPort (d : Line) : Nat := fld d 2 0 3
def cSize (d : Line) : Nat := fldB d 3 1
def cOutFlow (d : Line) : Nat := fldB d 4 2
def cUpFlow (d : Line) : Nat := fldB d 6 2
def cDestCore (d : Line) : Nat := fldB d 8 2
def cSendSeq (d : Line) : Nat := fldB d 12 4
def cRecvSeq (d : Line) : Nat := fldB d 16 4
def cAckedSeq (d : Line) : Nat := fldB d 20 4
def cCredits (d : Line) : Nat := fldB d 24 4
def cGranted (d : Line) : Nat := fldB d 28 4
def cLaunch (d : Line) : Nat := fldB d 32 6
def cRetryTotal (d : Line) : Nat := fldB d 38 2

/-- Serial-number distance from a to b (R253). -/
def seqDist (a b : Nat) : Nat := (b + 2 ^ 32 - a % 2 ^ 32) % 2 ^ 32

/-- b lies after a, by serial-number arithmetic. -/
def seqAfter (a b : Nat) : Bool := 0 < seqDist a b && seqDist a b < 2 ^ 31

def sends (d : Line) : Bool := cState d = fArmed && cRole d ≤ 1
def receives (d : Line) : Bool := cRole d = roleTransit || cRole d = roleSink

/-- Frames of a transit or sink context arrive on port p: the port that they have come on since arming, before the first of them each
port that is linked with the far end's port whose die holds the context's UP_FLOW (R245; log 14). -/
def arrivesOn (s : State) (i p : Nat) : Bool :=
  let d := flowOf s i
  receives d && roleLinked (portRole s p) &&
    (match (rtOf s i).via with | some q => q = p | none => peerPort s p = cUpFlow d % 16384 / 2048)

def arrivalPort (s : State) (i : Nat) : Option Nat := (List.range 8).find? (arrivesOn s i)

/-- Contexts that the die keeps something of, by identifier. -/
def contexts (s : State) : List Nat := s.straits.flows.map (·.1)

/-! Landing (R59, R84, R144, R464). -/

/-- Bytes that come from another core land in core c's SRAM; under reset they are discarded. -/
def landBytes (s : State) (c a : Nat) (bs : List Byte) : Land :=
  if coreResetting s c || bs.isEmpty then .ok s
  else if !sramOk a bs.length then .error (.sramRange (keptOf s))
  else if hitsDrainSlot (coreOf s c) a bs.length then .error (.drainSlotWrite (keptOf s))
  else .ok (modCore s c fun k => sramWrite k a bs)

/-- Bytes of another package land: its descriptor is not seen here, so the write counts as in flight while it lands (R83, log 10). -/
def landSram (s : State) (c a : Nat) (bs : List Byte) : Land :=
  if coreResetting s c then .ok s
  else if writesClash s c 7 [] [(a, bs.length)] then .error (.writeOverlap (keptOf s))
  else (landBytes s c a bs).map fun s => rememberAll s c 7 [(a, bs.length)]

/-- The add that follows a transfer, to the core of a context's field (R59, R250). -/
def landAdd (s : State) (core sem n : Nat) : State := if coreFieldOk core then queueAdd s (coreField core) sem n else s

/-- A frame of OP 0, 1 or 3 is delivered to the core of a field: its bytes, and with the last frame its add. A later frame that starts
where a memory of Table 2-3 starts belongs to a transfer that runs from one memory into the next (R84). -/
def landFrame (s : State) (core : Nat) (f : Frame) : Land :=
  let a := f.destAddr.toNat
  let put : Land :=
    if f.typ = 2 || frameOp f = 3 || !coreFieldOk core && frameOp f = 0 then .ok s
    else if frameOp f = 0 then
      if !isFirst f && (a = 0x400000 || a = 0x600000) && !coreResetting s (coreField core) then .error (.sramRange (keptOf s))
      else landSram s (coreField core) a (payload f)
    else if inMem a (payload f).length then .ok (writeRange s a (payload f) true .package)
    else .ok s
  match put with
  | .error e => .error e
  | .ok s => .ok (if isLast f then landAdd s core f.destSem.toNat f.destN.toNat else s)

/-! Delivery at a sink or from a core's ferry (R250, R313, R314): the frames of a source keep their order. -/

/-- A frame carries a contribution for a controller; one that names a controller 24–31 reaches none (R219). -/
def forController (x : InFrame) : Bool := x.frame.typ = 1 && frameOp x.frame = 2 && dCtrl x.frame < 24

/-- A frame that is no contribution is delivered, and its credits are granted (R250, R252). -/
def deliverFrame (s : State) (x : InFrame) : Land :=
  if x.frame.typ = 1 && frameOp x.frame = 2 then .ok (returnCredits s x)
  else (landFrame s (cDestCore (flowOf s x.flow)) x.frame).map fun s => returnCredits s x

/-- The frames at the head of a source that wait for no controller are delivered. -/
def drainSource (src : Nat) : Nat → State → Land
  | 0, s => .ok s
  | n + 1, s =>
    match inqOf s src with
    | [] => .ok s
    | x :: rest => if forController x then .ok s else (deliverFrame (setInq s src rest) x).bind (drainSource src n)

/-- A frame comes to its source: it waits behind those that wait (R314). -/
def intoSource (s : State) (x : InFrame) : Land :=
  let src := sourceOf x
  let t := setInq s src (inqOf s src ++ [x])
  drainSource src (inqOf t src).length t

/-- Controller i takes the frame at the head of a source; those behind it that wait for no controller follow. -/
def takeHead (s : State) (i src : Nat) (x : InFrame) : Host.Outcome State Fault Refusal :=
  ofLand ((acceptFrame (setInq s src (inqOf s src).tail) i x).bind fun t => drainSource src (inqOf t src).length t)

/-- The frame at the head of a source, if it is for controller i. -/
def headFor (s : State) (i src : Nat) : Option InFrame :=
  match inqOf s src with
  | x :: _ => if forController x && dCtrl x.frame = i then some x else none
  | [] => none

/-- R221, R313, R314: controller i takes the frame at the head of a source, or marks FULL. -/
def execContributionAccept (i : Fin 24) (src : Nat) (accUpsets : List Nat) (s : State) : Host.Outcome State Fault Refusal :=
  match headFor s i src with
  | none => .next s
  | some x =>
    let t := upsetAcc s i accUpsets
    if !memOn s then .next s
    else if mustWait s i x then .next { t with memory := { t.memory with parkFull := tblSet false t.memory.parkFull i true } }
    else takeHead t i src x

/-- R314: room has freed: controller i takes the head of the first source that no longer has to wait. -/
def execParkWaitRelease (i : Fin 24) (s : State) : Host.Outcome State Fault Refusal :=
  match (List.range 584).findSome? fun src => (headFor s i src).bind fun x => if mustWait s i x then none else some (src, x) with
  | none => .next s
  | some (src, x) => if memOn s then takeHead s i src x else .next s

/-! Control frames of flows (Table 8-4). -/

/-- A control frame leaves a port that is up. -/
def sendCtl (s : State) (p typ flow seq : Nat) (body : List Byte) : State :=
  if portUp s p then sendOut s p (ctlFrame s typ s.straits.jobTag (flow % 16384) seq body) else s

/-- R254: an ACK of context i carries RECV_SEQ − 1 and GRANTED. -/
def sendAck (s : State) (p i : Nat) : State :=
  let d := flowOf s i
  let s := modRt s i fun r => { r with ackOwed := false, ackAt := s.tide.now }
  sendCtl s p 3 (cUpFlow d) (seqDist 1 (cRecvSeq d)) (leBytes 4 (cGranted d))

/-- R253: a NACK for RECV_SEQ, unless one has been sent for it within the last 1 µs. -/
def sendNack (s : State) (p i reason : Nat) : State :=
  let d := flowOf s i
  let recent := match (rtOf s i).nack with
    | some (q, t) => q = cRecvSeq d && decide (s.tide.now ≤ t + 1000)
    | none => false
  if recent then s
  else
    let s := modRt s i fun r => { r with nack := some (cRecvSeq d, s.tide.now) }
    sendCtl s p 4 (cUpFlow d) (cRecvSeq d) (leBytes 4 reason)

/-- Credits of frames that leave the buffers of context i are granted (R252). -/
def grant (s : State) (i n : Nat) : State :=
  modRt (cSet s i 28 32 (cGranted (flowOf s i) + n)) i fun r => { r with ackOwed := true }

/-- R240, R256: a context becomes faulted: its cause, STRAIT_EVENT, a flow fault of the step. What waits on it is given up, and the
credits of forwarded frames are granted so that the fault does not spread upstream. -/
def faultFlow (s : State) (i cause : Nat) : State :=
  let d := flowOf s i
  if cState d = fArmed then
    let held := (((rtOf s i).txq.filter fun x => x.core.isNone).map fun x => frameCredits x.frame).foldl (· + ·) 0
    let s := setFlow s i (setFld (cPut d 1 8 cause) 0 2 fFaulted)
    let s := if cRole d = roleTransit then grant s i held else s
    let s := modRt s i fun r => { r with txq := [], replay := [] }
    faultNow (setStraitEvent s (1#32 <<< (16 + i / 2048))) 2
  else s

/-! Receiving (R252, R253, R256–R258). -/

/-- An arriving frame of the row's type. -/
def portRow (s : State) (p typ : Nat) (f : Frame) (eff : State → Host.Outcome State Fault Refusal) :
    Host.Outcome State Fault Refusal :=
  if arrives s p typ f then eff (marked s p) else .next s

/-- R257: the frame's tag is not this job's. -/
def foreignTag (s : State) (f : Frame) : Bool := s.straits.jobTag = 0 || f.jobTag.toNat != s.straits.jobTag

def countForeign (s : State) (p : Nat) : State := modPort s p fun k => { k with foreign := sat32 (k.foreign + 1) }

def frameFlow (f : Frame) : Nat := f.flow.toNat % 16384

/-- R258: a sequenced frame names a context that does not take it: neither armed nor faulted, no transit or sink, or on a port that
the job does not link. -/
def unknownTo (s : State) (p : Nat) (f : Frame) : Bool :=
  let d := flowOf s (frameFlow f)
  !(cState d = fArmed || cState d = fFaulted) || !receives d || !roleLinked (portRole s p)

/-- RECV_SEQ moves past an accepted frame. -/
def advanceRecv (s : State) (i : Nat) : State := cSet s i 16 32 (cRecvSeq (flowOf s i) + 1)

/-- A new transfer takes the next number (R249). -/
def newXfer (s : State) : State := { s with memory := { s.memory with nextXfer := s.memory.nextXfer + 1 } }

/-- A frame accepted at the sink belongs to the transfer that its flow is in; FIRST begins one. -/
def intoSink (s : State) (i : Nat) (f : Frame) : Land :=
  let s := modRt s i fun r => { r with ackOwed := true }
  if isFirst f then
    let n := s.memory.nextXfer
    intoSource (modRt (newXfer s) i fun r => { r with xfer := n }) ⟨i, none, n, f⟩
  else intoSource s ⟨i, none, (rtOf s i).xfer, f⟩

/-- A frame accepted in order: forwarded, or delivered at the sink (R249, R250). -/
def acceptSeq (s : State) (i : Nat) (f : Frame) : Land :=
  let d := flowOf s i
  let s := advanceRecv s i
  if cState d = fFaulted then .ok (grant s i (frameCredits f))
  else if cRole d = roleTransit then .ok (modRt s i fun r => { r with txq := r.txq ++ [⟨none, f⟩], ackOwed := true })
  else intoSink s i f

/-- R253: a sequenced frame with a good CRC. -/
def sequenced (s : State) (p : Nat) (f : Frame) : Land :=
  let i := frameFlow f
  let want := cRecvSeq (flowOf s i)
  let came := modRt s i fun r => { r with via := some p }
  if foreignTag s f then .ok (countForeign s p)
  else if unknownTo s p f then .ok (countUnknown s p)
  else if f.seq.toNat = want then (acceptSeq came i f).map fun s => sendAck s p i
  else if seqAfter f.seq.toNat want then .ok (sendAck came p i)
  else .ok (sendNack came p i 2)

def execData (p : Fin 8) (f : Frame) (now : Nat) (s : State) : Host.Outcome State Fault Refusal :=
  portRow s p 1 f fun t => ofLand (sequenced (atTide t now) p f)

def execSignal (p : Fin 8) (f : Frame) (now : Nat) (s : State) : Host.Outcome State Fault Refusal :=
  portRow s p 2 f fun t => ofLand (sequenced (atTide t now) p f)

/-- R252, R254: an ACK moves ACKED_SEQ past what it covers, frees those copies and restores CREDITS. -/
def ackEff (s : State) (p : Nat) (f : Frame) : State :=
  let i := frameFlow f
  let d := flowOf s i
  if foreignTag s f then countForeign s p
  else if sends d && cPort d = p then
    let acked := cAckedSeq d
    let upto := (f.seq.toNat + 1) % 2 ^ 32
    let covers := seqDist acked upto ≤ seqDist acked (cSendSeq d)
    let r := rtOf s i
    let s := cSet s i 24 32 (r.initial + bNat f.body 0 4 + 2 ^ 32 - r.spent % 2 ^ 32)
    if covers then
      let s := cSet s i 20 32 upto
      modRt s i fun r => { r with replay := r.replay.filter fun c => seqDist acked upto ≤ seqDist acked c.frame.seq.toNat }
    else s
  else s

def execAck (p : Fin 8) (f : Frame) (now : Nat) (s : State) : Host.Outcome State Fault Refusal :=
  portRow s p 3 f fun t => .next (ackEff (atTide t now) p f)

/-- A frame as it is sent again: RETRY set, stamped anew. -/
def againFrame (s : State) (f : Frame) : Frame := { f with flags := f.flags ||| 0x10, stamp := BitVec.ofNat 64 s.tide.now }

/-- Copies of context i from a SEQ on leave port p again. -/
def resendFrom (s : State) (p i q : Nat) : State :=
  let a := cAckedSeq (flowOf s i)
  let s1 := ((rtOf s i).replay.filter fun c => seqDist a q ≤ seqDist a c.frame.seq.toNat).foldl
    (fun t c => sendOut t p (againFrame s c.frame)) s
  let mark := fun (c : Replay) => if seqDist a q ≤ seqDist a c.frame.seq.toNat then { c with lastTx := s.tide.now } else c
  modRt s1 i fun r => { r with replay := r.replay.map mark }

/-- R255, R256: a retry of context i from a SEQ that it holds. The fourth faults the context. A NACK and a timeout of one tide make one
resend: a frame that a retry has just sent is not sent again (DEDUCED, log 104). -/
def retry (s : State) (i q : Nat) : State :=
  let d := flowOf s i
  match (rtOf s i).replay.find? fun c => c.frame.seq.toNat = q with
  | none => s
  | some c =>
    if c.lastTx = s.tide.now && 0 < c.retries then s
    else if 3 ≤ c.retries then faultFlow s i 1
    else
      let s := cSet s i 38 16 (min 0xFFFF (cRetryTotal d + 1))
      let s := modPort s (cPort d) fun k => { k with retry := sat32 (k.retry + 1) }
      let count := fun (c : Replay) => if c.frame.seq.toNat = q then { c with retries := c.retries + 1 } else c
      let s := modRt s i fun r => { r with replay := r.replay.map count }
      resendFrom s (cPort d) i q

/-- R255: a NACK for a SEQ from ACKED_SEQ on and before SEND_SEQ. -/
def nackEff (s : State) (p : Nat) (f : Frame) : State :=
  let i := frameFlow f
  let d := flowOf s i
  if foreignTag s f then countForeign s p
  else if sends d && cPort d = p && seqDist (cAckedSeq d) f.seq.toNat < seqDist (cAckedSeq d) (cSendSeq d) then
    retry s i f.seq.toNat
  else s

/-- An ACK taken in the same cycle is applied first (R255). -/
def ackFirst (s : State) (p : Nat) : Option Frame → State
  | none => s
  | some f => if arrives s p 3 f then ackEff s p f else s

def execNack (p : Fin 8) (f : Frame × Option Frame) (now : Nat) (s : State) : Host.Outcome State Fault Refusal :=
  portRow s p 4 f.1 fun t => .next (nackEff (ackFirst (atTide t now) p f.2) p f.1)

/-- R255: no ACK has covered ACKED_SEQ within the port's timeout of that frame's last transmission; a timeout below 500 ns acts as
500. -/
def execAckTimeout (f : Fin 16384 × Option Frame) (now : Nat) (s : State) : Host.Outcome State Fault Refusal :=
  let d := flowOf s f.1
  let t := ackFirst (atTide s now) (cPort d) f.2
  let k := portOf s (cPort d)
  match (rtOf t f.1).replay.head? with
  | none => .next t
  | some c => when (alive s && sends d && portUp s (cPort d) && !k.pauseTx && decide (c.lastTx + max 500 k.ackTmo ≤ t.tide.now)) t
      (retry t f.1 c.frame.seq.toNat)

/-- R254: at least every 1 µs while something is unreported. -/
def execAckPeriodic (f : Fin 16384) (now : Nat) (s : State) : Host.Outcome State Fault Refusal :=
  let t := atTide s now
  let d := flowOf s f
  match arrivalPort s f with
  | none => .next s
  | some p => when (alive s && portUp s p && (cState d = fArmed || cState d = fFaulted) && (rtOf s f).ackOwed
      && decide ((rtOf s f).ackAt + 1000 ≤ t.tide.now)) s (sendAck t p f)

/-- R253: a frame whose CRC fails: NACKs for every armed transit or sink context of the port. -/
def execFrameCrcFail (p : Fin 8) (f : Frame × Nat) (s : State) : Host.Outcome State Fault Refusal :=
  when (alive s && portUp s p && !(portOf s p).pauseRx && !frameGood f.1) s
    (((contexts s).filter fun i => cState (flowOf s i) = fArmed && arrivesOn s i p).foldl
      (fun t i => sendNack t p i 1) (marked (atTide s f.2) p))

/-- R258, Table 8-3: a frame that nobody takes is counted. -/
def execUnknownFrame (p : Fin 8) (f : Frame) (s : State) : Host.Outcome State Fault Refusal :=
  let seqd := (f.typ = 1 || f.typ = 2) && !foreignTag s f && unknownTo s p f
  when (arrives s p f.typ.toNat f && (!knownType f.typ.toNat || seqd)) s (countUnknown (marked s p) p)

/-! Sending (R248, R251). -/

/-- Bytes of replay copies on a strait die. -/
def replayBytes (s : State) (die : Nat) : Nat :=
  (s.straits.rt.filter fun x => x.1 / 2048 = die).foldl
    (fun n x => n + (x.2.replay.map fun c => sizeBytes c.frame.size.toNat).foldl (· + ·) 0) 0

/-- R251: the launch hold of the first frame of the step frame's first transfer. -/
def launchOk (s : State) (d : Line) (r : FlowRt) (f : Frame) : Bool :=
  !s.tide.running || cLaunch d = 0 || !isFirst f || r.launched = some s.tide.step
    || decide (s.tide.start + ticksNs (cLaunch d) s.tide.curQ ≤ s.tide.now)

/-- Context i may send the frame at the head of its queue (R251). -/
def readyToSend (s : State) (p i : Nat) : Bool :=
  let d := flowOf s i
  match (rtOf s i).txq.head? with
  | none => false
  | some x => sends d && !cNoPort d && cPort d = p && seqDist (cAckedSeq d) (cSendSeq d) ≤ 2 ^ 31 - 1
      && frameCredits x.frame ≤ cCredits d
      && decide (replayBytes s (i / 2048) + sizeBytes x.frame.size.toNat ≤ 16777216)
      && launchOk s d (rtOf s i) x.frame

/-- The context that the port serves next: round robin from the one after the last (R251). -/
def nextToSend (s : State) (p : Nat) : Option Nat :=
  let cs := (s.straits.rt.map (·.1)).filter (readyToSend s p)
  (cs.find? fun i => (portOf s p).rr ≤ i).orElse fun _ => cs.head?

/-- The frame leaves: it takes the context's SEQ and the next hop's identifier, its credits are spent, a copy is kept; a forwarded
frame leaves the buffers (R252). -/
def sendFrame (s : State) (p i : Nat) (x : TxFrame) : State :=
  let d := flowOf s i
  let n := frameCredits x.frame
  let f : Frame := { x.frame with
    flags := x.frame.flags &&& 0xEF
    flow := BitVec.ofNat 16 (cOutFlow d % 16384)
    seq := BitVec.ofNat 32 (cSendSeq d)
    jobTag := BitVec.ofNat 16 s.straits.jobTag
    stamp := BitVec.ofNat 64 s.tide.now }
  let s := setFlow s i (cPut (cPut d 12 32 (cSendSeq d + 1)) 24 32 (cCredits d - n))
  let s := modRt s i fun r => { r with
    txq := r.txq.tail
    replay := r.replay ++ [⟨f, 0, s.tide.now⟩]
    spent := r.spent + n
    launched := if isFirst f && s.tide.running then some s.tide.step else r.launched }
  let s := if cRole d = roleTransit then grant s i n else s
  let s := modPort s p fun k => { k with rr := (i + 1) % 16384 }
  emit s (.frame p (sealFrame f))

def execFrameSend (p : Fin 8) (now : Nat) (s : State) : Host.Outcome State Fault Refusal :=
  let t := atTide s now
  match nextToSend t p with
  | none => .next s
  | some i => match (rtOf t i).txq.head? with
    | none => .next s
    | some x => when (alive s && portUp s p && !(portOf s p).pauseTx) s (sendFrame t p i x)

/-! Transfers of an outbound ferry (R248). -/

/-- Frame k of a transfer with the context's payload area F. -/
def transferFrame (s : State) (op size destSem destN destAddr : Nat) (bytes : List Byte) (k count : Nat) : Frame :=
  let area := sizeBytes size
  { typ := if op = 3 then 2 else 1
    flags := BitVec.ofNat 8 (op + (if k = 0 then 4 else 0) + (if k + 1 = count then 8 else 0))
    jobTag := BitVec.ofNat 16 s.straits.jobTag
    flow := 0
    seq := 0
    valid := BitVec.ofNat 16 (if op = 3 then 0 else ((bytes.drop (k * area)).take area).length)
    size := BitVec.ofNat 8 (if op = 3 then 0 else size)
    destSem := BitVec.ofNat 8 destSem
    destN := BitVec.ofNat 16 destN
    stamp := 0
    destAddr := BitVec.ofNat 64 (destAddr + k * area)
    body := if op = 3 then List.replicate 20 0 else ((bytes.drop (k * area)).take area ++ List.replicate area 0).take area
    crc := 0 }

/-- The frames of a transfer; one without bytes is one frame with VALID 0. -/
def transferFrames (s : State) (op size destSem destN destAddr : Nat) (bytes : List Byte) : List Frame :=
  let count := if op = 3 then 1 else max 1 (cdiv bytes.length (sizeBytes size))
  (List.range count).map fun k => transferFrame s op size destSem destN destAddr bytes k count

end Sys2Proof.Machine
end

