-- ==== Sys2Proof/Machine/Engines.lean ====
section
/-! DEFINITION. Descriptors start and complete (R53–R57, R74, R499); the load engine, the store engine with its stash writes, and the
ferries (02 Descriptors and engine queues, 06 The stash, R207, R219, R247, R248). -/

namespace Sys2Proof.Machine

/-! Load and store (Table 2-7). -/

def lsRows (d : Line) : Nat := fldB d 2 2
def lsBytes (d : Line) : Nat := fldB d 4 4
def lsMem (d : Line) : Nat := fldB d 8 8 / 64 * 64
def lsMemStride (d : Line) : Nat := fldB d 16 8 / 64 * 64
def lsSram (d : Line) : Nat := fldB d 24 4 / 64 * 64
def lsSramStride (d : Line) : Nat := fldB d 28 4 / 64 * 64
def lsStash (d : Line) : Bool := fld d 1 0 1 = 1
def lsLen (d : Line) : Nat := lsRows d * lsBytes d
/-- With STASH, the entry record (R192). -/
def stashRecord (d : Line) : Nat := fldB d 8 8 / 128 * 128

/-- A range of package memory or of one accumulation cache window (R207). -/
def inStorage (r : Range) : Bool := r.2 = 0 || inMem r.1 r.2 || inAcc r.1 r.2

def lsMemRange (d : Line) : Range := rowsRange (lsMem d) (lsMemStride d) (lsRows d) (lsBytes d)
def lsSramRange (d : Line) : Range := rowsRange (lsSram d) (lsSramStride d) (lsRows d) (lsBytes d)
def lsSramRows (d : Line) : List Range := rowRanges (lsSram d) (lsSramStride d) (lsRows d) (lsBytes d)

/-- Reserved encodings of a load or store (R207, R499). -/
def lsBad (d : Line) (store : Bool) : Bool :=
  fldB d 0 1 != (if store then 4 else 3) || fld d 1 1 7 != 0 || (lsStash d && !store)
    || lsBytes d < 64 || 4194304 < lsBytes d || lsBytes d % 64 != 0
    || fld d 14 0 16 != 0 || fld d 26 7 9 != 0
    || (if store && lsStash d then lsRows d != 0 && !inMem (stashRecord d) 128 else !inStorage (lsMemRange d))

/-! Ferry fields (Tables 2-8, 2-9). -/

def pSrc (d : Line) : Nat := fldB d 2 2
def fLen (d : Line) : Nat := fldB d 4 4
def pSrcAddr (d : Line) : Nat := fldB d 8 4
def pDst (d : Line) : Nat := fldB d 12 4
def fOp (d : Line) : Nat := fldB d 1 1
def fFlow (d : Line) : Nat := fldB d 2 2
/-- The addresses of ferry and pull descriptors stand as they are: R58 speaks of loads and stores (DESIGN CHOICE, log 101). -/
def fSram (d : Line) : Nat := fldB d 8 4
def fDest (d : Line) : Nat := fldB d 16 8
def fDestSem (d : Line) : Nat := fldB d 24 1
def fDestN (d : Line) : Nat := fldB d 26 2
/-- Bytes that a transfer reads. -/
def fBytes (d : Line) : Nat := if fOp d = 3 then 0 else fLen d

def pullBad (d : Line) : Bool :=
  fldB d 0 1 != 5 || !coreFieldOk (pSrc d) || pSrc d / 1024 != 0 || fLen d % 64 != 0 || 16777216 < fLen d

/-- R219: reserved encodings of the arena offset. -/
def arenaDestBad (a : Nat) : Bool :=
  bitsOf a 0 5 != 0 || bitsOf a 21 3 != 0 || bitsOf a 30 2 != 0 || 24 ≤ bitsOf a 32 5 || a / 2 ^ 37 != 0

/-- Reserved encodings of an outbound transfer, that of a context which is no armed source or local one among them (R247). -/
def ferryBad (s : State) (d : Line) : Bool :=
  let x := flowOf s (fFlow d)
  fldB d 0 1 != 6 || 3 < fOp d || fFlow d / 16384 != 0 || (fBytes d % 64 != 0 || 16777216 < fBytes d)
    || (fOp d != 3 && fld d 10 7 9 != 0) || (fOp d != 2 && !semFieldOk (fDestSem d))
    || (fOp d = 1 && fBytes d != 0 && !inMem (fDest d) (fBytes d)) || (fOp d = 2 && arenaDestBad (fDest d))
    || !(cState x = fFaulted || (cState x = fArmed && (cRole x = roleSource || cRole x = roleLocal)))

/-! Start (R55, R57, R74, R82–R84, R499). -/

/-- What the start of a descriptor finds. -/
structure StartCheck where
  /-- A wrong FORMAT or a reserved encoding (R57). -/
  bad : Bool
  /-- Its ranges lie as R84 asks. -/
  inside : Bool
  /-- There is nothing to do: it completes at once. -/
  idle : Bool
  /-- What it writes in this core and in another (R83), the records it read, and where (R44). -/
  writes : List Range
  lands : List (Nat × Range)
  recs : List Line
  touch : List Range
  deriving DecidableEq, Repr

/-- The bytes of another core that a transfer writes: OP 0 over an armed local flow, to a core that is not under reset (R83, R464). -/
def ferryLands (s : State) (d : Line) : List (Nat × Range) :=
  let x := flowOf s (fFlow d)
  let c := coreField (cOutFlow x)
  if fOp d = 0 && cState x = fArmed && cRole x = roleLocal && coreFieldOk (cOutFlow x) && !coreResetting s c then
    [(c, fDest d, fBytes d)]
  else []

def startCheck (s : State) (k : Core) (e : Nat) (d : Line) : StartCheck :=
  if e = 0 then ⟨matrixBad k d || matrixAbsent s d, (matrixRanges k d).all inOperands, false, matrixWrites k d, [], [], []⟩
  else if e = 1 then
    let recs := clauseRecs k d
    ⟨clauseBad d recs || clauseAbsent s d, (cOp d != 1 || inOperands (tableAddr d, 8256)) && (clauseRecRanges d).all inStore, false,
      [], [], recs, clauseRecRanges d⟩
  else if e = 2 then ⟨lsBad d false, oneMemory [lsSramRange d], lsRows d = 0, lsSramRows d, [], [], []⟩
  else if e = 3 then ⟨lsBad d true, oneMemory [lsSramRange d], lsRows d = 0, [], [], [], []⟩
  else if e = 4 then ⟨pullBad d, sramOk (pSrcAddr d) (fLen d) && sramOk (pDst d) (fLen d), fLen d = 0, [(pDst d, fLen d)], [], [], []⟩
  else ⟨ferryBad s d, sramOk (fSram d) (fBytes d), cState (flowOf s (fFlow d)) = fFaulted, [], ferryLands s d, [], []⟩

/-- R55: conditions 2 and 3 of a start at tide `now`. -/
def startReady (k : Core) (q : QEntry) (now : Nat) : Bool :=
  (q.waitSem = 63 || q.waitN ≤ semGet k q.waitSem) &&
    (!q.tideHold || match q.target with | some g => decide (g ≤ now) | none => true)

/-- R74: a held descriptor starts more than one core clock period after its target. -/
def lateLaunch (k : Core) (q : QEntry) (now : Nat) : Bool :=
  q.tideHold && match q.target with | some g => decide (1000 < (now - g) * k.mhz) | none => false

/-- R55, R65: a consuming wait subtracts. -/
def consumeWait (k : Core) (q : QEntry) : Core :=
  if q.consume && q.waitSem != 63 then
    semPut k q.waitSem (semCycle (semGet k q.waitSem) ⟨[], none, [q.waitN], none⟩).value
  else k

/-- The queue of engine e loses its head, which runs. -/
def beginRun (k : Core) (e : Nat) (rest : List QEntry) (r : Run) : Core := setEngine k e ⟨rest, some r⟩

/-- R80: one more late launch; a wrap raises the overflow event. -/
def countLate (s : State) (c : Nat) : State :=
  let n := ((coreOf s c).lateCnt + 1) % 2 ^ 48
  let s := modCore s c fun k => { k with lateCnt := n }
  if n = 0 then setSupEvent s 4 else s

def startEff (s : State) (c e : Nat) (q : QEntry) (rest : List QEntry) : Host.Outcome State Fault Refusal :=
  let s := if lateLaunch (coreOf s c) q s.tide.now then countLate s c else s
  let k := consumeWait (coreOf s c) q
  let x := startCheck s k e q.desc
  let k := sramTouches k x.touch
  if x.bad then .next (setCore s c (coreErr (beginRun k e rest ⟨q, .ready, [], [], []⟩) errDescBad))
  else if !x.inside then undefinedCase .sramRange s
  else if writesClash s c e q.seen x.writes || landsClash s q.seenAbroad x.lands then undefinedCase .writeOverlap s
  else .next (setCore s c (beginRun k e rest ⟨q, if x.idle then .ready else .work, x.writes, x.lands, x.recs⟩))

/-- R55: the head of a queue starts, if the engine is free and its conditions hold. -/
def startHead (s : State) (c e : Nat) : Host.Outcome State Fault Refusal :=
  let k := coreOf s c
  match (engineOf k e).queue, (engineOf k e).run with
  | q :: rest, none => if coreOn s c && startReady k q s.tide.now then startEff s c e q rest else .next s
  | _, _ => .next s

/-! Completion (R56, Table 2-6). -/

/-- Frames of core c wait on a flow or at a controller. -/
def framesWait (s : State) (c f : Nat) : Bool :=
  (rtOf s f).txq.any (fun x => x.core = some c) || s.memory.inq.any (fun q => q.2.any fun x => x.flow = f && x.core = some c)

/-- The running descriptor may complete. -/
def mayComplete (s : State) (c : Nat) (r : Run) : Bool :=
  match r.phase with
  | .ready => true
  | .sending => !framesWait s c (fFlow r.entry.desc)
  | _ => false

/-- R56: the descriptor leaves its engine and signals. -/
def completeCore (k : Core) (e : Nat) (r : Run) : Core :=
  semAdd (setEngine k e { engineOf k e with run := none }) r.entry.sigSem r.entry.sigN

/-- R56, R83: the descriptor ends, and what it wrote is remembered by those in flight. -/
def endRun (s : State) (c e : Nat) (r : Run) : State :=
  let s := setCore s c (noteBusy s (coreOf s c) (completeCore (coreOf s c) e r))
  r.lands.foldl (fun s l => rememberAll s l.1 7 [l.2]) (rememberAll s c e r.writes)

/-- The running descriptor of an engine completes, if it may. -/
def completeEff (s : State) (c e : Nat) : State :=
  match (engineOf (coreOf s c) e).run with
  | none => s
  | some r => if coreOn s c && mayComplete s c r then endRun s c e r else s

def execDescriptorComplete (c : Fin 576) (e : Fin 6) (s : State) : Host.Outcome State Fault Refusal := .next (completeEff s c e)

/-! Load (R58, R207, R223). -/

/-- Row r of a load as it is read. -/
def loadRow (s : State) (d : Line) (r : Nat) : State × List Byte :=
  let a := lsMem d + r * lsMemStride d
  if inMem a (lsBytes d) then readLines s a (lsBytes d / 64) .package else readAcc s a (lsBytes d) .package

/-- The rows, read in order. -/
def loadRows (d : Line) : Nat → State → List (Nat × List Byte) → State × List (Nat × List Byte)
  | 0, s, ws => (s, ws)
  | n + 1, s, ws =>
    let r := lsRows d - (n + 1)
    let (s, bs) := loadRow s d r
    loadRows d n s (ws ++ [(lsSram d + r * lsSramStride d, bs)])

def execLoad (c : Fin 576) (upsets : List Upset) (s : State) : Host.Outcome State Fault Refusal :=
  engineRow s c 2 .work (fun _ => true) fun k r =>
    let d := r.entry.desc
    if !memOn s then .next s
    else if touchesDrainSlot k (lsSramRows d) then undefinedCase .drainSlotWrite s
    else
      let (t, ws) := loadRows d (lsRows d) (addUpsets s upsets) []
      .next (modCore t c fun k => setPhase (sramWrites k ws) 2 .ready)

/-! Store (R58, R207, R223, R225). -/

/-- One row goes to package memory or to an accumulation cache. -/
def storeRow (s : State) (d : Line) (r : Nat) (bs : List Byte) : State :=
  let a := lsMem d + r * lsMemStride d
  if inMem a bs.length then writeLines s a bs true else writeAcc s a bs

def storeEff (s : State) (c : Nat) (k : Core) (d : Line) : State :=
  let rows := lsSramRows d
  let t := setCore s c (setPhase (sramTouches k rows) 3 .ready)
  (List.range (lsRows d)).foldl (fun t r => storeRow t d r (memRead k.sram (lsSram d + r * lsSramStride d) (lsBytes d))) t

def execStore (c : Fin 576) (sramUpsets : List SramUpset) (s : State) : Host.Outcome State Fault Refusal :=
  engineRow s c 3 .work (fun d => !lsStash d) fun k r =>
    when (memOn s) s (storeEff s c (sramUpset k sramUpsets) r.entry.desc)

/-! Stash writes (R192–R198, R207). Record, header and previous record as bytes. -/

def bPut (b : List Byte) (o : Nat) (v : List Byte) : List Byte := b.take o ++ v ++ b.drop (o + v.length)

/-- STATE and DEPTH of a record take values; its other bits stay. -/
def recordState (b : List Byte) (state depth : Nat) : List Byte :=
  bPut (bPut b 0 (leBytes 1 (bNat b 0 1 / 4 * 4 + state))) 1 (leBytes 1 (bNat b 1 1 / 8 * 8 + depth))

/-- A range that the engine reaches through the record: DESC_BAD where it does not lie in package memory (R207). -/
structure StashAcc where
  st : State
  bad : Bool
  deriving DecidableEq, Repr

def stashRead (x : StashAcc) (a n : Nat) : StashAcc × List Byte :=
  if inMem a n then let (s, b) := readRange x.st a n .package; (⟨s, x.bad⟩, b)
  else (⟨x.st, true⟩, List.replicate n 0)

def stashPut (x : StashAcc) (a : Nat) (bs : List Byte) : StashAcc :=
  if inMem a bs.length then ⟨writeLines x.st a bs false, x.bad⟩ else ⟨x.st, true⟩

/-- R194: the allocation, one read and write of the header's line. -/
def stashAllocate (x : StashAcc) (hdr len : Nat) : StashAcc × Option Nat :=
  let (x, h) := stashRead x hdr 64
  let full := bNat h 28 1 % 2 = 1
  let fill := bNat h 16 8
  if full || bNat h 8 8 < fill + len then
    (stashPut x hdr (bPut h 28 (leBytes 1 (bNat h 28 1 / 2 * 2 + 1))), none)
  else (stashPut x hdr (bPut h 16 (leBytes 8 (fill + len))), some (bNat h 0 8 % 2 ^ 48 / 64 * 64 + fill))

/-- R196: how far back an absent entry's recomputation starts, and whether its anchor is lost. -/
def stashDepth (x : StashAcc) (prev : Nat) : StashAcc × Nat × Bool :=
  if prev = 0 then (x, 7, true)
  else
    let (x, p) := stashRead x (prev / 128 * 128) 128
    let st := bNat p 0 1 % 4
    if st = 3 then (x, 7, true)
    else if st = 2 then
      let d := bNat p 1 1 % 8 + 1
      if 7 < d then (x, 7, true) else (x, d, false)
    else (x, 1, false)

/-- R195: a skip in the header: counted, and ANCHOR_LOST. -/
def stashSkipHeader (x : StashAcc) (hdr : Nat) (lost : Bool) : StashAcc :=
  let (x, h) := stashRead x hdr 64
  let h := bPut h 24 (leBytes 4 (sat32 (bNat h 24 4 + 1)))
  stashPut x hdr (if lost then bPut h 28 (leBytes 1 (bNat h 28 1 ||| 2)) else h)

/-- The record after a write of LEN bytes. -/
def presentRecord (rec : List Byte) (len : Nat) : List Byte := bPut (recordState rec 1 0) 16 (leBytes 8 len)

/-- R193: the write or its skip; whether it skipped. -/
def stashWrite (s : State) (recA : Nat) (data : List Byte) : StashAcc × Bool :=
  let len := data.length
  let (x, rec) := stashRead ⟨s, false⟩ recA 128
  let hdr := bNat rec 32 8 / 64 * 64
  if (bNat rec 0 1).testBit 2 then
    if len ≤ bNat rec 24 8 then
      let x := stashPut x (bNat rec 8 8 / 64 * 64) data
      (stashPut x recA (presentRecord rec len), false)
    else
      let x := stashSkipHeader x hdr true
      (stashPut x recA (recordState rec 2 0), true)
  else
    match stashAllocate x hdr len with
    | (x, some a) =>
      let x := stashPut x a data
      (stashPut x recA (bPut (presentRecord rec len) 8 (leBytes 8 a)), false)
    | (x, none) =>
      let (x, d, lost) := stashDepth x (bNat rec 40 8)
      let x := stashSkipHeader x hdr lost
      let route := (rec.drop (64 + 8 * (d - 1))).take 8
      (stashPut x recA (bPut (recordState rec 2 d) 48 route), true)

/-- R195, R202: CORE_STASH_SKIP, with its overflow event. -/
def countSkip (s : State) (c : Nat) : State :=
  let n := ((coreOf s c).stashSkip + 1) % 2 ^ 48
  let s := modCore s c fun k => { k with stashSkip := n }
  if n = 0 then setSupEvent s 4 else s

def execStashWrite (c : Fin 576) (s : State) : Host.Outcome State Fault Refusal :=
  engineRow s c 3 .work lsStash fun k r =>
    let d := r.entry.desc
    let rows := lsSramRows d
    let data := rows.flatMap fun w => memRead k.sram w.1 w.2
    let (x, skipped) := stashWrite s (stashRecord d) data
    let t := if skipped then countSkip x.st c else modCore x.st c fun k => sramTouches k rows
    let t := modCore t c fun k => setPhase (if x.bad then coreErr k errDescBad else k) 3 .ready
    when (memOn s) s t

/-! Ferries. -/

/-- R60, R464: a pull reads another core's SRAM; a core under reset reads zeros. An uncorrectable word that it reads shows in CORE_ERR of
the core whose SRAM holds it (DESIGN CHOICE, log 101). -/
def execPull (c : Fin 576) (s : State) : Host.Outcome State Fault Refusal :=
  engineRow s c 4 .work (fun _ => true) fun k r =>
    let d := r.entry.desc
    let src := coreField (pSrc d)
    let n := fLen d
    let bytes := if coreResetting s src then List.replicate n 0 else memRead (coreOf s src).sram (pSrcAddr d) n
    let t := if coreResetting s src then s else modCore s src fun k => sramTouch k (pSrcAddr d) n
    if hitsDrainSlot k (pDst d) n then undefinedCase .drainSlotWrite s
    else .next (modCore t c fun k => setPhase (sramWrite k (pDst d) bytes) 4 .ready)

/-- The outbound ferry has read its bytes, and goes to a phase. -/
def ferryCore (k : Core) (d : Line) (p : Phase) : Core := setPhase (sramTouch k (fSram d) (fBytes d)) 5 p

/-- The frames of the running transfer. -/
def ferryFrames (s : State) (k : Core) (d : Line) : List Frame :=
  transferFrames s (fOp d) (cSize (flowOf s (fFlow d))) (fDestSem d) (fDestN d) (fDest d) (memRead k.sram (fSram d) (fBytes d))

/-- A strait flow: frames wait on the source context until its port sends them (R248, R251). -/
def ferryStrait (s : State) (c : Nat) (k : Core) (d : Line) : State :=
  let frames := (ferryFrames s k d).map fun f => (⟨some c, f⟩ : TxFrame)
  modRt (setCore s c (ferryCore k d .sending)) (fFlow d) fun r => { r with txq := r.txq ++ frames }

/-- A row of the outbound ferry. The faulted context of an earlier start sends nothing (R247). -/
def ferryRow (s : State) (c op : Nat) (here : Core → Line → Nat → Host.Outcome State Fault Refusal) :
    Host.Outcome State Fault Refusal :=
  engineRow s c 5 .work (fun d => fOp d = op) fun k r =>
    let d := r.entry.desc
    let x := flowOf s (fFlow d)
    if cState x != fArmed then .next (setCore s c (setPhase k 5 .ready))
    else if cRole x = roleLocal then here k d (cOutFlow x)
    else .next (ferryStrait s c k d)

/-- R59, R84: OP 0 within the package lands at once. -/
def execFerryWriteSram (c : Fin 576) (s : State) : Host.Outcome State Fault Refusal :=
  ferryRow s c 0 fun k d dest =>
    let bytes := memRead k.sram (fSram d) (fBytes d)
    let t := setCore s c (ferryCore k d .ready)
    if coreFieldOk dest then
      match landBytes t (coreField dest) (fDest d) bytes with
      | .error f => .fault f
      | .ok t => .next (landAdd t dest (fDestSem d) (fDestN d))
    else .next t

/-- OP 1 within the package: a write of package memory, and the add once it is accepted (R59, R225). -/
def execFerryWriteMemory (c : Fin 576) (s : State) : Host.Outcome State Fault Refusal :=
  ferryRow s c 1 fun k d dest =>
    let bytes := memRead k.sram (fSram d) (fBytes d)
    let t := setCore s c (ferryCore k d .ready)
    when (memOn s) s (landAdd (writeRange t (fDest d) bytes true .package) dest (fDestSem d) (fDestN d))

/-- OP 2 within the package: frames go to the controller, and the descriptor completes once it has taken them (R219, R221). -/
def execRemoteAccumulate (c : Fin 576) (s : State) : Host.Outcome State Fault Refusal :=
  ferryRow s c 2 fun k d _ =>
    let t := setCore (newXfer s) c (ferryCore k d .sending)
    .next (setInq t (8 + c.val) (inqOf t (8 + c.val) ++ (ferryFrames s k d).map fun f => ⟨fFlow d, some c.val, s.memory.nextXfer, f⟩))

/-- OP 3 within the package: the add alone. -/
def execFerrySignal (c : Fin 576) (s : State) : Host.Outcome State Fault Refusal :=
  ferryRow s c 3 fun k d dest =>
    .next (landAdd (setCore s c (ferryCore k d .ready)) dest (fDestSem d) (fDestN d))

end Sys2Proof.Machine
end

