-- ==== Sys2Proof/Machine/Harbour.lean ====
section
/-! DEFINITION. The harbour port (08, R261–R264) and its sessions (14, R443): messages sent and received, the twin's digests (R378,
R379), the END of a restore (R382), 1588 time, neighbour discovery, echo. -/

namespace Sys2Proof.Machine

/-- Session kinds (HARB_SESS_STAT.KIND). -/
def kindReceive : Nat := 1
def kindSend : Nat := 2
def kindDigestSend : Nat := 3
def kindDigestReceive : Nat := 4
def kindCheckpoint : Nat := 5
def kindRestore : Nat := 6

def sendingKind (k : Nat) : Bool := k = kindSend || k = kindDigestSend || k = kindCheckpoint

/-- Message types (Table 8-8). -/
def msgData : Nat := 1
def msgAck : Nat := 2
def msgNack : Nat := 3
def msgEnd : Nat := 4
def msgDigest : Nat := 5

/-- The harbour port has power and clock: it lies on S0, and stays in reset without a reference clock (R457, R491). -/
def harbourPowered (s : State) : Bool := alive s && s.power.state ≤ 1 && s.boot.clkMode != 3 && !s.power.refLost

/-- The harbour port runs: firmware serves it, and its link is up. -/
def harbourOn (s : State) : Bool := harbourPowered s && s.boot.serving && s.straits.linkUp

/-! Ethernet and IPv6 (R261, R262): a frame is taken or discarded. -/

/-- A frame carries the configured VLAN identifier, or none. -/
def vlanOk (s : State) (n : Net) : Bool :=
  match n.vlan with | none => s.straits.vlan = 0xFFFF | some v => v.toNat = s.straits.vlan

/-- A frame of up to 9,216 bytes that carries IPv6, a next header that is the expected protocol, and a right checksum. PAUSE frames, IPv4,
fragments and extension headers are discarded. -/
def netOk (s : State) (n : Net) (proto : Nat) : Bool :=
  vlanOk s n && n.etherType = 0x86DD && decide (n.bytes ≤ 9216) && n.nextHeader.toNat = proto && n.sumOk

def protoUdp : Nat := 17
def protoIcmp : Nat := 58

/-- The VLAN identifier of a frame that the package sends. -/
def sendVlan (s : State) : Option Nat := if s.straits.vlan = 0xFFFF then none else some s.straits.vlan

/-- A frame leaves for a MAC address. -/
def sendTo (s : State) (mac : BitVec 48) (o : HarbourOut) : State := emit s (.harbour (sendVlan s) mac o)

/-- The multicast MAC addresses of a solicitation of an address, and of all nodes (RFC 4861, RFC 2464). -/
def solicitedMac (ip : BitVec 128) : BitVec 48 := BitVec.ofNat 48 (0x3333FF000000 + ip.toNat % 2 ^ 24)
def allNodesMac : BitVec 48 := 0x333300000001
def allNodes : BitVec 128 := 0xFF020000000000000000000000000001

/-- A message goes to a peer. One whose MAC address is not known is solicited, and the message waits (R262). -/
def sendHarbour (s : State) (dst : BitVec 128) (o : HarbourOut) : State :=
  match s.straits.neighbours.find? fun n => n.1 = dst with
  | some n => sendTo s n.2 o
  | none => sendTo { s with straits := { s.straits with unresolved := s.straits.unresolved ++ [(dst, o)] } } (solicitedMac dst) (.solicit dst)

/-- A peer's MAC address has become known: what waits for it leaves. -/
def learn (s : State) (ip : BitVec 128) (mac : BitVec 48) : State :=
  let waiting := s.straits.unresolved.filter fun w => w.1 = ip
  waiting.foldl (fun s w => sendTo s mac w.2) { s with straits := { s.straits with
    neighbours := s.straits.neighbours.filter (fun n => n.1 != ip) ++ [(ip, mac)]
    unresolved := s.straits.unresolved.filter fun w => w.1 != ip } }

/-- Who reads when the supervisor does (R214). -/
def supReader (s : State) : Reader := if jobRuns s then .package else .host

/-- A session is over: ended, or failed with a cause (HARB_SESS_STAT, SUP_EVENT.SESSION). -/
def endSession (s : State) (k state cause : Nat) : State :=
  setSupEvent (modSession s k fun x => { x with state := state, cause := cause, todo := [] }) 2

/-! Sending (R263). -/

/-- A message of session k leaves the port while its link is up. -/
def transmit (s : State) (k : Nat) (h : HOut) : State :=
  let x := sessionOf s k
  if harbourOn s then sendHarbour s x.peer (.message x.peer x.peerPort h.typ.toNat s.straits.jobTag x.sid h.seq 0 h.addr 0 h.payload) else s

/-- The next message takes its number; it leaves at once while fewer than the window are unacknowledged. -/
def number (s : State) (k typ addr : Nat) (payload : List Byte) : State :=
  let x := sessionOf s k
  let h : HOut := ⟨x.nextSeq, BitVec.ofNat 8 typ, addr, payload, 0, s.tide.now⟩
  let s1 := modSession s k fun x => { x with nextSeq := (x.nextSeq + 1) % 2 ^ 32, out := x.out ++ [h] }
  if x.out.length < x.limit then transmit s1 k h else s1

/-- DATA of up to 8,192 bytes of the first range to send (R381, R443). -/
def numberData (s : State) (k : Nat) (r : SRange) (rest : List SRange) : State :=
  let n := min 8192 r.len
  let (s1, bs) := readRange s r.addr n (supReader s)
  let left := if n < r.len then [⟨r.addr + n, r.len - n, r.delta⟩] else []
  number (modSession s1 k fun x => { x with todo := left ++ rest }) k msgData (unsgn 64 ((r.addr : Int) + r.delta)) bs

/-- A session that sends DATA and then END: a send and a checkpoint session. -/
def bulkSends (k : Nat) : Bool := k = kindSend || k = kindCheckpoint

/-- Messages are numbered while the window has room: DATA range by range, then END with the total and the manifest. -/
def pump (k : Nat) : Nat → State → State
  | 0, s => s
  | n + 1, s =>
    let x := sessionOf s k
    if x.state = 1 && decide (x.out.length < x.limit) && bulkSends x.kind then
      match x.todo with
      | r :: rest => pump k n (numberData s k r rest)
      | [] => if x.ended then s else number (modSession s k fun x => { x with ended := true }) k msgEnd x.total x.manifest
    else s

/-- A session sends what it may. -/
def pumpSession (s : State) (k : Nat) : State := pump k ((sessionOf s k).limit + 1) s

/-! Receiving (R263, R264). -/

/-- The open session of a direction with an identifier. -/
def findSession (s : State) (sends : Bool) (sid : Nat) : Option Nat :=
  (List.range 8).find? fun k =>
    let x := sessionOf s k
    x.state = 1 && x.sid = sid && sendingKind x.kind = sends

/-- A message of VERSION 1 and of the row's TYPE arrives at the UDP port. One of another tag is discarded and counted (R264). -/
def harbourRow (s : State) (typ : Nat) (m : HMsg) (t : State) : Host.Outcome State Fault Refusal :=
  if harbourOn s && netOk s m.net protoUdp && m.dstPort.toNat = s.straits.udp && m.version = 1 && m.typ.toNat = typ then
    (if m.jobTag.toNat = s.straits.jobTag then .next t
     else .next { s with straits := { s.straits with drop := sat32 (s.straits.drop + 1) } })
  else .next s

/-- A NACK answers a message (Table 8-8). -/
def answerNack (s : State) (m : HMsg) (seq code : Nat) : State :=
  sendHarbour s m.src (.message m.src m.srcPort.toNat msgNack s.straits.jobTag m.session.toNat seq code 0 0 [])

/-- Session k notes where the message came from, and owes an ACK. -/
def oweAck (s : State) (k : Nat) (m : HMsg) : State :=
  modSession s k fun x => { x with ackOwed := true, peer := m.src, peerPort := m.srcPort.toNat }

/-- R253 with the harbour's SEQ: a message in order is taken, a duplicate acknowledged, a gap answered with a NACK for the SEQ
expected, unless one was sent for it within the last 1 µs. An identifier of no open session is answered with CODE 3. -/
def inOrder (s : State) (m : HMsg) (take : Nat → State) : State :=
  match findSession s false m.session.toNat with
  | none => answerNack s m m.seq.toNat 3
  | some k =>
    let x := sessionOf s k
    let ahead := (m.seq.toNat + 2 ^ 32 - x.recvSeq) % 2 ^ 32
    if ahead = 0 then take k
    else if ahead < 2 ^ 31 then
      (if (match x.nack with | some (q, t) => q = x.recvSeq && decide (s.tide.now ≤ t + 1000) | none => false) then s
       else answerNack (modSession s k fun x => { x with nack := some (x.recvSeq, s.tide.now) }) m x.recvSeq 0)
    else oweAck s k m

/-- Session k has accepted a message of n payload bytes. -/
def accepted (s : State) (k n : Nat) (m : HMsg) : State :=
  oweAck (modSession s k fun x => { x with recvSeq := (x.recvSeq + 1) % 2 ^ 32, accepted := x.accepted + n }) k m

/-- A range lies within one of a session's windows and in package memory. -/
def inWindows (x : Session) (a n : Nat) : Bool :=
  inMem a n && x.ranges.any fun r => decide (r.addr ≤ a) && decide (a + n ≤ r.addr + r.len)

/-- R264: accepted DATA is written to memory, and not counted by R225. -/
def dataEff (s : State) (m : HMsg) : State :=
  inOrder s m fun k =>
    let x := sessionOf s k
    let a := m.addr.toNat
    if !inWindows x a m.payload.length then answerNack s m m.seq.toNat 1
    else if s.memory.wipe != 0 then answerNack s m m.seq.toNat 2
    else accepted (writeRange s a m.payload false (supReader s)) k m.payload.length m

def execHarbourData (m : HMsg) (s : State) : Host.Outcome State Fault Refusal := harbourRow s msgData m (dataEff s m)

/-- R263: messages up to the SEQ of an ACK are acknowledged; what the window then lets go leaves; a send session whose END is
acknowledged has ended. -/
def ackMessage (s : State) (k : Nat) (m : HMsg) : State :=
  let x := sessionOf s k
  let first := ((x.out.head?).map (·.seq)).getD x.nextSeq
  let n := (m.seq.toNat + 1 + 2 ^ 32 - first) % 2 ^ 32
  if x.out.length < n then s
  else
    let done := x.out.take n
    let left := x.out.drop n
    let lim := min x.window m.window.toNat
    let fresh := (left.take lim).drop (min x.limit x.out.length - n)
    let sent := left.map fun h => if fresh.contains h then { h with lastTx := s.tide.now } else h
    let s1 := modSession s k fun x => { x with
      out := sent, limit := lim, bytes := x.bytes + (done.map (·.payload.length)).foldl (· + ·) 0 }
    let s2 := pumpSession (fresh.foldl (fun s h => transmit s k h) s1) k
    let y := sessionOf s2 k
    if y.ended && y.out.isEmpty then endSession s2 k 2 0 else s2

def execHarbourAck (m : HMsg) (s : State) : Host.Outcome State Fault Refusal :=
  harbourRow s msgAck m
    (match findSession s true m.session.toNat with
     | none => s
     | some k => ackMessage s k m)

/-- R263, R264: the refused message stays unacknowledged and is sent again by R263. -/
def execHarbourNack (m : HMsg) (s : State) : Host.Outcome State Fault Refusal := harbourRow s msgNack m s

/-- The ledger takes a manifest's STEP and LEDGER_STATE (R382). -/
def ledgerFrom (s : State) (b : List Byte) : State :=
  let f := fun o n => leNat ((b.drop o).take n)
  { s with commit := { s.commit with ledStep := f 16 8, ledState := f 10 1 % 8 } }

/-- R382, R443: an END ends a receive session, and a restore session when its total and its manifest are right. A digest session, which
stays open until closed, acknowledges it and stays (log 106). -/
def endEff (s : State) (m : HMsg) : State :=
  inOrder s m fun k =>
    let x := sessionOf s k
    let b := m.payload
    let ok := decide (m.addr.toNat = x.accepted) && decide (leNat (b.take 4) = 0x50435844)
      && decide (leNat ((b.drop 4).take 2) = 1)
    let t := accepted s k 0 m
    if x.kind = kindDigestReceive then t
    else if x.kind != kindRestore then endSession t k 2 0
    else if ok then endSession (ledgerFrom t b) k 2 0
    else endSession t k 3 2

def execHarbourEnd (m : HMsg) (s : State) : Host.Outcome State Fault Refusal := harbourRow s msgEnd m (endEff s m)

/-- R379: the digests of step n are compared when both are held. -/
def compareDigests (s : State) (n : Nat) : State :=
  let a := tblGet [] s.commit.ownDigests n
  let b := tblGet [] s.commit.twinDigests n
  if a.isEmpty || b.isEmpty then s
  else if a = b then { s with commit := { s.commit with matched := n } }
  else setSupEvent { s with commit := { s.commit with diverged := true } } 5

/-- R378, R379: a twin's digest. -/
def digestEff (s : State) (m : HMsg) : State :=
  inOrder s m fun k =>
    if (sessionOf s k).kind = kindDigestReceive then
      let n := leNat (m.payload.take 8)
      let t := accepted s k m.payload.length m
      compareDigests { t with commit := { t.commit with
        twinDigests := tblSet [] t.commit.twinDigests n ((m.payload.drop 8).take 32) } } n
    else answerNack s m m.seq.toNat 3

def execHarbourDigest (m : HMsg) (s : State) : Host.Outcome State Fault Refusal := harbourRow s msgDigest m (digestEff s m)

/-- R263: 100 µs after the oldest message's last transmission every unacknowledged message that has been sent is sent again; the
seventeenth such event fails the session. -/
def execHarbourResend (k : Fin 8) (now : Nat) (s : State) : Host.Outcome State Fault Refusal :=
  let t := atTide s now
  let x := sessionOf t k
  match x.out with
  | [] => .next s
  | h :: _ =>
    let again := x.out.take x.limit
    let out := (x.out.zip (List.range x.out.length)).map fun (g, i) =>
      if i < x.limit then { g with lastTx := t.tide.now, resends := if i = 0 then g.resends + 1 else g.resends } else g
    when (harbourOn s && x.state = 1 && decide (h.lastTx + 100000 ≤ t.tide.now)) s
      (if 16 ≤ h.resends then endSession t k 3 1
       else again.foldl (fun s g => transmit s k g) (modSession t k fun x => { x with out := out }))

/-- R263: the receiver acknowledges all that it has accepted. -/
def execHarbourAckPeriodic (k : Fin 8) (now : Nat) (s : State) : Host.Outcome State Fault Refusal :=
  let t := atTide s now
  let x := sessionOf t k
  when (harbourOn s && x.state != 0 && x.ackOwed) s
    (sendHarbour (modSession t k fun x => { x with ackOwed := false, bytes := x.accepted }) x.peer
      (.message x.peer x.peerPort msgAck t.straits.jobTag x.sid ((x.recvSeq + 2 ^ 32 - 1) % 2 ^ 32) 0 0 x.window []))

/-! The link, neighbour discovery, Echo and 1588 (R261, R262). -/

/-- R261: the link comes up or goes down. With no link no 1588 time is accepted. -/
def execHarbourLinkChange (up : Bool) (s : State) : Host.Outcome State Fault Refusal :=
  when (alive s && (!up || harbourPowered s)) s { s with straits := { s.straits with linkUp := up, ptpLocked := up && s.straits.ptpLocked } }

/-- R262: a master's time gives the offset between tide and wall clock; without the feature there is no 1588 (log 102). -/
def execPtpMessage (net : Net × Bool) (ptp tide : Nat) (s : State) : Host.Outcome State Fault Refusal :=
  when (harbourOn s && feature s featPtp && netOk s net.1 protoUdp && net.2) s { s with straits := { s.straits with ptpLocked := true, ptpOffset := (ptp : Int) - tide } }

/-- R262 (RFC 4861): a Solicitation of the package's own address is answered, and tells the sender's MAC address; one from the unspecified
address is answered to all nodes. An Advertisement resolves a peer that is solicited or known. -/
def discoveryEff (s : State) (mac : BitVec 48) : Discovery → State
  | .solicitation target source =>
    if target != s.straits.ip then s
    else if source = 0 then sendTo s allNodesMac (.advertise allNodes target Config.mac)
    else sendTo (learn s source mac) mac (.advertise source target Config.mac)
  | .advertisement target =>
    if s.straits.unresolved.any (fun w => w.1 = target) || s.straits.neighbours.any (fun n => n.1 = target) then learn s target mac
    else s

def execNeighborSolicitation (net : Net) (d : Discovery) (mac : BitVec 48) (s : State) : Host.Outcome State Fault Refusal :=
  when (harbourOn s && s.straits.ip != 0 && netOk s net protoIcmp) s (discoveryEff s mac d)

/-- R262: an Echo request to the package's own address is answered. -/
def execIcmpv6Echo (net : Net) (ends : BitVec 128 × BitVec 128) (payload : List Byte) (s : State) : Host.Outcome State Fault Refusal :=
  when (harbourOn s && s.straits.ip != 0 && netOk s net protoIcmp && ends.1 = s.straits.ip) s
    (sendHarbour s ends.2 (.echoReply ends.2 payload))

end Sys2Proof.Machine
end

