-- ==== Sys2Proof/Machine/Straits.lean ====
section
/-! DEFINITION. The strait ports (08, Ports; Bring-up and running on with fewer lanes; R233–R241): training, lane failures and
changes, ports that go down. -/

namespace Sys2Proof.Machine

/-- The strait dies run: firmware brings the ports up (R236, R460), straits are on (Table 13-1), the reference clock runs (R457,
R491). -/
def straitsOn (s : State) : Bool :=
  alive s && s.boot.serving && s.boot.isles && s.power.state ≤ 1 && s.boot.clkMode != 3 && !s.power.refLost

/-- A port goes down: events, faults of the contexts that use it, the new lane counts (R239, R240). Lanes declared failed stay out of use
(R238); while a job is armed the port stays down until the next arming (R240). -/
def portDown (s : State) (p cause : Nat) : State :=
  let was := portUp s p
  let s := modPort s p fun k => { k with
    state := 3, cause := cause, pauseTx := false, pauseRx := false, held := [], hunting := false
    failTx := k.failTx ||| k.newTx, failRx := k.failRx ||| k.newRx, newTx := 0, newRx := 0
    latched := k.latched || (armed s && (k.state = 1 || k.state = 2)) }
  let s := if was then setStraitEvent s (1#32 <<< (8 + p)) else s
  let s := ((contexts s).filter fun i =>
      let d := flowOf s i
      (sends d && !cNoPort d && cPort d = p) || arrivesOn s i p).foldl (fun s i => faultFlow s i 2) s
  let s := if was && armed s then faultNow s 2 else s
  recomputeTempo (dropChild s p)

/-- R236, R239, R42: a port begins to train, or what keeps it down is shown. -/
def beginTraining (s : State) (p : Nat) : State :=
  let k := portOf s p
  let why := if k.isolated then 4 else if k.laserFault then 2 else if !k.qualified then 3 else if !k.farLit then 5 else 0
  modPort s p fun k => { k with state := if why = 0 then 1 else 3, cause := why }

/-- A port that is not up may train: one that went down while a job was armed waits for JOB_ARM (R240). -/
def mayTrain (s : State) (p : Nat) : Bool := straitsOn s && !portUp s p && !(portOf s p).latched

/-- The laser list of the matching qualified set has this identity (R42). -/
def laserOk (s : State) (laser : List Byte) : Bool :=
  let q := s.boot.qual.toNat
  let k := q % 65536
  bitsOf q 30 2 = 1
  && (if k < Config.romSets then Config.laserListed [] k laser
      else Config.laserListed (imageExt s.boot.fw) (k - Config.romSets) laser)

/-- R236, R42: the strait die reads the identity of its laser module, and trains or stays down. -/
def execPortTraining (p : Fin 8) (farLit : Bool) (laser : List Byte) (s : State) : Host.Outcome State Fault Refusal :=
  when (mayTrain s p) s (beginTraining (modPort s p fun k => { k with farLit := farLit, qualified := laserOk s laser }) p)

/-- R236: while the far end is dark. -/
def execPortTrainingRetry (p : Fin 8) (farLit : Bool) (s : State) : Host.Outcome State Fault Refusal :=
  when (mayTrain s p && (portOf s p).state = 3 && (portOf s p).cause = 5) s
    (beginTraining (modPort s p fun k => { k with farLit := farLit }) p)

/-- R235, R239. -/
def execLaserModuleFault (p : Fin 8) (s : State) : Host.Outcome State Fault Refusal :=
  when (straitsOn s) s (portDown (modPort s p fun k => { k with laserFault := true }) p 2)

/-- The LANE frame of a receiving direction (Table 8-4). -/
def sendLane (s : State) (p : Nat) : State :=
  let k := portOf s p
  let active := ~~~ (k.failRx ||| k.newRx)
  sendOut s p (ctlFrame s 9 s.straits.jobTag 0 0 (leBytes 4 active.toNat))

/-- The identity window of an arming runs from the end of its ports' training (tJA, R260). -/
def windowFrom (s : State) : State :=
  { s with job := { s.job with arming := s.job.arming.map fun a => { a with since := max a.since s.tide.now } } }

/-- R236, R237: training ends. Lanes that failed it are declared failed; earlier failures stay (R238). -/
def execPortTrainingDone (p : Fin 8) (rxFailed txFailed : Reg) (s : State) : Host.Outcome State Fault Refusal :=
  let s1 := modPort s p fun k => { k with trained := true, failRx := k.failRx ||| rxFailed, failTx := k.failTx ||| txFailed }
  let k := portOf s1 p
  let enough := 8 ≤ activeLanes k.failRx && 8 ≤ activeLanes k.failTx
  let s2 := if enough then recomputeTempo (modPort s1 p fun k => { k with state := 2, cause := 0, rr := 0 }) else portDown s1 p 1
  when (straitsOn s && (portOf s p).state = 1) s (windowFrom (if enough && rxFailed != 0 then sendLane s2 p else s2))

/-- R239: the far end goes dark. -/
def execFarEndDark (p : Fin 8) (s : State) : Host.Outcome State Fault Refusal :=
  when (straitsOn s && ((portOf s p).state = 1 || portUp s p)) s (portDown (modPort s p fun k => { k with farLit := false }) p 5)

/-- R237: this end declares a lane of its receive direction failed, and tells the sender. -/
def declareLane (s : State) (p n : Nat) : State :=
  let k := portOf s p
  if portUp s p && !(k.failRx ||| k.newRx).getLsbD n then
    sendLane (modPort s p fun k => { k with newRx := k.newRx ||| (1#32 <<< n) }) p
  else s

/-- R237: a receive lane loses lock, or has corrected symbols in a 1 ms interval, as many as said: beyond 4,096 it is declared failed. -/
def execStraitLaneFail (p : Fin 8) (n : Fin 32 × Option Nat) (s : State) : Host.Outcome State Fault Refusal :=
  let t := modPort s p fun k => { k with corrected := tblMod 0 k.corrected n.1 fun x => sat32 (x + n.2.getD 0) }
  when (straitsOn s && portUp s p) s (if n.2.getD 4097 ≤ 4096 then t else declareLane t p n.1)

/-- R237, R244: the far end tells which lanes of this port's transmit direction remain active. A nonzero DIRECTION is reserved. -/
def execLane (p : Fin 8) (f : Frame) (s : State) : Host.Outcome State Fault Refusal :=
  portRow s p 9 f fun s =>
    .next (if bNat f.body 4 1 % 2 = 0 then
      modPort s p fun k => { k with newTx := k.newTx ||| (~~~ (reg (bNat f.body 0 4)) &&& ~~~ k.failTx) } else s)

/-- R238: one lane change applies every failure of an interval; with fewer than 8 lanes left the port goes down (R239). -/
def laneChange (s : State) (p : Nat) (tx : Bool) : State :=
  let s := modPort s p fun k =>
    if tx then { k with failTx := k.failTx ||| k.newTx, newTx := 0, pauseTx := true }
    else { k with failRx := k.failRx ||| k.newRx, newRx := 0, pauseRx := true }
  let s := setStraitEvent s (1#32 <<< p)
  let k := portOf s p
  if activeLanes (if tx then k.failTx else k.failRx) < 8 then portDown s p 1 else recomputeTempo s

def execStraitLaneChange (p : Fin 8) (tx : Bool) (now : Nat) (s : State) : Host.Outcome State Fault Refusal :=
  let k := portOf s p
  when (straitsOn s && portUp s p && !(if tx then k.pauseTx else k.pauseRx) && (if tx then k.newTx else k.newRx) != 0) s
    (laneChange (atTide s now) p tx)

/-- Frames that waited for a pause to end leave, stamped as they leave (R238, Table 8-2). -/
def releaseHeld (s : State) (p : Nat) : State :=
  (portOf s p).held.foldl (fun t f => sendOut t p { f with stamp := BitVec.ofNat 64 s.tide.now })
    (modPort s p fun k => { k with pauseTx := false, held := [] })

/-- R238: the pause ends; frames in flight are sent again without counting a retry. -/
def execLaneChangePauseEnd (p : Fin 8) (tx : Bool) (now : Nat) (s : State) : Host.Outcome State Fault Refusal :=
  let t := atTide s now
  let k := portOf s p
  let again := fun (s : State) =>
    (((contexts s).filter fun i => sends (flowOf s i) && cPort (flowOf s i) = p.val).foldl
      (fun s i => resendFrom s p i (cAckedSeq (flowOf s i))) s)
  when (straitsOn s && portUp s p && (if tx then k.pauseTx else k.pauseRx)) s
    (if tx then again (releaseHeld t p) else modPort t p fun k => { k with pauseRx := false })

/-- R237: one uncorrectable codeword of receive lane n; with a second one within 1 ms the lane is declared failed. -/
def execUncorrectableCodeword (p : Fin 8) (n : Fin 32 × Nat) (s : State) : Host.Outcome State Fault Refusal :=
  let t := atTide s n.2
  let last := tblGet 0 (portOf s p).ueAt n.1
  let t := modPort t p fun k => { k with
    fecUe := sat32 (k.fecUe + 1), codewords := tblMod 0 k.codewords n.1 fun x => sat32 (x + 1), ueAt := tblSet 0 k.ueAt n.1 (t.tide.now + 1) }
  when (straitsOn s && ((portOf s p).state = 1 || portUp s p)) s
    (if last != 0 && decide (t.tide.now + 1 < last + 1000000) then declareLane t p n.1 else t)

/-- R241: what stands at a block boundary. Neither a marker nor an idle block: one error is counted, and blocks are discarded until the next
marker. -/
def execBadBlockBoundary (a : Fin 8 × List Byte) (s : State) : Host.Outcome State Fault Refusal :=
  when (straitsOn s && portUp s a.1 && !boundaryGood a.2 && !(portOf s a.1).hunting) s
    (modPort s a.1 fun k => { k with fecUe := sat32 (k.fecUe + 1), hunting := true })

end Sys2Proof.Machine
end

