-- ==== Sys2Proof/Machine/Job.lean ====
section
/-! DEFINITION. The job in force (11, 14): loading programs, flow contexts and barrier records from the image, core resets, frame
references to cores, entry to HALTED. -/

namespace Sys2Proof.Machine

def setJob (s : State) (f : Job → Job) : State := { s with job := f s.job }

/-! Programs (Table 11-6, CORE_PROGRAMS). -/

/-- A record of a CORE_PROGRAMS section: core, start index, image address and length. -/
structure Program where
  core : Nat
  start : Nat
  addr : Nat
  len : Nat
  deriving DecidableEq, Repr

/-- The records of a CORE_PROGRAMS section at an address. -/
def programsAt (s : State) (a : Nat) : List Program :=
  (List.range (peekNat s a 2)).map fun i =>
    let o := a + 64 + 16 * i
    ⟨coreField (peekNat s o 2), peekNat s (o + 2) 2, a + peekNat s (o + 8) 8, peekNat s (o + 4) 4⟩

def programs (s : State) (variant : Nat) : List Program :=
  match section_ s secPrograms variant with
  | some (a, _) => programsAt s a
  | none => []

/-- A core's command store takes a program's image. -/
def storeProgram (s : State) (p : Program) : State :=
  modCore s p.core fun k => { sramWrite k 0x600000 (peek s p.addr p.len) with program := true, start := p.start }

/-- The supervisor writes a reset core's command store from the image, for the variant in force (R465). -/
def rewriteStore (s : State) (c : Nat) : State :=
  match (programs s s.job.variant).find? fun p => p.core = c with
  | some p => storeProgram s p
  | none => s

/-- A command store of zeros, without a program. -/
def emptyStore (k : Core) : Core :=
  { k with
    sram := k.sram.filter fun x => !(decide (0x600000 ≤ x.1) && decide (x.1 < 0x640000))
    badWords := k.badWords.filter fun x => !(decide (0x600000 ≤ 8 * x.1) && decide (8 * x.1 < 0x640000))
    program := false, start := 0 }

/-- JOB_LOAD: every core is halted; a core without a record has an empty store (CORE_PROGRAMS). -/
def loadPrograms (s : State) (variant : Nat) : State :=
  let ps := programs s variant
  let s := (List.range 576).foldl (fun s c => modCore s c fun k =>
    let k := if ps.any fun p => p.core = c then k else emptyStore k
    { k with mode := if k.mode = .wiping then .wiping else .halted, wait := .none, held := [], runs := .step }) s
  ps.foldl storeProgram s

/-! Core resets (R81, R464). -/

/-- What a core under reset had on its way out is given up: frames that no flow has taken (R464). -/
def dropOutbound (s : State) (c : Nat) : State :=
  { s with
    straits := { s.straits with rt := (s.straits.rt.map fun x =>
      (x.1, { x.2 with txq := x.2.txq.filter fun y => y.core != some c })).filter fun x => x.2 != flowIdle }
    memory := { s.memory with inq := (s.memory.inq.map fun x =>
      (x.1, x.2.filter fun y => y.core != some c)).filter fun x => x.2 != [] } }

/-- The fields of a core after a core reset, its memories zero. What the supervisor keeps of it stays, and so does the hold of the
debug logic (R482). -/
def clearedCore (k : Core) : Core :=
  { coreReset with doneUpTo := k.doneUpTo, program := k.program, start := k.start, dbgHalt := k.dbgHalt, mhz := k.mhz }

/-- A core enters reset: SEQ_STATE reads 6 while its memories are wiped (R81). -/
def wipeCore (s : State) (c : Nat) : State :=
  dropOutbound (modCore s c fun k => { clearedCore k with mode := .wiping }) c

/-- Isle barrier counters 64 × isle to 64 × isle + 63 return to unconfigured (R464). -/
def clearIsleBars (s : State) (isle : Nat) : State :=
  { s with bars := { s.bars with isle := s.bars.isle.filter fun b => b.1 / 64 != isle } }

/-! Barrier records (Table 11-6, BARRIERS). -/

def isleRecord (s : State) (k : Nat) : Bar :=
  let o := 1280 + 32 * k
  ⟨secNat s secBarriers o 1, secNat s secBarriers (o + 1) 1, secNat s secBarriers (o + 14) 18, 0⟩

def pkgRecord (s : State) (b : Nat) : Bar :=
  ⟨secNat s secBarriers (80 * b) 2, secNat s secBarriers (80 * b + 2) 1, secNat s secBarriers (80 * b + 8) 72, 0⟩

/-- The 64 isle records of an isle are written from the image. -/
def writeIsleBars (s : State) (isle : Nat) : State :=
  (span (64 * isle) 64).foldl (fun t k => setIsleBar t k (isleRecord s k)) s

/-- All barrier records are written from the image. -/
def writeBars (s : State) : State :=
  (List.range 16).foldl (fun t b => setPkgBar t b (pkgRecord s b)) ((List.range 4).foldl writeIsleBars s)

/-! Flow contexts (FLOW_TABLE, R247, R374). -/

/-- The entries of a FLOW_TABLE section at an address: identifier and context image. -/
def flowsAt (s : State) (a : Nat) : List (Nat × Line) :=
  (List.range (peekNat s a 4)).map fun i =>
    let o := a + 64 + 80 * i
    (peekNat s o 2 % 16384, lineOf (peek s (o + 16) 64))

def flowTable (s : State) (variant : Nat) : List (Nat × Line) :=
  match section_ s secFlows variant with
  | some (a, _) => flowsAt s a
  | none => []

/-- A context begins from a table image: no frame waits, nothing is held, its credits are the image's. -/
def freshRt (d : Line) : FlowRt := { flowIdle with initial := cCredits d }

/-- JOB_LOAD: STATE loaded, CAUSE 0, ACKED_SEQ equal to SEND_SEQ, GRANTED and RETRY_TOTAL 0; reserved bytes read zero (R7). -/
def loadedContext (img : Line) (state : Nat) : Line :=
  let d := cPut (cPut img 10 16 0) 52 96 0
  setFld (cPut (cPut (cPut (cPut d 1 8 0) 20 32 (cSendSeq img)) 28 32 0) 38 16 0) 0 2 state

/-- Every context is free, and nothing waits on any. -/
def freeFlows (s : State) : State := { s with straits := { s.straits with flows := [], rt := [] } }

/-- Every context is written from a variant's flow table, with a STATE; one that the table does not list reads as free (R246). -/
def writeFlows (s : State) (variant state : Nat) : State :=
  (flowTable s variant).foldl (fun s e => modRt (setFlow s e.1 (loadedContext e.2 state)) e.1 fun _ => freshRt e.2) (freeFlows s)

/-- R374: SEND_SEQ, RECV_SEQ and CREDITS from the table, ACKED_SEQ equal to SEND_SEQ, GRANTED, RETRY_TOTAL and CAUSE 0; the other
fields stay. -/
def rewritten (d img : Line) : Line :=
  let d := cPut (cPut (cPut d 12 32 (cSendSeq img)) 16 32 (cRecvSeq img)) 20 32 (cSendSeq img)
  cPut (cPut (cPut (cPut d 24 32 (cCredits img)) 28 32 0) 38 16 0) 1 8 0

/-- R247, R256: a loaded context becomes armed, and so does one that is armed or faulted when a job is armed again. -/
def armContext (d : Line) : Line := if cState d = fFree then d else setFld d 0 2 fArmed

/-- R247, R374: arming. -/
def armFlows (s : State) : State :=
  let s := (flowTable s s.job.variant).foldl (fun s e =>
    modRt (setFlow s e.1 (rewritten (flowOf s e.1) e.2)) e.1 fun _ => freshRt e.2) { s with straits := { s.straits with rt := [] } }
  { s with straits := { s.straits with flows := s.straits.flows.map fun f => (f.1, armContext f.2) } }

/-- R435: every armed or faulted context returns to loaded. -/
def unarmFlows (s : State) : State :=
  { s with straits := { s.straits with
    flows := s.straits.flows.map fun f => if cState f.2 = fArmed || cState f.2 = fFaulted then (f.1, setFld f.2 0 2 fLoaded) else f
    rt := [] } }

/-! Job states (R434, R435). -/

/-- The job leaves the running state for HALTED: sequencers stop as by HALT, contexts return to loaded, frames no longer run. The
announcements still pending stay pending (R284). -/
def haltJob (s : State) (cause : Nat) : State :=
  let s := unarmFlows s
  setSupEvent { s with
    cores := s.cores.map fun c => (c.1, if c.2.mode = .running then haltCore c.2 else c.2)
    job := { s.job with state := jobHalted, cause := cause }
    tide := { s.tide with running := false, due := none, adopt := none, curQ := 0 }
    power := { s.power with rampAt := none, ramp := none } } 0

/-! Frame references (R50, R282, R346, R352, R353, R437). -/

/-- Every core that holds a program has reported step-done for frame n. -/
def allDone (s : State) (n : Nat) : Bool := s.cores.all fun c => !c.2.program || decide (n < c.2.doneUpTo)

/-- A core that holds a program is started at an index; one that is under reset stays there. -/
def startAt (k : Core) (pc : Nat) (wait : SeqWait) (now : Nat) : Core :=
  if k.mode = .wiping then k
  else { k with mode := .running, wait := wait, held := [], pc := pc, runs := .step, changed := now }

/-- The cores that hold a program wait for frame n as their first frame reference, to continue at their start indices. -/
def startCores (s : State) (n : Nat) : State :=
  { s with cores := s.cores.map fun c =>
      (c.1, if c.2.program then { startAt c.2 c.2.start .stepRef s.tide.now with doneUpTo := n } else c.2) }

/-- Start and tempo of frame n, once the frame before it has begun (R282): the first frame from JOB_START on. -/
def frameRef (s : State) (n : Nat) : Option (Nat × Nat) :=
  if s.tide.running then
    (if n = s.tide.step then some (s.tide.start, s.tide.curQ)
     else if n = s.tide.step + 1 then some (nextStart s, tempoOf s n)
     else (s.tide.frames.find? fun f => f.1 = n).map (·.2))
  else match s.tide.due with
    | some d => if d.1 = n then some d.2 else none
    | none => none

/-- Boundary of the reshard that is pending or running, and the frames of its plan. -/
def reshardAt (s : State) : Option Nat := if s.job.rsState = 1 || s.job.rsState = 2 then some s.job.rsAt else none

def reshardFrames (s : State) : Nat := planNat s s.job.rsPlan 1 1

/-- The reshards that a core may meet, as boundary b, b + FRAMES and plan: the one pending or running, and those that late cores have
still to run. -/
def reshards (s : State) : List (Nat × Nat × Nat) :=
  (match reshardAt s with | some b => [(b, b + reshardFrames s, s.job.rsPlan)] | none => []) ++ s.job.rsPast

/-- The reshard of which frame n is a frame. -/
def reshardOf (s : State) (n : Nat) : Option (Nat × Nat × Nat) :=
  (reshards s).find? fun r => decide (r.1 ≤ n) && decide (n < r.2.1)

/-- The plan of the reshard whose last frame is the one before n. -/
def reshardPlanBefore (s : State) (n : Nat) : Option Nat := ((reshards s).find? fun r => r.2.1 = n).map (·.2.2)

/-- VARIANT of a plan; none keeps the present one. -/
def planVariant (s : State) (p : Nat) : Option Nat := let v := planNat s p 3 1; if v = 0xFF then none else some v

/-- How a waiting core continues in its next frame. -/
inductive NextRun where
  /-- At an index, to run frames of a step, a fold or a reshard. -/
  | at (pc : Nat) (runs : RunKind)
  /-- After a reshard: the programs of the plan's variant, at the core's start index (R352). -/
  | after (plan : Nat)
  deriving DecidableEq, Repr

/-- How a waiting core continues in frame n (R50, R352, R353); none while it still has to wait. -/
def nextRun (s : State) (k : Core) (n : Nat) : Option NextRun :=
  let target := wfld (curWord k) 0 15
  if k.held.isEmpty then some (.at k.pc k.runs)
  else if k.runs = .diag then none
  else match reshardOf s n with
    | some (b, _, p) =>
      let entry := planNat s p 4 2 % 32768
      if k.runs = .fold then some (.at entry .reshard)
      else if b < n then some (.at target .reshard)
      else if (reshardAt s = some n && s.job.rsDrain) || !(n = 0 || allDone s (n - 1)) then none
      else some (.at entry .reshard)
    | none =>
      match reshardPlanBefore s n with
      | some p => some (.after p)
      | none => some (.at target .step)

/-- The reference of frame n is loaded, and the core continues at an index (R50). -/
def giveFrame (s : State) (c n : Nat) (ref : Nat × Nat) (pc : Nat) (runs : RunKind) : State :=
  modCore s c fun k => { jumpCore s k pc with frameStep := n, frameT := ref.1, frameQ := ref.2, runs := runs }

/-- A core takes its program of a variant; without a record there it halts with an empty store. -/
def switchCore (s : State) (c v : Nat) : State :=
  match (programs s v).find? fun p => p.core = c with
  | some p => storeProgram s p
  | none => modCore s c fun k => haltCore (emptyStore k)

/-- After the last reshard frame: the switch of program, if the plan names a variant, then frame n (R352). -/
def giveAfter (s : State) (c n : Nat) (ref : Nat × Nat) (plan : Nat) : State :=
  let s := match planVariant s plan with | some v => switchCore s c v | none => s
  if (coreOf s c).program then giveFrame s c n ref (coreOf s c).start .step else s

/-- Core c receives its next frame reference, once R282, R346 and R352 allow; else nothing changes. -/
def deliver (s : State) (c : Nat) : State :=
  let k := coreOf s c
  let n := k.doneUpTo
  match frameRef s n, nextRun s k n with
  | some ref, some go =>
    if n ≤ s.job.slotReady then
      (match go with
       | .at pc runs => giveFrame s c n ref pc runs
       | .after p => giveAfter s c n ref p)
    else s
  | _, _ => s

/-- The cores that hold a program in a variant alone, and none yet, take it and wait for frame n (R352). -/
def joinCores (s : State) (v n : Nat) : State :=
  ((programs s v).filter fun p => !(coreOf s p.core).program).foldl (fun s p =>
    modCore (storeProgram s p) p.core fun k => { startAt k p.start .stepRef s.tide.now with doneUpTo := n }) s

/-- R346, R437. -/
def execFrameReferenceDelivery (c : Fin 576) (now : Nat) (s : State) : Host.Outcome State Fault Refusal :=
  when (seqWaits s c .stepRef && jobRuns s && (coreOf s c).program) s (deliver (atTide s now) c)

end Sys2Proof.Machine
end

