-- ==== Sys2Proof/Machine/Commit.lean ====
section
/-! DEFINITION. Step frames and the commit of a step (09 Frames, 11 Resharding in place, 12): step-done reports, evaluation, the
decision, verdict line and step report, the ledger, halts and reshards. -/

namespace Sys2Proof.Machine

/-! Evaluation (R201, R317, R360–R362, R377–R380). -/

/-- The stash plan's header addresses. -/
def stashHeaders (s : State) : List Nat :=
  (List.range (secNat s secStash 0 2)).map fun i => secNat s secStash (64 + 64 * i) 8 / 64 * 64

/-- R201: the headers of the stash plan: the first region with ANCHOR_LOST, the sum of SKIP_COUNT. -/
def readStashes (s : State) (n : Nat) : State × Nat × Nat :=
  let hs := stashHeaders s
  (hs.zip (List.range hs.length)).foldl (fun x h =>
    let (t, bs) := if inMem h.1 64 then readRange x.1 h.1 64 (.step n) else (x.1, [])
    let d := lineOf bs
    (t, (if fld d 28 1 1 = 1 && x.2.1 = 0xFFFFFFFF then h.2 else x.2.1), sat32 (x.2.2 + fldB d 24 4))) (s, 0xFFFFFFFF, 0)

/-- R377. -/
def stepDigest (s : State) (n poison : Nat) : List Byte :=
  let im := match s.job.img with | some i => i.1 | none => 0
  let mask := secNat s secCommit 16 2
  let sums := ((List.range 16).filter fun r => mask.testBit r).flatMap fun r => leBytes 32 (digestOf s r).sum
  shake256 (leBytes 8 n ++ peek s (im + 32) 32 ++ leBytes 4 s.straits.pos ++ leBytes 4 0 ++ leBytes 8 poison ++ sums)

/-- The open session that a kind and direction of digests use. -/
def digestSession (s : State) : Option Nat :=
  (List.range 8).find? fun k => (sessionOf s k).state = 1 && (sessionOf s k).kind = kindDigestSend

/-- R378: the digest goes to the twin. -/
def sendDigest (s : State) (n poison : Nat) (dg : List Byte) : State :=
  if polTwin s then
    match digestSession s with
    | some k => number s k msgDigest 0 (leBytes 8 n ++ dg ++ leBytes 8 poison ++ List.replicate 16 0)
    | none => s
  else s

/-- R380: the twin's digest of the step before, which this run evaluated, is not held. -/
def twinMissing (s : State) (n : Nat) : Bool :=
  polTwin s && decide (s.commit.runFrom < n) && (tblGet [] s.commit.twinDigests (n - 1)).isEmpty

/-- The step after n that is evaluated: reshard frames commit no step (R352, log 20). -/
def evalAfter (s : State) (n : Nat) : Nat :=
  if reshardAt s = some (n + 1) then n + 1 + reshardFrames s else n + 1

/-- R361: step n is evaluated. -/
def evaluate (s : State) (n : Nat) : State :=
  let (s, anchor, skips) := readStashes (readSections s [secCommit, secStash]) n
  let (s, pw) := readRange s (secNat s secCommit 32 8) 8 (.step n)
  let poison := leNat pw
  let missing := twinMissing s n
  let s := if missing then setSupEvent { s with commit := { s.commit with missing := true } } 5 else s
  let lost := anchor != 0xFFFFFFFF
  let s := if lost || !allDone s n || s.cores.any (fun c => c.2.program && c.2.dbgHalt) then markFault s n 0 else s
  let s := if lost then markFault s n 5 else s
  let s := if reductionDone s n then s else markFault s n 3
  let s := if s.commit.diverged || (missing && polStrict s) then markFault s n 4 else s
  let faults := tblGet 0 s.commit.faults n
  let dg := stepDigest s n poison
  let next := evalAfter s n
  let s := { s with commit := { s.commit with
    faults := tblErase s.commit.faults n
    evalNext := next
    runFrom := if next = n + 1 then s.commit.runFrom else next
    evals := s.commit.evals ++ [⟨n, faults, poison, dg, anchor, skips⟩]
    ownDigests := tblSet [] s.commit.ownDigests n dg } }
  let s := sendDigest (compareDigests s n) n poison dg
  if faults = 0 then completeOwn s (commitBar s) n 0 else s

/-- Step n may be evaluated: until a halt takes effect steps are decided by their own rules (R436), and a reshard with DRAIN folds the
step before its boundary (R353). -/
def evaluable (s : State) (n : Nat) : Bool := jobRuns s && !(s.job.rsDrain && reshardAt s = some (n + 1))

/-- R361: the next step is evaluated as soon as every core has reported it. -/
def evaluateReported (s : State) : State :=
  let n := s.commit.evalNext
  if evaluable s n && allDone s n && s.cores.any (fun c => c.2.program) then evaluate s n else s

/-! Step-done (R50, R51, R289, R345, R436). -/

/-- Start, end and tempo of frame n while it is known. -/
def frameSpan (s : State) (n : Nat) : Option (Nat × Nat × Nat) :=
  if n = s.tide.step then some (s.tide.start, nextStart s, s.tide.curQ)
  else (s.tide.frames.find? fun f => f.1 = n).map fun f => (f.2.1, f.2.1 + ticksNs (frameTicks s) f.2.2, f.2.2)

/-- R289, R345: the last core has reported frame n: it has ended, and its overrun is known. -/
def frameDone (s : State) (n : Nat) : State :=
  let d := s.tide.now
  let s := { s with job := { s.job with slotEnded := max s.job.slotEnded n } }
  match frameSpan s n with
  | none => setTide s fun t => { t with lastDone := none }
  | some (t0, t1, q) =>
    let s := setTide s fun t => { t with lastDone := some (d, t0, t1, q) }
    let s := if t1 < d then setTideEvent (setTide s fun t => { t with overruns := sat32 (t.overruns + 1) }) evOverrun else s
    recomputeTempo s

/-- A core of the running job reports step-done for its frame. -/
def reportDone (s : State) (c : Nat) : State :=
  let k := coreOf s c
  let n := k.frameStep
  let s := if k.err = 0 then s else faultAt s n 0
  let s := modCore s c fun k => { k with doneUpTo := max k.doneUpTo (n + 1) }
  let s := { s with commit := { s.commit with doneTide := tblSet 0 s.commit.doneTide n s.tide.now } }
  let s := if s.job.state = jobHalting && n = s.job.haltAt then modCore s c haltCore else s
  evaluateReported (if allDone s n then frameDone s n else s)

/-- R50: at STEP_END with every engine idle. A diagnostic program halts (R442); the end of a fold program is no step-done (R353). -/
def execStepDone (c : Fin 576) (now : Nat) (s : State) : Host.Outcome State Fault Refusal :=
  let t := atTide s now
  let k := coreOf s c
  let waiting := modCore t c fun k => { k with wait := .stepRef }
  when (seqWaits s c .stepEnd && maskIdle k 0x3F) s
    (match k.runs with
     | .diag => modCore t c haltCore
     | .fold => waiting
     | _ => if jobRuns s && k.program then reportDone waiting c else waiting)

/-- E_n of R361, n + 1 being the frame that runs. -/
def evalTide (s : State) : Nat := s.tide.start + ticksNs (evalTicks s) s.tide.curQ

/-- R361: at E_s at the latest. -/
def execEvalDeadline (now : Nat) (s : State) : Host.Outcome State Fault Refusal :=
  let t := atTide s now
  let n := s.commit.evalNext
  when (alive s && evaluable s n && s.tide.running && decide (n < s.tide.step)
    && (decide (n + 1 < s.tide.step) || decide (evalTide s ≤ t.tide.now))) s (evaluate t n)

/-! The ledger (R367–R369). -/

/-- N: own sub-shards. -/
def subShards (s : State) : Nat := cdiv (regionAt s (secNat s secCommit 2 1)).len 0x4000000

/-- Mark line i at MARK_ADDR holds DONE = n. -/
def markDone (s : State) (i n : Nat) : Bool := peekNat s (secNat s secCommit 48 8 + 64 * i + 8) 8 = n

def allMarked (s : State) : Bool :=
  (List.range (subShards s)).all fun k => tblGet false s.commit.own k && (!polMirror s || tblGet false s.commit.mirror k)

/-- STATE becomes applied when every bit is set, skipped when the end mark's DONE equals the ledger's STEP. -/
def settleLedger (s : State) : State :=
  let st := s.commit.ledState
  let st := if st = 1 && allMarked s then 2 else if st = 3 && markDone s (2 * subShards s) s.commit.ledStep then 4 else st
  { s with commit := { s.commit with ledState := st } }

/-- An applied or skipped decision (R369). -/
def ledgerDecide (s : State) (n outcome : Nat) : State :=
  if outcome = 1 then settleLedger { s with commit := { s.commit with ledStep := n, ledState := 1, own := [], mirror := [] } }
  else if outcome = 2 then settleLedger { s with commit := { s.commit with ledStep := n, ledState := 3 } }
  else s

/-- R369: a controller has accepted the DONE mark of a sub-shard, or the end mark (2N). -/
def execLedgerDoneMark (k : Nat) (mirror : Bool) (s : State) : Host.Outcome State Fault Refusal :=
  let n := subShards s
  let c := s.commit
  let t := { s with commit := if mirror then { c with mirror := tblSet false c.mirror k true }
                              else { c with own := tblSet false c.own k true } }
  if c.ledState = 1 then
    when (memOn s && decide (k < n) && (!mirror || polMirror s) && markDone s (if mirror then n + k else k) c.ledStep) s (settleLedger t)
  else when (memOn s && c.ledState = 3 && !mirror && k = 2 * n) s (settleLedger s)

/-! The decision (R363–R365, R383). -/

/-- The release of COMMIT_BAR's entry of step n, and when it was received. -/
def commitRelease (s : State) (n : Nat) : Option (Nat × Nat) := (podUse s (commitBar s) n 0).release

/-- ROUTE of an outcome. -/
def outcomeRoute (s : State) (o : Nat) : Nat := secNat s secCommit (64 + 8 * o) 8

/-- The verdict line (Table 12-2). -/
def verdictLine (s : State) (n o : Nat) : List Byte :=
  leBytes 8 n ++ leBytes 1 o ++ List.replicate 39 0 ++ leBytes 8 (outcomeRoute s o) ++ List.replicate 8 0

def writeVerdict (s : State) (n o : Nat) : State := writeLines s (secNat s secCommit 40 8) (verdictLine s n o) false

/-- Late launches of frame n: the rise of each core's counter; one that fell was reset, or wrapped (log 21). -/
def lateRise (s : State) (n : Nat) : Nat :=
  let old := tblGet [] s.commit.lateAt n
  let new := tblGet [] s.commit.lateAt (n + 1)
  sat32 ((new.map fun x => if tblGet 0 old x.1 ≤ x.2 then x.2 - tblGet 0 old x.1 else x.2).foldl (· + ·) 0)

/-- The step report (Table 12-8). -/
def stepReport (s : State) (e : Eval) (o faults : Nat) (user : List Byte) : List Byte :=
  leBytes 8 e.step ++ leBytes 1 o ++ leBytes 1 faults
    ++ leBytes 2 (match frameSpan s e.step with | some f => f.2.2 | none => 0)
    ++ leBytes 4 e.skips ++ leBytes 4 (lateRise s e.step) ++ leBytes 4 e.anchor ++ leBytes 8 e.poison
    ++ leBytes 8 s.commit.replaced.toNat ++ e.digest ++ leBytes 8 (tblGet 0 s.commit.doneTide e.step)
    ++ List.replicate 48 0 ++ user

def writeReport (s : State) (e : Eval) (o faults : Nat) : State :=
  let (t, user) := readRange s (secNat s secCommit 64 8) 128 (supReader s)
  let entries := max 1 (secNat t secCommit 18 2)
  writeLines t (secNat t secCommit 56 8 + 256 * (e.step % entries)) (stepReport t e o faults user) false

/-- R364: the outcome of an evaluated step at its decision instant. -/
def outcomeOf (s : State) (e : Eval) (cs : Nat) : Nat :=
  match commitRelease s e.step with
  | some (_, at') => if at' ≤ cs then (if e.poison ≤ secNat s secCommit 24 8 then 1 else 2) else 3
  | none => 3

/-- A release that came after the decision instant. -/
def releasedLate (s : State) (n cs : Nat) : Bool := match commitRelease s n with | some (_, at') => decide (cs < at') | none => false

/-- R363: the source closes an entry that it has not released. -/
def closeEntry (s : State) (n : Nat) : State :=
  let x := podUse s (commitBar s) n 0
  if x.release.isNone then putUse s { x with closed := true } else s

/-- R363–R365, R369, R383: step e.step is decided. -/
def decideStep (s : State) (e : Eval) (cs : Nat) : State :=
  let s := readSections s [secCommit]
  let o := outcomeOf s e cs
  let faults := e.faults ||| (if releasedLate s e.step cs then 0x40 else 0) ||| (if o = 3 then 0x80 else 0)
  let s := closeEntry s e.step
  let s := writeReport (writeVerdict s e.step o) e o faults
  let s := ledgerDecide s e.step o
  let s := setSupEvent { s with commit := { s.commit with
    evals := s.commit.evals.filter fun x => x.step != e.step, outcome := o, outFaults := faults, outStep := e.step } } 1
  if o = 3 then haltJob s 2 else s

/-- R364: at C_s. -/
def execStepDecision (now : Nat) (s : State) : Host.Outcome State Fault Refusal :=
  let t := atTide s now
  match s.commit.evals.head? with
  | none => .next s
  | some e =>
    let cs := (decisionTide s e.step).getD s.tide.start
    when (alive s && jobRuns s && s.tide.running && decide (e.step < s.tide.step) && decide (cs ≤ t.tide.now)) s (decideStep t e cs)

/-! Halts and reshards (R353, R371, R436). -/

/-- A core counts as halted: by HALT, or by a core reset (R436). -/
def coreHalted (k : Core) : Bool := k.mode != .running

def allHalted (s : State) : Bool := s.cores.all fun c => !c.2.program || coreHalted c.2

def ledgerSettled (s : State) : Bool := s.commit.ledState = 0 || s.commit.ledState = 2 || s.commit.ledState = 4

/-- R436: at or after T_b, with every core halted and the ledger settled. -/
def execHaltTakesEffect (now : Nat) (s : State) : Host.Outcome State Fault Refusal :=
  when (alive s && s.job.state = jobHalting && s.tide.running && decide (s.job.haltAt ≤ s.tide.step) && allHalted s && ledgerSettled s)
    s (haltJob (atTide s now) 1)

/-- FOLD_BAR of the pending plan has been released in frame b − 1. -/
def foldReleased (s : State) : Bool := 0 < s.job.rsAt && 0 < releasesOf s (s.job.rsAt - 1) (planNat s s.job.rsPlan 2 1)

/-- Reshard with DRAIN: its boundary has been reached and its fold is to come. -/
def foldDue (s : State) : Bool :=
  jobRuns s && s.tide.running && s.job.rsState = 2 && s.job.rsDrain && !s.job.rsFolded && decide (s.job.rsAt ≤ s.tide.step)

/-- R353: a core is reset; one that holds a program has its store rewritten and waits for frame b at FOLD_ENTRY. -/
def foldCore (s : State) (c : Nat) : State :=
  let s := rewriteStore (dropOutbound (modCore s c clearedCore) c) c
  modCore s c fun k =>
    if k.program then { k with mode := .running, wait := .stepRef, pc := planNat s s.job.rsPlan 6 2 % 32768, runs := .fold,
                               doneUpTo := s.job.rsAt, changed := s.tide.now }
    else { k with mode := .halted }

/-- R319, R353: cores are reset and reloaded, the reduction abandoned, fold programs started. Step b − 1 does not commit. -/
def foldReshard (s : State) : State :=
  let cs := s.cores.map (·.1)
  let s := cs.foldl foldCore { abandonReduction s with adds := [] }
  let next := s.job.rsAt + reshardFrames s
  let s := { s with
    job := { s.job with rsFolded := true }
    commit := { s.commit with evalNext := max s.commit.evalNext next, runFrom := next } }
  cs.foldl (fun s c => if (coreOf s c).program then deliver s c else s) s

def execReshardFold (now : Nat) (s : State) : Host.Outcome State Fault Refusal :=
  when (islesOn s && foldDue s && foldReleased s) s (foldReshard (atTide s now))

/-- R353: FOLD_BAR has not released by the end of frame b. -/
def execReshardFail (now : Nat) (s : State) : Host.Outcome State Fault Refusal :=
  let t := atTide s now
  let ended := decide (s.job.rsAt < s.tide.step) || decide (nextStart s ≤ t.tide.now)
  when (alive s && foldDue s && !foldReleased s && ended) s (haltJob { t with job := { t.job with rsState := 3 } } 3)

/-! Frame starts (R281, R283, R285, R298, R302, R330, R352, R354, R355). -/

/-- The frame that contains the present tide, by the recurrence from a frame (R281, R283). -/
def catchUp (s : State) : Nat → Nat × Nat × Nat → Nat × Nat × Nat
  | 0, f => f
  | fuel + 1, (n, t, q) =>
    let t' := t + ticksNs (frameTicks s) q
    if t' ≤ s.tide.now then
      catchUp s fuel (n + 1, t', ((s.tide.pending.filter fun a => a.step ≤ n + 1).getLast?.map (·.q)).getD q)
    else (n, t, q)

/-- The frame that begins: the first, the next of the recurrence, or by the values of the parent (R283). -/
def beginning (s : State) : Option (Nat × Nat × Nat) :=
  if s.tide.running then
    (if nextStart s ≤ s.tide.now then
      match s.tide.adopt with
      | some v => some (catchUp s 65536 v)
      | none => some (s.tide.step + 1, nextStart s, nextQ s)
     else none)
  else match s.tide.due with
    | some d => if d.2.1 ≤ s.tide.now then some d else none
    | none => none

/-- Late-launch counts of the cores now. -/
def lateCounts (s : State) : Tbl Nat := (s.cores.map fun c => (c.1, c.2.lateCnt)).filter fun x => x.2 != 0

/-- A skerry joins (R298): its job runs from frame n. -/
def joinJob (s : State) (n : Nat) : State :=
  let s := startCores s n
  setSupEvent { s with
    job := { s.job with state := jobRunning }
    commit := { s.commit with
      faults := firstFaults s n, armFaults := 0, evals := [], evalNext := n, runFrom := n, doneTide := [], lateAt := [] } } 0

/-- The supervisor's per-frame state (R302, R330): the epoch, counts of the step, what is remembered of older steps. -/
def frameCounts (s : State) (n : Nat) : State :=
  let young := fun k => decide (n ≤ k + 1)
  { s with
    reduction := { s.reduction with epoch := n % 65536, usesDone := 0, poison := 0, uses := s.reduction.uses.filter fun u => young (u.1 / 4096) }
    bars := { s.bars with releases := s.bars.releases.filter fun r => young r.1 }
    tide := { s.tide with uses := s.tide.uses.filter fun u => young u.step, counts := s.tide.counts.filter fun c => young c.step }
    commit := { s.commit with
      lateAt := tblSet [] (s.commit.lateAt.filter fun x => young x.1) n (lateCounts s)
      doneTide := s.commit.doneTide.filter fun x => young x.1 } }

/-- R352, R354, R355: the reshard begins at its boundary, counts its frames and ends with the last: the variant in force changes,
contexts take its flow table, armed, and the reduction goes on. -/
def reshardFrame (s : State) (n : Nat) : State :=
  match reshardAt s with
  | none => s
  | some b =>
    let e := b + reshardFrames s
    if n < b then s
    else if n < e then { s with job := { s.job with rsState := 2, rsLeft := e - n } }
    else
      let v := planVariant s s.job.rsPlan
      let s := { s with
        job := { s.job with
          rsState := 0, rsLeft := 0, rsFolded := false, rsPast := (b, e, s.job.rsPlan) :: s.job.rsPast, variant := v.getD s.job.variant }
        reduction := { s.reduction with stopped := false }
        commit := { s.commit with evalNext := max s.commit.evalNext e, runFrom := max s.commit.runFrom e } }
      match v with
      | some v => joinCores (writeFlows (readSections s [secFlows, secPrograms]) v fArmed) v e
      | none => s

/-- Frame (n, T, Q) begins. -/
def beginFrame (s : State) (f : Nat × Nat × Nat) : State :=
  let (n, t0, q) := f
  let s := readSections s ([secTide] ++ if reshardAt s = none then [] else [secReshard])
  let old := if s.tide.running then [(s.tide.step, s.tide.start, s.tide.curQ)] else []
  let oldest := (s.cores.filter fun c => c.2.program).foldl (fun m c => min m c.2.doneUpTo) n
  let s := if s.job.state = jobArmed then joinJob s n else s
  let s := setTide s fun t => { t with
    step := n, start := t0, curQ := q, running := true, due := none, adopt := none
    frames := (old ++ t.frames).filter fun x => decide (min oldest (n - 1) ≤ x.1)
    pending := t.pending.filter fun a => decide (n < a.step) }
  let s := setJob (reshardFrame (frameCounts s n) n) fun j => { j with rsPast := j.rsPast.filter fun r => decide (oldest ≤ r.2.1) }
  let s := flood s 8 0x11 (stateBody s)
  recomputeTempo { s with power := { s.power with ramp := none, rampAt := none } }

/-- R281: the tide reaches the start of a frame. A skerry that is not LOCKED then does not join by it (R298). -/
def execFrameStart (now : Nat) (s : State) : Host.Outcome State Fault Refusal :=
  let t := atTide s now
  match beginning t with
  | none => .next s
  | some f =>
    when (alive s && (jobRuns s || (s.job.state = jobArmed && s.tide.due.isSome))) s
      (if s.job.state = jobArmed && !s.tide.locked then setTide t fun x => { x with due := none } else beginFrame t f)

/-! SLOT_READY (R345, R346). -/

/-- R346: a write of HI takes effect with the next write of LO; a lower step is ignored. -/
def slotWrite (s : State) (hi : Bool) (v : Reg) : State :=
  if hi then { s with job := { s.job with slotHi := v.toNat } }
  else { s with job := { s.job with slotReady := max s.job.slotReady (v.toNat + 2 ^ 32 * s.job.slotHi) } }

def execSlotReadyWrite (hi : Bool) (v : Reg) (s : State) : Host.Outcome State Fault Refusal := when (alive s) s (slotWrite s hi v)

end Sys2Proof.Machine
end

