-- ==== Sys2Proof/Machine/Isthmus.lean ====
section
/-! DEFINITION. The isthmus links (01, Lanes, spares and widths; R15–R36): training, lane failures, module changes, failed links. -/

namespace Sys2Proof.Machine

def setIsthMod (s : State) (k m : Nat) (x : IsthModule) : State :=
  { s with isth := { s.isth with mods := tblSet moduleReset s.isth.mods (16 * k + m) x } }

/-- STATE of ISTH_STATUS_k: 0 untrained, 1 up, 2 failed. -/
def linkState (s : State) (k : Nat) : Nat := tblGet 0 s.isth.link k

def setLink (s : State) (k v : Nat) : State := { s with isth := { s.isth with link := tblSet 0 s.isth.link k v } }

/-- Key of a lane in a module: forward lanes first. -/
def laneKey (rev : Bool) (lane : Nat) : Nat := if rev then 68 + lane else lane

def laneFailed (x : IsthModule) (rev : Bool) (lane : Nat) : Bool := tblGet false x.failed (laneKey rev lane)

/-- Failed lanes of a direction among some. -/
def failedOf (x : IsthModule) (rev : Bool) (lanes : List Nat) : Nat := (lanes.filter (laneFailed x rev)).length

def dataLanes : List Nat := List.range 64
def spareLanes : List Nat := span 64 4
def halfLanes (hi : Bool) : List Nat := span (if hi then 32 else 0) 32
def failedAll (x : IsthModule) (rev : Bool) : Nat := failedOf x rev (List.range 68)

/-- R24: every failed data lane has a spare in both directions. -/
def fullOk (x : IsthModule) : Bool := failedAll x false ≤ 4 && failedAll x true ≤ 4

/-- R26: the working spares of each direction cover the failed lanes of a half (log 15). -/
def halfOk (x : IsthModule) (hi : Bool) : Bool :=
  failedOf x false (halfLanes hi ++ spareLanes) ≤ 4 && failedOf x true (halfLanes hi ++ spareLanes) ≤ 4

def halfFailed (x : IsthModule) (hi : Bool) : Nat := failedOf x false (halfLanes hi) + failedOf x true (halfLanes hi)

/-- R25, R26: the half that is kept: of the halves that can be, the one with fewer failed lanes, the low one when equal. -/
def keptHalf (x : IsthModule) : Option Bool :=
  match halfOk x false, halfOk x true with
  | true, true => some (decide (halfFailed x true < halfFailed x false))
  | true, false => some false
  | false, true => some true
  | false, false => none

/-- A module at full width, at half width, offline, with the spares that it uses. -/
def goFull (x : IsthModule) : IsthModule :=
  { x with width := 1, halfSel := false, sparesFwd := failedOf x false dataLanes, sparesRev := failedOf x true dataLanes }

def goHalf (x : IsthModule) (hi : Bool) : IsthModule :=
  { x with width := 2, halfSel := hi, sparesFwd := failedOf x false (halfLanes hi), sparesRev := failedOf x true (halfLanes hi) }

def goOffline (x : IsthModule) : IsthModule := { x with width := 3, halfSel := false, sparesFwd := 0, sparesRev := 0 }

/-- R24–R26: the width of a module that has no width yet, or has full width. -/
def settle (x : IsthModule) : IsthModule :=
  if fullOk x then goFull x else match keptHalf x with | some hi => goHalf x hi | none => goOffline x

/-- Spares that a half-width module uses: its first working ones. -/
def spareInUse (x : IsthModule) (rev : Bool) (lane : Nat) : Bool :=
  ((spareLanes.filter fun n => !laneFailed x rev n).take (if rev then x.sparesRev else x.sparesFwd)).contains lane

/-- A lane of a half-width module is active (R27). -/
def activeHalf (x : IsthModule) (rev : Bool) (lane : Nat) : Bool :=
  !laneFailed x rev lane && ((halfLanes x.halfSel).contains lane || spareInUse x rev lane)

def markLane (x : IsthModule) (rev : Bool) (lane : Nat) : IsthModule :=
  { x with failed := tblSet false x.failed (laneKey rev lane) true }

/-- Table 1-5: one declared failure is applied. -/
def applyLane (x : IsthModule) (rev : Bool) (lane : Nat) : IsthModule :=
  if laneFailed x rev lane then x
  else if x.width = 1 then settle (markLane x rev lane)
  else if x.width = 2 then
    if activeHalf x rev lane then goOffline (markLane x rev lane) else markLane x rev lane
  else x

/-- A module at full or half width works (R28). -/
def worksMod (x : IsthModule) : Bool := x.width = 1 || x.width = 2

def workingMods (s : State) (k : Nat) : Nat := ((List.range 16).filter fun m => worksMod (isthMod s k m)).length

/-- A lane that is monitored: every working lane at full width; at half width the active lanes, those of the kept half and the spares
in use (R27, log 15). -/
def watched (x : IsthModule) (rev : Bool) (lane : Nat) : Bool :=
  !laneFailed x rev lane && (x.width = 1 || (x.width = 2 && activeHalf x rev lane))

/-- Declared failures are taken interval by interval, in one interval in ascending lane number, forward before reverse (R31). -/
def declBefore (a b : LaneDecl) : Bool := a.interval < b.interval || (a.interval = b.interval && a.order < b.order)

/-- A failure joins those that wait. -/
def addDecl (d : LaneDecl) : List LaneDecl → List LaneDecl
  | [] => [d]
  | x :: xs => if declBefore d x then d :: x :: xs else x :: addDecl d xs

def laneOrder (rev : Bool) (lane : Nat) : Nat := 2 * lane + bit rev

/-- The module has declared a lane failed already. -/
def declaredLane (x : IsthModule) (o : Nat) : Bool :=
  x.declared.any (fun d => d.order = o) || (match x.change with | some c => c.decl.order = o | none => false)

/-- R31: a failure begins a change, or waits for the end of the one in progress; of failures declared at the tide at which a change
begins the change applies the first. -/
def declare (x : IsthModule) (d : LaneDecl) (now : Nat) : IsthModule :=
  match x.change with
  | none => { x with change := some ⟨d, now⟩ }
  | some c =>
    if c.since = now && declBefore d c.decl then { x with change := some ⟨d, now⟩, declared := addDecl c.decl x.declared }
    else { x with declared := addDecl d x.declared }

/-- The parity errors behind a failure or a replay: how many the spec does not say (log 3). -/
def countParity (s : State) (k m : Nat) : State :=
  let x := isthMod s k m
  useFree (setIsthMod s k m { x with parity := min 0xFFFFFF (x.parity + freeNat s % 2 ^ 24) })

/-- R29–R31: a lane is declared failed; the module begins a change, or takes the failure after those before it. -/
def execIsthmusLaneFail (k : Fin 4) (m : Fin 16) (lane : Bool × Fin 68) (now : Nat) (s : State) :
    Host.Outcome State Fault Refusal :=
  let t := atTide s now
  let x := isthMod s k m
  let o := laneOrder lane.1 lane.2
  when (islesOn s && linkState s k != 0 && watched x lane.1 lane.2 && !declaredLane x o) s
    (countParity (setIsthMod t k m (declare x ⟨t.tide.now / 1000000, o⟩ t.tide.now)) k m)

/-- R28, R34: a link whose working modules fall below 8 is failed, with a flow fault of the step. -/
def checkLink (s : State) (k : Nat) : State :=
  if linkState s k = 1 && workingMods s k < 8 then
    faultNow (setIsthEvent (setLink s k 2) (1#32 <<< (4 + k))) 2
  else s

/-- A module after its change: the failure is applied, and the next one that waits begins the next change. -/
def endChange (x : IsthModule) (d : LaneDecl) (now : Nat) : IsthModule :=
  let y := applyLane x (d.order % 2 = 1) (d.order / 2)
  match y.declared with
  | [] => { y with change := none }
  | e :: es => { y with change := some ⟨e, now⟩, declared := es }

/-- R32: a module change ends. -/
def execIsthmusModuleChangeEnd (k : Fin 4) (m : Fin 16) (now : Nat) (s : State) : Host.Outcome State Fault Refusal :=
  let t := atTide s now
  let x := isthMod s k m
  match x.change with
  | none => .next s
  | some c =>
    when (islesOn s) s
      (recomputeTempo (checkLink (setIsthEvent (setIsthMod t k m (endChange x c.decl t.tide.now)) (1#32 <<< k.val)) k))

/-- The lanes that the assembly test marked failed (R20). -/
def mapLanes (s : State) (k m : Nat) : Tbl Bool :=
  (s.isth.laneMap.filter fun l => l.2 && decide (l.1 / 136 = 16 * k + m)).map fun l => (l.1 % 136, true)

/-- Failures declared and not yet taken are marked as failed lanes when the module trains (R23, log 100). -/
def markDeclared (x : IsthModule) : IsthModule :=
  let ds := x.declared ++ (match x.change with | some c => [c.decl] | none => [])
  { ds.foldl (fun x d => markLane x (d.order % 2 = 1) (d.order / 2)) x with declared := [], change := none }

/-- A module after training: every lane that failed is marked, and widths follow from the lanes alone, whatever width the module had
(R21, R24–R26; DESIGN CHOICE on exit from Ebb or Dry, log 100). -/
def trainMod (s : State) (failed : List LaneFail) (k m : Nat) : IsthModule :=
  let y := markDeclared (isthMod s k m)
  let x : IsthModule := { y with failed := (mapLanes s k m).foldl (fun f l => tblSet false f l.1 true) y.failed }
  settle ((failed.filter fun l => l.k.val = k && l.m.val = m).foldl (fun x l => markLane x l.rev l.lane) x)

/-- Every module trains; a link with fewer than 8 working modules is failed, and stays so (R33, R35, R36). -/
def trainLinks (s : State) (failed : List LaneFail) : State :=
  let s := (List.range 64).foldl (fun t i => setIsthMod t (i / 16) (i % 16) (trainMod s failed (i / 16) (i % 16))) s
  (List.range 4).foldl (fun s k =>
    if linkState s k = 2 then s
    else if workingMods s k < 8 then setIsthEvent (setLink s k 2) (1#32 <<< (4 + k))
    else setLink s k 1) s

/-- R21, R33, R36: start-up training ends. -/
def execIsthmusTrainingDone (failed : List LaneFail) (s : State) : Host.Outcome State Fault Refusal :=
  when (islesOn s && (List.range 4).all fun k => linkState s k = 0) s (trainLinks s failed)

/-- R17, R30: a replayed flit arrives in its order; only time passes. -/
def execIsthmusFlitReplay (k : Fin 4) (m : Fin 16) (_ : Bool) (s : State) : Host.Outcome State Fault Refusal :=
  when (islesOn s && worksMod (isthMod s k m)) s (countParity s k m)

/-- A link is failed (R33). -/
def anyLinkFailed (s : State) : Bool := (List.range 4).any fun k => linkState s k = 2

end Sys2Proof.Machine
end

