-- ==== Sys2Proof/Machine/Registers.lean ====
section
/-! DEFINITION. What the registers of BAR0 read (Table 14-1 and the register tables of 01, 02, 04–15), the configuration generation
and its journal (R448, R449), and the rows that read a register. -/

namespace Sys2Proof.Machine

/-- The word of a 64-bit quantity at a LO or a HI offset. -/
def half (x : Nat) (hi : Bool) : Nat := if hi then x / 2 ^ 32 % 2 ^ 32 else x % 2 ^ 32

/-- Bits `lo` up of a word. -/
def at_ (x lo : Nat) : Nat := x * 2 ^ lo

/-! Die and link block (01). -/

/-- A count of modules of a link with a width. -/
def modsOf (s : State) (k w : Nat) : Nat := ((List.range 16).filter fun m => (isthMod s k m).width = w).length

def isthStatus (s : State) (k : Nat) : Nat :=
  at_ (linkState s k) 30 + at_ (isthLanes s k) 15 + at_ (modsOf s k 3) 10 + at_ (modsOf s k 2) 5 + modsOf s k 1

def isthModReg (x : IsthModule) : Nat :=
  at_ (failedAll x true) 19 + at_ (failedAll x false) 12 + at_ x.sparesRev 8 + at_ x.sparesFwd 4 + at_ (bit x.halfSel) 2 + x.width

/-- DIE_REV_n: 0 until the revisions have been read (R37). -/
def dieRev (s : State) (n : Nat) : Nat := if s.boot.dieRead then (Config.dieRev n).toNat else 0

def linkBlock (s : State) (o : Nat) : Nat :=
  if o < 0x98 then dieRev s (o / 4)
  else if o = 0x100 then s.boot.qual.toNat
  else if o = 0x108 then half s.boot.features.toNat false
  else if o = 0x10C then half s.boot.features.toNat true
  else if 0x200 ≤ o ∧ o < 0x210 then isthStatus s ((o - 0x200) / 4)
  else if o = 0x300 then s.isth.event.toNat
  else if 0x400 ≤ o ∧ o < 0x500 then isthModReg (isthMod s ((o - 0x400) / 64) ((o - 0x400) / 4 % 16))
  else 0

/-! Core register blocks (02, 04–06). -/

/-- CORE_STAT.SEQ_STATE: a core reads 6 while its memories are wiped (R81), in phase 1 of R229 as well. -/
def seqState (s : State) (k : Core) : Nat :=
  match k.mode with
  | .reset => if s.boot.held = 0 && s.memory.wipe = 1 && !s.memory.sramDone then 6 else 0
  | .wiping => 6
  | .halted => 5
  | .running => match k.wait with
    | .sem => 2
    | .flag => 3
    | .stepEnd => 4
    | .stepRef => 4
    | _ => 1

def coreStat (s : State) (k : Core) : Nat :=
  at_ (seqState s k) 29 + at_ (engineBusy k) 16 + at_ (bit k.armed) 15 + k.pc % 32768

def accLayout (k : Core) : Nat :=
  at_ k.drainSlot 10 + at_ (bit k.drain.isSome) 9 + at_ (bit k.tab2.isSome) 8 + at_ (bit k.tab1.isSome) 7 + at_ (bit k.comp) 2
    + k.shape

/-- ACC_CTX_n; a context that does not exist under the layout reads SLOT 63. -/
def accCtx (k : Core) (n : Nat) : Nat :=
  let x := tblGet ctxReset k.ctxs n
  if n + 1 < slotCount k then
    at_ (bit x.isOpen) 31 + at_ (bit x.bound) 30 + at_ (x.slot.getD n) 24 + at_ 1 23 + x.terms % 2 ^ 22
  else at_ 63 24

def clauseStatus (k : Core) : Nat := k.clauseStat.toNat + at_ (bit k.ctab2.isSome) 1 + bit k.ctab1.isSome

def coreBlock (s : State) (k : Core) (o : Nat) : Nat :=
  if o = 0 then coreStat s k
  else if o = 4 then k.err.toNat
  else if o = 8 then k.flags.toNat
  else if o = 0x10 then half (k.target.getD 0) false
  else if o = 0x14 then half (k.target.getD 0) true
  else if o = 0x18 then half k.lateCnt false
  else if o = 0x1C then half k.lateCnt true
  else if o = 0x40 then accLayout k
  else if o = 0x44 then k.drainStat.toNat
  else if o = 0x48 then clauseStatus k
  else if o = 0x4C then k.sparseBytes
  else if o = 0x50 then half k.stashSkip false
  else if o = 0x54 then half k.stashSkip true
  else if 0x100 ≤ o ∧ o < 0x1C0 then semGet k ((o - 0x100) / 4)
  else if 0x200 ≤ o ∧ o < 0x2FC then accCtx k ((o - 0x200) / 4)
  else 0

/-- Isles are off, or hold their state without a clock: what a read of a core block finds the spec does not say (log 23). -/
def islesDark (s : State) : Bool := s.power.state = 2 || s.power.state = 3

/-! Memory block and arena block (07, 10). -/

/-- R232, R330: these registers read 0 in Ebb and Dry. -/
def lit (s : State) (x : Nat) : Nat := if islesDark s then 0 else x

/-- MEM_WIPE.PERCENT: how far a pass has come is a free value in 0 to 100 (log 3). -/
def memWipe (s : State) : Nat :=
  at_ s.memory.wipe 30 + at_ (if s.boot.held = 0 then freeNat s % 101 else 0) 16 + at_ (bit s.memory.sramDone) 1 + bit s.memory.ueSeen

def stackBlock (k : Stack) (o : Nat) : Nat :=
  if o = 0 then at_ k.state 30
  else if o = 4 then k.ce
  else if o = 8 then k.ue
  else if o = 0xC then half (k.ueAddr / 64 * 64) false
  else if o = 0x10 then half (k.ueAddr / 64 * 64) true % 2 ^ 16 + at_ (bit k.ueValid) 31
  else if o = 0x14 then k.accUe
  else 0

def digestBlock (d : Digest) (o : Nat) : Nat :=
  if o = 0 then at_ (bit d.snap) 2 + bit d.en
  else if o = 8 then half d.base false
  else if o = 0xC then half d.base true
  else if o = 0x10 then half d.last false
  else if o = 0x14 then half d.last true
  else if 0x20 ≤ o ∧ o < 0x40 then d.sum / 2 ^ (8 * (o - 0x20)) % 2 ^ 32
  else 0

def memoryBlock (s : State) (o : Nat) : Nat :=
  if o < 0x600 then stackBlock (stackOf s (o / 64)) (o % 64)
  else if o = 0x1000 then s.memory.hours
  else if o = 0x1004 then memWipe s
  else if 0x2000 ≤ o ∧ o < 0x2400 then digestBlock (digestOf s ((o - 0x2000) / 64)) (o % 64)
  else 0

/-- RED_STAT. -/
def redStat (r : Reduction) : Nat := at_ (r.epoch % 2 ^ 16) 16 + at_ (bit r.earlyRel) 1 + bit r.abandoned

def arenaBlock (s : State) (o : Nat) : Nat :=
  if o < 0xC000 then (arenaAt s (o / 32)).toNat / 2 ^ (8 * (o % 32)) % 2 ^ 32
  else if o = 0xE000 then redStat s.reduction
  else if o = 0xE004 then at_ (s.reduction.usesDone % 2 ^ 16) 16 + s.reduction.usesStep % 2 ^ 16
  else if o = 0xE008 then s.reduction.poison
  else if 0xE100 ≤ o ∧ o < 0xE160 then
    at_ (bit (tblGet false s.memory.parkFull ((o - 0xE100) / 4))) 31 + parkBytes s ((o - 0xE100) / 4)
  else 0

/-! Strait block (08). -/

def portBlock (k : Port) (o : Nat) : Nat :=
  if o = 0 then at_ k.state 30 + at_ k.cause 26 + at_ (lanesTx k) 6 + lanesRx k
  else if o = 4 then k.failTx.toNat
  else if o = 8 then k.failRx.toNat
  else if o = 0xC then k.retry
  else if o = 0x10 then k.foreign
  else if o = 0x14 then k.unknown
  else if o = 0x18 then k.fecUe
  else if o = 0x1C then k.ackTmo
  else if o = 0x20 then half k.peerSn.toNat false
  else if o = 0x24 then half k.peerSn.toNat true
  else if o = 0x28 then k.peerPos.toNat
  else 0

def straitBlock (s : State) (o : Nat) : Nat :=
  if o < 0x800 then portBlock (portOf s (o / 256)) (o % 256)
  else if o = 0x800 then s.straits.jobTag
  else if o = 0x804 then s.straits.pos % 2 ^ 20
  else if o = 0x808 then s.straits.event.toNat
  else if o = 0x900 then at_ (bit s.straits.linkUp) 31 + at_ (bit s.straits.ptpLocked) 30
  else if o = 0x904 then s.straits.drop
  else 0

/-! Tide block (09). -/

def tideStat (t : Tide) : Nat := at_ t.state 29 + at_ (bit t.locked) 28 + at_ t.srcRank 24 + at_ t.depth 16 + at_ t.parent 12

def tideBlock (s : State) (o : Nat) : Nat :=
  let t := s.tide
  if o = 0 then half t.now false
  else if o = 4 then half t.now true
  else if o = 8 then tideStat t
  else if o = 0xC then t.offset.toNat
  else if o = 0x10 then at_ t.rank 16 + t.podId
  else if o = 0x14 then at_ (nextQ s) 16 + t.curQ
  else if o = 0x18 then at_ (bit t.limit) 31 + at_ t.podQ 16 + t.pkgQ
  else if o = 0x20 then half t.step false
  else if o = 0x24 then half t.step true
  else if o = 0x28 then half t.start false
  else if o = 0x2C then half t.start true
  else if o = 0x30 then t.event.toNat
  else if o = 0x34 then t.overruns
  else if o = 0x38 then t.lateRels
  else 0

/-! Job block (11, 12). -/

def commitStat (c : Commit) : Nat :=
  at_ c.outcome 30 + at_ (c.outFaults % 256) 22 + at_ (bit c.lateRelease) 21 + c.outStep % 2 ^ 16

def setBits (t : Tbl Bool) : Nat := (t.filter (·.2)).length

/-- Word w of a bitmap. -/
def bitWord (t : Tbl Bool) (w : Nat) : Nat :=
  (t.filter fun b => b.2 && b.1 / 32 = w).foldl (fun x b => x + 2 ^ (b.1 % 32)) 0

def reshardStat (j : Job) : Nat :=
  at_ j.rsState 30 + at_ (bit j.rsDrain) 29 + at_ j.rsPlan 24 + at_ j.rsLeft 16 + j.rsAt % 2 ^ 16

def jobBlock (s : State) (o : Nat) : Nat :=
  let c := s.commit
  if o = 0 then commitStat c
  else if o = 0x10 then at_ c.ledState 29
  else if o = 0x14 then half c.ledStep false
  else if o = 0x18 then half c.ledStep true
  else if o = 0x1C then at_ (setBits c.mirror) 16 + setBits c.own
  else if o = 0x20 then at_ (bit c.diverged) 31 + at_ (bit c.missing) 30 + c.matched % 2 ^ 16
  else if o = 0x100 then reshardStat s.job
  else if o = 0x110 then half s.job.slotReady false
  else if o = 0x114 then half s.job.slotReady true
  else if o = 0x118 then half s.job.slotEnded false
  else if o = 0x11C then half s.job.slotEnded true
  else if 0x1000 ≤ o ∧ o < 0x2200 then bitWord c.own ((o - 0x1000) / 4)
  else if 0x2200 ≤ o ∧ o < 0x3400 then bitWord c.mirror ((o - 0x2200) / 4)
  else 0

/-! Power block (13). -/

/-- The trajectory of R404 in mW, t ns after its start. -/
def rampMw (s : State) : Option Nat :=
  s.power.ramp.map fun r => min (1000 * secNat s secPower 8 2) (r.2 + s.power.slewUp * (s.tide.now - r.1) / 1000000)

/-- F_k of R397, in mW. -/
def floorMw (s : State) : Nat :=
  match rampMw s with
  | some f => f
  | none => if jobRuns s && s.tide.running then 1000 * min s.power.floor s.power.cap else 0

/-- GOV_FORECAST (R403). A part of a watt in F counts as one (log 24). -/
def forecast (s : State) : Nat :=
  if jobRuns s then
    let stat := secNat s secPower 12 2
    max (cdiv (floorMw s) 1000) (stat + cdiv ((secNat s secPower 14 2 - stat) * 4096) (nextQ s))
  else 0

def pwrState (s : State) : Nat := at_ s.power.state 30 + at_ (bit s.power.going.isSome) 29 + s.power.wakeCause

def pwrCfg (s : State) : Nat := at_ s.power.pol 8 + at_ s.power.en 4 + bit s.power.isleKeep

def powerBlock (s : State) (o : Nat) : Nat :=
  let p := s.power
  if o = 0 then pwrState s
  else if o = 4 then pwrCfg s
  else if o = 0x10 then p.cap
  else if o = 0x14 then at_ p.slewUp 16 + p.slewDn
  else if o = 0x18 then p.floor
  else if o = 0x1C then (p.stat &&& 0xF).toNat + at_ (bit p.ramp.isSome) 4 + at_ (bit ((List.range 576).any (ballastOn s))) 5
  else if o = 0x20 then p.powerMw
  else if o = 0x24 then forecast s
  else if o = 0x30 then half p.energy.toNat false
  else if o = 0x34 then half p.energy.toNat true
  else 0

/-! Reset, boot and identity block (15). -/

/-- RST_CAUSE_n. -/
def rstCause (b : Boot) (n : Nat) : Nat :=
  match n with
  | 0 => at_ b.source 4 + b.level
  | 1 => half b.tideAt false
  | 2 => half b.tideAt true
  | 3 => b.sysCount
  | 4 => b.coreCount
  | 5 => b.lastCore.toNat
  | 6 => b.bootStatAt.toNat
  | _ => b.powerOns

def bootStat (b : Boot) : Nat := at_ b.fail 8 + at_ (bit b.fromHost) 4 + b.stat

/-- LC_STATE.STATE: an erased seed is DECOMMISSIONED (R472). -/
def lifecycle (b : Boot) : Nat := if b.seedErased then 3 else b.lcState

def bootBlock (s : State) (o : Nat) : Nat :=
  let b := s.boot
  if o < 0x20 then rstCause b (o / 4)
  else if o = 0x40 then bootStat b
  else if o = 0x44 then b.length
  else if o = 0x48 then at_ b.clkMode 2 + b.bootSrc
  else if o = 0x50 then at_ b.owners.length 4 + lifecycle b
  else if o = 0x58 then half b.sigNext false
  else if o = 0x5C then half b.sigNext true
  else if o = 0x60 then half b.sigRes false
  else if o = 0x64 then half b.sigRes true
  else if o = 0x70 then b.wdogUs
  else 0

/-! Supervisor block, telemetry, sessions, MSI-X (14). -/

/-- Commands that Table 14-8 marks exclusive. -/
def exclusive (op : Nat) : Bool :=
  [0x10, 0x18, 0x30, 0x31, 0x32, 0x33, 0x34, 0x35, 0x36, 0x37, 0x38, 0x50, 0x82, 0x93, 0x94].contains op

/-- The exclusive command that runs: its opcode (R426). -/
def exclusiveRuns (s : State) : Option Nat :=
  (s.control.boxes.findSome? fun b => b.2.run.map (·.opcode) |>.filter exclusive)

def openSessions (s : State) : Nat :=
  ((List.range 8).filter fun k => (sessionOf s k).state = 1).foldl (fun x k => x + 2 ^ k) 0

def supJob (s : State) : Nat :=
  at_ s.job.state 29 + at_ s.job.cause 26 + at_ (bit (exclusiveRuns s).isSome) 16 + openSessions s

def supBlock (s : State) (o : Nat) : Nat :=
  if o = 0 then supJob s
  else if o = 8 then half s.control.cfgGen false
  else if o = 0xC then half s.control.cfgGen true
  else if o = 0x10 then half s.control.memwin false
  else if o = 0x14 then half s.control.memwin true
  else if o = 0x20 then s.control.supEvent.toNat
  else 0

def sessionBlock (x : Session) (o : Nat) : Nat :=
  if o = 0 then at_ x.state 30 + at_ x.kind 27 + at_ x.cause 16
  else if o = 4 then x.sid
  else if o = 8 then half x.bytes false
  else half x.bytes true

def telemetryBlock (s : State) (o : Nat) : Nat :=
  if o < 0x200 then leNat ((s.control.telem.drop o).take 4)
  else if 0x1000 ≤ o ∧ o < 0x1080 then sessionBlock (sessionOf s ((o - 0x1000) / 16)) (o % 16)
  else 0

/-- MSI-X: 32 entries of address, data and vector control, and the pending bits (R431). -/
def msixBlock (s : State) (o : Nat) : Nat :=
  if o < 0x200 then (if o % 16 = 12 then bit (s.control.masks.getLsbD (o / 16)) else memNat s.control.msix o 4)
  else if o = 0x800 then s.control.pba.toNat
  else 0

/-! Mailboxes (Table 14-3). -/

def mbStatus (b : Mailbox) : Nat := at_ b.state 30 + at_ b.seq 16 + b.code

/-- A byte of a mailbox. -/
def boxByte (b : Mailbox) (o : Nat) : Byte :=
  if o < 4 then BitVec.ofNat 8 ((b.cmd &&& 0x01FFFFFF).toNat / 2 ^ (8 * o))
  else if o < 8 then BitVec.ofNat 8 (mbStatus b / 2 ^ (8 * (o - 4)))
  else if o < 12 then BitVec.ofNat 8 (b.detail.toNat / 2 ^ (8 * (o - 8)))
  else if o < 16 then BitVec.ofNat 8 (b.rspLen / 2 ^ (8 * (o - 12)))
  else if o < 0x40 then 0
  else if o < 0x800 then memGet b.params (o - 0x40)
  else memGet b.resp (o - 0x800)

/-! The map of BAR0 (Table 14-1). -/

/-- The core of an offset in the core register blocks. -/
def blockCore (off : Nat) : Nat := (off - 0x100000) / 0x1000

/-- The 32-bit register at an offset, without what a read of it does. -/
def bar0Read (s : State) (off : Nat) : Nat :=
  if off < 0x10000 then leNat ((span (off % 0x1000) 4).map (boxByte (boxOf s (off / 0x1000))))
  else if off < 0x11000 then supBlock s (off - 0x10000)
  else if off < 0x20000 then 0
  else if off < 0x22000 then telemetryBlock s (off - 0x20000)
  else if off < 0x30000 then 0
  else if off < 0x31000 then msixBlock s (off - 0x30000)
  else if off < 0x40000 then 0
  else if off < 0x50000 then linkBlock s (off - 0x40000)
  else if off < 0x60000 then lit s (memoryBlock s (off - 0x50000))
  else if off < 0x70000 then lit s (arenaBlock s (off - 0x60000))
  else if off < 0x80000 then straitBlock s (off - 0x70000)
  else if off < 0x90000 then tideBlock s (off - 0x80000)
  else if off < 0xA0000 then jobBlock s (off - 0x90000)
  else if off < 0xB0000 then powerBlock s (off - 0xA0000)
  else if off < 0xC0000 then bootBlock s (off - 0xB0000)
  else if 0x100000 ≤ off ∧ off < 0x340000 then
    (if islesDark s then freeNat s % 2 ^ 32 else coreBlock s (coreOf s (blockCore off)) (off % 0x1000))
  else 0

/-! Reads with an effect (R8): counters that a read clears, halves that a read captures. -/

/-- A read takes the captured half of a LO/HI pair; without a capture it finds the running one. -/
def takeHalf (cap : Option Nat) (x : Nat) : Nat := (cap.getD x) / 2 ^ 32

/-- What a read of a word returns. -/
def readValue (s : State) (off : Nat) : Nat :=
  let c := s.control
  if off = 0x1000C then takeHalf c.capCfg c.cfgGen
  else if off = 0x80004 then takeHalf c.capTide s.tide.now
  else if off = 0x9011C then takeHalf c.capSlot s.job.slotEnded
  else if off = 0xA0034 then takeHalf c.capEnergy s.power.energy.toNat
  else if off = 0xB005C then takeHalf c.capNext s.boot.sigNext
  else if off = 0xB0064 then takeHalf c.capRes s.boot.sigRes
  else if 0x21000 ≤ off ∧ off < 0x21080 ∧ off % 16 = 12 then
    takeHalf (tblGet none c.capSess ((off - 0x21000) / 16)) (sessionOf s ((off - 0x21000) / 16)).bytes
  else bar0Read s off

/-- A stack's counters read 0 and cannot be cleared in Ebb and Dry (R232). -/
def clearStack (s : State) (i : Nat) (f : Stack → Stack) : State := if islesDark s then s else modStack s i f

/-- What a read of a word of BAR0 leaves. -/
def afterRead (s : State) (off : Nat) : State :=
  let c := s.control
  if off = 0x10008 then { s with control := { c with capCfg := some c.cfgGen } }
  else if off = 0x1000C then { s with control := { c with capCfg := none } }
  else if off = 0x80000 then { s with control := { c with capTide := some s.tide.now } }
  else if off = 0x80004 then { s with control := { c with capTide := none } }
  else if off = 0x90118 then { s with control := { c with capSlot := some s.job.slotEnded } }
  else if off = 0x9011C then { s with control := { c with capSlot := none } }
  else if off = 0xA0030 then { s with control := { c with capEnergy := some s.power.energy.toNat } }
  else if off = 0xA0034 then { s with control := { c with capEnergy := none } }
  else if off = 0xB0058 then { s with control := { c with capNext := some s.boot.sigNext } }
  else if off = 0xB005C then { s with control := { c with capNext := none } }
  else if off = 0xB0060 then { s with control := { c with capRes := some s.boot.sigRes } }
  else if off = 0xB0064 then { s with control := { c with capRes := none } }
  else if 0x21000 ≤ off ∧ off < 0x21080 ∧ off % 16 = 8 then
    let k := (off - 0x21000) / 16
    { s with control := { c with capSess := tblSet none c.capSess k (some (sessionOf s k).bytes) } }
  else if 0x21000 ≤ off ∧ off < 0x21080 ∧ off % 16 = 12 then
    { s with control := { c with capSess := tblSet none c.capSess ((off - 0x21000) / 16) none } }
  else if 0x50000 ≤ off ∧ off < 0x50600 then
    let o := off % 64
    clearStack s ((off - 0x50000) / 64) fun k =>
      if o = 4 then { k with ce := 0 } else if o = 8 then { k with ue := 0 } else if o = 0x14 then { k with accUe := 0 } else k
  else if off = 0x51004 then useFree s
  else if 0x70000 ≤ off ∧ off < 0x70800 then
    let o := off % 256
    modPort s ((off - 0x70000) / 256) fun k =>
      if o = 0xC then { k with retry := 0 } else if o = 0x10 then { k with foreign := 0 }
      else if o = 0x14 then { k with unknown := 0 } else if o = 0x18 then { k with fecUe := 0 } else k
  else if off = 0x70904 then { s with straits := { s.straits with drop := 0 } }
  else if off = 0x80034 then setTide s fun t => { t with overruns := 0 }
  else if off = 0x80038 then setTide s fun t => { t with lateRels := 0 }
  else if 0x100000 ≤ off ∧ off < 0x340000 ∧ islesDark s then useFree s
  else s

/-- A read of a word of BAR0: the bytes it returns and what it leaves. -/
def readReg (s : State) (off : Nat) : State := { afterRead s off with rdata := leBytes 4 (readValue s off) }

/-- No reset is held, and PCIe runs: with the internal oscillator alone it stays in reset (R457), and it takes its clock from the
reference (Table 15-3, R491). -/
def pcieOn (s : State) : Bool := s.boot.held = 0 && s.boot.clkMode != 3 && !s.power.refLost

/-- A read through BAR0. -/
def readRow (s : State) (off : Nat) : Host.Outcome State Fault Refusal := when (pcieOn s) s (readReg s off)

def execTideNowLoRead (now : Nat) (s : State) : Host.Outcome State Fault Refusal := when (pcieOn s) s (readReg (atTide s now) 0x80000)
def execMtEnergyLoRead (s : State) : Host.Outcome State Fault Refusal := readRow s 0xA0030
def execCfgGenLoRead (s : State) : Host.Outcome State Fault Refusal := readRow s 0x10008
def execSlotEndedLoRead (s : State) : Host.Outcome State Fault Refusal := readRow s 0x90118
def execSigNextLoRead (resEnd : Bool) (s : State) : Host.Outcome State Fault Refusal := readRow s (if resEnd then 0xB0060 else 0xB0058)
def execHarbSessBytesLoRead (k : Fin 8) (s : State) : Host.Outcome State Fault Refusal := readRow s (0x21008 + 16 * k.val)
def execMemCeCntRead (i : Fin 24) (s : State) : Host.Outcome State Fault Refusal := readRow s (0x50004 + 64 * i.val)
def execMemUeCntRead (i : Fin 24) (s : State) : Host.Outcome State Fault Refusal := readRow s (0x50008 + 64 * i.val)
def execAccUeCntRead (i : Fin 24) (s : State) : Host.Outcome State Fault Refusal := readRow s (0x50014 + 64 * i.val)
def execPortRetryCntRead (p : Fin 8) (s : State) : Host.Outcome State Fault Refusal := readRow s (0x7000C + 256 * p.val)
def execPortForeignCntRead (p : Fin 8) (s : State) : Host.Outcome State Fault Refusal := readRow s (0x70010 + 256 * p.val)
def execPortUnknownCntRead (p : Fin 8) (s : State) : Host.Outcome State Fault Refusal := readRow s (0x70014 + 256 * p.val)
def execPortFecUeCntRead (p : Fin 8) (s : State) : Host.Outcome State Fault Refusal := readRow s (0x70018 + 256 * p.val)
def execHarbDropCntRead (s : State) : Host.Outcome State Fault Refusal := readRow s 0x70904
def execTideOverrunCntRead (s : State) : Host.Outcome State Fault Refusal := readRow s 0x80034
def execTideLateRelCntRead (s : State) : Host.Outcome State Fault Refusal := readRow s 0x80038

/-! Configuration generation and journal (R448, R449). -/

/-- What a journal entry says beside GEN and TIDE (Table 14-12). -/
structure Change where
  source : Nat
  mailbox : Nat
  opcode : Nat
  offset : Nat
  value : Nat
  deriving DecidableEq, Repr

/-- The 32 bytes of a journal entry. -/
def journalEntry (gen tide : Nat) (c : Change) : List Byte :=
  leBytes 8 gen ++ leBytes 8 tide ++ leBytes 1 c.source ++ leBytes 1 c.mailbox ++ leBytes 2 c.opcode ++ leBytes 4 c.offset
    ++ leBytes 8 c.value

/-- CFG_GEN rises by 1 and the journal takes an entry. -/
def cfgRise (s : State) (c : Change) : State :=
  let g := (s.control.cfgGen + 1) % 2 ^ 64
  { s with control := { s.control with
      cfgGen := g, journal := memWrite s.control.journal (32 * (g % 256)) (journalEntry g s.tide.now c) } }

/-- A BAR0 or JTAG write of the register at an offset has taken it from an old value to the present one. -/
def cfgWrite (s : State) (jtag : Bool) (off old : Nat) : State :=
  cfgRise s ⟨if jtag then 3 else 2, 0xFF, 0, off, old + 2 ^ 32 * bar0Read s off⟩

end Sys2Proof.Machine
end

