-- ==== Sys2Proof/Machine/Meter.lean ====
section
/-! DEFINITION. The Sesil meter (13, R406–R416): notices, records, the ring, the RTC. It takes its own supply, so no reset and no
power state of the package touches it (R408). -/

namespace Sys2Proof.Machine

def setMeter (s : State) (f : Meter → Meter) : State := { s with meter := f s.meter }

/-- MT_SEAL: CAL_LOCKED, ROM_OK, seal events. -/
def mtSeal (m : Meter) : Nat := 2 ^ 31 + at_ (bit m.romOk) 30 + m.seals

/-- The meter's energy register and RTC as an event of its own finds them; neither ever falls (R407, R415). -/
def meterAt (s : State) (energy rtc : Nat) : State :=
  setMeter s fun m => { m with energy := max m.energy energy, rtc := max m.rtc rtc }

/-- FLAGS of a record (Table 13-6). -/
def recordFlags (m : Meter) : Nat :=
  bit (match m.ptpAt with | some t => decide (m.rtc < t + 120000000000) | none => false) + at_ (bit m.low) 1 + at_ (bit m.range) 2

/-- Bytes 63:0 of the record that is made now (Table 13-6). -/
def recordHead (m : Meter) (typ : Nat) (body : List Byte) : List Byte :=
  leBytes 8 m.seqNext ++ leBytes 1 typ ++ leBytes 1 (recordFlags m) ++ leBytes 2 m.tag ++ leBytes 4 0 ++ leBytes 8 m.rtc
    ++ leBytes 8 (unsgn 64 m.ptpOffset) ++ leBytes 8 m.energy ++ body ++ m.prev

/-- The 64 bytes of SIG (R414). -/
def recordSig (head : List Byte) : List Byte := (Config.meterSign head ++ List.replicate 64 0).take 64

/-- A BODY of four 16-bit fields (Table 13-7). -/
def body4 (a b c d : Nat) : List Byte := leBytes 2 a ++ leBytes 2 b ++ leBytes 2 c ++ leBytes 2 d

/-- A record is appended (R412, R414). -/
def append (s : State) (typ : Nat) (body : List Byte) : State :=
  setMeter s fun m =>
    let head := recordHead m typ body
    let rec_ := head ++ recordSig head
    { m with ring := tblSet [] m.ring (m.seqNext % 32768) rec_, prev := (shake256 rec_).take 16, seqNext := m.seqNext + 1,
             low := false, range := false }

/-- MT_RECORD for a SEQ: all zero when the record is no longer or not yet held (Table 13-8). -/
def recordOf (m : Meter) (seq : Nat) : List Byte :=
  if seq < m.seqNext && decide (m.seqNext ≤ seq + 32768) then tblGet (List.replicate 128 0) m.ring (seq % 32768)
  else List.replicate 128 0

/-- A 16-bit field that saturates. -/
def sat16 (x : Nat) : Nat := min 65535 x

/-- R410, R412: the meter takes a notice: a tag or a power-setting record. -/
def takeNotice (s : State) (n : Notice) : State :=
  if n.typ = 2 then append (setMeter s fun m => { m with tag := n.new }) 2 (body4 n.old n.new n.gen 0)
  else append s 3 (body4 n.setting n.old n.new n.gen)

/-- R411: while 1588 time is locked. -/
def execTimeNotice (ptp rtc : Nat) (s : State) : Host.Outcome State Fault Refusal :=
  when (s.boot.held = 0 && s.straits.ptpLocked) s
    (setMeter s fun m => { m with rtc := max m.rtc rtc, ptpOffset := (ptp : Int) - rtc, ptpAt := some rtc })

/-- Minutes of the RTC. -/
def rtcMinute (rtc : Nat) : Nat := rtc / 60000000000

/-- The interval is closed with a record (R412). -/
def closeInterval (s : State) (peakW : Nat) : State :=
  let m := s.meter
  let s := append s 1 (body4 (sat16 (rtcMinute m.rtc - m.closedAt)) (sat16 peakW) 0 0)
  setMeter s fun m => { m with closedAt := rtcMinute m.rtc }

/-- R412: at each multiple of MT_INTERVAL minutes of the RTC. -/
def execMeterIntervalRecord (energy rtc peakW : Nat) (s : State) : Host.Outcome State Fault Refusal :=
  let t := meterAt s energy rtc
  let n := rtcMinute t.meter.rtc
  when (n % t.meter.interval = 0 && decide (t.meter.closedAt < n)) s (closeInterval t peakW)

/-- A seal event record (R408): CAUSE and the refused I3C address. -/
def sealRecord (s : State) (cause addr : Nat) : State :=
  append (setMeter s fun m => { m with seals := min (2 ^ 30 - 1) (m.seals + 1) }) 4 (body4 cause addr 0 0)

/-- MT_INTERVAL's I3C address. -/
def mtIntervalAddr : Nat := 0x24

/-- R413: the interval is closed, and the change recorded. A reserved value is refused with a seal event (R408). -/
def execMtIntervalWrite (minutes energy rtc peakW : Nat) (s : State) : Host.Outcome State Fault Refusal :=
  let t := setMeter (meterAt s energy rtc) fun m => { m with intervalDue := none }
  let old := t.meter.interval
  .next (if 1 ≤ minutes ∧ minutes ≤ 60 then
      (if minutes = old then t
       else append (setMeter (closeInterval t peakW) fun m => { m with interval := minutes }) 3
         (body4 6 old minutes (s.control.cfgGen % 65536)))
    else sealRecord t 1 mtIntervalAddr)

/-- R408: an I3C write is refused: another address than MT_INTERVAL, MT_NOTICE and MT_RECORD_SEL, or a reserved value. -/
def sealRefused (addr value : Nat) : Bool :=
  if addr = mtIntervalAddr then value = 0 || decide (60 < value) else addr != 0x40 && addr != 0x80

/-- R408, R412: a refused write, or a ROM self-check that fails at start. -/
def execSealEvent (selfCheck : Bool) (addr value energy rtc : Nat) (s : State) : Host.Outcome State Fault Refusal :=
  let t := meterAt s energy rtc
  if selfCheck then .next (sealRecord (setMeter t fun m => { m with romOk := false }) 2 0)
  else when (sealRefused addr value) s (sealRecord t 1 (addr % 65536))

/-- R412, R415: the meter starts after losing both supplies; its RTC goes on from the stored value. -/
def execMeterStart (gapS energy : Nat) (s : State) : Host.Outcome State Fault Refusal :=
  .next (append (setMeter s fun m => { m with
    energy := max m.energy energy, rtc := m.stored, romOk := true, ptpAt := none, closedAt := rtcMinute m.stored }) 5
    (body4 (sat16 gapS) 0 0 0))

/-- R415: every second. -/
def execRtcStore (rtc : Nat) (s : State) : Host.Outcome State Fault Refusal :=
  .next (setMeter s fun m => { m with rtc := max m.rtc rtc, stored := max m.rtc rtc })

/-- R430, R416: the supervisor's copy of MT_ENERGY. -/
def execMtEnergyCopy (energy : BitVec 64) (s : State) : Host.Outcome State Fault Refusal :=
  when (s.boot.held = 0) s
    (setMeter { s with power := { s.power with energy := energy } } fun m => { m with energy := max m.energy energy.toNat })

/-! Notices (R410). -/

/-- The notice queue is full: what would change a setting is refused or discarded. -/
def noticesFull (s : State) : Bool := 256 ≤ s.power.notices.length

/-- A change's notice joins the queue; `ahead` is 1 while the change's own rise of CFG_GEN is still to come (R448). A change that
nothing holds back has its notice also beyond the 256 entries (log 63). -/
def notice (s : State) (typ setting old new ahead : Nat) : State :=
  if old = new then s
  else { s with power := { s.power with
    notices := s.power.notices ++ [⟨typ, setting, old % 65536, new % 65536, (s.control.cfgGen + ahead) % 65536⟩] } }

/-- STRAIT_JOB.TAG takes a value, with its notice. -/
def setTag (s : State) (tag ahead : Nat) : State :=
  { notice s 2 0 s.straits.jobTag tag ahead with straits := { s.straits with jobTag := tag } }

end Sys2Proof.Machine
end

