-- ==== Sys2Proof/Machine/Power.lean ====
section
/-! DEFINITION. Power states, wakes and the governor (13, R386–R404), the thermal trip (R401, R402, R492), the loss of VIN48 (R485)
and of the reference clock (R491). -/

namespace Sys2Proof.Machine

def setPower (s : State) (f : Power → Power) : State := { s with power := f s.power }

/-! Results of commands that end later (R424). -/

/-- Commands whose completion with OK raises CFG_GEN (R448). -/
def raisesGen (op : Nat) : Bool :=
  [0x10, 0x18, 0x30, 0x31, 0x35, 0x36, 0x40, 0x41, 0x50, 0x51, 0x52, 0x72, 0x73, 0x90].contains op

/-- MB_DETAIL of REFUSED_STATE (Table 14-6). -/
def stateDetail (s : State) : Nat := s.job.state + at_ s.power.state 4 + at_ s.tide.state 8

/-- VALUE of a command's journal entry: bytes 7:0 of the parameters, or IMAGE_ID bytes 7:0 of a loaded image (Table 14-12). -/
def journalValue (s : State) (m op : Nat) : Nat :=
  if op = 0x30 || op = 0x31 then memNat (boxOf s m).resp 0 8 else memNat (boxOf s m).params 0 8

/-- The command that runs in mailbox m has its outcome; COMMAND_COMPLETE shows it. With OK it raises CFG_GEN if it is one that does
(R448), `value` being VALUE of its journal entry. -/
def finishAs (s : State) (m code detail : Nat) (resp : List Byte) (value : Nat) : State :=
  match (boxOf s m).run with
  | none => s
  | some r =>
    let t := modBox s m fun b => { b with run := some { r with result := some ⟨code, reg detail, resp⟩ } }
    if code = 0 && raisesGen r.opcode then cfgRise t ⟨1, m, r.opcode, 0, value⟩ else t

def finish (s : State) (m code detail : Nat) (resp : List Byte) : State :=
  finishAs s m code detail resp (memNat (boxOf s m).params 0 8)

/-- Status codes (Table 14-5). -/
def stOk : Nat := 0x0
def stBusy : Nat := 0x1
def stBusyEpoch : Nat := 0x2
def stBadParam : Nat := 0x3
def stRefused : Nat := 0x4
def stWipe : Nat := 0x5
def stTopology : Nat := 0x6
def stUnqualified : Nat := 0x7
def stIsthmus : Nat := 0x8
def stStack : Nat := 0x9
def stUnlocked : Nat := 0xA
def stKey : Nat := 0xB
def stSig : Nat := 0xC
def stUnknown : Nat := 0xE
def stWrongBox : Nat := 0xF
def stBadSeq : Nat := 0x10

/-! The governor (R396–R400). -/

/-- One of the governor's settings takes a value within its range, with its notice (R396, R410). SETTING as in Table 13-7. -/
def govSetting (s : State) (setting v ahead : Nat) : State :=
  let p := s.power
  match setting with
  | 1 => let w := clamp 1500 5200 v; setPower (notice s 3 1 p.cap w ahead) fun p => { p with cap := w }
  | 2 => let w := clamp 1 2000 v; setPower (notice s 3 2 p.slewUp w ahead) fun p => { p with slewUp := w }
  | 3 => let w := clamp 1 2000 v; setPower (notice s 3 3 p.slewDn w ahead) fun p => { p with slewDn := w }
  | _ => let w := min 5200 v; setPower (notice s 3 4 p.floor w ahead) fun p => { p with floor := w }

def govOffset : GovReg → Nat
  | .cap => 0xA0010
  | .slew => 0xA0014
  | .floor => 0xA0018

/-- A value written to a governor register takes effect (R396). -/
def govTake (s : State) (r : GovReg) (v : Reg) : State :=
  match r with
  | .cap => govSetting s 1 (bitsOf v.toNat 0 13) 1
  | .slew => govSetting (govSetting s 2 (bitsOf v.toNat 16 11) 1) 3 (bitsOf v.toNat 0 11) 1
  | .floor => govSetting s 4 (bitsOf v.toNat 0 13) 1

/-- R410: a BAR0 or JTAG write to a governor register; while the notice queue is full it is discarded. It counts by R448 in any case. -/
def govWrite (s : State) (r : GovReg) (v : Reg) (jtag : Bool) : State :=
  cfgWrite (if noticesFull s then setGovStat s 3 else govTake s r v) jtag (govOffset r) (bar0Read s (govOffset r))

def execGovRegisterWrite (r : GovReg) (v : Reg) (jtag : Bool) (now : Nat) (s : State) : Host.Outcome State Fault Refusal :=
  when (s.boot.held = 0 && (jtag || pcieOn s)) s (govWrite (atTide s now) r v jtag)

/-- Mean power of a fast-stream frame whose CRC holds (R409). -/
def frameMean (bytes : List Byte) : Option Nat :=
  if bytes.length = 16 && leNat (bytes.drop 12) = (crc32c (bytes.take 12)).toNat then some (leNat ((bytes.drop 4).take 4)) else none

/-- The cap in mW: every wipe runs under the boot power cap (R463). -/
def capMw (s : State) : Nat := 1000 * (if s.memory.wipe = 0 then s.power.cap else 1500)

/-- R397: U and L of the next interval, in mW, from the mean of the last. A slew of x W/s is x mW in an interval. -/
def nextBand (s : State) : Nat × Nat :=
  let p := s.power
  let g := if p.bandSet then max p.bandL (min p.bandU p.meanMw) else p.meanMw
  let down := g - p.slewDn
  let u := min (g + p.slewUp) (max (capMw s) down)
  (u, min u (max (floorMw s) down))

/-- A core moves to a clock point of 400 MHz to 1.65 GHz (R393, R398). -/
def movePoint (s : State) (p : Fin 576 × Nat) : State := modCore s p.1 fun k => { k with mhz := clamp 400 1650 p.2 }

/-- R397–R399: the band of the next interval, what its work in hand shows, and the clock points to which the cores move. Ballast is called
for where the work at the highest points does not reach the band. -/
def steer (s : State) (w : PowerWork) : State :=
  let (u, l) := nextBand s
  let s := setPower s fun p => { p with bandU := u, bandL := l, bandSet := true, ballast := decide (w.high + 20000 < l) }
  let s := w.points.foldl movePoint s
  let s := if u + 20000 < w.low then setGovStat s 0 else s
  if w.ballast + 20000 < l then setGovStat s 1 else s

/-- R397, R409: the governor takes the mean of a frame; one whose CRC fails leaves it as it was. -/
def takeMean (s : State) (bytes : List Byte) : State :=
  match frameMean bytes with
  | some m => setPower s fun p => { p with meanMw := m, powerMw := m }
  | none => s

/-- R397, R409, R414: an interval of the fast stream ends. The meter notes what it measured, whatever comes of the frame. -/
def execFastPowerFrame (frame : List Byte × Bool × Bool) (work : PowerWork) (s : State) : Host.Outcome State Fault Refusal :=
  let t := setMeter s fun x => { x with low := x.low || frame.2.1, range := x.range || frame.2.2 }
  .next (if s.boot.held != 0 then t
    else if alive s && s.power.state = 0 then steer (takeMean t frame.1) work else takeMean t frame.1)

/-- R404: the floor follows the ramp from its start. -/
def execRampStart (now : Nat) (s : State) : Host.Outcome State Fault Refusal :=
  let t := atTide s now
  match s.power.rampAt with
  | none => .next s
  | some r => when (alive s && jobRuns s && !s.tide.running && decide (r ≤ t.tide.now)) s
      (setPower t fun p => { p with rampAt := none, ramp := some (r, p.meanMw) })

/-! Power states (R386–R395). -/

/-- PWR_STATE.STATE changes, with its notice. Ballast runs only in Flood (R399). -/
def setState (s : State) (v ahead : Nat) : State :=
  setPower (notice s 3 5 s.power.state v ahead) fun p => { p with state := v, going := none, bandSet := false, ballast := false }

/-- R394: a tide that is not SOURCE enters HOLDOVER. With the internal oscillator alone it stays FREE (R457). -/
def darkTide (s : State) : State := if s.tide.state = tideSource || s.boot.clkMode = 3 then s else enterHoldover s

/-- The strait dies lose their light or their supply: ports go down (R235, R239), the harbour link goes. -/
def straitsDark (s : State) : State :=
  let s := (List.range 8).foldl (fun s p => if (portOf s p).state = 0 then s else portDown s p 0) s
  let ps : Tbl Port := s.straits.ports.map fun x => (x.1, { x.2 with farLit := false, marker := none, identOk := false, reqQ := 0 })
  { s with straits := { s.straits with linkUp := false, ptpLocked := false, ports := ps.filter fun x => x.2 != portReset } }

/-- Words of the save list, in order: BAR0 offsets of entries with VALID 1 (Table 14-2). -/
def saveEntries (s : State) : List Nat :=
  ((List.range 1024).map fun i => memNat s.control.saveList (4 * i) 4).filterMap fun w =>
    if w.testBit 31 then some (w % 2 ^ 24) else none

def inCoreBlock (off : Nat) : Bool := 0x100000 ≤ off && off < 0x340000
def inStraitBlock (off : Nat) : Bool := 0x70000 ≤ off && off < 0x80000

/-- R389: the registers that the list names are copied: those of the straits on every entry to Ebb or Dry, those of the isles when
these lose power. -/
def takeSaveList (s : State) (off : Bool) : List (Nat × Reg) :=
  ((saveEntries s).filter fun o => o % 4 = 0 && (inStraitBlock o || (off && inCoreBlock o))).map fun o => (o, reg (bar0Read s o))

/-- A saved word returns to its register of a core (R390). What CORE_STAT, ACC_LAYOUT and ACC_CTX show is no word of its own. -/
def restoreCore (k : Core) (o : Nat) (v : Reg) : Core :=
  let tgt := k.target.getD 0
  if o = 4 then { k with err := v }
  else if o = 8 then { k with flags := v.setWidth 8 }
  else if o = 0x10 then { k with target := some (tgt / 2 ^ 32 * 2 ^ 32 + v.toNat) }
  else if o = 0x14 then { k with target := some (tgt % 2 ^ 32 + 2 ^ 32 * v.toNat) }
  else if o = 0x18 then { k with lateCnt := k.lateCnt / 2 ^ 32 * 2 ^ 32 + v.toNat }
  else if o = 0x1C then { k with lateCnt := k.lateCnt % 2 ^ 32 + 2 ^ 32 * v.toNat }
  else if o = 0x44 then { k with drainStat := v }
  else if o = 0x48 then { k with clauseStat := v &&& 0xC }
  else if o = 0x4C then { k with sparseBytes := v.toNat }
  else if o = 0x50 then { k with stashSkip := k.stashSkip / 2 ^ 32 * 2 ^ 32 + v.toNat }
  else if o = 0x54 then { k with stashSkip := k.stashSkip % 2 ^ 32 + 2 ^ 32 * v.toNat }
  else if 0x100 ≤ o ∧ o < 0x1C0 then semPut k ((o - 0x100) / 4) (v.toNat % 65536)
  else k

/-- A saved word returns to its register. Of a port only PORT_ACK_TMO lies outside the always-on domain (log 25). -/
def restoreReg (s : State) (e : Nat × Reg) : State :=
  if inCoreBlock e.1 then modCore s (blockCore e.1) fun k => restoreCore k (e.1 % 0x1000) e.2
  else if inStraitBlock e.1 && decide (e.1 < 0x70800) && decide (e.1 % 256 = 0x1C) then
    modPort s ((e.1 - 0x70000) / 256) fun k => { k with ackTmo := e.2.toNat % 65536 }
  else s

/-- A transition is over: the POWER_STATE that waits for it ends (Table 14-11). -/
def endPowerCommand (s : State) (code : Nat) : State :=
  match s.power.mailbox with
  | none => s
  | some m => finish (setPower s fun p => { p with mailbox := none }) m code (if code = stRefused then stateDetail s else 0) []

/-- The rise of CFG_GEN that the waiting POWER_STATE brings is still to come. -/
def aheadOf (s : State) : Nat := bit s.power.mailbox.isSome

/-- R388: an entry to Slack, Ebb or Dry ends; a wake held meanwhile begins the exit at once (R392). Without its feature there is no save
list, and ISLE_KEEP has no effect (log 102). -/
def enterState (s : State) (v : Nat) : State :=
  let keep := feature s featKeep
  let off := v = 3 || (v = 2 && s.power.isleKeep && keep)
  let s := if v = 1 then s
    else
      let saved := if keep then takeSaveList s off else []
      straitsDark (darkTide (setPower s fun p => { p with saved := saved, isleOff := off }))
  let s := endPowerCommand (setState s v (aheadOf s)) stOk
  if s.power.wakeHeld then setPower s fun p => { p with wakeHeld := false, going := some 0 } else s

/-- R388: the entry waits until the band has come down so far that no ballast is needed. -/
def execPowerEntryDone (now : Nat) (s : State) : Host.Outcome State Fault Refusal :=
  match s.power.going with
  | none => .next s
  | some v => when (alive s && s.power.state = 0 && v != 0 && !s.power.ballast) s (enterState (atTide s now) v)

/-- Every core as after a core reset (R390, R402); under a loaded job it is halted, with its store from the image. -/
def coresAnew (s : State) : State :=
  let cores : Tbl Core := s.cores.map fun c => (c.1, clearedCore c.2)
  let s := { s with cores := cores.filter fun c => c.2 != coreReset, adds := [], bars := barriersReset }
  s.power.saved.foldl restoreReg s

/-- R391, R402: stores, barrier records and flow contexts from the image, as JOB_LOAD left them, for the variant in force. -/
def writesAnew (s : State) : State :=
  if s.job.state = jobEmpty then { s with cores := s.cores.map fun c => (c.1, { c.2 with program := false, start := 0 }) }
  else
    let ps := programs s s.job.variant
    let s := (List.range 576).foldl (fun s c => modCore s c fun k =>
      { k with mode := .halted, program := ps.any fun p => p.core = c }) s
    writeFlows (writeBars (ps.foldl storeProgram s)) s.job.variant fLoaded

/-- R224, R232, R330: what the memory side and the reduction hold after Ebb or Dry. -/
def memoryAnew (s : State) : State :=
  let ds : Tbl Digest := s.memory.digests.map fun d => (d.1, { d.2 with sums := [], sum := 0, snap := false, taken := 0 })
  let ds := ds.filter fun d => d.2 != digestReset
  { s with
    memory := { s.memory with acc := [], accBad := [], arenas := [], inq := [], park := [], streams := [], begun := [], digests := ds }
    reduction := { s.reduction with recUse := [], uses := [] } }

/-- PORT_ACK_TMO of a port that lost its supply: saved by the list, or its power-on value. -/
def portsAnew (s : State) : State :=
  let ps : Tbl Port := s.straits.ports.map fun x => (x.1, { x.2 with ackTmo := 2000 })
  { s with straits := { s.straits with ports := ps.filter fun x => x.2 != portReset } }

/-- R390, R391, R402: an exit from Ebb or Dry. The isthmus links retrain, `failed` holding the lanes that fail it (R23); isles that are
held in reset (R39) train none. -/
def leaveDark (s : State) (failed : List LaneFail) : State :=
  let s := memoryAnew (portsAnew s)
  let s := if s.power.isleOff then writesAnew (coresAnew s) else s.power.saved.foldl restoreReg s
  let s := { s with cores := s.cores.map fun c => (c.1, { c.2 with mhz := 400 }) }
  let s := if s.boot.isles then trainLinks s failed else s
  setTide (setPower s fun p => { p with saved := [], isleOff := false, tripDry := false }) fun t =>
    { t with mayStep := t.state != tideSource }

/-- R390–R393: an exit ends in Flood. -/
def execPowerExitDone (a : Nat × List LaneFail) (s : State) : Host.Outcome State Fault Refusal :=
  let t := atTide s a.1
  let t := if s.power.state = 1 then t else leaveDark t a.2
  when (alive s && s.power.state != 0 && s.power.going = some 0) s (endPowerCommand (setState t 0 (aheadOf t)) stOk)

/-! Wakes (R392). -/

/-- The trip temperature in 0.1 °C (R495). -/
def tripTemp : Nat := 1050

/-- Die n's temperature in 0.1 °C. -/
def tempOf (s : State) (n : Nat) : Int := (tblGet 0 s.power.temps n).toInt

/-- Every die lies at least 10 °C below the trip temperature. -/
def allCool (s : State) : Bool := (List.range 38).all fun n => tempOf s n ≤ 950

/-- The temperatures of the dies are read. -/
def takeTemps (s : State) (ts : List (BitVec 16)) : State :=
  setPower s fun p => { p with temps := ((List.range 38).zip ts).foldl (fun m x => tblSet 0 m x.1 x.2) p.temps }

/-- THERM_TRIP_N goes low or high. -/
def driveTrip (s : State) (low : Bool) : State :=
  if s.boot.tripLow = low then s else emit { s with boot := { s.boot with tripLow := low } } (.thermTrip low)

/-- R492: after a reset that came during the Dry of a trip, a die read below 95 °C lets THERM_TRIP_N go. -/
def releaseTrip (s : State) : State :=
  if s.boot.tripReset && (List.range 38).any (fun n => decide (tempOf s n < 950)) then
    driveTrip { s with boot := { s.boot with tripReset := false } } false
  else s

/-- R392, R401: a wake. In Flood it changes WAKE_CAUSE alone; during an entry it is held; in the Dry of a trip it counts only with
every die cool. -/
def wakeUp (s : State) (cause : Nat) : State :=
  if s.power.vinFault || (s.power.tripDry && !allCool s) then s
  else
    let s := setPower s fun p => { p with wakeCause := (p.wakeCause ||| 2 ^ cause) }
    match s.power.going with
    | some 0 => s
    | some _ => setPower s fun p => { p with wakeHeld := true }
    | none =>
      if s.power.state = 0 then s
      else
        let s := if s.power.tripDry then driveTrip s false else s
        setPower s fun p => { p with going := some 0 }

/-- R392: an enabled pin at its active level for 10 µs. -/
def execWakePin (i : Fin 4) (level : Bool) (heldUs : Nat) (temps : List (BitVec 16)) (s : State) : Host.Outcome State Fault Refusal :=
  let t := releaseTrip (takeTemps s temps)
  let active := s.power.en.testBit i.val && level = s.power.pol.testBit i.val && decide (10 ≤ heldUs)
  when (s.boot.held = 0) s (if active then wakeUp t i.val else t)

/-! Trips and losses (R401, R485, R491). -/

/-- Work that waits on isle or strait power is given up: a transition, an arming, a COMMIT_RESUME, resets of cores. -/
def endWaiting (s : State) : State :=
  let s := match s.job.arming with
    | some a => finish { s with job := { s.job with arming := none } } a.mb stRefused (stateDetail s) []
    | none => s
  let s := match s.commit.resume with
    | some m => finish { s with commit := { s.commit with resume := none } } m stRefused (stateDetail s) []
    | none => s
  s.control.boxes.foldl (fun s b => match b.2.run with
    | some r => if r.waits.isEmpty then s
        else finish (modBox s b.1 fun x => { x with run := some { r with waits := [] } }) b.1 stRefused (stateDetail s) []
    | none => s) s

/-- Isles and straits are without power from now on, in Dry. What a save list of an entry to Dry took stays taken; an exit that has begun
is given up. -/
def cutPower (s : State) : State :=
  let target := s.power.going
  let dry := s.power.state = 3
  let s := if dry then s else straitsDark (darkTide s)
  let s := setState s 3 0
  let s := endPowerCommand s (if target = some 3 then stOk else stRefused)
  endWaiting (setPower s fun p => { p with wakeHeld := false, isleOff := true, saved := if dry then p.saved else [] })

/-- R401, R492, R495: a die reaches 105 °C, in whatever power state. -/
def execThermalTrip (temps : List (BitVec 16)) (now : Nat) (s : State) : Host.Outcome State Fault Refusal :=
  let t := takeTemps (atTide s now) temps
  let hot := (List.range 38).any fun n => decide ((tripTemp : Int) ≤ tempOf t n)
  let t := if jobRuns t then haltJob t 4 else t
  let t := setPower (cutPower (setGovStat t 2)) fun p => { p with tripDry := true }
  when (alive s && hot) s (driveTrip { t with boot := { t.boot with tripReset := false } } true)

/-- R485: the converters stop; package memory loses its contents. While a system reset is held nothing but that is left to lose. -/
def loseVin48 (s : State) : State :=
  let s := { s with memory := { s.memory with data := [], upset := [], writeBack := [], merging := none } }
  let s := if s.boot.held = 0 then cutPower s else setState s 3 0
  setMeter (setPower s fun p => { p with vinFault := true }) fun m => { m with range := true }

def execVin48OutOfRange (now : Nat) (s : State) : Host.Outcome State Fault Refusal :=
  when (s.boot.held != 2 && !s.power.vinFault) s (loseVin48 (atTide s now))

/-- R491: the PLLs stop, and with them what they clock; the tide runs on in HOLDOVER, the ports and the harbour link go down. -/
def loseReference (s : State) : State :=
  let t := enterHoldover s
  let t := (List.range 8).foldl (fun t p => if (portOf t p).state = 0 then t else portDown t p 0) t
  { t with straits := { t.straits with linkUp := false, ptpLocked := false } }

/-- R491: the selected reference stops, or leaves its tolerance, while PWRGOOD is high: a system reset may be held. -/
def execRefclkLoss (now : Nat) (s : State) : Host.Outcome State Fault Refusal :=
  let t := atTide s now
  when (s.boot.held != 2 && s.boot.clkMode != 3 && !s.power.refLost) s
    (setPower (if s.boot.held = 0 then loseReference t else t) fun p => { p with refLost := true })

end Sys2Proof.Machine
end

