-- ==== Sys2Proof/Machine/Boot.lean ====
section
/-! DEFINITION. Resets and their sources (15, R451–R455, R483), boot, the firmware image, the qualification check (01, R37–R40;
R456–R463), core resets and watchdogs (R464–R468), the debug logic (R482). -/

namespace Sys2Proof.Machine

/-! Power-on and system reset (Table 15-2). -/

/-- A lifecycle change has been written whose reset has not come (R471). -/
def lifecycleWritten (s : State) : Bool :=
  s.boot.lifecycleDue.isSome || s.control.boxes.any fun b => match b.2.run with
    | some r => r.opcode = 0x18 && (match r.result with | some x => x.code = 0 | none => false)
    | none => false

/-- The ledger, which every reset keeps, but for the one after a lifecycle change (R369, R471). -/
def keptLedger (s : State) : Commit :=
  let c := s.commit
  if lifecycleWritten s then commitReset
  else { commitReset with ledStep := c.ledStep, ledState := c.ledState, own := c.own, mirror := c.mirror }

/-- The governor's settings return to those of R396, the tag to 0 and PWR_STATE to a value, each with its notice; the notices that wait go
on waiting (R410, log 63). -/
def settingsReset (s : State) (state : Nat) : State :=
  let s := setTag (govSetting (govSetting (govSetting (govSetting s 1 1500 0) 2 500 0) 3 500 0) 4 0 0) 0 0
  notice s 3 5 s.power.state state 0

/-- What a power-on reset keeps: OTP, MRAM, the flash, the meter with the notices for it, the temperatures of the dies (Table 15-2). -/
def powerOnReset (s : State) (source : Nat) : State :=
  let b := s.boot
  { State.reset with
    pending := s.pending
    isth := isthmusReset s.isth.laneMap
    commit := keptLedger s
    power := { powerReset with notices := (settingsReset s 0).power.notices, temps := s.power.temps }
    meter := s.meter
    control := { controlReset with cfgGen := s.control.cfgGen }
    boot := { bootReset with
      source := source, powerOns := sat32 (b.powerOns + 1), bootSrc := b.bootSrc, clkMode := b.clkMode
      flash := b.flash, lcState := b.lcState, owners := b.owners, owned := b.owned, seedErased := b.seedErased
      sigNext := b.sigNext, sigRes := b.sigRes, tripLow := b.tripLow, tripReset := b.tripLow }
    sent := s.sent, rdata := s.rdata, freeCtr := s.freeCtr }

/-- What R11 keeps through an undefined case. -/
def faultKept : Fault → Kept
  | .semUnderflow k => k
  | .writeOverlap k => k
  | .sramRange k => k
  | .drainSlotWrite k => k
  | .reducePermute k => k
  | .flowContextWrite k => k
  | .excessContribution k => k
  | .mailboxWrite k => k

/-- A power-on reset after an undefined case that was met in state s (R10, R11). -/
def afterUndefined (f : Fault) (s : State) (source : Nat) : State :=
  let k := faultKept f
  let t := powerOnReset s source
  { t with meter := k.meter, boot := { t.boot with seedErased := k.seedErased, lcState := k.lcState, owners := k.owners, owned := k.owned } }

/-- The debug logic keeps its hold of a core (R482). -/
def heldCores (s : State) : Tbl Core :=
  let cs : Tbl Core := s.cores.map fun c => (c.1, { coreReset with dbgHalt := c.2.dbgHalt })
  cs.filter fun c => c.2 != coreReset

/-- The settings after a system reset; PWR_CFG, THERM_TRIP and the queue of notices are kept. -/
def resetPower (s : State) : State :=
  let p := s.power
  let s := settingsReset s (if p.vinFault then 3 else 0)
  { s with power := { powerReset with
      pol := p.pol, en := p.en, isleKeep := p.isleKeep, stat := p.stat &&& 4, notices := s.power.notices, temps := p.temps
      vinFault := p.vinFault, refLost := p.refLost, state := if p.vinFault then 3 else 0 } }

/-- What a system reset keeps beside that: the journal, PWR_CFG, the debug logic, the straps (Table 15-2). -/
def systemReset (s : State) (source : Nat) : State :=
  let b := s.boot
  let t := resetPower s
  { State.reset with
    pending := s.pending
    cores := heldCores s
    isth := isthmusReset s.isth.laneMap
    commit := if source = 7 then commitReset else keptLedger s
    power := t.power
    meter := s.meter
    control := { controlReset with cfgGen := s.control.cfgGen, journal := s.control.journal }
    boot := { bootReset with
      held := 1, level := 2, source := source, tideAt := s.tide.now, sysCount := sat32 (b.sysCount + 1)
      coreCount := b.coreCount, lastCore := b.lastCore, bootStatAt := reg (bootStat b), powerOns := b.powerOns
      bootSrc := b.bootSrc, clkMode := b.clkMode, flash := b.flash, lcState := b.lcState, owners := b.owners, owned := b.owned
      seedErased := b.seedErased, sigNext := b.sigNext, sigRes := b.sigRes, dbgCp := b.dbgCp, tripLow := b.tripLow
      tripReset := b.tripLow }
    tap := s.tap
    sent := s.sent, rdata := s.rdata, freeCtr := s.freeCtr }

/-- R453: a low pulse of 1.1 µs is taken, one below 1.0 µs ignored; between them it is taken whole or not at all. -/
def pulse (s : State) (lowNs : Nat) : Bool := 1100 ≤ lowNs || (1000 ≤ lowNs && Config.pulseTaken s.freeCtr)

/-- A request for a power-on reset; one is absorbed while a power-on reset is held (R452). -/
def execPwrgoodLow (lowNs : Nat) (now : Nat) (s : State) : Host.Outcome State Fault Refusal :=
  .next (if s.boot.held != 2 && pulse s lowNs then powerOnReset (useFree (atTide s now)) 1 else useFree s)

/-- R451: 3.3 V standby below 2.9 V for 1 µs or more. -/
def execStandbyLoss (lowNs : Nat) (s : State) : Host.Outcome State Fault Refusal :=
  when (s.boot.held != 2 && decide (1000 ≤ lowNs)) s (powerOnReset s 2)

/-- A request for a system reset is absorbed while a reset is held (R452). -/
def execSysResetNLow (lowNs : Nat) (now : Nat) (s : State) : Host.Outcome State Fault Refusal :=
  .next (if s.boot.held = 0 && pulse s lowNs then systemReset (useFree (atTide s now)) 3 else useFree s)

/-- R451. -/
def execPerstNAssert (now : Nat) (s : State) : Host.Outcome State Fault Refusal :=
  when (s.boot.held = 0) s (systemReset (atTide s now) 4)

/-- R468: paused in the boot ROM, in Dry, and while the debugger halts the control processor. -/
def execSupervisorWatchdog (now : Nat) (s : State) : Host.Outcome State Fault Refusal :=
  when (alive s && s.boot.serving && s.power.state != 3 && !s.boot.dbgCp) s (systemReset (atTide s now) 6)

/-- R471: 1 ms after an accepted lifecycle change. -/
def execLifecycleChangeReset (now : Nat) (s : State) : Host.Outcome State Fault Refusal :=
  match s.boot.lifecycleDue with
  | none => .next s
  | some t => when (s.boot.held = 0 && decide (t ≤ max s.tide.now now)) s (systemReset (atTide s now) 7)

/-- With no command waiting, what is due takes its effect: a merged line is written (R421), and a SYSTEM_RESET command resets the package
1 ms after its completion (R445); else the block idles. -/
def idle (s : State) : State :=
  let s := landMerge s
  match s.boot.resetDue with
  | none => s
  | some t => if s.boot.held = 0 then systemReset (atTide s t) 5 else s

/-! The firmware image (R458, R459). -/

/-- FAIL_CAUSE of an image that the boot ROM does not accept; 0 for one that it does. -/
def imageFault (b : List Byte) : Nat :=
  let len := imgNat b 8 4
  let ext := imgNat b 20 4
  let extLen := imgNat b 24 4
  let zero := imgNat b 6 2 = 0 && imgNat b 28 36 = 0
  if imgNat b 0 4 != 0x57465844 || imgNat b 4 2 != 1 || !zero then 2
  else if 4194304 < len + 5605 then 4
  else if len ≤ 64 + imgNat b 16 4 || (ext != 0 && (ext < 64 || decide (len < ext + extLen))) then 2
  else if b.length < len + 5605 || !Config.xmssVerify (b.take len) ((b.drop len).take 5605) then 3
  else 0

/-- Bytes 0 to LENGTH − 1 of an image: what runs, and what FW_MEASUREMENT measures. -/
def imageCode (b : List Byte) : List Byte := b.take (imgNat b 8 4)

/-- FW_MEASUREMENT; zero while no image runs. -/
def measurement (fw : List Byte) : List Byte := if fw.isEmpty then List.replicate 32 0 else shake256 fw

/-! The qualification check (R37–R40). -/

/-- Sets of the ROM, then those of the extension. -/
def setCount (ext : List Byte) : Nat := Config.romSets + (if ext.isEmpty then 0 else Config.extSets ext)

def admits (ext : List Byte) (k n : Nat) : Bool :=
  if k < Config.romSets then Config.setAdmits [] k n (Config.dieRev n)
  else Config.setAdmits ext (k - Config.romSets) n (Config.dieRev n)

def dieFeatures (ext : List Byte) (k n : Nat) : W64 :=
  if k < Config.romSets then Config.setFeatures [] k n (Config.dieRev n)
  else Config.setFeatures ext (k - Config.romSets) n (Config.dieRev n)

def dieMajor (n : Nat) : Nat := bitsOf (Config.dieRev n).toNat 8 8

/-- QUAL_RESULT and the feature word (R38, R40); bits 63:10 of the word read 1 (Table 14-9a). DESIGN CHOICE: FIRST_DIE of REASON 1 is
the lowest isle whose MAJOR is not that of I0, and a package without a matching set has the feature word 0 (log 73). -/
def qualify (ext : List Byte) : Reg × W64 :=
  let sets := List.range (setCount ext)
  match (List.range 4).find? fun n => dieMajor n != dieMajor 0 with
  | some n => (reg (at_ 2 30 + at_ 1 24 + at_ n 16 + 0xFFFF), 0)
  | none =>
    match (List.range 38).find? fun n => !sets.any fun k => admits ext k n with
    | some n => (reg (at_ 2 30 + at_ 2 24 + at_ n 16 + 0xFFFF), 0)
    | none =>
      match sets.find? fun k => (List.range 38).all (admits ext k) with
      | none => (reg (at_ 2 30 + at_ 3 24 + at_ 0xFF 16 + 0xFFFF), 0)
      | some k =>
        (reg (at_ 1 30 + at_ (bit (decide (Config.romSets ≤ k))) 28 + at_ 0xFF 16 + k % 65536),
          (List.range 38).foldl (fun w n => w &&& dieFeatures ext k n) (BitVec.allOnes 64) ||| ~~~(0x3FF : W64))

/-! Boot (R460–R462). -/

/-- R461: the boot ROM obtains an image by the straps; with the internal oscillator alone it reads flash (R457). -/
def obtainImage (s : State) : State :=
  let b := s.boot
  let src := if b.clkMode = 3 && (b.bootSrc = 1 || b.bootSrc = 2) then 0 else b.bootSrc
  { s with boot := { b with
      dieRead := true, stat := if src = 3 then 8 else if src = 0 then 2 else 3, fail := if src = 3 then 5 else b.fail } }

/-- R454, R456, R460: a reset is released. The straps are sampled at the release of a power-on reset; NEXT takes RES_END (R474). With
VIN48 out of range, boot stops after its first step (R485). -/
def execResetRelease (vin48Ok : Bool) (bootSrc clkMode : BitVec 2) (s : State) : Host.Outcome State Fault Refusal :=
  let b := s.boot
  let b := if b.held = 2 then { b with bootSrc := bootSrc.toNat, clkMode := clkMode.toNat } else b
  let t := { s with boot := { b with held := 0, sigNext := b.sigRes } }
  let fail := !vin48Ok || s.power.vinFault
  let stuck := setPower (notice t 3 5 t.power.state 3 0) fun p => { p with vinFault := true, state := 3 }
  when (s.boot.held != 0) s (if fail then stuck else if b.dbgCp then t else obtainImage t)

/-- An accepted image runs: the dies are checked, the isles leave reset if they qualify, firmware serves the mailboxes (R39,
R460). -/
def runImage (s : State) (img : List Byte) (fromHost recovered : Bool) : State :=
  let fw := imageCode img
  let (q, w) := qualify (if recovered then [] else imageExt fw)
  let ok := bitsOf q.toNat 30 2 = 1
  { s with boot := { s.boot with
      stat := if ok then 6 else 7, fail := 0, fromHost := fromHost, recovered := recovered, fw := fw, qual := q, features := w
      isles := ok, serving := true } }

/-- An image is checked (R459): it runs, or the boot ROM enters RECOVERY. -/
def tryImage (s : State) (img : List Byte) (fromHost recovered : Bool) : State :=
  match imageFault img with
  | 0 => runImage s img fromHost recovered
  | n => { s with boot := { s.boot with stat := 8, fail := n } }

/-- The flash image: the header's LENGTH of bytes and the signature, from offset 0. -/
def flashImage (s : State) : List Byte :=
  memRead s.boot.flash 0 (min 4194304 (memNat s.boot.flash 8 4 + 5605))

/-- R459, R461: the flash read ends. -/
def execFlashReadDone (readOk : Bool) (s : State) : Host.Outcome State Fault Refusal :=
  when (alive s && s.boot.stat = 2 && !s.boot.dbgCp) s
    (if readOk then tryImage s (flashImage s) false false else { s with boot := { s.boot with stat := 8, fail := 1 } })

/-- R461: under BOOT_SRC 0b10, 2 s from the PCIe link coming up. -/
def execAwaitHostTimeout (s : State) : Host.Outcome State Fault Refusal :=
  when (alive s && s.boot.stat = 3 && s.boot.bootSrc = 2 && s.boot.pcieUp && !s.boot.dbgCp) s { s with boot := { s.boot with stat := 2 } }

/-- R418, R461: the PCIe link comes up or retrains. -/
def execPcieLinkUp (s : State) : Host.Outcome State Fault Refusal :=
  when (pcieOn s) s { s with boot := { s.boot with pcieUp := true } }

/-- A write of BOOT_CTRL: LENGTH, and with GO the check of the boot buffer in AWAIT_HOST and RECOVERY (R461, R462). -/
def bootCtrl (s : State) (len : Nat) (go : Bool) : State :=
  let s := { s with boot := { s.boot with length := len } }
  if go && alive s && !s.boot.dbgCp && (s.boot.stat = 3 || s.boot.stat = 8) then
    (if 4194304 < len then { s with boot := { s.boot with stat := 8, fail := 4 } }
     else tryImage s (memRead s.boot.buffer 0 len) true (s.boot.stat = 8))
  else s

/-- R461, R448: BOOT_CTRL holds RW fields. -/
def execBootGo (len : BitVec 23) (now : Nat) (s : State) : Host.Outcome State Fault Refusal :=
  let t := atTide s now
  when (s.boot.held = 0) s (bootCtrl (cfgRise t ⟨2, 0xFF, 0, 0xB0044, s.boot.length + 2 ^ 32 * len.toNat⟩) len.toNat true)

/-! Core resets (R464–R467). -/

/-- A job is loaded, armed, running, halting or halted. -/
def jobLoadedOn (s : State) : Bool := s.job.state != jobEmpty

/-- A core goes into reset unless it is under one (R452). -/
def takeCoreReset (s : State) (wdog : Bool) (c : Nat) : State :=
  if (coreOf s c).mode = .wiping then s else modCore (wipeCore s c) c fun k => { k with byWdog := wdog }

/-- The reset-cause block records a core reset (R483): one core, or with none named every core of the isle. -/
def noteCoreReset (s : State) (isle : Nat) (core : Option Nat) (wdog : Bool) : State :=
  let who := match core with | some k => 256 * isle + k | none => 0x3FF
  { s with boot := { s.boot with
      lastCore := reg (who + at_ isle 10 + at_ (bit wdog) 16), coreCount := sat32 (s.boot.coreCount + 1) } }

/-- R464: a core, or every core of an isle with its 64 barrier counters. A core that is under reset starts none (R452). -/
def resetCores (s : State) (isle : Nat) (core : Option Nat) (wdog : Bool) : State :=
  let cs := match core with | some k => [coreNum isle k] | none => span (144 * isle) 144
  let fresh := cs.any fun c => (coreOf s c).mode != .wiping
  let s := cs.foldl (fun s c => takeCoreReset s wdog c) s
  let s := match core with | some _ => s | none => clearIsleBars s isle
  if fresh then noteCoreReset s isle core wdog else s

/-- R465: the reset of a core has ended. Under a loaded job its store is written and it reads halted. -/
def coreAnew (s : State) (c : Nat) : State :=
  let wd := (coreOf s c).byWdog
  let s := modCore s c fun k => { k with byWdog := false, mode := if jobLoadedOn s then .halted else .reset }
  let s := if jobLoadedOn s then rewriteStore s c else s
  if wd then modCore s c fun k => coreErr k errWdog else s

/-- A CORE_RESET that waits for core c: with its last core it ends; after an isle reset the isle's records are written first. -/
def coreAwaited (s : State) (c m : Nat) : State :=
  match (boxOf s m).run with
  | none => s
  | some r =>
    if r.waits.contains c then
      let left := r.waits.filter (· != c)
      let s := modBox s m fun b => { b with run := some { r with waits := left } }
      if left.isEmpty then
        let isle := memNat (boxOf s m).params 0 1
        let s := if memNat (boxOf s m).params 1 2 = 0xFFFF && jobLoadedOn s then writeIsleBars s isle else s
        finish s m stOk 0 []
      else s
    else s

/-- R464, R465. -/
def execCoreResetDone (c : Fin 576) (s : State) : Host.Outcome State Fault Refusal :=
  when (alive s && (coreOf s c).mode = .wiping) s
    ((List.range 16).foldl (fun s m => coreAwaited s c m) (coreAnew s c))

/-- R466, R467: PC and ENGINE_BUSY have stayed unchanged for CORE_US µs. -/
def execCoreWatchdogExpiry (c : Fin 576) (now : Nat) (s : State) : Host.Outcome State Fault Refusal :=
  let t := atTide s now
  let k := coreOf s c
  let st := seqState s k
  when (islesOn s && jobRuns s && k.program && s.boot.wdogUs != 0 && (st = 1 || st = 2 || st = 3)
    && decide (k.changed + 1000 * s.boot.wdogUs ≤ t.tide.now)) s
    (resetCores t (c.val / 144) (some (c.val % 144)) true)

/-! The debug logic (R482). -/

/-- What the debug logic reads of a core: PC, loop counters, flags, CORE_ERR, semaphores (log 107). -/
def inspectCore (k : Core) : List Byte :=
  leBytes 2 k.pc ++ ((List.range 8).flatMap fun i => leBytes 4 (tblGet 0 k.lc i)) ++ leBytes 1 k.flags.toNat ++ leBytes 4 k.err.toNat
    ++ (List.range 48).flatMap fun i => leBytes 2 (semGet k i)

/-- The held control processor is let go, for one of its steps or for good: a boot ROM that stood at its first instruction obtains an image
(log 107). -/
def goOn (s : State) : State := if alive s && s.boot.stat = 1 then obtainImage s else s

/-- R482: it holds a core's sequencer, lets it go for one command, or for good; or it does so with the control processor; or it inspects
one of them. -/
def execDebugHalt (op : DebugOp) (core : Option (Fin 576)) (s : State) : Host.Outcome State Fault Refusal :=
  match op, core with
  | .halt, some c => .next (modCore s c fun k => { k with dbgHalt := true, dbgStep := false })
  | .step, some c => .next (modCore s c fun k => { k with dbgStep := k.dbgHalt })
  | .resume, some c => .next (modCore s c fun k => { k with dbgHalt := false, dbgStep := false })
  | .inspect, some c => .next { s with rdata := inspectCore (coreOf s c) }
  | .halt, none => .next { s with boot := { s.boot with dbgCp := true } }
  | .step, none => .next (if s.boot.dbgCp then goOn s else s)
  | .resume, none => .next (let t := { s with boot := { s.boot with dbgCp := false } }; if s.boot.dbgCp then goOn t else t)
  | .inspect, none => .next { s with rdata := leBytes 4 (bootStat s.boot) }

end Sys2Proof.Machine
end

