-- ==== Sys2Proof/Machine/ImageCheck.lean ====
section
/-! DEFINITION. The checks of a job image (R257, R259, R299, R329, R332, R333, R340, R348, R356–R359, R362, R385, R405, R439, R500–R503):
the first fault in the order of R502, as MB_DETAIL names it (Table 14-6). -/

namespace Sys2Proof.Machine

/-! A check answers the offset of the first offending field. -/

/-- A field at an offset fails. -/
def failAt (c : Bool) (off : Nat) : Option Nat := if c then some off else none

/-- The first failure of several checks. -/
def firstOf (l : List (Option Nat)) : Option Nat := l.findSome? id

/-- The first failure over 0 to n − 1. -/
def firstUpTo (n : Nat) (f : Nat → Option Nat) : Option Nat := (List.range n).findSome? f

/-- A reserved byte among n from an offset is not zero. -/
def nonzeroAt (b : List Byte) (o n : Nat) : Option Nat := (span o n).find? fun i => bNat b i 1 != 0

/-- A number outside a range. -/
def outside (lo hi x : Nat) : Bool := x < lo || hi < x

/-- The lowest j below i for which a property of j and i holds: the first of two like fields. -/
def earlier (i : Nat) (f : Nat → Bool) : Option Nat := (List.range i).find? f

/-- MB_DETAIL of a fault: 0x00 for parameters, 0xFF for the header and the directory, 1 + index for a section. -/
def faultDetail (sec off : Nat) : Nat := at_ sec 24 + off % 2 ^ 24

def inSection (sec : Nat) (x : Option Nat) : Option Nat := x.map (faultDetail sec)

/-! The container (Tables 11-5, 11-6). -/

/-- The directory entries of an image's bytes. -/
def entriesOf (b : List Byte) : List Entry :=
  (List.range (bNat b 6 2)).map fun i =>
    let o := 128 + 16 * i
    ⟨bNat b o 2, bNat b (o + 2) 1, bNat b (o + 4) 8, bNat b (o + 12) 4⟩

/-- A section's bytes. -/
def bytesOf (b : List Byte) (e : Entry) : List Byte := (b.drop e.offset).take e.len

/-- The bytes of the section of a type and variant; empty without one. -/
def sectionOf (b : List Byte) (typ variant : Nat) : List Byte :=
  match findSec (entriesOf b) typ variant with
  | some e => bytesOf b e
  | none => []

/-- Types that take a variant. -/
def takesVariant (typ : Nat) : Bool := typ = secPrograms || typ = secFlows

/-- The bytes that a section's layout requires (R357): its fixed size, or its header with the records and images that it names. The
path table of SLOTS is checked by R503. -/
def layoutLen (typ : Nat) (d : List Byte) : Nat :=
  let recs := fun o n size => 64 + size * bNat d o n
  if typ = secMapping then recs 24 1 16
  else if typ = secPrograms then
    let need := recs 0 2 16
    if d.length < need then need
    else (List.range (bNat d 0 2)).foldl (fun m k => max m (bNat d (72 + 16 * k) 8 + bNat d (68 + 16 * k) 4)) need
  else if typ = secFlows then recs 0 4 80
  else if typ = secRoles then 128
  else if typ = secPlan then recs 0 2 32
  else if typ = secStash then recs 0 2 64
  else if typ = secTide then 800
  else if typ = secReduction then 64 + 32 * (bNat d 0 2 + bNat d 2 2)
  else if typ = secBarriers then 16 * 80 + 256 * 32
  else if typ = secCommit then 128
  else if typ = secPower then 64
  else if typ = secReshard then recs 0 1 64
  else 64

/-- IMAGE_ID: SHAKE256 over the whole image with the field taken as zero. -/
def imageId (b : List Byte) : List Byte := shake256 (b.take 32 ++ List.replicate 32 0 ++ b.drop 64)

/-- Table 11-5, R41, R257, R357: the header. -/
def headerFault (features : W64) (b : List Byte) : Option Nat :=
  let n := bNat b 6 2
  firstOf [failAt (bNat b 0 4 != 0x4A4B5844) 0, failAt (bNat b 4 2 != 1) 4,
    failAt (imageId b != (b.drop 32).take 32) 32, failAt (bNat b 8 2 = 0) 8, failAt (outside 1 64 n) 6,
    failAt (bNat b 16 8 % 64 != 0 || decide (bNat b 16 8 < 128 + 16 * n)) 16,
    failAt (bNat b 24 8 &&& (~~~features).toNat != 0) 24]

/-- R357: entry i of the directory. -/
def entryFault (b : List Byte) (es : List Entry) (i : Nat) : Option Nat :=
  let o := 128 + 16 * i
  match es[i]? with
  | none => none
  | some e => firstOf [failAt (outside 1 13 e.typ) o,
      failAt (if takesVariant e.typ then decide (15 < e.variant) else e.variant != 0) (o + 2),
      failAt (e.offset % 64 != 0) (o + 4), failAt (e.len < layoutLen e.typ (bytesOf b e)) (o + 12),
      failAt (b.length < e.offset + e.len) (o + 4),
      (earlier i fun j => match es[j]? with
        | some f => overlap f.offset f.len e.offset e.len
        | none => false).map fun j => 132 + 16 * j]

/-- A section appears twice. -/
def twiceFault (es : List Entry) : Option Nat :=
  firstUpTo es.length fun i => match es[i]? with
    | none => none
    | some e => (earlier i fun j => match es[j]? with
        | some f => f.typ = e.typ && f.variant = e.variant
        | none => false).map fun j => 128 + 16 * j

/-- R357: a section or the other half of a variant pair is missing. -/
def missingFault (es : List Entry) : Bool :=
  let has := fun t v => es.any fun e => e.typ = t && e.variant = v
  [secMapping, secPrograms, secFlows, secRoles, secPlan, secTide, secBarriers, secCommit, secPower, secSlots].any (fun t => !has t 0)
  || es.any fun e => takesVariant e.typ && !has (5 - e.typ) e.variant

/-! Sections. -/

/-- Axis lengths and cut codes of a MAPPING section. -/
def axisLen (m : List Byte) (i : Nat) : Nat := bNat m i 1
def axisCut (m : List Byte) (i : Nat) : Nat := bNat m (5 + i) 1

/-- Packages of the pod. -/
def podSize (m : List Byte) : Nat := axisLen m 1 * axisLen m 2 * axisLen m 3 * axisLen m 4

/-- The length of the axis that carries a cut; 1 when none does. -/
def cutLen (m : List Byte) (c : Nat) : Nat :=
  (((List.range 5).find? fun i => axisCut m i = c).map (axisLen m)).getD 1

/-- Coordinate k (A to D) of COORD. -/
def coordOf (x k : Nat) : Nat := bitsOf x (5 * k) 5

/-- R332 and the lengths of R333. -/
def cutsFault (m : List Byte) : Option Nat :=
  firstOf [
    firstUpTo 5 fun i => failAt (axisCut m i != 0 && (List.range 5).any fun j => decide (i < j) && axisCut m j = axisCut m i) (5 + i),
    firstUpTo 5 fun i => failAt (axisCut m i = 6 && i != 0) (5 + i),
    firstUpTo 5 fun i => failAt (axisLen m i = 1 && axisCut m i != 0) i,
    firstUpTo 5 fun i => failAt (6 < axisCut m i) (5 + i),
    failAt (axisLen m 0 != 4) 0, firstUpTo 5 fun i => failAt (i != 0 && outside 1 32 (axisLen m i)) i,
    failAt (4096 < podSize m) 1]

/-- R340, R348. -/
def headsFault (m : List Byte) : Option Nat :=
  let branches := bNat m 24 1
  let mask := fun k => bNat m (64 + 16 * k) 1 % 16
  let seen := (List.range branches).foldl (fun x k => x ||| mask k) 0
  let clash := (List.range branches).any fun k => mask k = 0 || (List.range k).any fun j => mask j &&& mask k != 0
  firstOf [failAt (bNat m 20 2 < bNat m 18 2) 18, failAt (bNat m 20 2 % cutLen m 2 != 0) 20,
    failAt (4 < branches || (branches != 0) != (axisCut m 0 = 6)) 5,
    failAt (axisCut m 0 = 6 && (clash || seen != 15)) 64]

/-- R332, R333, R340, R348; COORD is a field of the header. -/
def mappingFault (b m : List Byte) (sec : Nat) : Option Nat :=
  firstOf [inSection sec (cutsFault m),
    failAt ((List.range 4).any fun k => decide (axisLen m (k + 1) ≤ coordOf (bNat b 12 4) k)) (faultDetail 0xFF 12),
    inSection sec (headsFault m)]

/-- R500. -/
def programsFault (d : List Byte) : Option Nat :=
  let n := bNat d 0 2
  let core := fun k => bNat d (64 + 16 * k) 2
  firstOf [
    firstUpTo n fun k => failAt (1023 < core k || !coreFieldOk (core k)) (64 + 16 * k),
    firstUpTo n fun k => (earlier k fun j => core j = core k).map (64 + 16 * ·),
    firstUpTo n fun k => firstOf [failAt (32767 < bNat d (66 + 16 * k) 2) (66 + 16 * k),
      failAt (262144 < bNat d (68 + 16 * k) 4) (68 + 16 * k)],
    firstUpTo n fun k => failAt (d.length < bNat d (72 + 16 * k) 8 + bNat d (68 + 16 * k) 4) (68 + 16 * k)]

/-- A field names no core. -/
def badCore (x : Nat) : Bool := 1023 < x || !coreFieldOk x

/-- R245, R501. -/
def flowsFault (d : List Byte) : Option Nat :=
  let n := bNat d 0 4
  let o := fun k => 64 + 80 * k
  let c := fun k i w => bNat d (o k + 16 + i) w
  let role := fun k => bitsOf (c k 0 1) 2 2
  let sends := fun k => role k = roleSource || role k = roleTransit
  firstOf [
    firstUpTo n fun k => firstOf [failAt (16383 < bNat d (o k) 2) (o k),
      (earlier k fun j => bNat d (o j) 2 = bNat d (o k) 2).map o],
    firstUpTo n fun k => firstOf [failAt (15 < c k 0 1) (o k + 16), failAt (15 < c k 2 1) (o k + 18),
      failAt (role k = roleLocal && badCore (c k 4 2)) (o k + 20), failAt (role k = roleSink && badCore (c k 8 2)) (o k + 24)],
    firstUpTo n fun k => failAt ((role k = roleSource || role k = roleLocal) && outside 1 5 (c k 3 1)) (o k + 19),
    firstUpTo n fun k => failAt (sends k && 8 ≤ c k 2 1) (o k + 18),
    firstUpTo n fun k => failAt (sends k && c k 2 1 % 8 != bNat d (o k) 2 / 2048) (o k)]

/-- R7, R259: reserved roles, and a PEER_PORT that is no port's index. Reserved bits are not looked at: they read as zero. -/
def rolesFault (d : List Byte) : Option Nat :=
  firstUpTo 8 fun p => firstOf [failAt (4 < bNat d (16 * p) 1) (16 * p), failAt (7 < bNat d (16 * p + 1) 1) (16 * p + 1)]

/-- The region records of a MEMORY_PLAN. -/
def planRegion (d : List Byte) (i : Nat) : Region :=
  let o := 64 + 32 * i
  ⟨bNat d o 1, bNat d (o + 1) 1 % 2 = 1, bNat d (o + 2) 1, bNat d (o + 8) 8, bNat d (o + 16) 8⟩

def planRegions (d : List Byte) : List Region := (List.range (bNat d 0 2)).map (planRegion d)

/-- R358, the image lying at `addr`. -/
def planFault (d : List Byte) (addr len : Nat) : Option Nat :=
  let n := bNat d 0 2
  let g := planRegion d
  let o := fun k => 64 + 32 * k
  firstOf [failAt (outside 1 256 n) 0,
    firstUpTo n fun k => failAt (!inMem (g k).base (g k).len) (o k + 8),
    firstUpTo n fun k => failAt (overlap (g k).base (g k).len addr len ||
      (List.range n).any fun j => decide (k < j) && overlap (g k).base (g k).len (g j).base (g j).len) (o k + 8),
    firstUpTo n fun k => failAt ((g k).digest != 0xFF && (List.range n).any fun j => decide (k < j) && (g j).digest = (g k).digest) (o k + 2),
    firstUpTo n fun k => firstOf [failAt (outside 1 15 (g k).kind) (o k), failAt (1 < bNat d (o k + 1) 1) (o k + 1),
      failAt (outside 0 15 (g k).digest && (g k).digest != 0xFF) (o k + 2), nonzeroAt d (o k + 3) 5,
      failAt ((g k).base % 4096 != 0) (o k + 8), failAt ((g k).len % 4096 != 0) (o k + 16), nonzeroAt d (o k + 24) 8]]

/-- R299. -/
def tideFault (d : List Byte) : Option Nat :=
  firstOf [failAt (bNat d 0 8 < 200000) 0, failAt (outside 4096 16384 (bNat d 8 2)) 8,
    failAt (outside 4096 16384 (bNat d 10 2)) 10, failAt (bNat d 10 2 < bNat d 8 2) 8,
    failAt (2 ^ 48 ≤ bNat d 0 8) 0, failAt (3 < bNat d 12 1) 12, nonzeroAt d 13 3, nonzeroAt d 24 8,
    firstUpTo 8 fun j => firstOf [failAt (2 ^ 48 ≤ bNat d (32 + 16 * j) 8) (32 + 16 * j), nonzeroAt d (44 + 16 * j) 4],
    firstUpTo 8 fun i => firstOf [failAt (4096 < bNat d (160 + 80 * i) 2) (160 + 80 * i),
      failAt (47 < bNat d (164 + 80 * i) 1) (164 + 80 * i), nonzeroAt d (165 + 80 * i) 3]]

/-- A bucket record's stage k + 1: axis and group length. -/
def stageAxis (d : List Byte) (o k : Nat) : Nat := bNat d (o + 12 + k) 1
def stageLen (d : List Byte) (o k : Nat) : Nat := bNat d (o + 17 + k) 1

/-- R329: ranges of a bucket record at o. -/
def bucketRange (d : List Byte) (o : Nat) : Option Nat :=
  let st := bNat d (o + 10) 1
  firstOf [failAt (outside 2 16384 (bNat d (o + 8) 2)) (o + 8), failAt (outside 1 5 st) (o + 10),
    firstUpTo 5 fun k => failAt (st ≤ k && stageAxis d o k != 0) (o + 12 + k),
    firstUpTo 5 fun k => failAt (if k < st then outside 2 32 (stageLen d o k) else stageLen d o k != 0) (o + 17 + k)]

/-- R329: reserved bits and encodings of a bucket record. -/
def bucketReserved (d : List Byte) (o : Nat) : Option Nat :=
  firstOf [failAt (2 ^ 40 ≤ bNat d o 8) o, failAt (15 < bNat d (o + 11) 1 || bNat d (o + 11) 1 % 8 = 7) (o + 11),
    firstUpTo 5 fun k => failAt (4 < stageAxis d o k) (o + 12 + k), nonzeroAt d (o + 22) 10]

/-- R329: ranges of a use record at o, with its bucket's STAGES. -/
def useRange (d : List Byte) (buckets o : Nat) : Option Nat :=
  let st := bNat d (64 + 32 * bNat d o 2 + 10) 1
  firstOf [failAt (buckets ≤ bNat d o 2) o, failAt (outside 1 st (bNat d (o + 2) 1)) (o + 2), failAt (23 < bNat d (o + 3) 1) (o + 3),
    failAt (63 < bNat d (o + 4) 1) (o + 4), failAt (15 < bNat d (o + 5) 1) (o + 5), failAt (143 < bNat d (o + 18) 1) (o + 18),
    failAt (47 < bNat d (o + 20) 1) (o + 20)]

def useReserved (d : List Byte) (o : Nat) : Option Nat :=
  firstOf [failAt (1 < bNat d (o + 7) 1) (o + 7), failAt (2 ^ 21 ≤ bNat d (o + 8) 4) (o + 8),
    failAt (2 ^ 22 ≤ bNat d (o + 12) 4) (o + 12), failAt (1023 < bNat d (o + 18) 2) (o + 18), nonzeroAt d (o + 21) 1,
    nonzeroAt d (o + 24) 8]

/-- R329. -/
def reductionFault (d : List Byte) : Option Nat :=
  let nb := bNat d 0 2
  let nu := bNat d 2 2
  let bo := fun k => 64 + 32 * k
  let uo := fun k => 64 + 32 * (nb + k)
  let bk := fun k => bo (bNat d (uo k) 2)
  let stages := fun o => List.range (bNat d (o + 10) 1)
  firstOf [failAt (outside 1 1024 nb) 0, failAt (outside 1 4096 nu) 2,
    firstUpTo nb fun k => bucketRange d (bo k), firstUpTo nu fun k => useRange d nb (uo k),
    nonzeroAt d 4 60, firstUpTo nb fun k => bucketReserved d (bo k), firstUpTo nu fun k => useReserved d (uo k),
    firstUpTo nb fun k => failAt (((stages (bo k)).map (stageLen d (bo k))).foldl (· * ·) 1 != bNat d (bo k + 8) 2) (bo k + 8),
    firstUpTo nb fun k => ((stages (bo k)).find? fun i =>
        (stages (bo k)).any (fun j => decide (i < j) && stageAxis d (bo k) j = stageAxis d (bo k) i)
          || (stageAxis d (bo k) i = 0 && stageLen d (bo k) i != 4)).map fun i => bo k + 12 + i,
    firstUpTo nb fun k => failAt (bNat d (bo k) 8 % (32 * bNat d (bo k + 8) 2) != 0) (bo k),
    firstUpTo nu fun k => firstOf [failAt (bNat d (uo k + 8) 4 % 32 != 0) (uo k + 8), failAt (bNat d (uo k + 12) 4 % 32 != 0) (uo k + 12),
      failAt (2097152 < bNat d (uo k + 8) 4 + bNat d (uo k + 12) 4) (uo k + 8)],
    firstUpTo nu fun k => failAt (bNat d (uo k + 16) 2 != stageLen d (bk k) (bNat d (uo k + 2) 1 - 1)) (bk k + 16 + bNat d (uo k + 2) 1),
    firstUpTo nu fun k => firstOf [
      failAt (bNat d (uo k + 7) 1 = 1 && bNat d (uo k + 2) 1 != 1) (uo k + 2),
      failAt (bNat d (uo k + 7) 1 = 1 && bNat d (bk k + 11) 1 % 8 = 0) (bk k + 11)]]

/-- Ranges of the BARRIERS section. -/
def barriersFault (d : List Byte) : Option Nat :=
  firstOf [
    firstUpTo 16 fun i => firstOf [failAt (576 < bNat d (80 * i) 2) (80 * i), failAt (47 < bNat d (80 * i + 2) 1) (80 * i + 2)],
    firstUpTo 256 fun k => firstOf [failAt (144 < bNat d (1280 + 32 * k) 1) (1280 + 32 * k),
      failAt (47 < bNat d (1281 + 32 * k) 1) (1281 + 32 * k)]]

/-- The five areas of a commit policy: field offset, address, length (Table 12-9). -/
def commitAreas (d : List Byte) (shards : Nat) : List (Nat × Nat × Nat) :=
  [(32, bNat d 32 8, 8), (40, bNat d 40 8, 64), (48, bNat d 48 8, 64 * (2 * shards + 1)), (56, bNat d 56 8, 256 * bNat d 18 2),
    (64, bNat d 64 8, 128)]

/-- R385: an area is not aligned, lies outside the report regions, or meets another. -/
def areaFault (rs : List Region) (areas : List (Nat × Nat × Nat)) : Option Nat :=
  (areas.find? fun a =>
    a.2.1 % 64 != 0 || !(rs.any fun g => g.kind = 15 && decide (g.base ≤ a.2.1) && decide (a.2.1 + a.2.2 ≤ g.base + g.len))
      || areas.any fun c => c.1 != a.1 && overlap a.2.1 a.2.2 c.2.1 c.2.2).map (·.1)

/-- R362, R385. -/
def commitFault (b d : List Byte) : Option Nat :=
  let m := sectionOf b secMapping 0
  let t := sectionOf b secTide 0
  let rs := planRegions (sectionOf b secPlan 0)
  let bar := 160 + 80 * bNat d 0 1
  let led := rs[bNat d 2 1]?
  let mir := rs[bNat d 3 1]?
  let shards := match led with | some g => cdiv g.len 0x4000000 | none => 0
  let mirror := bNat d 1 1 % 2 = 1
  firstOf [failAt (7 < bNat d 0 1 || bNat t bar 2 != podSize m || bNat t (bar + 2) 2 != 1 || bNat t (bar + 8) 72 != 0) 0,
    failAt (bNat d 8 4 ≤ bNat d 4 4) 4, failAt (bNat t 0 8 ≤ bNat d 8 4) 8,
    areaFault rs (commitAreas d shards),
    failAt (match led with | some g => !g.jobState | none => true) 2,
    failAt (mirror && !(List.range 5).any fun i => axisCut m i = 1 && decide (2 ≤ axisLen m i)) 1,
    failAt (mirror && (match mir with | some g => g.kind != 12 | none => true)) 3,
    failAt (mirror && (match led, mir with | some g, some h => decide (h.len < g.len) | _, _ => false)) 2,
    failAt ((List.range 16).any fun r => (bNat d 16 2).testBit r && !(rs.any fun g => g.digest = r)) 16,
    failAt (7 < bNat d 1 1) 1, failAt (32767 < bNat d 12 4) 12, failAt (bNat d 18 2 = 0) 18, nonzeroAt d 20 4]

/-- O of R404, in ns, for a COORD. -/
def staggerOf (d : List Byte) (coord : Nat) : Nat :=
  ((List.range 4).map fun k => bNat d (24 + 4 * k) 4 * coordOf coord k).foldl (· + ·) 0

/-- R405. -/
def powerFault (d : List Byte) (coord : Nat) : Option Nat :=
  let cap := bNat d 0 2
  let ramp := cdiv ((bNat d 8 2 - bNat d 10 2) * 1000000000) (bNat d 2 2)
  firstOf [failAt (outside 1500 5200 cap) 0, failAt (outside 1 2000 (bNat d 2 2)) 2, failAt (outside 1 2000 (bNat d 4 2)) 4,
    failAt (cap < bNat d 6 2) 6, failAt (cap < bNat d 8 2) 8, failAt (bNat d 8 2 ≤ bNat d 10 2) 10,
    failAt (bNat d 14 2 < bNat d 12 2) 12, failAt (cap < bNat d 14 2) 14, nonzeroAt d 40 24,
    failAt (bNat d 16 8 < staggerOf d coord + ramp) 2]

/-- R503. -/
def slotsFault (b d : List Byte) : Option Nat :=
  let n := bNat d 4 2
  let sh := bNat d 6 1
  let len := 3 * n * 64 * sh
  let rs := planRegions (sectionOf b secPlan 0)
  firstOf [failAt (outside 1 256 n) 4, failAt (sh != if axisCut (sectionOf b secMapping 0) 0 = 3 then 4 else 1) 6,
    failAt (!(rs.any fun g => g.kind = 14 && decide (g.base ≤ bNat d 8 8) && decide (bNat d 8 8 + len ≤ g.base + g.len))) 4,
    failAt (d.length < 64 + 6 * n * sh) 4, nonzeroAt d 7 1, nonzeroAt d 16 48]

/-- PERM of a plan is a permutation of 0 to n − 1. -/
def isPerm (d : List Byte) (o n : Nat) : Bool :=
  (List.range n).all fun v => (List.range n).any fun c => bNat d (o + c) 1 = v

/-- R359. -/
def reshardFault (b d : List Byte) : Option Nat :=
  let n := bNat d 0 1
  let o := fun k => 64 + 64 * k
  let len := fun k => if bNat d (o k) 1 < 5 then axisLen (sectionOf b secMapping 0) (bNat d (o k) 1) else 0
  let es := entriesOf b
  firstOf [failAt (outside 1 16 n) 0,
    firstUpTo n fun k => failAt (!isPerm d (o k + 8) (len k)) (o k + 8),
    firstUpTo n fun k => if bNat d (o k) 1 < 5 then nonzeroAt d (o k + 8 + len k) (32 - len k) else none,
    firstUpTo n fun k => failAt (bNat d (o k + 3) 1 != 0xFF && !(es.any fun e => e.typ = secPrograms && e.variant = bNat d (o k + 3) 1)) (o k + 3),
    firstUpTo n fun k => firstOf [failAt (4 < bNat d (o k) 1) (o k), failAt (bNat d (o k + 1) 1 = 0) (o k + 1),
      failAt (15 < bNat d (o k + 2) 1) (o k + 2), nonzeroAt d (o k + 40) 24]]

/-- Section i of an image at `addr`, by its own rule. -/
def sectionFault (b : List Byte) (addr i : Nat) (e : Entry) : Option Nat :=
  let d := bytesOf b e
  let sec := i + 1
  if e.typ = secMapping then mappingFault b d sec
  else inSection sec (
    if e.typ = secPrograms then programsFault d
    else if e.typ = secFlows then flowsFault d
    else if e.typ = secRoles then rolesFault d
    else if e.typ = secPlan then planFault d addr b.length
    else if e.typ = secTide then tideFault d
    else if e.typ = secReduction then reductionFault d
    else if e.typ = secBarriers then barriersFault d
    else if e.typ = secCommit then commitFault b d
    else if e.typ = secPower then powerFault d (bNat b 12 4)
    else if e.typ = secSlots then slotsFault b d
    else if e.typ = secReshard then reshardFault b d
    else none)

/-- The first fault of an image of bytes b at `addr`, as MB_DETAIL gives it (R502). -/
def imageDetail (features : W64) (b : List Byte) (addr : Nat) : Option Nat :=
  let es := entriesOf b
  inSection 0xFF (headerFault features b) <|> inSection 0xFF (firstUpTo es.length (entryFault b es)) <|> inSection 0xFF (twiceFault es) <|>
    inSection 0xFF (failAt (missingFault es) 6) <|>
    (es.zip (List.range es.length)).findSome? fun e => sectionFault b addr e.2 e.1

/-- The first byte in which two sections differ. -/
def differAt (a b : List Byte) : Option Nat :=
  if a = b then none else some (((List.range (max a.length b.length)).find? fun i => a[i]? != b[i]?).getD 0)

/-- R439: a new image b against the loaded one a, with the variant in force. -/
def reloadDetail (a b : List Byte) (variant : Nat) : Option Nat :=
  let es := entriesOf b
  let same := fun typ => (differAt (sectionOf a typ 0) (sectionOf b typ 0)).map
    (faultDetail (1 + (es.findIdx fun e => e.typ = typ && e.variant = 0)))
  firstOf [same secMapping, same secRoles, same secPlan, failAt (bNat a 8 2 != bNat b 8 2) (faultDetail 0xFF 8),
    failAt (bNat a 12 4 != bNat b 12 4) (faultDetail 0xFF 12),
    failAt (!(es.any fun e => e.typ = secPrograms && e.variant = variant)) (faultDetail 0xFF 6)]

end Sys2Proof.Machine
end

