-- ==== Sys2Proof/Machine/Mailbox.lean ====
section
/-! DEFINITION. The mailboxes (14, R423–R433): which commands exist, where and in which states they are served, how a command word is
taken, refused and completed; identify, status, telemetry, meter, lighthouse, diagnostics commands. -/

namespace Sys2Proof.Machine

/-! Table 14-8. -/

/-- Every opcode. -/
def opcodes : List Nat :=
  [0x01, 0x02, 0x10, 0x18, 0x19, 0x30, 0x31, 0x32, 0x33, 0x34, 0x35, 0x36, 0x37, 0x38, 0x40, 0x41, 0x50, 0x51, 0x52, 0x60, 0x70, 0x71,
   0x72, 0x73, 0x74, 0x75, 0x76, 0x80, 0x81, 0x82, 0x83, 0x90, 0x91, 0x92, 0x93, 0x94]

/-- STATUS and METER_READ are served in all mailboxes, 0x70–0x76 in MB0, the others in MB1–MB15. -/
def servedIn (op m : Nat) : Bool :=
  if op = 0x02 || op = 0x60 then true else (0x70 ≤ op && op ≤ 0x76) = (m = 0)

/-- The job states in which a command is accepted. -/
def acceptedIn (op : Nat) : List Nat :=
  if op = 0x10 || op = 0x18 || op = 0x82 then [0]
  else if op = 0x30 then [0, 1, 5]
  else if op = 0x31 then [1, 5]
  else if op = 0x32 || op = 0x35 || op = 0x36 || op = 0x38 || op = 0x93 || op = 0x94 then [1, 2, 5]
  else if op = 0x33 then [2]
  else if op = 0x34 || op = 0x37 then [3]
  else if op = 0x41 then [3, 4]
  else [0, 1, 2, 3, 4, 5]

/-- R469: the job commands and RESHARD. -/
def jobCommand (op : Nat) : Bool := [0x30, 0x31, 0x32, 0x33, 0x36, 0x37, 0x38, 0x93, 0x94].contains op

/-- R230, R39, R442: refused during a wipe and on an unqualified set. -/
def gatedCommand (op : Nat) : Bool := jobCommand op || op = 0x82

/-- R33, R205, R440: refused while an isthmus or a stack is failed. -/
def linkCommand (op : Nat) : Bool := [0x30, 0x31, 0x32, 0x33, 0x36, 0x37].contains op

/-- Commands that need package memory, the isles or the straits, which Ebb has put away (log 26). -/
def poweredCommand (op : Nat) : Bool := jobCommand op || [0x10, 0x35, 0x82, 0x83, 0x91].contains op

/-! Completion (R424). -/

/-- The response, MB_RSP_LEN, MB_DETAIL and MB_STATUS are written; then the vector is sent. -/
def writeDone (s : State) (m code : Nat) (detail : Reg) (resp : List Byte) (irq : Bool) : State :=
  let t := modBox s m fun b => { b with
    resp := memWrite b.resp 0 resp, rspLen := resp.length, detail := detail, state := 2, code := code, run := none }
  if irq then fire t m else t

/-! Taking a command word (R423, R426, R429, R433). -/

/-- A command word as it is written. -/
structure Word_ where
  mb : Nat
  op : Nat
  seq : Nat
  irq : Bool
  deriving DecidableEq, Repr

def wordReg (w : Word_) : Reg := reg (w.op + at_ w.seq 16 + at_ (bit w.irq) 24)

/-- What a command that is taken does: an answer at once, or its beginning. -/
inductive Answer where
  | refuse (code detail : Nat)
  | go (t : State)
  deriving DecidableEq, Repr

/-- The lighthouse core completes what is written to MB1–MB15: in Dry, and with VIN48 out of range (R395, R485). -/
def lighthouseServes (s : State) : Bool := s.power.state = 3 || s.power.vinFault

/-- R429, R395, R485: MB1–MB15 are not served. -/
def unserved (s : State) (m : Nat) : Option Answer :=
  if m = 0 then none
  else if lighthouseServes s then some (.refuse stRefused (stateDetail s))
  else if s.boot.serving then none
  else some (.refuse stBusy 0)

/-- R426: another exclusive command runs. -/
def exclusiveBusy (s : State) (op : Nat) : Option Answer :=
  if exclusive op then (exclusiveRuns s).map fun o => .refuse stBusy o else none

/-- R433, Table 14-8, R469, R230, R39, R33, R205: the refusals of a command by the state of the package, but for BUSY. -/
def stateGate (s : State) (op : Nat) : Option Answer :=
  let life := lifecycle s.boot
  if !(acceptedIn op).contains s.job.state || (jobCommand op && life != 1) || (op = 0x19 && life = 3)
      || (poweredCommand op && s.power.state = 2) then some (.refuse stRefused (stateDetail s))
  else if gatedCommand op && s.memory.wipe != 0 then some (.refuse stWipe 0)
  else if gatedCommand op && bitsOf s.boot.qual.toNat 30 2 != 1 then some (.refuse stUnqualified 0)
  else if linkCommand op && anyLinkFailed s then some (.refuse stIsthmus 0)
  else if linkCommand op && (List.range 24).any (fun i => (stackOf s i).state = 2) then some (.refuse stStack 0)
  else none

/-- The command word is the last taken, and runs. -/
def startBox (s : State) (w : Word_) : State :=
  modBox s w.mb fun b => { b with cmd := wordReg w, state := 1, seq := w.seq, run := some ⟨w.op, w.irq, none, []⟩ }

/-- An answer fixes the outcome, or lets the command begin. -/
def applyAnswer (s : State) (m : Nat) : Answer → State
  | .refuse code detail => finish s m code detail []
  | .go t => t

/-- A command word is taken. `busy` is the command's own BUSY, `body` what it does once no refusal by state applies. -/
def takeWord (s : State) (w : Word_) (busy : State → Option Answer) (body : State → Answer) : State :=
  let early := if !opcodes.contains w.op then some stUnknown else if !servedIn w.op w.mb then some stWrongBox else none
  if w.seq != ((boxOf s w.mb).seq + 1) % 256 then
    writeDone (modBox s w.mb fun b => { b with cmd := wordReg w }) w.mb (early.getD stBadSeq) 0 [] w.irq
  else
    let t := startBox s w
    match early with
    | some code => finish t w.mb code 0 []
    | none => applyAnswer t w.mb (((unserved s w.mb).orElse fun _ => (exclusiveBusy s w.op).orElse fun _ =>
        (busy t).orElse fun _ => stateGate t w.op).getD (body t))

/-- Whoever serves the mailbox runs: no reset is held, and it is not the control processor under the debugger's hold (R482). -/
def boxServed (s : State) (m : Nat) : Bool :=
  s.boot.held = 0 && (m = 0 || !(s.boot.dbgCp && s.boot.serving) || lighthouseServes s)

/-- A command word arrives (R423). A write to a mailbox whose command runs is undefined (R425). A repeat is ignored. -/
def commandRow (s : State) (w : Word_) (now : Nat) (busy : State → Option Answer) (body : State → Answer) :
    Host.Outcome State Fault Refusal :=
  if !boxServed s w.mb then .next s
  else if (boxOf s w.mb).state = 1 then undefinedCase .mailboxWrite s
  else if w.seq = (boxOf s w.mb).seq then .next s
  else .next (takeWord (atTide s now) w busy body)

/-- A command without a BUSY of its own. -/
def plainRow (op : Nat) (mb : Fin 16) (seq : Byte) (irq : Bool) (now : Nat) (s : State) (body : State → Answer) :
    Host.Outcome State Fault Refusal :=
  commandRow s ⟨mb, op, seq.toNat, irq⟩ now (fun _ => none) body

/-- A command with a BUSY of its own. -/
def busyRow (op : Nat) (mb : Fin 16) (seq : Byte) (irq : Bool) (now : Nat) (s : State) (busy : State → Option Answer)
    (body : State → Answer) : Host.Outcome State Fault Refusal :=
  commandRow s ⟨mb, op, seq.toNat, irq⟩ now busy body

/-- A command whose outcome is fixed at once, with OK. -/
def okAt (s : State) (m : Nat) (resp : List Byte) : Answer := .go (finish s m stOk 0 resp)

/-- A number among the parameters of mailbox m. -/
def param (s : State) (m o n : Nat) : Nat := memNat (boxOf s m).params o n

/-- BAD_PARAM by a parameter at an offset. -/
def badParam (o : Nat) : Answer := .refuse stBadParam (faultDetail 0 o)

/-- R432: an opcode that Table 14-8 does not hold. -/
def execUnknownCommand (mb : Fin 16) (op : BitVec 16) (seq : Byte) (irq : Bool) (now : Nat) (s : State) :
    Host.Outcome State Fault Refusal :=
  if opcodes.contains op.toNat then .next s
  else commandRow s ⟨mb, op.toNat, seq.toNat, irq⟩ now (fun _ => none) (fun t => .go t)

/-- A COMMIT_RESUME ends when the ledger reads applied or skipped and every core has halted (R372). -/
def resumeOver (s : State) (m : Nat) : Bool :=
  s.commit.resume != some m || ((s.commit.ledState = 2 || s.commit.ledState = 4) && allHalted s)

/-- What follows a completion: the resets of R445 and R471; the flash image of FW_UPDATE is whole (R441). -/
def afterDone (s : State) (op code : Nat) : State :=
  if code != stOk then s
  else if op = 0x74 then { s with boot := { s.boot with resetDue := some (s.tide.now + 1000000) } }
  else if op = 0x18 then { s with boot := { s.boot with lifecycleDue := some (s.tide.now + 1000000) } }
  else if op = 0x10 then { s with boot := { s.boot with flash := s.boot.flashing, flashing := [] } }
  else s

/-- R424: a running command whose outcome is known completes. -/
def execCommandComplete (mb : Fin 16) (now : Nat) (s : State) : Host.Outcome State Fault Refusal :=
  let t := atTide s now
  match (boxOf s mb).run with
  | none => .next s
  | some r => match r.result with
    | none => .next s
    | some x => when (boxServed s mb && resumeOver s mb) s
        (let t := if s.commit.resume = some mb.val then { t with commit := { t.commit with resume := none } } else t
         afterDone (writeDone t mb x.code x.detail x.resp r.irq) r.opcode x.code)

/-! Identify and status (Table 14-9). -/

/-- The bytes of a text. -/
def ascii (t : String) (n : Nat) : List Byte := ((t.toList.map fun (c : Char) => BitVec.ofNat 8 c.toNat) ++ List.replicate n 0).take n

def dieRevs (s : State) : List Byte := (List.range 38).flatMap fun n => leBytes 4 (dieRev s n)

/-- FW_VERSION of the running image. -/
def fwVersion (s : State) : Nat := imgNat s.boot.fw 12 4

/-- R3. -/
def identity (s : State) : List Byte :=
  leBytes 8 Config.serial.toNat ++ ascii "DXK-4024" 16 ++ (Config.orderingCode ++ List.replicate 16 0).take 16
    ++ leBytes 8 s.boot.features.toNat ++ leBytes 4 (fwVersion s) ++ leBytes 4 s.boot.qual.toNat ++ leBytes 6 Config.mac.toNat
    ++ List.replicate 2 0 ++ measurement s.boot.fw ++ dieRevs s ++ List.replicate 8 0

/-- The current step as a 64-bit number. -/
def stepNow (s : State) : Nat := unsgn 64 (currentStep s)

/-- The bytes that STATUS returns. -/
def statusBytes (s : State) : List Byte :=
  leBytes 4 (bar0Read s 0x10000) ++ leBytes 8 s.control.cfgGen ++ leBytes 4 (bar0Read s 0xA0000) ++ leBytes 4 (bar0Read s 0x80008)
    ++ leBytes 4 (bar0Read s 0x51004) ++ leBytes 4 (bar0Read s 0x40100) ++ leBytes 4 (bar0Read s 0x90000) ++ leBytes 8 (stepNow s)
    ++ leBytes 8 s.tide.now

def execIdentify (mb : Fin 16) (seq : Byte) (irq : Bool) (now : Nat) (s : State) : Host.Outcome State Fault Refusal :=
  plainRow 0x01 mb seq irq now s fun t => okAt t mb (identity t)

/-- MEM_WIPE.PERCENT is a free value (log 3). -/
def execStatus (mb : Fin 16) (seq : Byte) (irq : Bool) (now : Nat) (s : State) : Host.Outcome State Fault Refusal :=
  plainRow 0x02 mb seq irq now s fun t => okAt (useFree t) mb (statusBytes t)

/-! Telemetry (R447, Table 14-13). -/

/-- A die that is without power: its fields read zero (R428). -/
def dieOff (s : State) (n : Nat) : Bool :=
  let isle := n < 4
  let stack := 4 ≤ n && n < 28
  let strait := 28 ≤ n && n < 36
  (s.power.vinFault && (isle || stack || strait)) || (s.power.state = 3 && (isle || strait))
    || (s.power.state = 2 && (strait || (isle && s.power.isleOff)))

def temperatures (s : State) : List Byte :=
  (List.range 38).flatMap fun n => leBytes 2 (if dieOff s n then 0 else (tblGet 0 s.power.temps n).toNat)

def snapshot (s : State) : List Byte :=
  leBytes 8 s.tide.now ++ leBytes 8 (stepNow s) ++ leBytes 4 s.power.powerMw ++ leBytes 2 (forecast s) ++ leBytes 2 s.tide.curQ
    ++ leBytes 1 s.power.state ++ leBytes 1 s.job.state ++ List.replicate 2 0 ++ temperatures s
    ++ ((List.range 8).flatMap fun p => leBytes 1 (lanesTx (portOf s p)) ++ leBytes 1 (lanesRx (portOf s p)))
    ++ ((List.range 4).flatMap fun k => leBytes 2 (isthLanes s k)) ++ List.replicate 384 0

def refresh (s : State) : State := { s with control := { s.control with telem := snapshot s } }

/-- The periodic refresh; PERIOD_MS 0 stops it. -/
def execTelemetryRefresh (now : Nat) (s : State) : Host.Outcome State Fault Refusal :=
  when (s.boot.held = 0 && s.control.period != 0) s (setSupEvent (refresh (atTide s now)) 6)

def execTelemetry (mb : Fin 16) (seq : Byte) (irq : Bool) (now : Nat) (s : State) : Host.Outcome State Fault Refusal :=
  plainRow 0x71 mb seq irq now s fun t => okAt (refresh t) mb (snapshot t)

/-- R447: PERIOD_MS. -/
def telemetrySet (s : State) (m : Nat) : Answer :=
  let v := param s m 0 2
  if 1000 < v then badParam 0 else okAt { s with control := { s.control with period := v } } m []

def execTelemetrySet (mb : Fin 16) (seq : Byte) (irq : Bool) (now : Nat) (s : State) : Host.Outcome State Fault Refusal :=
  plainRow 0x52 mb seq irq now s fun t => telemetrySet t mb

/-! Governor and meter (Table 14-11, R396, R446). -/

/-- The notice queue is full. -/
def queueFull (s : State) : Option Answer := if noticesFull s then some (.refuse stBusy 0xFFFF) else none

/-- The values that GOV_SET gives the governor's settings, by SETTING number. -/
def govWanted (s : State) (m : Nat) : List (Nat × Nat) :=
  ([(0, 1, 2), (1, 2, 4), (2, 3, 6), (3, 4, 8)].filter fun x => (param s m 0 1).testBit x.1).map fun x => (x.2.1, param s m x.2.2 2)

/-- Settings take values, one after the other. -/
def govAll (s : State) (vs : List (Nat × Nat)) (ahead : Nat) : State := vs.foldl (fun s v => govSetting s v.1 v.2 ahead) s

/-- The values in force, in the layout of GOV_SET. -/
def govBytes (s : State) (mask interval : Nat) : List Byte :=
  leBytes 1 mask ++ [0] ++ leBytes 2 s.power.cap ++ leBytes 2 s.power.slewUp ++ leBytes 2 s.power.slewDn ++ leBytes 2 s.power.floor
    ++ leBytes 1 interval

/-- GOV_SET. The meter interval goes to the meter over I3C (MT_INTERVAL_WRITE). -/
def govSet (s : State) (m : Nat) : Answer :=
  let mask := param s m 0 1
  let iv := param s m 10 1
  let vs := govWanted s m
  if 32 ≤ mask then badParam 0
  else if mask.testBit 4 && outside 1 60 iv then badParam 10
  else
    let t := govAll s vs 1
    let t := if mask.testBit 4 then setMeter t fun x => { x with intervalDue := some iv } else t
    okAt t m (govBytes t mask (if mask.testBit 4 then iv else t.meter.interval))

def execGovSet (mb : Fin 16) (seq : Byte) (irq : Bool) (now : Nat) (s : State) : Host.Outcome State Fault Refusal :=
  busyRow 0x51 mb seq irq now s queueFull fun t => govSet t mb

/-- R396. -/
def execRampToFloor (mb : Fin 16) (seq : Byte) (irq : Bool) (now : Nat) (s : State) : Host.Outcome State Fault Refusal :=
  busyRow 0x72 mb seq irq now s queueFull fun t => okAt (govSetting t 1 (max t.power.floor 1500) 1) mb []

/-- What METER_READ answers: registers and records, or the meter's identity. -/
def meterAnswer (s : State) (m : Nat) : State :=
  let x := s.meter
  if param s m 0 1 = 0 then
    finish s m stOk 0 (leBytes 8 x.energy ++ leBytes 8 x.seqNext ++ leBytes 8 x.rtc ++ leBytes 4 (mtSeal x) ++ leBytes 1 x.interval
      ++ List.replicate 35 0 ++ (List.range (param s m 1 1)).flatMap fun i => recordOf x (param s m 8 8 + i))
  else
    finish s m stOk 0 ((Config.meterRomHash ++ List.replicate 32 0).take 32 ++ (Config.meterPubkey ++ List.replicate 32 0).take 32
      ++ (Config.meterCert ++ List.replicate 512 0).take 512)

/-- R430: METER_READ waits for the I3C channel behind the notices that wait for it. -/
def meterRead (s : State) (m : Nat) : Answer :=
  let ahead := s.power.notices.length
  if 1 < param s m 0 1 then badParam 0
  else if 15 < param s m 1 1 then badParam 1
  else .go (if ahead = 0 then meterAnswer s m else setPower s fun p => { p with reads := p.reads ++ [(m, ahead)] })

/-- A notice has been sent: each METER_READ that waits has one fewer ahead of it, and those with none are answered (R430). -/
def serveReads (s : State) : State :=
  let rs := s.power.reads.map fun r => (r.1, r.2 - 1)
  let t := setPower s fun p => { p with reads := rs.filter fun r => r.2 != 0 }
  (rs.filter fun r => r.2 = 0).foldl (fun t r => meterAnswer t r.1) t

/-- R410, R412, R430: the meter takes the oldest notice. -/
def execSettingNotice (energy rtc : Nat) (s : State) : Host.Outcome State Fault Refusal :=
  match s.power.notices with
  | [] => .next s
  | n :: rest => when (s.boot.held = 0) s
      (serveReads (takeNotice (meterAt (setPower s fun p => { p with notices := rest }) energy rtc) n))

def execMeterRead (mb : Fin 16) (seq : Byte) (irq : Bool) (now : Nat) (s : State) : Host.Outcome State Fault Refusal :=
  plainRow 0x60 mb seq irq now s fun t => meterRead t mb

/-! The lighthouse (R428). -/

/-- RST_CAUSE_0 to RST_CAUSE_7. -/
def causeBytes (s : State) : List Byte := (List.range 8).flatMap fun n => leBytes 4 (rstCause s.boot n)

/-- The latest 32 journal entries, newest first. -/
def journalTail (s : State) : List Byte :=
  (List.range 32).flatMap fun i => memRead s.control.journal (32 * ((s.control.cfgGen + 2 ^ 64 - i) % 256)) 32

def execResetCause (mb : Fin 16) (seq : Byte) (irq : Bool) (now : Nat) (s : State) : Host.Outcome State Fault Refusal :=
  plainRow 0x70 mb seq irq now s fun t =>
    okAt t mb (causeBytes t ++ leBytes 8 t.control.cfgGen ++ List.replicate 24 0 ++ journalTail t)

def execThermalStatus (mb : Fin 16) (seq : Byte) (irq : Bool) (now : Nat) (s : State) : Host.Outcome State Fault Refusal :=
  plainRow 0x75 mb seq irq now s fun t =>
    okAt t mb (leBytes 1 (bit (t.power.stat.getLsbD 2)) ++ [0] ++ leBytes 2 tripTemp ++ temperatures t)

/-- R444: the lasers of all ports go off, until the next power-on or system reset. -/
def isolatePort (s : State) (p : Nat) : State := portDown (modPort s p fun k => { k with isolated := true }) p 4

def execIsolateStraits (mb : Fin 16) (seq : Byte) (irq : Bool) (now : Nat) (s : State) : Host.Outcome State Fault Refusal :=
  plainRow 0x73 mb seq irq now s fun t => okAt ((List.range 8).foldl isolatePort t) mb []

/-- R445: the reset itself comes 1 ms after the completion. -/
def execSystemReset (mb : Fin 16) (seq : Byte) (irq : Bool) (now : Nat) (s : State) : Host.Outcome State Fault Refusal :=
  plainRow 0x74 mb seq irq now s fun t => okAt t mb []

/-- R392. -/
def execWake (mb : Fin 16) (seq : Byte) (irq : Bool) (now : Nat) (s : State) : Host.Outcome State Fault Refusal :=
  plainRow 0x76 mb seq irq now s fun t => okAt (wakeUp t 5) mb []

/-! Diagnostics (Table 14-11). -/

/-- A direction's failed lanes as 68 bits in 9 bytes. -/
def laneMask (x : IsthModule) (rev : Bool) : Nat :=
  (List.range 68).foldl (fun a n => if laneFailed x rev n then a + 2 ^ n else a) 0

def isthLaneBytes (s : State) (k : Nat) : List Byte :=
  (List.range 16).flatMap fun m =>
    let x := isthMod s k m
    leBytes 9 (laneMask x false) ++ leBytes 9 (laneMask x true) ++ leBytes 1 (isthModReg x % 8) ++ leBytes 3 x.parity
      ++ List.replicate 10 0

def portLaneBytes (s : State) (p : Nat) : List Byte :=
  let k := portOf s p
  ((List.range 32).flatMap fun n => leBytes 4 (tblGet 0 k.corrected n) ++ leBytes 4 (tblGet 0 k.codewords n))
    ++ leBytes 4 k.failTx.toNat ++ leBytes 4 k.failRx.toNat

def diagLanes (s : State) (m : Nat) : Answer :=
  let l := param s m 0 1
  if l < 4 then okAt s m (isthLaneBytes s l)
  else if 8 ≤ l && l < 16 then okAt s m (portLaneBytes s (l - 8))
  else badParam 0

def execDiagLanes (mb : Fin 16) (seq : Byte) (irq : Bool) (now : Nat) (s : State) : Host.Outcome State Fault Refusal :=
  plainRow 0x80 mb seq irq now s fun t => diagLanes t mb

/-- A stack's counters and last uncorrectable address. -/
def eccBytes (s : State) (i : Nat) : List Byte :=
  let w := fun o => bar0Read s (0x50000 + 64 * i + o)
  leBytes 4 (w 4) ++ leBytes 4 (w 8) ++ leBytes 4 (w 0x14) ++ leBytes 8 (w 0xC + 2 ^ 32 * w 0x10) ++ List.replicate 4 0

/-- R216: the read clears the counters. -/
def clearEcc (s : State) (i : Nat) : State := clearStack s i fun k => { k with ce := 0, ue := 0, accUe := 0 }

def execDiagEcc (mb : Fin 16) (seq : Byte) (irq : Bool) (now : Nat) (s : State) : Host.Outcome State Fault Refusal :=
  plainRow 0x81 mb seq irq now s fun t => okAt ((List.range 24).foldl clearEcc t) mb ((List.range 24).flatMap (eccBytes t))

/-- R464: it ends with the wipe of the last named core. -/
def coreResetCmd (s : State) (m : Nat) : Answer :=
  let isle := param s m 0 1
  let core := param s m 1 2
  if 3 < isle then badParam 0
  else if 143 < core && core != 0xFFFF then badParam 1
  else
    let cs := if core = 0xFFFF then span (144 * isle) 144 else [coreNum isle core]
    let t := resetCores s isle (if core = 0xFFFF then none else some core) false
    .go (modBox t m fun b => { b with run := b.run.map fun r => { r with waits := cs } })

def execCoreReset (mb : Fin 16) (seq : Byte) (irq : Bool) (now : Nat) (s : State) : Host.Outcome State Fault Refusal :=
  plainRow 0x83 mb seq irq now s fun t => coreResetCmd t mb

/-! Firmware, lifecycle, attestation (R441, R470–R477). -/

/-- R441: the image is verified, the flash erased, the image written and read back. Until the command completes, and after a write that
fails, the flash holds no image that passes a check. -/
def fwUpdate (s : State) (m : Nat) (flashOk : Bool) : Answer :=
  let a := param s m 0 8
  let n := param s m 8 8
  if !inMem a n then badParam 0
  else
    let (t, img) := readRange s a n (supReader s)
    if n = 0 || 4194304 < n || imageFault img != 0 then .go (finish t m stSig 0 [])
    else if flashOk then
      okAt { t with boot := { t.boot with flash := [], flashing := memWrite [] 0 img } } m (shake256 (imageCode img))
    else .go (finish { t with boot := { t.boot with flash := [] } } m 0xD 0 [])

def execFwUpdate (mb : Fin 16) (seq : Byte) (irq : Bool) (now : Nat) (flashOk : Bool) (s : State) : Host.Outcome State Fault Refusal :=
  plainRow 0x10 mb seq irq now s fun t => fwUpdate t mb flashOk

/-- Table 15-7: the transition to a target is allowed from a state. -/
def lifeAllowed (from_ target : Nat) : Bool :=
  (target = 1 && (from_ = 0 || from_ = 2)) || (target = 2 && from_ = 1) || (target = 3 && from_ ≤ 2)

/-- R470, R472: OTP is written. The ledger follows with the reset (R471). -/
def lifeWrite (s : State) (target : Nat) (owner : List Byte) : State :=
  let b := s.boot
  let b := if target = 1 then { b with lcState := 1, owners := b.owners ++ [owner], owned := true }
    else if target = 2 then { b with lcState := 2, owned := false }
    else { b with lcState := 3, owned := false, seedErased := true }
  { s with boot := b }

/-- R470, R471. -/
def lifecycleSet (s : State) (m : Nat) : Answer :=
  let target := param s m 0 1
  let allowed := lifeAllowed (lifecycle s.boot) target
  if allowed && target = 1 && 4 ≤ s.boot.owners.length then .refuse stRefused (stateDetail s)
  else if !allowed then badParam 0
  else if param s m 1 1 != (if target = 3 then 0xDC else 0xC5) then badParam 1
  else okAt (lifeWrite s target (memRead (boxOf s m).params 32 32)) m []

def execLifecycleSet (mb : Fin 16) (seq : Byte) (irq : Bool) (now : Nat) (s : State) : Host.Outcome State Fault Refusal :=
  plainRow 0x18 mb seq irq now s fun t => lifecycleSet t mb

/-- Table 15-8. -/
def statement (s : State) (nonce : List Byte) (i : Nat) (meterOk : Bool) : List Byte :=
  let meter := fun (n : Nat) (b : List Byte) => if meterOk then (b ++ List.replicate n 0).take n else List.replicate n 0
  leBytes 4 0x54415844 ++ leBytes 2 1 ++ leBytes 1 (lifecycle s.boot) ++ leBytes 1 (bit (!meterOk) + at_ (bit s.boot.recovered) 1)
    ++ leBytes 8 Config.serial.toNat ++ nonce ++ measurement s.boot.fw ++ leBytes 8 s.boot.features.toNat
    ++ leBytes 4 s.boot.qual.toNat ++ meter 4 (leBytes 4 (mtSeal s.meter)) ++ meter 32 Config.meterRomHash ++ meter 32 Config.meterPubkey
    ++ leBytes 8 s.control.cfgGen ++ leBytes 8 s.tide.now ++ leBytes 8 i ++ dieRevs s
    ++ (if s.boot.owned then (s.boot.owners.getLast?).getD (List.replicate 32 0) else List.replicate 32 0) ++ List.replicate 16 0

/-- R474: the index is reserved before it is used, and used once. -/
def takeIndex (b : Boot) : Boot :=
  let i := b.sigNext
  { b with sigRes := if b.sigRes ≤ i then i - i % 1024 + 1024 else b.sigRes, sigNext := i + 1 }

/-- The 5,605 bytes of a signature. -/
def signature (i : Nat) (msg : List Byte) : List Byte := (Config.xmssSign i msg ++ List.replicate 5605 0).take 5605

/-- The public key of R476: its OID, the root and PUB_SEED. -/
def publicKey : List Byte := leBytes 4 Config.xmssOid.toNat ++ leBytes 32 Config.xmssRoot.toNat ++ leBytes 32 Config.xmssPubSeed.toNat

/-- R475, R476. -/
def attest (s : State) (m : Nat) (meterOk : Bool) : Answer :=
  let part := param s m 32 1
  match part, s.boot.lastSig with
  | 0, _ =>
    if 2 ^ 40 ≤ s.boot.sigNext then .refuse stKey 0
    else
      let i := s.boot.sigNext
      let st := statement s (memRead (boxOf s m).params 0 32) i meterOk
      let sig := signature i st
      okAt { s with boot := { takeIndex s.boot with lastSig := some (i, sig) } } m (st ++ sig.take 1664)
  | 1, some (i, sig) => okAt s m (leBytes 8 i ++ (sig.drop 1664).take 2040)
  | 2, some (i, sig) => okAt s m (leBytes 8 i ++ (sig.drop 3704).take 1901)
  | 3, _ => okAt s m (publicKey ++ (Config.xmssCert ++ List.replicate 1980 0).take 1980)
  | _, _ => badParam 32

def execAttest (mb : Fin 16) (seq : Byte) (irq : Bool) (now : Nat) (meterOk : Bool) (s : State) : Host.Outcome State Fault Refusal :=
  plainRow 0x19 mb seq irq now s fun t => attest t mb meterOk

/-! Power states (R387, R392). -/

/-- While a transition is in progress. -/
def transitionBusy (s : State) : Option Answer :=
  if s.power.going.isSome then some (.refuse stBusy 0x50) else none

/-- A request for a state: an entry, or with 0 a wake. It ends when PWR_STATE reads the state. -/
def powerStateCmd (s : State) (m : Nat) : Answer :=
  let v := param s m 0 1
  let t := setPower s fun p => { p with mailbox := some m }
  if v = 0 then (if s.power.state = 0 then okAt (wakeUp s 4) m [] else .go (wakeUp t 4))
  else if v ≤ 3 && (s.power.state != 0 || armed s) then .refuse stRefused (stateDetail s)
  else if (v = 2 || v = 3) && s.memory.wipe != 0 then .refuse stWipe 0
  else if 3 < v then badParam 0
  else .go (setPower t fun p => { p with going := some v })

def execPowerState (mb : Fin 16) (seq : Byte) (irq : Bool) (now : Nat) (s : State) : Host.Outcome State Fault Refusal :=
  busyRow 0x50 mb seq irq now s (fun t => (transitionBusy t).orElse fun _ => queueFull t) fun t => powerStateCmd t mb

end Sys2Proof.Machine
end

