-- ==== Sys2Proof/Machine/JobCommands.lean ====
section
/-! DEFINITION. The job, tide and recovery commands (Table 14-10: R247, R260, R275, R276, R284–R286, R298, R346, R350, R357, R372, R374,
R376, R404, R434–R440), the identity exchange (R260, R375), diagnostic programs (R442). -/

namespace Sys2Proof.Machine

/-- Sessions that keep a job from being armed or started (R440): the opcode of an open one. -/
def stateSession (s : State) : Option Nat :=
  (List.range 8).findSome? fun k =>
    let x := sessionOf s k
    if x.state = 1 && x.kind = kindCheckpoint then some 0x93 else if x.state = 1 && x.kind = kindRestore then some 0x94 else none

def sessionBusy (s : State) : Option Answer := (stateSession s).map fun o => .refuse stBusy o

/-- A command takes the job to a state; HALT_CAUSE reads 0 outside HALTED. -/
def enterJob (s : State) (v : Nat) : State := setJob s fun j => { j with state := v, cause := 0 }

/-- From ARMED a job returns to LOADED before the command acts (Table 14-7a, R435). -/
def unarm (s : State) : State := if s.job.state = jobArmed then enterJob (unarmFlows s) jobLoaded else s

/-! JOB_LOAD and JOB_RELOAD (R356, R357, R439). -/

/-- The governor's settings of a POWER_PROFILE section. -/
def profile (d : List Byte) : List (Nat × Nat) := [(1, bNat d 0 2), (2, bNat d 2 2), (3, bNat d 4 2), (4, bNat d 6 2)]

/-- A region of the memory plan that names a digest region sets its bounds and enables it; without the feature there is none (log 102). -/
def planDigest (s : State) (g : Region) : State :=
  if g.digest < 16 && feature s featDigest then modDigest s g.digest fun d => { d with en := true, base := g.base, last := g.base + g.len } else s

/-- The schedule holds nothing of an earlier job. -/
def clearSchedule (s : State) : State := setTide s fun t => { t with pending := [], due := none, adopt := none }

/-- The ledger returns to STEP 0, idle (R369); REPLACED_SERIAL, DIVERGED and the digests of steps are dropped (R376, R379). -/
def freshCommit (c : Commit) : Commit :=
  { c with ledStep := 0, ledState := 0, replaced := 0, diverged := false, ownDigests := [], twinDigests := [] }

/-- An image b at `a` of n bytes is accepted (R357): tag and position, the arenas, programs and flow table of the variant, the registers
that the sections configure. A reshard that failed still shows after JOB_RELOAD, and so does a twin that diverged (R355, R379). -/
def acceptImage (s : State) (a n : Nat) (b : List Byte) (reload : Bool) : State :=
  let v := if reload then s.job.variant else 0
  let s := setJob s fun j => { j with
    state := jobLoaded, cause := 0, img := some (a, n), variant := v, rsState := if reload && j.rsState = 3 then 3 else 0
    rsFolded := false, rsPast := [], slotReady := 0, slotHi := 0, slotEnded := 0, adopted := false }
  let s := setTag s (bNat b 8 2) 1
  let s := freeArenas { s with straits := { s.straits with pos := bNat b 12 4 % 2 ^ 20 } }
  let s := writeBars (writeFlows (loadPrograms s v) v fLoaded)
  let s := (planRegions (sectionOf b secPlan 0)).foldl planDigest s
  let s := clearSchedule (govAll s (profile (sectionOf b secPower 0)) 1)
  { s with
    reduction := { s.reduction with usesStep := useCount s }
    commit := if reload then s.commit else freshCommit s.commit }

/-- The loaded image's bytes. -/
def loadedImage (s : State) : List Byte := match s.job.img with | some i => peek s i.1 i.2 | none => []

/-- R357, R439: the checks, then the image takes effect. The whole image is read once. -/
def jobLoad (s : State) (m : Nat) (reload : Bool) : Answer :=
  let a := param s m 0 8
  let n := param s m 8 8
  if a % 4096 != 0 || !inMem a n then badParam 0
  else if n != peekNat s (a + 16) 8 then badParam 8
  else
    let (t, b) := readRange s a n (supReader s)
    let fault := (imageDetail s.boot.features b a).orElse fun _ =>
      if reload then reloadDetail (loadedImage s) b s.job.variant else none
    match fault with
    | some d => .go (finish t m stBadParam d [])
    | none => .go (finishAs (acceptImage t a n b reload) m stOk 0 ((b.drop 32).take 32 ++ leBytes 2 (bNat b 8 2)) (bNat b 32 8))

def execJobLoad (mb : Fin 16) (seq : Byte) (irq : Bool) (now : Nat) (s : State) : Host.Outcome State Fault Refusal :=
  busyRow 0x30 mb seq irq now s queueFull fun t => jobLoad t mb false

def execJobReload (mb : Fin 16) (seq : Byte) (irq : Bool) (now : Nat) (s : State) : Host.Outcome State Fault Refusal :=
  busyRow 0x31 mb seq irq now s queueFull fun t => jobLoad t mb true

/-! Arming (R247, R260, R374–R376). -/

/-- The ports with role LINK, TREE_PARENT or TREE_CHILD. -/
def linkedPorts (s : State) : List Nat := (List.range 8).filter fun p => roleLinked (portRole s p)

/-- A bitmap over ports. -/
def portBits (ps : List Nat) : Nat := ps.foldl (fun x p => x + 2 ^ p) 0

/-- A port has passed R260. -/
def identPassed (s : State) (p : Nat) : Bool := portUp s p && (portOf s p).identOk

/-- A source or transit context that names a port whose role is UNUSED or EDGE (R247). -/
def badOutPort (s : State) (d : Line) : Bool :=
  cState d != fFree && cRole d ≤ 1 && !cNoPort d && !roleLinked (portRole s (cPort d))

/-- MB_DETAIL of such a context: its OUT_PORT in the flow table of the variant in force. -/
def outPortDetail (s : State) (f : Nat) : Nat :=
  match s.job.img with
  | none => 0
  | some i =>
    let es := directory s i.1
    match (flowTable s s.job.variant).findIdx? fun e => e.1 = f with
    | none => 0
    | some k => faultDetail (1 + es.findIdx fun e => e.typ = secFlows && e.variant = s.job.variant) (64 + 80 * k + 18)

/-- The identity exchange has passed on every linked port, or there is none: the contexts are armed and the job is ARMED (R247, R319,
R374, R379). REPLACED_SERIAL is that of a SPARE_ADOPT (R376). -/
def armDone (s : State) (a : Arming) : State :=
  let s := armFlows (freeArenas s)
  let s := enterJob s jobArmed
  let s := { s with
    job := { s.job with arming := none, adopted := a.spare, rsPast := [], rsState := if s.job.rsState = 3 then 0 else s.job.rsState }
    reduction := { s.reduction with stopped := false, uses := [] }
    bars := { s.bars with releases := [] }
    tide := { s.tide with due := none, joinRef := none, uses := [], counts := [], noRoom := [] }
    commit := { s.commit with diverged := false, armFaults := 0, replaced := if a.spare then a.serial else s.commit.replaced } }
  finish s a.mb stOk 0 (leBytes 1 (portBits (linkedPorts s)))

/-- An arming ends as soon as every linked port has passed. -/
def tryArm (s : State) : State :=
  match s.job.arming with
  | none => s
  | some a => if (linkedPorts s).all (identPassed s) then armDone s a else s

/-- The ports to which the job gives a role. -/
def rolePorts (s : State) : List Nat := (List.range 8).filter fun p => portRole s p != 0

/-- A port of the job that is down begins to train (R236, R240). -/
def trainRole (s : State) (p : Nat) : State :=
  if straitsOn s && !portUp s p && (portOf s p).state != 1 then beginTraining s p else s

/-- An accepted JOB_ARM or SPARE_ADOPT begins: no port is held down any more by R240. -/
def beginArm (s : State) (a : Arming) : State :=
  let s := setJob s fun j => { j with arming := some a }
  let s := (List.range 8).foldl (fun s p => modPort s p fun k => { k with identOk := false, latched := false }) s
  tryArm ((rolePorts s).foldl trainRole s)

/-- R247, R275, R376: the refusals of JOB_ARM and SPARE_ADOPT, then its beginning. -/
def armCmd (s : State) (m : Nat) (spare : Bool) : Answer :=
  if spare && param s m 0 4 != s.straits.pos then badParam 0
  else if spare && param s m 4 2 != s.straits.jobTag then badParam 4
  else match s.straits.flows.find? fun f => badOutPort s f.2 with
    | some f => .refuse stBadParam (outPortDetail s f.1)
    | none =>
      if s.tide.state != tideLocked && s.tide.state != tideSource then .refuse stUnlocked 0
      else .go (beginArm s ⟨m, spare, s.tide.now, if spare then BitVec.ofNat 64 (param s m 8 8) else 0⟩)

def execJobArm (mb : Fin 16) (seq : Byte) (irq : Bool) (now : Nat) (s : State) : Host.Outcome State Fault Refusal :=
  busyRow 0x32 mb seq irq now s sessionBusy fun t => armCmd t mb false

def execSpareAdopt (mb : Fin 16) (seq : Byte) (irq : Bool) (now : Nat) (s : State) : Host.Outcome State Fault Refusal :=
  busyRow 0x36 mb seq irq now s sessionBusy fun t => armCmd t mb true

/-- The role that mirrors a role (R260). -/
def mirrorRole (r : Nat) : Nat := if r = 3 then 4 else if r = 4 then 3 else r

/-- R260: an IDENT meets the conditions of port p. -/
def identMatches (s : State) (p : Nat) (f : Frame) : Bool :=
  f.jobTag.toNat = s.straits.jobTag && bNat f.body 8 4 = peerCoord s p && bNat f.body 12 1 = peerPort s p
    && bNat f.body 13 1 = mirrorRole (portRole s p)

/-- PORT_PEER_p takes what an IDENT says (R260, R375). -/
def recordPeer (s : State) (p : Nat) (f : Frame) : State :=
  modPort s p fun k => { k with
    peerSn := BitVec.ofNat 64 (bNat f.body 0 8)
    peerPos := reg (bNat f.body 8 4 % 2 ^ 20 + at_ (bNat f.body 12 1 % 8) 20 + at_ (bNat f.body 13 1 % 8) 24 + at_ 1 31)
    identOk := k.identOk || (s.job.arming.isSome && identMatches s p f) }

/-- R260: on UNUSED and EDGE ports an IDENT is ignored. -/
def execIdent (p : Fin 8) (f : Frame) (s : State) : Host.Outcome State Fault Refusal :=
  portRow s p 8 f fun s => .next (if roleLinked (portRole s p) && (armed s || s.job.arming.isSome) then tryArm (recordPeer s p f) else s)

/-- The body of an IDENT (R260). -/
def identBody (s : State) (p : Nat) : List Byte :=
  leBytes 8 Config.serial.toNat ++ leBytes 4 s.straits.pos ++ leBytes 1 p ++ leBytes 1 (portRole s p)

/-- R260, R375: every 1 ms while the job is being armed or is armed. -/
def execIdentSend (now : Nat) (s : State) : Host.Outcome State Fault Refusal :=
  let t := atTide s now
  when (alive s && (armed s || s.job.arming.isSome)) s
    (((linkedPorts t).filter (portUp t)).foldl
      (fun u p => sendOut u p (ctlFrame t 8 t.straits.jobTag 0 0 (identBody t p))) t)

/-- R260, R376: the identity window has ended, 20 ms or for a SPARE_ADOPT 10 s after the last port has trained. -/
def execIdentCheckTimeout (now : Nat) (s : State) : Host.Outcome State Fault Refusal :=
  let t := atTide s now
  match s.job.arming with
  | none => .next s
  | some a =>
    let training := (linkedPorts s).any fun p => (portOf s p).state = 1
    let failed := (linkedPorts s).filter fun p => !identPassed s p
    when (alive s && !training && decide (a.since + (if a.spare then 10000000000 else 20000000) ≤ t.tide.now)) s
      (finish (setJob t fun j => { j with arming := none }) a.mb stTopology (portBits failed) [])

/-! JOB_START and JOB_HALT (R404, R436, R437). -/

/-- R of R404 for a start at T_s0. -/
def rampStartOf (s : State) (start : Nat) : Int :=
  let d := match section_ s secPower 0 with | some (a, _) => peek s a 64 | none => []
  (start : Int) - bNat d 16 8 + staggerOf d s.straits.pos

/-- A job is started at step s0, T_s0 and tempo q. -/
def startJob (s : State) (s0 start q : Nat) : State :=
  let s := enterJob (startCores s s0) jobRunning
  { s with
    job := { s.job with slotEnded := max s.job.slotEnded (s0 - 1), rsPast := [] }
    tide := { s.tide with
      s0 := s0, due := some (s0, start, q), joinRef := none, step := s0 - 1, running := false, frames := [], lastDone := none, adopt := none
      pending := s.tide.pending.filter fun a => decide (s0 < a.step) }
    commit := { s.commit with
      faults := firstFaults s s0, armFaults := 0, evals := [], doneTide := [], lateAt := [], evalNext := s0, runFrom := s0
      ownDigests := s.commit.ownDigests.filter fun x => decide (x.1 < s0)
      twinDigests := s.commit.twinDigests.filter fun x => decide (x.1 < s0) }
    power := { s.power with ramp := none, rampAt := some (max (rampStartOf s start).toNat s.tide.now) } }

def jobStart (s : State) (m : Nat) : Answer :=
  let s0 := param s m 0 8
  let start := param s m 8 8
  let q := param s m 16 2
  if start < s.tide.now + 1000000 then badParam 8
  else if q != 0 && outside 4096 16384 q then badParam 16
  else
    let r := rampStartOf s start
    let t := startJob s s0 start (if q = 0 then tempoStart s else q)
    if 0 ≤ r then okAt t m (leBytes 8 r.toNat) else okAt (useFree t) m (leBytes 8 (freeNat t))

def execJobStart (mb : Fin 16) (seq : Byte) (irq : Bool) (now : Nat) (s : State) : Host.Outcome State Fault Refusal :=
  busyRow 0x33 mb seq irq now s sessionBusy fun t => jobStart t mb

/-- A boundary lies between a reshard's and its end (R436). -/
def meetsReshard (s : State) (b : Nat) : Bool :=
  match reshardAt s with
  | some r => decide (r ≤ b) && decide (b ≤ r + reshardFrames s)
  | none => false

def jobHalt (s : State) (m : Nat) : Answer :=
  let b := param s m 0 8
  if meetsReshard s b then .refuse stRefused (stateDetail s)
  else if (b : Int) < earliestBoundary s then badParam 0
  else okAt (setJob (enterJob s jobHalting) fun j => { j with haltAt := b }) m []

def execJobHalt (mb : Fin 16) (seq : Byte) (irq : Bool) (now : Nat) (s : State) : Host.Outcome State Fault Refusal :=
  plainRow 0x34 mb seq irq now s fun t => jobHalt t mb

/-! JOB_RELEASE (R440). -/

def releaseJob (s : State) : State :=
  let s := (List.range 576).foldl (fun s c => if (coreOf s c).mode = .wiping then s else wipeCore s c) s
  let cores : Tbl Core := s.cores.map fun c => (c.1, { c.2 with program := false, start := 0 })
  let s := setTag (freeFlows { s with cores := cores }) 0 1
  let s := setJob (enterJob s jobEmpty) fun j => { j with img := none }
  setTide (clearSchedule s) fun t => { t with curQ := 0 }

/-- Its new tag 0 is a change that needs a notice (R410). -/
def releaseBusy (s : State) : Option Answer := if s.straits.jobTag = 0 then none else queueFull s

def execJobRelease (mb : Fin 16) (seq : Byte) (irq : Bool) (now : Nat) (s : State) : Host.Outcome State Fault Refusal :=
  busyRow 0x35 mb seq irq now s releaseBusy fun t => okAt (releaseJob t) mb []

/-! RESHARD (R318, R350). -/

def reshardCmd (s : State) (m : Nat) : Answer :=
  let p := param s m 0 1
  let drain := (param s m 1 1).testBit 0
  let b := param s m 8 8
  if (reshardAt s).isSome || decide ((b : Int) < earliestBoundary s) then .refuse stRefused (stateDetail s)
  else if secNat s secReshard 0 1 ≤ p then badParam 0
  else if !drain && bucketOpen s then .refuse stBusyEpoch 0
  else okAt (setJob s fun j => { j with
    rsState := 1, rsDrain := drain, rsPlan := p, rsAt := b, rsLeft := planNat s p 1 1, rsFolded := false }) m []

def execReshard (mb : Fin 16) (seq : Byte) (irq : Bool) (now : Nat) (s : State) : Host.Outcome State Fault Refusal :=
  plainRow 0x37 mb seq irq now s fun t => reshardCmd t mb

/-! COMMIT_RESUME (R364, R369, R372). -/

/-- Sub-shards whose mark line from line `lo` on holds DONE = n. -/
def markedShards (s : State) (lo n : Nat) : List Nat := (List.range (subShards s)).filter fun k => markDone s (lo + k) n

def setMarks (t : Tbl Bool) (ks : List Nat) : Tbl Bool := ks.foldl (fun t k => tblSet false t k true) t

/-- The ledger of a resumed step: a new step, or another outcome, begins as by R369; then the marks set their bits. -/
def resumeLedger (s : State) (n outcome : Nat) : State :=
  let c := s.commit
  let st := if outcome = 1 then 1 else 3
  let fresh := !(c.ledStep = n && c.ledState = st)
  let own := if fresh && outcome = 1 then [] else c.own
  let mirror := if fresh && outcome = 1 then [] else c.mirror
  settleLedger { s with commit := { c with
    ledStep := n, ledState := st
    own := setMarks own (markedShards s 0 n)
    mirror := if polMirror s then setMarks mirror (markedShards s (subShards s) n) else mirror } }

/-- Every core that holds a program is started at RESUME_ENTRY. -/
def resumeCores (s : State) : State :=
  let pc := secNat s secCommit 12 2 % 32768
  { s with cores := s.cores.map fun c => (c.1, if c.2.program then startAt c.2 pc .none s.tide.now else c.2) }

/-- A COMMIT_RESUME may name step n. -/
def resumable (c : Commit) (n : Nat) : Bool :=
  (n = c.ledStep + 1 && (c.ledState = 0 || c.ledState = 2 || c.ledState = 4))
    || (n = c.ledStep && (c.ledState = 1 || c.ledState = 3))

def commitResume (s : State) (m : Nat) : Answer :=
  let n := param s m 0 8
  if !resumable s.commit n then badParam 0
  else
    let (t, pw) := readRange (unarm s) (secNat s secCommit 32 8) 8 (supReader s)
    let o := if leNat pw ≤ secNat s secCommit 24 8 then 1 else 2
    let t := resumeCores (writeVerdict (resumeLedger t n o) n o)
    okAt { t with commit := { t.commit with resume := some m } } m
      (leBytes 1 o ++ List.replicate 3 0 ++ leBytes 4 (markedShards s 0 n).length)

def execCommitResume (mb : Fin 16) (seq : Byte) (irq : Bool) (now : Nat) (s : State) : Host.Outcome State Fault Refusal :=
  plainRow 0x38 mb seq irq now s fun t => commitResume t mb

/-! TIDE_ROLE and TEMPO_SET (R276, R284, R286). -/

/-- The package enters FREE. -/
def enterFree (s : State) : State :=
  let was := s.tide.parent < 8 || s.tide.state = tideSource
  let s := setTide s fun t => { t with
    state := tideFree, locked := false, parent := 8, depth := 0xFF, srcRank := 7, inBound := none, podQ := 0, mayStep := false }
  if was then setTideEvent s evSourceChange else s

/-- POD_ID and RANK take values (R276). With the internal oscillator alone the tide stays as it is (R457). -/
def takeRole (s : State) (pod rank : Nat) : State :=
  let s := setTide s fun t => { t with podId := pod, rank := rank, roleAt := t.now }
  if s.boot.clkMode = 3 then s
  else if pod = 0 then enterFree s
  else if rank = 0 then (if s.tide.state = tideSource then setTide s fun t => { t with srcRank := 0 } else enterSource s)
  else if s.tide.state = tideSource then enterHoldover s
  else s

/-- While a job is armed: a repeat, or a rank changed between 1 to 4 and 7. -/
def rankMoves (rank : Nat) : Bool := (1 ≤ rank && rank ≤ 4) || rank = 7

def tideRole (s : State) (m : Nat) : Answer :=
  let pod := param s m 0 2
  let rank := param s m 2 1
  let t := s.tide
  if armed s && pod = t.podId && rank = t.rank then okAt s m []
  else if armed s && !(pod = t.podId && rankMoves rank && rankMoves t.rank) then .refuse stRefused (stateDetail s)
  else if rank != 0 && !rankMoves rank then badParam 2
  else okAt (takeRole s pod rank) m []

def execTideRole (mb : Fin 16) (seq : Byte) (irq : Bool) (now : Nat) (s : State) : Host.Outcome State Fault Refusal :=
  plainRow 0x40 mb seq irq now s fun t => tideRole t mb

/-- R286. -/
def tempoBusy (s : State) : Option Answer := if 4 ≤ s.tide.pending.length then some (.refuse stBusy 0x41) else none

def tempoSet (s : State) (m : Nat) : Answer :=
  let q := param s m 0 2
  if s.tide.state != tideSource then .refuse stRefused (stateDetail s)
  else if outside 4096 16384 q then badParam 0
  else okAt (announce s q) m (leBytes 8 (announceBoundary s))

def execTempoSet (mb : Fin 16) (seq : Byte) (irq : Bool) (now : Nat) (s : State) : Host.Outcome State Fault Refusal :=
  busyRow 0x41 mb seq irq now s tempoBusy fun t => tempoSet t mb

/-! DIAG_PROGRAM (R442). -/

/-- A core takes a diagnostic program and runs it with the tide at acceptance as its frame reference. -/
def diagCore (s : State) (p : Program) : State :=
  if (coreOf s p.core).mode = .wiping then s
  else modCore (storeProgram s p) p.core fun k => { k with
    mode := .running, wait := .none, held := [], pc := p.start, runs := .diag, program := false, frameT := s.tide.now, frameQ := 4096
    changed := s.tide.now }

def diagProgram (s : State) (m : Nat) : Answer :=
  let a := param s m 0 8
  let n := param s m 8 8
  if !inMem a n then badParam 0
  else
    let (t, b) := readRange s a n (supReader s)
    if b.length < 64 || b.length < layoutLen secPrograms b then .go (finish t m stBadParam 8 [])
    else match programsFault b with
      | some o => .go (finish t m stBadParam o [])
      | none => okAt ((programsAt t a).foldl diagCore t) m []

def execDiagProgram (mb : Fin 16) (seq : Byte) (irq : Bool) (now : Nat) (s : State) : Host.Outcome State Fault Refusal :=
  plainRow 0x82 mb seq irq now s fun t => diagProgram t mb

end Sys2Proof.Machine
end

