-- ==== Sys2Proof/Machine/HarbourCommands.lean ====
section
/-! DEFINITION. The harbour and checkpoint commands (R381, R382, R443, Table 14-11, Table 12-7). -/

namespace Sys2Proof.Machine

/-- The opcode that opened a session. -/
def sessionOpcode (kind : Nat) : Nat := if kind = kindCheckpoint then 0x93 else if kind = kindRestore then 0x94 else 0x91

def anySession (s : State) : Option Answer :=
  ((List.range 8).find? fun k => (sessionOf s k).state = 1).map fun k => .refuse stBusy (sessionOpcode (sessionOf s k).kind)

/-- R261, R443: address, VLAN (a VLAN outside Table 14-11 is reserved) and UDP port. -/
def harbourConfig (s : State) (m : Nat) : Answer :=
  let v := param s m 16 2
  if outside 1 4094 v && v != 0xFFFF then badParam 16
  else okAt { s with straits := { s.straits with ip := BitVec.ofNat 128 (param s m 0 16), vlan := v, udp := param s m 18 2 } } m []

def execHarbourConfig (mb : Fin 16) (seq : Byte) (irq : Bool) (now : Nat) (s : State) : Host.Outcome State Fault Refusal :=
  busyRow 0x90 mb seq irq now s anySession fun t => harbourConfig t mb

/-! Opening a session. -/

/-- A slot for a new session: a free one, else one whose session is over. -/
def freeSlot (s : State) : Option Nat :=
  ((List.range 8).find? fun k => (sessionOf s k).state = 0).orElse fun _ => (List.range 8).find? fun k => (sessionOf s k).state != 1

/-- BUSY's detail is the opcode of a session that blocks: where all slots are taken, the one in the lowest (log 38). -/
def slotHolder (s : State) : Nat := sessionOpcode (sessionOf s 0).kind

def noSlot (s : State) : Option Answer := if (freeSlot s).isSome then none else some (.refuse stBusy (slotHolder s))

/-- Range record i of the parameters. -/
def rangeParam (s : State) (m i : Nat) : SRange :=
  let o := 64 + 24 * i
  ⟨param s m o 8, param s m (o + 8) 8, sgn 64 (param s m (o + 16) 8)⟩

/-- What SESSION_OPEN, CHECKPOINT and RESTORE share: the first field that is refused. -/
def sessionFault (s : State) (m kind : Nat) : Option Nat :=
  let sid := param s m 0 4
  firstOf [failAt (sid = 0 || (findSession s (sendingKind kind) sid).isSome) 0,
    failAt (outside 1 4 kind && kind != kindCheckpoint && kind != kindRestore) 4, failAt (outside 1 1024 (param s m 6 2)) 6]

/-- The ranges of a SESSION_OPEN. -/
def rangesFault (s : State) (m : Nat) : Option Nat :=
  firstOf [failAt (48 < param s m 26 2) 26,
    firstUpTo (param s m 26 2) fun i => failAt (!inMem (rangeParam s m i).addr (rangeParam s m i).len) (64 + 24 * i)]

/-- A session as its command gives it. -/
def newSession (s : State) (m kind : Nat) (ranges : List SRange) (manifest : List Byte) : Session :=
  let sending := sendingKind kind
  { sessionFree with
    state := 1, kind := kind, sid := param s m 0 4, window := param s m 6 2, limit := param s m 6 2
    peer := if sending then BitVec.ofNat 128 (param s m 8 16) else 0, peerPort := if sending then param s m 24 2 else 0
    ranges := ranges, todo := if sending then ranges.filter fun r => r.len != 0 else [], manifest := manifest
    total := (ranges.map (·.len)).foldl (· + ·) 0 }

/-- The session is opened in slot k, and sends what it may. -/
def openSession (s : State) (m k : Nat) (x : Session) : Answer :=
  okAt (pumpSession (modSession s k fun _ => x) k) m (leBytes 3 k)

def inSlot (s : State) (m : Nat) (x : Session) : Answer :=
  match freeSlot s with
  | some k => openSession s m k x
  | none => .refuse stBusy (slotHolder s)

/-- R443. -/
def sessionOpen (s : State) (m : Nat) : Answer :=
  let kind := param s m 4 1
  let bulk := kind = kindReceive || kind = kindSend
  match (sessionFault s m (if kind ≤ 4 then kind else 0)).orElse fun _ => rangesFault s m with
  | some o => badParam o
  | none => inSlot s m (newSession s m kind (if bulk then (List.range (param s m 26 2)).map (rangeParam s m) else []) [])

def execSessionOpen (mb : Fin 16) (seq : Byte) (irq : Bool) (now : Nat) (s : State) : Host.Outcome State Fault Refusal :=
  busyRow 0x91 mb seq irq now s noSlot fun t => sessionOpen t mb

/-- R443: a session is stopped at once and its slot freed. -/
def sessionClose (s : State) (m : Nat) : Answer :=
  let sid := param s m 0 4
  match (List.range 8).find? fun k => (sessionOf s k).state = 1 && (sessionOf s k).sid = sid with
  | none => badParam 0
  | some k => okAt (endSession s k 0 3) m []

def execSessionClose (mb : Fin 16) (seq : Byte) (irq : Bool) (now : Nat) (s : State) : Host.Outcome State Fault Refusal :=
  plainRow 0x92 mb seq irq now s fun t => sessionClose t mb

/-! CHECKPOINT and RESTORE. -/

/-- The JOB_STATE regions of the loaded image, with their numbers in the memory plan. -/
def stateRegions (s : State) : List (Nat × Region) :=
  ((List.range (secNat s secPlan 0 2)).map fun i => (i, regionAt s i)).filter fun r => r.2.jobState

/-- A region's record as the memory plan has it. -/
def planRecord (s : State) (i : Nat) : List Byte :=
  match section_ s secPlan 0 with
  | some (a, _) => peek s (a + 64 + 32 * i) 32
  | none => List.replicate 32 0

/-- STEP_DIGEST of the ledger's step; of a step whose digest is no longer held it is free (log 3). -/
def manifestDigest (s : State) : List Byte :=
  let d := tblGet [] s.commit.ownDigests s.commit.ledStep
  if s.commit.ledStep = 0 then List.replicate 32 0
  else if d.isEmpty then (List.range 4).flatMap fun i => leBytes 8 (Config.freeWord (s.freeCtr + i)).toNat else d

/-- Table 12-7. -/
def manifestOf (s : State) : List Byte :=
  let a := match s.job.img with | some i => i.1 | none => 0
  let rs := stateRegions s
  leBytes 4 0x50435844 ++ leBytes 2 1 ++ leBytes 2 rs.length ++ leBytes 2 (peekNat s (a + 8) 2) ++ leBytes 1 s.commit.ledState ++ [0]
    ++ leBytes 4 s.straits.pos ++ leBytes 8 s.commit.ledStep ++ leBytes 8 Config.serial.toNat ++ peek s (a + 32) 32 ++ manifestDigest s
    ++ leBytes 8 s.tide.now ++ List.replicate 24 0 ++ rs.flatMap fun r => planRecord s r.1

/-- R381: each region is sent from its own address. -/
def regionRanges (s : State) : List SRange := (stateRegions s).map fun r => ⟨r.2.base, r.2.len, 0⟩

/-- MB_DETAIL of a memory plan with too many JOB_STATE regions (R502). -/
def planDetail (s : State) : Nat :=
  match s.job.img with
  | none => 0
  | some i => faultDetail (1 + (directory s i.1).findIdx fun e => e.typ = secPlan) 0

/-- R381, R382: an armed job returns to LOADED first. -/
def stateSessionCmd (s : State) (m kind : Nat) : Answer :=
  if !ledgerSettled s then .refuse stRefused (stateDetail s)
  else match sessionFault s m kind with
    | some o => badParam o
    | none =>
      if kind = kindCheckpoint && decide (252 < (stateRegions s).length) then .refuse stBadParam (planDetail s)
      else
        let t := unarm s
        inSlot { t with freeCtr := t.freeCtr + 4 } m (newSession t m kind (regionRanges t) (if kind = kindCheckpoint then manifestOf t else []))

def execCheckpoint (mb : Fin 16) (seq : Byte) (irq : Bool) (now : Nat) (s : State) : Host.Outcome State Fault Refusal :=
  busyRow 0x93 mb seq irq now s noSlot fun t => stateSessionCmd t mb kindCheckpoint

def execRestore (mb : Fin 16) (seq : Byte) (irq : Bool) (now : Nat) (s : State) : Host.Outcome State Fault Refusal :=
  busyRow 0x94 mb seq irq now s noSlot fun t => stateSessionCmd t mb kindRestore

end Sys2Proof.Machine
end

