-- ==== Sys2Proof/Machine/Tap.lean ====
section
/-! DEFINITION. The test access port (15, R479, R480): the chain of TAPs, instruction registers, IDCODE, the data register path. -/

namespace Sys2Proof.Machine

/-- The dies of the chain from TDI to TDO, by die index (R37, R479). -/
def tapChain : List Nat :=
  [36, 0] ++ span 4 6 ++ [28, 29, 1] ++ span 10 6 ++ [30, 31, 3] ++ span 22 6 ++ [34, 35, 2] ++ span 16 6 ++ [32, 33, 37]

/-- Every die but a memory stack has a TAP of its own. -/
def hasTap (n : Nat) : Bool := Config.dieKind n != 1

/-- The length of a TAP's instruction register (R480). -/
def irBits (n : Nat) : Nat :=
  match Config.dieKind n with
  | 0 => 12
  | 2 => 8
  | 3 => 16
  | 4 => 4
  | _ => 0

/-- IDCODE of a die with a TAP (R480). -/
def idcode (n : Nat) : Reg :=
  let major := bitsOf (Config.dieRev n).toNat 8 8
  BitVec.ofNat 4 (major - 0x40) ++ BitVec.ofNat 16 (0x4020 + Config.dieKind n) ++ Config.jep106 ++ (1 : BitVec 1)

/-- What the instruction of a die's TAP acts as: on MT every one but IDCODE is BYPASS (R480); BUSACC is SV's, and an IEEE 1687 network is
reached through SV and the isles. -/
def tapActs (n : Nat) (i : TapInstr) : TapInstr :=
  if n = 37 then (if i = .idcode then .idcode else .bypass) else i

/-- The instruction that a TAP holds; after its own reset IDCODE, as IEEE 1149.1 has it (log 109). -/
def tapInstr (t : Taps) (n : Nat) : TapInstr := tapActs n (tblGet .idcode t.instr n)

/-- The six memory stacks behind an isle. -/
def isleStacks (i : Nat) : List Nat := span (4 + 6 * i) 6

/-- Bits of a stack's segment: its insertion bit, and with that bit set the wrapper register (R479). -/
def segmentBits (t : Taps) (n : Nat) : Nat := 1 + (if tblGet false t.inserted n then Config.wrapperBits n else 0)

/-- Bits that die n has in the data register path. -/
def drLength (t : Taps) (n : Nat) : Nat :=
  if !hasTap n then 0
  else match tapInstr t n with
    | .bypass => 1
    | .idcode => 32
    | .network => Config.drBits n 0 + (if n < 4 then ((isleStacks n).map (segmentBits t)).foldl (· + ·) 0 else 0)
    | .busacc => Config.drBits n 1
    | .other k => Config.drBits n (k + 2)

/-- The data register path from TDI to TDO. -/
def drPath (t : Taps) : Nat := (tapChain.map (drLength t)).foldl (· + ·) 0

/-- Every TAP takes an instruction, as a scan of the instruction registers leaves them. -/
def scanInstr (t : Taps) (f : Nat → TapInstr) : Taps :=
  { t with instr := (tapChain.filter hasTap).foldl (fun m n => tblSet .idcode m n (f n)) t.instr }

/-- BUSACC in SV, BYPASS in the other TAPs (R481). -/
def selectBusacc (s : State) : State := { s with tap := scanInstr s.tap fun n => if n = 36 then .busacc else .bypass }

end Sys2Proof.Machine
end

