-- ==== Sys2Proof/Machine/Access.lean ====
section
/-! DEFINITION. Host and JTAG accesses (14, R419–R423, R431, R448; 07, R206–R208, R230; 08, R265; 15, R481): writes of registers, mailboxes
and the memory window. -/

namespace Sys2Proof.Machine

/-! Free bytes: what a read finds that the spec leaves open (log 3). -/

def freeBytes (s : State) (n : Nat) : List Byte :=
  ((List.range 8).flatMap fun i => leBytes 8 (Config.freeWord (s.freeCtr + i)).toNat).take n

def useFree8 (s : State) : State := { s with freeCtr := s.freeCtr + 8 }

/-! Who writes: BAR0, or the JTAG access path (R8, R481). -/

inductive Writer where
  | bar0 | jtag
  deriving DecidableEq, Repr

def byJtag : Writer → Bool
  | .bar0 => false
  | .jtag => true

/-! Event registers and other bits that a write of 1 clears (R8, R67). -/

/-- A register's bits after the hardware update of the cycle and the write. -/
def w1c (old : Reg) (hw : Option Reg) (mask v : Reg) : Reg := (old ||| (hw.getD 0 &&& mask)) &&& ~~~(v &&& mask)

/-- SUP_EVENT takes a value; each bit that rises fires its vector. -/
def putSupEvent (s : State) (new : Reg) : State :=
  let old := s.control.supEvent
  let t := { s with control := { s.control with supEvent := new } }
  (List.range 7).foldl (fun t b => if new.getLsbD b && !old.getLsbD b then fire t (20 + b) else t) t

/-- The bits of CORE_ERR that have a name (Tables 2-12, 4-9, 5-10, 6-6); the others read 0 (R7). -/
def coreErrBits : Reg := 0x113F

/-- CORE_ERR takes a value; a bit that rises sets F1 (Table 2-11). -/
def putCoreErr (k : Core) (new : Reg) : Core :=
  { k with err := new, flags := if new &&& ~~~k.err = 0 then k.flags else k.flags ||| 2 }

/-- The write of a register of W1C bits; none for a register that has none. -/
def eventWrite (s : State) (off : Nat) (v : Reg) (hw : Option Reg) : Option State :=
  if off = 0x10020 then some (putSupEvent s (w1c s.control.supEvent hw 0x7F v))
  else if off = 0x40300 then
    let n := w1c s.isth.event hw 0xFF v
    some (fireOnRise { s with isth := { s.isth with event := n } } 16 s.isth.event n)
  else if off = 0x6E000 then
    let n := w1c (reg (redStat s.reduction)) hw 3 v
    some { s with reduction := { s.reduction with abandoned := n.getLsbD 0, earlyRel := n.getLsbD 1 } }
  else if 0x6E100 ≤ off ∧ off < 0x6E160 then
    let i := (off - 0x6E100) / 4
    let n := w1c (if tblGet false s.memory.parkFull i then 0x80000000 else 0) hw 0x80000000 v
    some { s with memory := { s.memory with parkFull := tblSet false s.memory.parkFull i (n.getLsbD 31) } }
  else if off = 0x70808 then
    let n := w1c s.straits.event hw 0xFFFFFF v
    some (fireOnRise { s with straits := { s.straits with event := n } } 17 s.straits.event n)
  else if off = 0x80030 then
    let n := w1c s.tide.event hw 0x1FF v
    some (fireOnRise { s with tide := { s.tide with event := n } } 18 s.tide.event n)
  else if off = 0x90000 then
    let n := w1c (if s.commit.lateRelease then 0x200000 else 0) hw 0x200000 v
    some { s with commit := { s.commit with lateRelease := n.getLsbD 21 } }
  else if off = 0x90020 then
    let n := w1c (if s.commit.missing then 0x40000000 else 0) hw 0x40000000 v
    some { s with commit := { s.commit with missing := n.getLsbD 30 } }
  else if off = 0xA0000 then
    some (setPower s fun p => { p with wakeCause := (w1c (reg p.wakeCause) hw 0x3F v).toNat })
  else if off = 0xA001C then
    let n := w1c s.power.stat hw 0xF v
    some (fireOnRise (setPower s fun p => { p with stat := n }) 19 (s.power.stat &&& 0xF) (n &&& 0xF))
  else if inCoreBlock off ∧ off % 0x1000 = 4 then
    some (modCore s (blockCore off) fun k => putCoreErr k (w1c k.err hw coreErrBits v))
  else none

/-! RW registers (R448). -/

/-- Bounds of a digest region: ignored while it is enabled (R227). -/
def putBound (d : Digest) (o v : Nat) : Digest :=
  if d.en then d
  else if o = 8 then { d with base := d.base / 2 ^ 32 * 2 ^ 32 + v / 4096 * 4096 }
  else if o = 0xC then { d with base := d.base % 2 ^ 32 + v % 65536 * 2 ^ 32 }
  else if o = 0x10 then { d with last := d.last / 2 ^ 32 * 2 ^ 32 + v / 4096 * 4096 }
  else { d with last := d.last % 2 ^ 32 + v % 65536 * 2 ^ 32 }

/-- A write of CORE_FLAGS.FW acts on each of F3 to F7 as FLAG_SET or FLAG_CLEAR; a flag that the hardware sets in the same cycle reads 1
(R67). -/
def putFlags (k : Core) (v : Reg) (hw : Option Reg) : Core :=
  let up := bitsOf v.toNat 3 5
  let k := flagsPut (flagsPut k (31 - up) false) up true
  { k with flags := k.flags ||| (hw.getD 0).setWidth 8 }

/-- The write of an RW register whose writes raise CFG_GEN and have no rule of their own for that; none for another register. -/
def rwWrite (s : State) (off : Nat) (v : Reg) (hw : Option Reg) : Option State :=
  let x := v.toNat
  if off = 0x51000 then some { s with memory := { s.memory with hours := x % 256 } }
  else if 0x52000 ≤ off ∧ off < 0x52400 ∧ feature s featDigest = true then
    let r := (off - 0x52000) / 64
    let o := off % 64
    if o = 0 then some (digestCtrl s r v) else if 8 ≤ o ∧ o ≤ 0x14 then some (modDigest s r fun d => putBound d o x) else none
  else if 0x70000 ≤ off ∧ off < 0x70800 ∧ off % 256 = 0x1C then
    some (modPort s ((off - 0x70000) / 256) fun k => { k with ackTmo := x % 65536 })
  else if off = 0xA0004 then some (setPower s fun p => { p with pol := bitsOf x 8 4, en := bitsOf x 4 4, isleKeep := x.testBit 0 })
  else if off = 0xB0070 then some { s with boot := { s.boot with wdogUs := x % 2 ^ 24 } }
  else if inCoreBlock off ∧ off % 0x1000 = 8 then some (modCore s (blockCore off) fun k => putFlags k v hw)
  else none

/-- Blocks whose dies hold no clock in Ebb and Dry: a write is discarded there, and the rise of CFG_GEN comes all the same (log 23). -/
def darkBlock (s : State) (off : Nat) : Bool := islesDark s && ((0x50000 ≤ off && off < 0x70000) || inCoreBlock off)

/-! MSI-X (R431). -/

/-- A vector is unmasked; a pending message is sent. -/
def unmask (s : State) (v : Nat) : State :=
  let bit : Reg := 1#32 <<< v
  let t := { s with control := { s.control with masks := s.control.masks &&& ~~~bit, pba := s.control.pba &&& ~~~bit } }
  if s.control.pba.getLsbD v then emit t (.msix v) else t

/-- A word of the MSI-X table. -/
def msixWrite (s : State) (o : Nat) (v : Reg) : State :=
  if o % 16 = 12 then
    (if v.getLsbD 0 then { s with control := { s.control with masks := s.control.masks ||| (1#32 <<< (o / 16)) } }
     else if s.control.masks.getLsbD (o / 16) then unmask s (o / 16) else s)
  else { s with control := { s.control with msix := memWrite s.control.msix o (leBytes 4 v.toNat) } }

/-- A 32-bit write of a register that is no mailbox. Registers without a field to write discard it (R419). -/
def writeWord (s : State) (w : Writer) (off : Nat) (v : Reg) (hw : Option Reg) : State :=
  let old := bar0Read s off
  let x := v.toNat
  match eventWrite s off v hw with
  | some t => if darkBlock s off then s else t
  | none => match rwWrite s off v hw with
    | some t => cfgWrite (if darkBlock s off then s else t) (byJtag w) off old
    | none =>
      if off = 0x10010 then
        { s with control := { s.control with memwin := s.control.memwin / 2 ^ 32 * 2 ^ 32 + x / 2 ^ 22 * 2 ^ 22 } }
      else if off = 0x10014 then { s with control := { s.control with memwin := s.control.memwin % 2 ^ 32 + x % 65536 * 2 ^ 32 } }
      else if 0x30000 ≤ off ∧ off < 0x30200 then msixWrite s (off - 0x30000) v
      else if off = 0x90110 then slotWrite s false v
      else if off = 0x90114 then slotWrite s true v
      else if off = 0xA0010 then govWrite s .cap v (byJtag w)
      else if off = 0xA0014 then govWrite s .slew v (byJtag w)
      else if off = 0xA0018 then govWrite s .floor v (byJtag w)
      else if off = 0xB0044 then
        bootCtrl (cfgRise s ⟨if byJtag w then 3 else 2, 0xFF, 0, off, old + 2 ^ 32 * (x % 2 ^ 23)⟩) (x % 2 ^ 23) (v.getLsbD 31)
      else s

/-! Mailboxes (R423, R425, Table 14-3). -/

/-- The command that a word of MB_CMD issues. Whether the flash takes an image and whether the meter answers is free here (log 3). -/
def issue (s : State) (mb : Fin 16) (word now : Nat) : Host.Outcome State Fault Refusal :=
  let op := bitsOf word 0 16
  let seq : Byte := BitVec.ofNat 8 (bitsOf word 16 8)
  let irq := word.testBit 24
  let free := freeNat s % 2 = 1
  match op with
  | 0x01 => execIdentify mb seq irq now s
  | 0x02 => execStatus mb seq irq now s
  | 0x10 => execFwUpdate mb seq irq now free (useFree s)
  | 0x18 => execLifecycleSet mb seq irq now s
  | 0x19 => execAttest mb seq irq now free (useFree s)
  | 0x30 => execJobLoad mb seq irq now s
  | 0x31 => execJobReload mb seq irq now s
  | 0x32 => execJobArm mb seq irq now s
  | 0x33 => execJobStart mb seq irq now s
  | 0x34 => execJobHalt mb seq irq now s
  | 0x35 => execJobRelease mb seq irq now s
  | 0x36 => execSpareAdopt mb seq irq now s
  | 0x37 => execReshard mb seq irq now s
  | 0x38 => execCommitResume mb seq irq now s
  | 0x40 => execTideRole mb seq irq now s
  | 0x41 => execTempoSet mb seq irq now s
  | 0x50 => execPowerState mb seq irq now s
  | 0x51 => execGovSet mb seq irq now s
  | 0x52 => execTelemetrySet mb seq irq now s
  | 0x60 => execMeterRead mb seq irq now s
  | 0x70 => execResetCause mb seq irq now s
  | 0x71 => execTelemetry mb seq irq now s
  | 0x72 => execRampToFloor mb seq irq now s
  | 0x73 => execIsolateStraits mb seq irq now s
  | 0x74 => execSystemReset mb seq irq now s
  | 0x75 => execThermalStatus mb seq irq now s
  | 0x76 => execWake mb seq irq now s
  | 0x80 => execDiagLanes mb seq irq now s
  | 0x81 => execDiagEcc mb seq irq now s
  | 0x82 => execDiagProgram mb seq irq now s
  | 0x83 => execCoreReset mb seq irq now s
  | 0x90 => execHarbourConfig mb seq irq now s
  | 0x91 => execSessionOpen mb seq irq now s
  | 0x92 => execSessionClose mb seq irq now s
  | 0x93 => execCheckpoint mb seq irq now s
  | 0x94 => execRestore mb seq irq now s
  | _ => execUnknownCommand mb (BitVec.ofNat 16 op) seq irq now s

/-- Bytes from offset o of a mailbox that lie in PARAMS. -/
def boxParams (b : Mailbox) (o : Nat) (bs : List Byte) : Mailbox :=
  let cut := 0x40 - o
  { b with params := memWrite b.params (o + cut - 0x40) ((bs.drop cut).take (0x800 - (o + cut))) }

/-- MB_CMD with the bytes of a write merged into it. -/
def mergedWord (b : Mailbox) (o : Nat) (bs : List Byte) : Nat :=
  leNat ((List.range 4).map fun i => if o ≤ i then bs.getD (i - o) (boxByte b i) else boxByte b i)

/-- A write of bytes within a mailbox: parameters are stored; a byte of MB_CMD issues the command that the word then spells. -/
def boxWrite (s : State) (m o : Nat) (bs : List Byte) (now : Nat) : Host.Outcome State Fault Refusal :=
  if (boxOf s m).state = 1 then undefinedCase .mailboxWrite s
  else
    let t := if o + bs.length ≤ 0x40 ∨ 0x800 ≤ o then s else modBox s m fun b => boxParams b o bs
    if o < 4 then issue t (Fin.ofNat 16 m) (mergedWord (boxOf s m) o bs) now else .next t

/-! Accesses of the BAR0 map below the aperture. -/

/-- The shapes of R419: 1 to 64 bytes within a mailbox; 4 or 8 bytes, naturally aligned, elsewhere. -/
def regShape (off n : Nat) : Bool :=
  if off < 0x10000 then 1 ≤ n && n ≤ 64 && off % 0x1000 + n ≤ 0x1000 else (n = 4 || n = 8) && off % n = 0

/-- A register write of R419; of an 8-byte one the hardware update falls on its first word. -/
def regWrite (s : State) (w : Writer) (off : Nat) (bs : List Byte) (hw : Option Reg) (now : Nat) : Host.Outcome State Fault Refusal :=
  if off < 0x10000 then boxWrite s (off / 0x1000) (off % 0x1000) bs now
  else
    let t := writeWord s w off (reg (leNat (bs.take 4))) hw
    .next (if bs.length = 8 then writeWord t w (off + 4) (reg (leNat (bs.drop 4))) none else t)

/-- A register read of R419: two words of an 8-byte one in ascending address. -/
def regRead (s : State) (off n : Nat) : State :=
  if off < 0x10000 then { s with rdata := (span (off % 0x1000) n).map (boxByte (boxOf s (off / 0x1000))) }
  else
    let t := readReg s off
    if n = 8 then { readReg t (off + 4) with rdata := t.rdata ++ (readReg t (off + 4)).rdata } else t

/-! The physical address space behind the memory window (Table 7-1). -/

def sramBase : Nat := 0x100000000000
def supBase : Nat := 0x120000000000

def inSram (p : Nat) : Bool := sramBase ≤ p && p < 0x100120000000
def inSup (p : Nat) : Bool := supBase ≤ p && p < supBase + 0x1000000
def inAccMap (p : Nat) : Bool := 0x110000000000 ≤ p && p < 0x11000C000000

/-- The shapes of R420 and R422: 4 to 64 bytes in whole aligned words of 4 bytes, within one 64-byte line (log 29); any bytes of a flow
context. -/
def winShape (p n : Nat) : Bool :=
  if inSup p && decide (supBase + 0x800000 ≤ p) && decide (p < supBase + 0x900000) then 1 ≤ n && decide (p % 64 + n ≤ 64)
  else 4 ≤ n && n % 4 = 0 && p % 4 = 0 && decide (p % 64 + n ≤ 64)

/-- The boot buffer is mapped in AWAIT_HOST and RECOVERY (R461). -/
def bufferOn (s : State) : Bool := s.boot.stat = 3 || s.boot.stat = 8

/-- What a byte of the supervisor window reads (Table 14-2, R461). -/
def supByte (s : State) (o : Nat) : Byte :=
  if o < 0x1000 then memGet s.control.saveList o
  else if 0x10000 ≤ o ∧ o < 0x12000 then memGet s.control.journal (o - 0x10000)
  else if 0x400000 ≤ o ∧ o < 0x800000 then (if bufferOn s then memGet s.boot.buffer (o - 0x400000) else 0)
  else if 0x800000 ≤ o ∧ o < 0x900000 then
    BitVec.ofNat 8 (fldB (flowOf s ((o - 0x800000) / 64)) (o % 64) 1)
  else 0

/-- Core SRAM windows are accepted once phase 1 of the wipe has ended (R230). -/
def sramAccepted (s : State) : Bool := s.memory.wipe = 0 || s.memory.sramDone

/-- A read of the physical address space by the host (R206–R208, R230, R44). A refused one, and one of a die that holds no clock,
finds free bytes (log 3). -/
def physRead (s : State) (p n : Nat) : State × List Byte :=
  if inMem p n then
    (if s.memory.wipe != 0 || !memOn s then (useFree8 s, freeBytes s n) else readRange s p n .host)
  else if inSram p then
    let c := (p - sramBase) / 0x800000
    let o := (p - sramBase) % 0x800000
    if 0x640000 ≤ o then (s, List.replicate n 0)
    else if !sramAccepted s || islesDark s then (useFree8 s, freeBytes s n)
    else (modCore s c fun k => sramTouch k o n, memRead (coreOf s c).sram o n)
  else if inAccMap p then
    (if s.memory.wipe != 0 || !memOn s then (useFree8 s, freeBytes s n) else readAcc s p n .host)
  else if inSup p then (s, (span (p - supBase) n).map (supByte s))
  else (s, List.replicate n 0)

/-! Flow contexts (R246, R265, R7). -/

/-- A context as a write leaves it: reserved bits read zero, reserved encodings of CAUSE and FRAME_SIZE take their power-on value. -/
def cleanContext (b : List Byte) : List Byte :=
  let f := fun (i : Nat) => b.getD i 0
  let at0 := fun (i : Nat) => if i = 0 ∨ i = 2 then f i &&& 0xF
    else if i = 1 then (if (f i).toNat ≤ 2 then f i else 0)
    else if i = 3 then (if (f i).toNat ≤ 5 then f i else 0)
    else if i = 10 ∨ i = 11 ∨ 52 ≤ i then 0 else f i
  (List.range 64).map at0

/-- A write of bytes of a context; credits that it writes are those that the context begins with (R252). -/
def flowPut (s : State) (o : Nat) (bs : List Byte) : State :=
  let i := o / 64
  let old := flowOf s i
  let d := lineOf (cleanContext (bPut (lineBytes old) (o % 64) bs))
  let t := setFlow s i d
  if cCredits d = cCredits old then t else modRt t i fun r => { r with initial := cCredits d, spent := 0 }

/-- The words of a write to the save list; their reserved bits read zero. -/
def cleanSave (bs : List Byte) : List Byte :=
  (bs.zip (List.range bs.length)).map fun (b, i) => if i % 4 = 3 then b &&& 0x80 else b

/-- What a write of the supervisor window writes (Table 14-2, R461). -/
def supStore (s : State) (o : Nat) (bs : List Byte) : State :=
  if o < 0x1000 then { s with control := { s.control with saveList := memWrite s.control.saveList o (cleanSave bs) } }
  else if 0x400000 ≤ o ∧ o < 0x800000 then
    (if bufferOn s then { s with boot := { s.boot with buffer := memWrite s.boot.buffer (o - 0x400000) bs } } else s)
  else if 0x800000 ≤ o ∧ o < 0x900000 then flowPut s (o - 0x800000) bs
  else s

/-- The word at an offset of the supervisor window. -/
def supWord (s : State) (o : Nat) : Nat := leNat ((span o 4).map (supByte s))

/-- R422, R448: each write of the supervisor window raises CFG_GEN. A write to a flow context while the job is armed is undefined
(R265). -/
def supWrite (s : State) (o : Nat) (bs : List Byte) : Host.Outcome State Fault Refusal :=
  if 0x800000 ≤ o ∧ o < 0x900000 ∧ armed s = true then undefinedCase .flowContextWrite s
  else
    let t := supStore s o bs
    .next (cfgRise t ⟨4, 0xFF, 0, o, supWord s o + 2 ^ 32 * supWord t o⟩)

/-- A write of a core SRAM window (R44, R144). A core under reset takes none. -/
def sramPut (s : State) (c o : Nat) (bs : List Byte) : Host.Outcome State Fault Refusal :=
  if !sramAccepted s || islesDark s || (coreOf s c).mode = .wiping then .next s
  else if hitsDrainSlot (coreOf s c) o bs.length then undefinedCase .drainSlotWrite s
  else .next (modCore s c fun k => sramWrite k o bs)

/-- A write of the physical address space by the host (R206–R208, R421). With `gap`, engines may write between the two accesses of a short
write of package memory. -/
def physWrite (s : State) (p : Nat) (bs : List Byte) (gap : Bool) : Host.Outcome State Fault Refusal :=
  if inMem p bs.length then
    .next (if s.memory.wipe != 0 || !memOn s then s
      else if bs.length = 64 then writeLine s p bs true
      else if gap then mergeRead s p bs else mergeLine s p bs true .host)
  else if inSram p then
    let o := (p - sramBase) % 0x800000
    if 0x640000 ≤ o then .next s else sramPut s ((p - sramBase) / 0x800000) o bs
  else if inAccMap p then .next (if s.memory.wipe != 0 || !memOn s then s else writeAcc s p bs)
  else if inSup p then supWrite s (p - supBase) bs
  else .next s

/-- A read through the aperture (R420), after a write that is still to come (R421). -/
def winRead (s : State) (off n : Nat) : State :=
  let (t, bs) := physRead (landMerge s) (s.control.memwin + off) n
  { t with rdata := bs }

/-- A write through the aperture (R420), after one that is still to come (R421). -/
def winWrite (s : State) (off : Nat) (bs : List Byte) (gap : Bool) : Host.Outcome State Fault Refusal :=
  physWrite (landMerge s) (s.control.memwin + off) bs gap

/-! The rows. -/

def execWindowRead (off : Fin 0x400000) (len : Nat) (upsets : List Upset) (s : State) : Host.Outcome State Fault Refusal :=
  when (pcieOn s && winShape (s.control.memwin + off) len) s (winRead (addUpsets s upsets) off len)

/-- R420, R421: a write through the aperture. The merged line of one between whose accesses others come is written with the next access through the aperture or the
next idle step (DESIGN CHOICE, log 108). -/
def execWindowWrite (off : Fin 0x400000) (bytes : List Byte × Bool) (now : Nat) (s : State) : Host.Outcome State Fault Refusal :=
  if pcieOn s && winShape (s.control.memwin + off) bytes.1.length then winWrite (atTide s now) off bytes.1 bytes.2 else .next s

/-- R265: a write of any bytes of one context. -/
def execFlowContextWrite (off : Fin 0x100000) (bytes : List Byte) (now : Nat) (s : State) : Host.Outcome State Fault Refusal :=
  if pcieOn s && winShape (supBase + 0x800000 + off) bytes.length then supWrite (landMerge (atTide s now)) (0x800000 + off) bytes else .next s

/-- R66, Table 2-11: the bits that a host write of CORE_FLAGS holds at 1 set their flags. -/
def execCoreFlagsSet (c : Fin 576) (bits : BitVec 5) (now : Nat) (s : State) : Host.Outcome State Fault Refusal :=
  let off := 0x100008 + 0x1000 * c.val
  let t := atTide s now
  let u := if islesDark s then t else modCore t c fun k => flagsPut k bits.toNat true
  when (pcieOn s) s (cfgWrite u false off (bar0Read t off))

/-- R67: the bits that it holds at 0 clear theirs; a set of the same cycle prevails. -/
def execCoreFlagsClear (c : Fin 576) (bits setToo : BitVec 5) (now : Nat) (s : State) : Host.Outcome State Fault Refusal :=
  let off := 0x100008 + 0x1000 * c.val
  let t := atTide s now
  let u := if islesDark s then t else modCore t c fun k => flagsPut (flagsPut k bits.toNat false) setToo.toNat true
  when (pcieOn s) s (cfgWrite u false off (bar0Read t off))

def execRegisterWrite (off : Fin 0xC00000) (bytes : List Byte) (hw : Option Reg) (now : Nat) (s : State) :
    Host.Outcome State Fault Refusal :=
  if pcieOn s && regShape off bytes.length then regWrite (atTide s now) .bar0 off bytes hw now else .next s

/-! JTAG (R8, R481). -/

def isFlags (off : Nat) : Bool := inCoreBlock off && off % 0x1000 = 8

/-- A hardware update of a register, without a write in its cycle. -/
def hwUpdate (s : State) (off : Nat) (hw : Option Reg) : State :=
  match hw with
  | none => s
  | some x =>
    if darkBlock s off then s
    else if isFlags off then modCore s (blockCore off) fun k => { k with flags := k.flags ||| x.setWidth 8 }
    else (eventWrite s off 0 hw).getD s

/-- A write of the whole BAR0 map; one that has not the shape leaves the hardware update alone. -/
def mapWrite (s : State) (w : Writer) (off : Nat) (bs : List Byte) (hw : Option Reg) (now : Nat) : Host.Outcome State Fault Refusal :=
  if off < 0xC00000 then (if regShape off bs.length then regWrite s w off bs hw now else .next (hwUpdate s off hw))
  else if winShape (s.control.memwin + (off - 0xC00000)) bs.length then winWrite s (off - 0xC00000) bs false
  else .next s

/-- A read of the whole BAR0 map. -/
def mapRead (s : State) (off n : Nat) : State :=
  if off < 0xC00000 then (if regShape off n then regRead s off n else s)
  else if winShape (s.control.memwin + (off - 0xC00000)) n then winRead s (off - 0xC00000) n
  else s

/-- R481: JTAG reaches the BAR0 map and, through the aperture, the memory window. Of one supervisor cycle come the hardware update, the
BAR0 write, the JTAG write, the read (R8); a set of a flag prevails over both writes (R67). -/
def execJtagBusacc (write : Bool) (off : Fin 0x1000000) (len : Nat) (bytes : List Byte) (cycle : Option Reg × List Byte × Nat)
    (s : State) : Host.Outcome State Fault Refusal :=
  let hw := cycle.1
  let bar0 := cycle.2.1
  let now := cycle.2.2
  let t := selectBusacc (atTide s now)
  if s.boot.held != 0 then .next t
  else thenDo (if pcieOn s then mapWrite t .bar0 off bar0 hw now else .next (hwUpdate t off hw)) fun u =>
    if write then mapWrite u .jtag off bytes (if isFlags off then hw else none) now else .next (mapRead u off len)

/-- R227: a write of DIG_CTRL_r with CLEAR, EN as it stands. -/
def execDigestClear (r : Fin 16) (now : Nat) (s : State) : Host.Outcome State Fault Refusal :=
  when (pcieOn s) s (writeWord (atTide s now) .bar0 (0x52000 + 64 * r.val) (reg (bit (digestOf s r).en + 2)) none)

/-- R227: a write of DIG_CTRL_r with SNAP. -/
def execDigestSnap (r : Fin 16) (now : Nat) (s : State) : Host.Outcome State Fault Refusal :=
  when (pcieOn s) s (writeWord (atTide s now) .bar0 (0x52000 + 64 * r.val) (reg (bit (digestOf s r).en + 4)) none)

/-- R431. -/
def execMsixUnmask (v : Fin 32) (s : State) : Host.Outcome State Fault Refusal :=
  when (pcieOn s && s.control.masks.getLsbD v) s (unmask s v)

end Sys2Proof.Machine
end

