-- ==== Sys2Proof/Machine/Cycle.lean ====
section
/-! DEFINITION. The update cycle of a core's semaphores (R62–R65, R82): adds first, a SEM_SUB, the consuming waits of queue heads that
start in engine order 0 to 5, a SEM_WAIT_SUB last. A row names what else acts in its cycle. -/

namespace Sys2Proof.Machine

/-- The adds of a cycle: engines that have completed a descriptor, the inbound ferry (R61, R65). -/
def cycleAdds (s : State) (a : SameCycle) : State :=
  (List.range a.inbound).foldl (fun s _ => inboundEff s a.core) (a.ends.foldl (fun s e => completeEff s a.core e.val) s)

/-- The head of engine e's queue consumes by its wait (R55). -/
def headConsumes (s : State) (c e : Nat) : Bool :=
  match (engineOf (coreOf s c) e).queue with
  | q :: _ => q.consume && q.waitSem != 63
  | [] => false

/-- Of some engines, those whose heads consume by their wait, or those whose heads do not, start in engine order; the first argument
counts the engines still to come. -/
def startHeads (c : Nat) (es : List (Fin 6)) (consuming : Bool) : Nat → State → Host.Outcome State Fault Refusal
  | 0, s => .next s
  | n + 1, s =>
    let e := 6 - (n + 1)
    if es.any (fun x => x.val = e) && headConsumes s c e = consuming then thenDo (startHead s c e) (startHeads c es consuming n)
    else startHeads c es consuming n s

/-- The end of a cycle: the consuming heads, what comes after them, and the heads whose wait tests the value that the whole cycle leaves
(R65). -/
def cycleStarts (s : State) (c : Nat) (es : List (Fin 6)) (last : State → State) : Host.Outcome State Fault Refusal :=
  thenDo (startHeads c es true 6 s) fun t => startHeads c es false 6 (last t)

/-- R55: the head of a queue starts, with the others that start in its cycle. -/
def execDescriptorStart (a : SameCycle) (e : Fin 6) (now : Nat) (s : State) : Host.Outcome State Fault Refusal :=
  cycleStarts (cycleAdds (atTide s now) a) a.core (e :: a.starts) id

/-- R62, R65: SEM_ADD with the other adds of its cycle; the sum is limited to 65,535. A semaphore field of 63 names none. -/
def execSemAdd (a : SameCycle) (s : State) : Host.Outcome State Fault Refusal :=
  seqRow s a.core 0x01 fun _ w =>
    let t := cycleAdds s a
    cycleStarts (advance t a.core (semAdd (coreOf t a.core) (wfld w 50 6) (wfld w 0 16))) a.core a.starts id

/-- SEM_SUB on a core: below zero is undefined (R65, R82). -/
def semSubEff (s : State) (c : Nat) (w : W64) : Host.Outcome State Fault Refusal :=
  let k := coreOf s c
  let sem := wfld w 50 6
  if sem = 63 then .next (advance s c k)
  else
    let r := semCycle (semGet k sem) ⟨[], some (wfld w 0 16), [], none⟩
    if r.under then undefinedCase .semUnderflow s else .next (advance s c (semPut k sem r.value))

/-- R65, R82: the adds of the cycle, SEM_SUB, the starts. -/
def execSemSub (a : SameCycle) (s : State) : Host.Outcome State Fault Refusal :=
  seqRow s a.core 0x02 fun _ w => thenDo (semSubEff (cycleAdds s a) a.core w) fun t => cycleStarts t a.core a.starts id

/-- R63, R65: as SEM_WAIT, and N is subtracted in the same cycle. -/
def semWaitSubEff (s : State) (c : Nat) (w : W64) : State :=
  let k := coreOf s c
  let sem := wfld w 50 6
  let r := semCycle (semGet k sem) ⟨[], none, [], some (wfld w 0 16)⟩
  if sem = 63 then advance s c k
  else if r.waitServed then advance s c (semPut k sem r.value) else setCore s c (waitCore k .sem)

/-- SEM_WAIT_SUB comes last in its cycle (R65). -/
def execSemWaitSub (a : SameCycle) (s : State) : Host.Outcome State Fault Refusal :=
  seqRow s a.core 0x04 fun _ w => cycleStarts (cycleAdds s a) a.core a.starts fun t => semWaitSubEff t a.core w

/-- A waiting sequencer after the update: SEM_WAIT_SUB subtracts, SEM_WAIT goes on (R64, R65). -/
def semWakeEff (s : State) (c : Nat) (w : W64) : State :=
  if opcodeOf w = 0x04 then semWaitSubEff s c w
  else if wfld w 0 16 ≤ semGet (coreOf s c) (wfld w 50 6) then advance s c (coreOf s c) else s

/-- A waiting sequencer in an update cycle: SEM_WAIT_SUB comes last among the subtracts, SEM_WAIT tests what the whole cycle leaves. -/
def execSemWaitWake (a : SameCycle) (s : State) : Host.Outcome State Fault Refusal :=
  wakeRow s a.core .sem fun _ w =>
    if opcodeOf w = 0x04 then cycleStarts (cycleAdds s a) a.core a.starts fun t => semWakeEff t a.core w
    else thenDo (cycleStarts (cycleAdds s a) a.core a.starts id) fun t => .next (semWakeEff t a.core w)

end Sys2Proof.Machine
end

