-- ==== Sys2Proof/Machine/Dispatch.lean ====
section
/-! DEFINITION. Each command and its meaning. -/

namespace Sys2Proof.Machine

def exec (i : Instr) (s : State) : Host.Outcome State Fault Refusal :=
  match i with
  | .nop c => Sys2Proof.Machine.execNop c s
  | .semAdd a => Sys2Proof.Machine.execSemAdd a s
  | .semSub a => Sys2Proof.Machine.execSemSub a s
  | .semWait c => Sys2Proof.Machine.execSemWait c s
  | .semWaitSub a => Sys2Proof.Machine.execSemWaitSub a s
  | .semWaitWake a => Sys2Proof.Machine.execSemWaitWake a s
  | .flagSet c => Sys2Proof.Machine.execFlagSet c s
  | .flagClear c setToo => Sys2Proof.Machine.execFlagClear c setToo s
  | .flagWait c => Sys2Proof.Machine.execFlagWait c s
  | .flagWaitWake c => Sys2Proof.Machine.execFlagWaitWake c s
  | .issue c => Sys2Proof.Machine.execIssue c s
  | .issueQueueAccept c => Sys2Proof.Machine.execIssueQueueAccept c s
  | .tideArm c => Sys2Proof.Machine.execTideArm c s
  | .jump c => Sys2Proof.Machine.execJump c s
  | .loopSet c => Sys2Proof.Machine.execLoopSet c s
  | .loopBack c => Sys2Proof.Machine.execLoopBack c s
  | .fence c => Sys2Proof.Machine.execFence c s
  | .fenceRelease c => Sys2Proof.Machine.execFenceRelease c s
  | .barrier c => Sys2Proof.Machine.execBarrier c s
  | .barrierArrival c now => Sys2Proof.Machine.execBarrierArrival c now s
  | .stepEnd c => Sys2Proof.Machine.execStepEnd c s
  | .stepDone c now => Sys2Proof.Machine.execStepDone c now s
  | .frameReferenceDelivery c now => Sys2Proof.Machine.execFrameReferenceDelivery c now s
  | .halt c => Sys2Proof.Machine.execHalt c s
  | .badCmd c => Sys2Proof.Machine.execBadCmd c s
  | .descriptorStart a e now => Sys2Proof.Machine.execDescriptorStart a e now s
  | .descriptorComplete c e => Sys2Proof.Machine.execDescriptorComplete c e s
  | .load c upsets => Sys2Proof.Machine.execLoad c upsets s
  | .store c sramUpsets => Sys2Proof.Machine.execStore c sramUpsets s
  | .stashWrite c => Sys2Proof.Machine.execStashWrite c s
  | .ferryWriteSram c => Sys2Proof.Machine.execFerryWriteSram c s
  | .ferryWriteMemory c => Sys2Proof.Machine.execFerryWriteMemory c s
  | .remoteAccumulate c => Sys2Proof.Machine.execRemoteAccumulate c s
  | .ferrySignal c => Sys2Proof.Machine.execFerrySignal c s
  | .pull c => Sys2Proof.Machine.execPull c s
  | .inboundAdd c => Sys2Proof.Machine.execInboundAdd c s
  | .multiplyAccumulate c => Sys2Proof.Machine.execMultiplyAccumulate c s
  | .kStepUpdate c => Sys2Proof.Machine.execKStepUpdate c s
  | .matrixDrain c => Sys2Proof.Machine.execMatrixDrain c s
  | .handoff c => Sys2Proof.Machine.execHandoff c s
  | .drainEnd c => Sys2Proof.Machine.execDrainEnd c s
  | .layout c => Sys2Proof.Machine.execLayout c s
  | .matrixTableLoad c => Sys2Proof.Machine.execMatrixTableLoad c s
  | .clause c => Sys2Proof.Machine.execClause c s
  | .clauseTableLoad c => Sys2Proof.Machine.execClauseTableLoad c s
  | .merge c => Sys2Proof.Machine.execMerge c s
  | .tideTargetReached c now => Sys2Proof.Machine.execTideTargetReached c now s
  | .coreWatchdogExpiry c now => Sys2Proof.Machine.execCoreWatchdogExpiry c now s
  | .coreResetDone c => Sys2Proof.Machine.execCoreResetDone c s
  | .isthmusLaneFail k m lane now => Sys2Proof.Machine.execIsthmusLaneFail k m lane now s
  | .isthmusModuleChangeEnd k m now => Sys2Proof.Machine.execIsthmusModuleChangeEnd k m now s
  | .portTraining p farLit laser => Sys2Proof.Machine.execPortTraining p farLit laser s
  | .portTrainingRetry p farLit => Sys2Proof.Machine.execPortTrainingRetry p farLit s
  | .laserModuleFault p => Sys2Proof.Machine.execLaserModuleFault p s
  | .straitLaneFail p n => Sys2Proof.Machine.execStraitLaneFail p n s
  | .straitLaneChange p tx now => Sys2Proof.Machine.execStraitLaneChange p tx now s
  | .laneChangePauseEnd p tx now => Sys2Proof.Machine.execLaneChangePauseEnd p tx now s
  | .frameSend p now => Sys2Proof.Machine.execFrameSend p now s
  | .data p f now => Sys2Proof.Machine.execData p f now s
  | .signal p f now => Sys2Proof.Machine.execSignal p f now s
  | .ack p f now => Sys2Proof.Machine.execAck p f now s
  | .nack p f now => Sys2Proof.Machine.execNack p f now s
  | .ackTimeout f now => Sys2Proof.Machine.execAckTimeout f now s
  | .ackPeriodic f now => Sys2Proof.Machine.execAckPeriodic f now s
  | .frameCrcFail p f => Sys2Proof.Machine.execFrameCrcFail p f s
  | .unknownFrame p f => Sys2Proof.Machine.execUnknownFrame p f s
  | .ident p f => Sys2Proof.Machine.execIdent p f s
  | .identSend now => Sys2Proof.Machine.execIdentSend now s
  | .identCheckTimeout now => Sys2Proof.Machine.execIdentCheckTimeout now s
  | .lane p f => Sys2Proof.Machine.execLane p f s
  | .marker p f now => Sys2Proof.Machine.execMarker p f now s
  | .markerSend now => Sys2Proof.Machine.execMarkerSend now s
  | .holdover now => Sys2Proof.Machine.execHoldover now s
  | .lockedLoss now => Sys2Proof.Machine.execLockedLoss now s
  | .lockAcquired now => Sys2Proof.Machine.execLockAcquired now s
  | .backupTakeover now => Sys2Proof.Machine.execBackupTakeover now s
  | .scheduleTempoChange p f => Sys2Proof.Machine.execScheduleTempoChange p f s
  | .scheduleFrameState p f => Sys2Proof.Machine.execScheduleFrameState p f s
  | .scheduleRepeat now => Sys2Proof.Machine.execScheduleRepeat now s
  | .frameStart now => Sys2Proof.Machine.execFrameStart now s
  | .tempoReq p f => Sys2Proof.Machine.execTempoReq p f s
  | .tempoReqSend now => Sys2Proof.Machine.execTempoReqSend now s
  | .tempoAnnounce now => Sys2Proof.Machine.execTempoAnnounce now s
  | .barArrive p f now => Sys2Proof.Machine.execBarArrive p f now s
  | .barArriveResend now => Sys2Proof.Machine.execBarArriveResend now s
  | .barRelease p f now => Sys2Proof.Machine.execBarRelease p f now s
  | .podReleaseAdd n now => Sys2Proof.Machine.execPodReleaseAdd n now s
  | .arenaOpen n now => Sys2Proof.Machine.execArenaOpen n now s
  | .arenaOpened n => Sys2Proof.Machine.execArenaOpened n s
  | .contributionAccept n src accUpsets => Sys2Proof.Machine.execContributionAccept n src accUpsets s
  | .parkWaitRelease n => Sys2Proof.Machine.execParkWaitRelease n s
  | .eccWriteBack n => Sys2Proof.Machine.execEccWriteBack n s
  | .patrolScrub n upsets => Sys2Proof.Machine.execPatrolScrub n upsets s
  | .stackFailure n => Sys2Proof.Machine.execStackFailure n s
  | .wipeSramDone => Sys2Proof.Machine.execWipeSramDone s
  | .wipeWritePassDone n => Sys2Proof.Machine.execWipeWritePassDone n s
  | .wipeVerifyDone n upsets => Sys2Proof.Machine.execWipeVerifyDone n upsets s
  | .digestClear r now => Sys2Proof.Machine.execDigestClear r now s
  | .digestSnap r now => Sys2Proof.Machine.execDigestSnap r now s
  | .digestSnapDone r => Sys2Proof.Machine.execDigestSnapDone r s
  | .evalDeadline now => Sys2Proof.Machine.execEvalDeadline now s
  | .stepDecision now => Sys2Proof.Machine.execStepDecision now s
  | .ledgerDoneMark k mirror => Sys2Proof.Machine.execLedgerDoneMark k mirror s
  | .haltTakesEffect now => Sys2Proof.Machine.execHaltTakesEffect now s
  | .reshardFold now => Sys2Proof.Machine.execReshardFold now s
  | .reshardFail now => Sys2Proof.Machine.execReshardFail now s
  | .rampStart now => Sys2Proof.Machine.execRampStart now s
  | .fastPowerFrame frame work => Sys2Proof.Machine.execFastPowerFrame frame work s
  | .thermalTrip temps now => Sys2Proof.Machine.execThermalTrip temps now s
  | .vin48OutOfRange now => Sys2Proof.Machine.execVin48OutOfRange now s
  | .refclkLoss now => Sys2Proof.Machine.execRefclkLoss now s
  | .wakePin n level heldUs temps => Sys2Proof.Machine.execWakePin n level heldUs temps s
  | .powerEntryDone now => Sys2Proof.Machine.execPowerEntryDone now s
  | .powerExitDone a => Sys2Proof.Machine.execPowerExitDone a s
  | .settingNotice energy rtc => Sys2Proof.Machine.execSettingNotice energy rtc s
  | .timeNotice ptp rtc => Sys2Proof.Machine.execTimeNotice ptp rtc s
  | .meterIntervalRecord energy rtc peakW => Sys2Proof.Machine.execMeterIntervalRecord energy rtc peakW s
  | .mtIntervalWrite minutes energy rtc peakW => Sys2Proof.Machine.execMtIntervalWrite minutes energy rtc peakW s
  | .sealEvent selfCheck addr value energy rtc => Sys2Proof.Machine.execSealEvent selfCheck addr value energy rtc s
  | .meterStart gapS energy => Sys2Proof.Machine.execMeterStart gapS energy s
  | .rtcStore rtc => Sys2Proof.Machine.execRtcStore rtc s
  | .telemetryRefresh now => Sys2Proof.Machine.execTelemetryRefresh now s
  | .msixUnmask v => Sys2Proof.Machine.execMsixUnmask v s
  | .harbourData m => Sys2Proof.Machine.execHarbourData m s
  | .harbourAck m => Sys2Proof.Machine.execHarbourAck m s
  | .harbourNack m => Sys2Proof.Machine.execHarbourNack m s
  | .harbourEnd m => Sys2Proof.Machine.execHarbourEnd m s
  | .harbourDigest m => Sys2Proof.Machine.execHarbourDigest m s
  | .harbourResend k now => Sys2Proof.Machine.execHarbourResend k now s
  | .harbourAckPeriodic k now => Sys2Proof.Machine.execHarbourAckPeriodic k now s
  | .ptpMessage net ptp tide => Sys2Proof.Machine.execPtpMessage net ptp tide s
  | .neighborSolicitation net d mac => Sys2Proof.Machine.execNeighborSolicitation net d mac s
  | .icmpv6Echo net ends payload => Sys2Proof.Machine.execIcmpv6Echo net ends payload s
  | .identify mb seq irq now => Sys2Proof.Machine.execIdentify mb seq irq now s
  | .status mb seq irq now => Sys2Proof.Machine.execStatus mb seq irq now s
  | .fwUpdate mb seq irq now flashOk => Sys2Proof.Machine.execFwUpdate mb seq irq now flashOk s
  | .lifecycleSet mb seq irq now => Sys2Proof.Machine.execLifecycleSet mb seq irq now s
  | .lifecycleChangeReset now => Sys2Proof.Machine.execLifecycleChangeReset now s
  | .attest mb seq irq now meterOk => Sys2Proof.Machine.execAttest mb seq irq now meterOk s
  | .jobLoad mb seq irq now => Sys2Proof.Machine.execJobLoad mb seq irq now s
  | .jobReload mb seq irq now => Sys2Proof.Machine.execJobReload mb seq irq now s
  | .jobArm mb seq irq now => Sys2Proof.Machine.execJobArm mb seq irq now s
  | .jobStart mb seq irq now => Sys2Proof.Machine.execJobStart mb seq irq now s
  | .jobHalt mb seq irq now => Sys2Proof.Machine.execJobHalt mb seq irq now s
  | .jobRelease mb seq irq now => Sys2Proof.Machine.execJobRelease mb seq irq now s
  | .spareAdopt mb seq irq now => Sys2Proof.Machine.execSpareAdopt mb seq irq now s
  | .reshard mb seq irq now => Sys2Proof.Machine.execReshard mb seq irq now s
  | .commitResume mb seq irq now => Sys2Proof.Machine.execCommitResume mb seq irq now s
  | .tideRole mb seq irq now => Sys2Proof.Machine.execTideRole mb seq irq now s
  | .tempoSet mb seq irq now => Sys2Proof.Machine.execTempoSet mb seq irq now s
  | .powerState mb seq irq now => Sys2Proof.Machine.execPowerState mb seq irq now s
  | .govSet mb seq irq now => Sys2Proof.Machine.execGovSet mb seq irq now s
  | .telemetrySet mb seq irq now => Sys2Proof.Machine.execTelemetrySet mb seq irq now s
  | .meterRead mb seq irq now => Sys2Proof.Machine.execMeterRead mb seq irq now s
  | .resetCause mb seq irq now => Sys2Proof.Machine.execResetCause mb seq irq now s
  | .telemetry mb seq irq now => Sys2Proof.Machine.execTelemetry mb seq irq now s
  | .rampToFloor mb seq irq now => Sys2Proof.Machine.execRampToFloor mb seq irq now s
  | .isolateStraits mb seq irq now => Sys2Proof.Machine.execIsolateStraits mb seq irq now s
  | .systemReset mb seq irq now => Sys2Proof.Machine.execSystemReset mb seq irq now s
  | .thermalStatus mb seq irq now => Sys2Proof.Machine.execThermalStatus mb seq irq now s
  | .wake mb seq irq now => Sys2Proof.Machine.execWake mb seq irq now s
  | .diagLanes mb seq irq now => Sys2Proof.Machine.execDiagLanes mb seq irq now s
  | .diagEcc mb seq irq now => Sys2Proof.Machine.execDiagEcc mb seq irq now s
  | .diagProgram mb seq irq now => Sys2Proof.Machine.execDiagProgram mb seq irq now s
  | .coreReset mb seq irq now => Sys2Proof.Machine.execCoreReset mb seq irq now s
  | .harbourConfig mb seq irq now => Sys2Proof.Machine.execHarbourConfig mb seq irq now s
  | .sessionOpen mb seq irq now => Sys2Proof.Machine.execSessionOpen mb seq irq now s
  | .sessionClose mb seq irq now => Sys2Proof.Machine.execSessionClose mb seq irq now s
  | .checkpoint mb seq irq now => Sys2Proof.Machine.execCheckpoint mb seq irq now s
  | .restore mb seq irq now => Sys2Proof.Machine.execRestore mb seq irq now s
  | .unknownCommand mb opcode seq irq now => Sys2Proof.Machine.execUnknownCommand mb opcode seq irq now s
  | .commandComplete mb now => Sys2Proof.Machine.execCommandComplete mb now s
  | .windowRead off len upsets => Sys2Proof.Machine.execWindowRead off len upsets s
  | .windowWrite off bytes now => Sys2Proof.Machine.execWindowWrite off bytes now s
  | .flowContextWrite off bytes now => Sys2Proof.Machine.execFlowContextWrite off bytes now s
  | .slotReadyWrite hi v => Sys2Proof.Machine.execSlotReadyWrite hi v s
  | .coreFlagsSet c bits now => Sys2Proof.Machine.execCoreFlagsSet c bits now s
  | .coreFlagsClear c bits setToo now => Sys2Proof.Machine.execCoreFlagsClear c bits setToo now s
  | .govRegisterWrite reg v jtag now => Sys2Proof.Machine.execGovRegisterWrite reg v jtag now s
  | .bootGo len now => Sys2Proof.Machine.execBootGo len now s
  | .registerWrite off bytes hw now => Sys2Proof.Machine.execRegisterWrite off bytes hw now s
  | .tideNowLoRead now => Sys2Proof.Machine.execTideNowLoRead now s
  | .mtEnergyLoRead => Sys2Proof.Machine.execMtEnergyLoRead s
  | .cfgGenLoRead => Sys2Proof.Machine.execCfgGenLoRead s
  | .slotEndedLoRead => Sys2Proof.Machine.execSlotEndedLoRead s
  | .sigNextLoRead resEnd => Sys2Proof.Machine.execSigNextLoRead resEnd s
  | .harbSessBytesLoRead k => Sys2Proof.Machine.execHarbSessBytesLoRead k s
  | .memCeCntRead n => Sys2Proof.Machine.execMemCeCntRead n s
  | .memUeCntRead n => Sys2Proof.Machine.execMemUeCntRead n s
  | .accUeCntRead n => Sys2Proof.Machine.execAccUeCntRead n s
  | .portRetryCntRead p => Sys2Proof.Machine.execPortRetryCntRead p s
  | .portForeignCntRead p => Sys2Proof.Machine.execPortForeignCntRead p s
  | .portUnknownCntRead p => Sys2Proof.Machine.execPortUnknownCntRead p s
  | .portFecUeCntRead p => Sys2Proof.Machine.execPortFecUeCntRead p s
  | .harbDropCntRead => Sys2Proof.Machine.execHarbDropCntRead s
  | .tideOverrunCntRead => Sys2Proof.Machine.execTideOverrunCntRead s
  | .tideLateRelCntRead => Sys2Proof.Machine.execTideLateRelCntRead s
  | .jtagBusacc write off len bytes cycle => Sys2Proof.Machine.execJtagBusacc write off len bytes cycle s
  | .pwrgoodLow lowNs now => Sys2Proof.Machine.execPwrgoodLow lowNs now s
  | .standbyLoss lowNs => Sys2Proof.Machine.execStandbyLoss lowNs s
  | .sysResetNLow lowNs now => Sys2Proof.Machine.execSysResetNLow lowNs now s
  | .perstNAssert now => Sys2Proof.Machine.execPerstNAssert now s
  | .supervisorWatchdog now => Sys2Proof.Machine.execSupervisorWatchdog now s
  | .resetRelease vin48Ok bootSrc clkMode => Sys2Proof.Machine.execResetRelease vin48Ok bootSrc clkMode s
  | .awaitHostTimeout => Sys2Proof.Machine.execAwaitHostTimeout s
  | .flashReadDone readOk => Sys2Proof.Machine.execFlashReadDone readOk s
  | .stackTrainingDone failed => Sys2Proof.Machine.execStackTrainingDone failed s
  | .isthmusTrainingDone failed => Sys2Proof.Machine.execIsthmusTrainingDone failed s
  | .portTrainingDone p rxFailed txFailed => Sys2Proof.Machine.execPortTrainingDone p rxFailed txFailed s
  | .farEndDark p => Sys2Proof.Machine.execFarEndDark p s
  | .uncorrectableCodeword p n => Sys2Proof.Machine.execUncorrectableCodeword p n s
  | .badBlockBoundary a => Sys2Proof.Machine.execBadBlockBoundary a s
  | .isthmusFlitReplay k m rev => Sys2Proof.Machine.execIsthmusFlitReplay k m rev s
  | .harbourLinkChange up => Sys2Proof.Machine.execHarbourLinkChange up s
  | .pcieLinkUp => Sys2Proof.Machine.execPcieLinkUp s
  | .mtEnergyCopy energy => Sys2Proof.Machine.execMtEnergyCopy energy s
  | .debugHalt op core => Sys2Proof.Machine.execDebugHalt op core s

end Sys2Proof.Machine
end

