-- ==== Sys2Proof/Safety.lean ====
section
/-! DEFINITION. What a safe run is, and the words that the statements use: what a step leaves as it was (frames), the invariants. -/

namespace Sys2Proof

open Sys2Proof.Machine

/-- A step that meets none of the undefined cases of Table 0-5. -/
def Safe (s : State) : Prop := ∃ t, step s = .next t

/-- What a command that completes answers: a next state of which `P` holds. -/
def Runs (i : Instr) (s : State) (P : State → Prop) : Prop := ∃ t, exec i s = .next t ∧ P t

/-- Which commands can meet an undefined case of Table 0-5 (R10), and where: any state, the mailbox it is written to, or nowhere. -/
inductive Undefined where
  | never
  | inMailbox (m : Fin 16)
  | possible
  deriving DecidableEq, Repr

/-- Where a command can meet an undefined case. -/
def undefinedFor : Instr → Undefined
  | .semAdd .. | .semSub .. | .semWaitSub .. | .semWaitWake .. | .descriptorStart .. | .load .. | .ferryWriteSram .. | .pull ..
  | .handoff .. | .clause .. | .merge .. | .data .. | .signal .. | .contributionAccept .. | .parkWaitRelease .. | .arenaOpened ..
  | .windowWrite .. | .flowContextWrite .. | .registerWrite .. | .jtagBusacc .. => .possible
  | .identify mb _ _ _ | .status mb _ _ _ | .fwUpdate mb _ _ _ _ | .lifecycleSet mb _ _ _ | .attest mb _ _ _ _ | .jobLoad mb _ _ _
  | .jobReload mb _ _ _ | .jobArm mb _ _ _ | .jobStart mb _ _ _ | .jobHalt mb _ _ _ | .jobRelease mb _ _ _ | .spareAdopt mb _ _ _
  | .reshard mb _ _ _ | .commitResume mb _ _ _ | .tideRole mb _ _ _ | .tempoSet mb _ _ _ | .powerState mb _ _ _ | .govSet mb _ _ _
  | .telemetrySet mb _ _ _ | .meterRead mb _ _ _ | .resetCause mb _ _ _ | .telemetry mb _ _ _ | .rampToFloor mb _ _ _
  | .isolateStraits mb _ _ _ | .systemReset mb _ _ _ | .thermalStatus mb _ _ _ | .wake mb _ _ _ | .diagLanes mb _ _ _
  | .diagEcc mb _ _ _ | .diagProgram mb _ _ _ | .coreReset mb _ _ _ | .harbourConfig mb _ _ _ | .sessionOpen mb _ _ _
  | .sessionClose mb _ _ _ | .checkpoint mb _ _ _ | .restore mb _ _ _ | .unknownCommand mb _ _ _ _ => .inMailbox mb
  | .nop .. | .semWait .. | .flagSet .. | .flagClear .. | .flagWait .. | .flagWaitWake .. | .issue .. | .issueQueueAccept ..
  | .tideArm .. | .jump .. | .loopSet .. | .loopBack .. | .fence .. | .fenceRelease .. | .barrier .. | .barrierArrival ..
  | .stepEnd .. | .stepDone .. | .frameReferenceDelivery .. | .halt .. | .badCmd .. | .descriptorComplete .. | .store ..
  | .stashWrite .. | .ferryWriteMemory .. | .remoteAccumulate .. | .ferrySignal .. | .inboundAdd .. | .multiplyAccumulate ..
  | .kStepUpdate .. | .matrixDrain .. | .drainEnd .. | .layout .. | .matrixTableLoad .. | .clauseTableLoad .. | .tideTargetReached ..
  | .coreWatchdogExpiry .. | .coreResetDone .. | .isthmusLaneFail .. | .isthmusModuleChangeEnd .. | .portTraining ..
  | .portTrainingRetry .. | .laserModuleFault .. | .straitLaneFail .. | .straitLaneChange .. | .laneChangePauseEnd .. | .frameSend ..
  | .ack .. | .nack .. | .ackTimeout .. | .ackPeriodic .. | .frameCrcFail .. | .unknownFrame .. | .ident .. | .identSend ..
  | .identCheckTimeout .. | .lane .. | .marker .. | .markerSend .. | .holdover .. | .lockedLoss .. | .lockAcquired ..
  | .backupTakeover .. | .scheduleTempoChange .. | .scheduleFrameState .. | .scheduleRepeat .. | .frameStart .. | .tempoReq ..
  | .tempoReqSend .. | .tempoAnnounce .. | .barArrive .. | .barArriveResend .. | .barRelease .. | .podReleaseAdd .. | .arenaOpen ..
  | .eccWriteBack .. | .patrolScrub .. | .stackFailure .. | .wipeSramDone | .wipeWritePassDone .. | .wipeVerifyDone ..
  | .digestClear .. | .digestSnap .. | .digestSnapDone .. | .evalDeadline .. | .stepDecision .. | .ledgerDoneMark ..
  | .haltTakesEffect .. | .reshardFold .. | .reshardFail .. | .rampStart .. | .fastPowerFrame .. | .thermalTrip ..
  | .vin48OutOfRange .. | .refclkLoss .. | .wakePin .. | .powerEntryDone .. | .powerExitDone .. | .settingNotice .. | .timeNotice ..
  | .meterIntervalRecord .. | .mtIntervalWrite .. | .sealEvent .. | .meterStart .. | .rtcStore .. | .telemetryRefresh ..
  | .msixUnmask .. | .harbourData .. | .harbourAck .. | .harbourNack .. | .harbourEnd .. | .harbourDigest .. | .harbourResend ..
  | .harbourAckPeriodic .. | .ptpMessage .. | .neighborSolicitation .. | .icmpv6Echo .. | .lifecycleChangeReset ..
  | .commandComplete .. | .windowRead .. | .slotReadyWrite .. | .coreFlagsSet .. | .coreFlagsClear .. | .govRegisterWrite ..
  | .bootGo .. | .tideNowLoRead .. | .mtEnergyLoRead | .cfgGenLoRead | .slotEndedLoRead | .sigNextLoRead .. | .harbSessBytesLoRead ..
  | .memCeCntRead .. | .memUeCntRead .. | .accUeCntRead .. | .portRetryCntRead .. | .portForeignCntRead .. | .portUnknownCntRead ..
  | .portFecUeCntRead .. | .harbDropCntRead | .tideOverrunCntRead | .tideLateRelCntRead | .pwrgoodLow .. | .standbyLoss ..
  | .sysResetNLow .. | .perstNAssert .. | .supervisorWatchdog .. | .resetRelease .. | .awaitHostTimeout | .flashReadDone ..
  | .stackTrainingDone .. | .isthmusTrainingDone .. | .portTrainingDone .. | .farEndDark .. | .uncorrectableCodeword ..
  | .badBlockBoundary .. | .isthmusFlitReplay .. | .harbourLinkChange .. | .pcieLinkUp | .mtEnergyCopy .. | .debugHalt .. => .never

/-! Frames. A state is compared through its fields: what a record update puts back must give the old state. -/

/-- Outside core c, and but for the counter of free values, t is s. -/
def OnlyCore (s t : State) (c : Nat) : Prop :=
  { t with cores := s.cores, freeCtr := s.freeCtr } = s ∧ ∀ x, x ≠ c → coreOf t x = coreOf s x

/-- Nothing else acts in the update cycle of a command (R65). -/
def alone (c : Fin 576) : SameCycle := ⟨c, 0, [], []⟩

/-- An engine without what its descriptors remember of others' writes (R83). -/
def bareEngine (g : Engine) : Engine :=
  let bare := fun (q : QEntry) => { q with seen := [], seenAbroad := [] }
  { queue := g.queue.map bare, run := g.run.map fun r => { r with entry := bare r.entry } }

/-- Cores that agree but for what the descriptors in flight remember of others' writes (R83). -/
def CoreAgrees (k k' : Core) : Prop :=
  { k' with engines := k.engines } = k ∧ ∀ e, bareEngine (engineOf k' e) = bareEngine (engineOf k e)

/-- Outside core c, t is s, but for what the descriptors in flight remember of others' writes. -/
def OnlyCoreSeen (s t : State) (c : Nat) : Prop :=
  { t with cores := s.cores, freeCtr := s.freeCtr } = s ∧ ∀ x, x ≠ c → CoreAgrees (coreOf s x) (coreOf t x)

/-- Two cores that agree but for the sequencer's own fields, CORE_ERR and the flags. -/
def SameData (k k' : Core) : Prop :=
  { k' with mode := k.mode, wait := k.wait, pc := k.pc, held := k.held, err := k.err, flags := k.flags, changed := k.changed,
            dbgStep := k.dbgStep } = k

/-- CORE_ERR and the flags after a fetch (R44): unchanged, or with SRAM_UNCORR and F1 where a word of the core holds an uncorrectable
error. -/
def Fetched (k k' : Core) : Prop :=
  (k'.err = k.err ∧ k'.flags = k.flags) ∨
    (k.badWords.any (·.2) = true ∧ k'.err = k.err ||| (1#32 <<< errSram) ∧ k'.flags = k.flags ||| 2)

/-- Core c has executed its word, whose own effect leaves the core as k: it runs, and executes the next word (R45, R46). After the
last index of the store the next is free (log 6). -/
def Stepped (s : State) (c : Nat) (k : Core) (t : State) : Prop :=
  OnlyCore s t c ∧ SameData k (coreOf t c) ∧ Fetched k (coreOf t c) ∧ (coreOf t c).mode = k.mode ∧ (coreOf t c).wait = .none ∧
    (if k.pc = 32767 then (coreOf t c).pc < 32768 else (coreOf t c).pc = k.pc + 1)

/-- Core c, left as k by its word, continues at a target (R46). -/
def Jumped (s : State) (c : Nat) (k : Core) (target : Nat) (t : State) : Prop :=
  OnlyCore s t c ∧ SameData k (coreOf t c) ∧ (coreOf t c).err = k.err ∧ (coreOf t c).flags = k.flags ∧ (coreOf t c).mode = k.mode ∧
    (coreOf t c).wait = .none ∧ (coreOf t c).pc = target ∧ (coreOf t c).held = []

/-- Core c waits at its word. -/
def Waiting (s : State) (c : Nat) (w : SeqWait) (t : State) : Prop :=
  OnlyCore s t c ∧ SameData (coreOf s c) (coreOf t c) ∧ Fetched (coreOf s c) (coreOf t c) ∧
    (coreOf t c).mode = (coreOf s c).mode ∧ (coreOf t c).wait = w ∧ (coreOf t c).pc = (coreOf s c).pc

/-- The SRAM of a core reads as before at every address outside some ranges. -/
def SramSame (k k' : Core) (rs : List Range) : Prop :=
  ∀ a, (∀ r ∈ rs, ¬ (r.1 ≤ a ∧ a < r.1 + r.2)) → memGet k'.sram a = memGet k.sram a

/-- Package memory reads as before at every address outside some ranges. -/
def MemSame (s t : State) (rs : List Range) : Prop :=
  ∀ a, (∀ r ∈ rs, ¬ (r.1 ≤ a ∧ a < r.1 + r.2)) → memGet t.memory.data a = memGet s.memory.data a

/-- Engine e of core c keeps its queue, and its descriptor r may complete. -/
def DoneRun (t : State) (c e : Nat) (k : Core) (r : Run) : Prop :=
  engineOf (coreOf t c) e = { engineOf k e with run := some { r with phase := .ready } }

/-- What an engine's work leaves of a core: the sequencer, the semaphores, the tables and the other engines; CORE_ERR and the flags
change by R44 alone. -/
def EngineFrame (k k' : Core) (e : Nat) : Prop :=
  { k' with engines := k.engines, sram := k.sram, badWords := k.badWords, err := k.err, flags := k.flags } = k ∧
    (∀ g, g ≠ e → engineOf k' g = engineOf k g) ∧
    (k'.err = k.err ∨ k'.err = k.err ||| (1#32 <<< errSram)) ∧ (k'.flags = k.flags ∨ k'.flags = k.flags ||| 2)

/-- No line of package memory holds a wrong symbol, and no stack has failed. -/
def CleanMemory (s : State) : Prop := s.memory.upset = [] ∧ ∀ i, (stackOf s i).state ≠ 2

/-- Outside strait port p, t is s. -/
def OnlyPort (s t : State) (p : Nat) : Prop :=
  { t with straits := { t.straits with ports := s.straits.ports } } = s ∧ ∀ q, q ≠ p → portOf t q = portOf s q

/-- Every strait port but p is as before. -/
def OtherPorts (s t : State) (p : Nat) : Prop := ∀ q, q ≠ p → portOf t q = portOf s q

/-- A port but for the frames that wait on it, its neighbour's marker and the requirement that it told. -/
def SamePort (k k' : Port) : Prop := { k' with held := k.held, marker := k.marker, reqQ := k.reqQ } = k

/-- Every strait port but p is as before, but for the same. -/
def OthersAgree (s t : State) (p : Nat) : Prop := ∀ q, q ≠ p → SamePort (portOf s q) (portOf t q)

/-- Frames leave port p in order, each with its CRC (R243), or wait there while its transmit direction pauses (R238). -/
def Leaves (s t : State) (p : Nat) (fs : List Frame) : Prop :=
  ((portOf s p).pauseTx = false → t.sent = (fs.map fun f => Out.frame p (sealFrame f)).reverse ++ s.sent) ∧
    ((portOf s p).pauseTx = true → t.sent = s.sent ∧ (portOf t p).held = (portOf s p).held ++ fs)

/-- But for frames that left, or that wait on ports whose transmit direction pauses, t is s. -/
def OnlySends (s t : State) : Prop :=
  { t with sent := s.sent, straits := { t.straits with ports := s.straits.ports } } = s ∧
    ∀ p, { portOf t p with held := (portOf s p).held } = portOf s p

/-- A good frame of a type comes on a port that is up and does not pause. -/
def Comes (s : State) (p : Nat) (f : Frame) (typ : Byte) : Prop :=
  (portOf s p).state = 2 ∧ (portOf s p).pauseRx = false ∧ f.typ = typ ∧ frameGood f = true

/-- A tide frame of the package's pod comes on a port. -/
def PodFrame (s : State) (p : Nat) (f : Frame) (typ : Byte) : Prop :=
  Comes s p f typ ∧ s.tide.podId ≠ 0 ∧ f.jobTag.toNat = s.tide.podId

/-- Frames left the package: the record of outputs grew by these, latest first. -/
def Sent (s t : State) (fs : List Out) : Prop := t.sent = fs ++ s.sent

/-- A message leaves the harbour port for a peer whose MAC address is known; another peer is solicited, and the message waits (R262). -/
def HarbourSends (s t : State) (dst : BitVec 128) (o : HarbourOut) : Prop :=
  (∀ n, s.straits.neighbours.find? (fun n => n.1 = dst) = some n →
    Sent s t [.harbour (sendVlan s) n.2 o] ∧ t.straits.unresolved = s.straits.unresolved) ∧
  (s.straits.neighbours.find? (fun n => n.1 = dst) = none →
    Sent s t [.harbour (sendVlan s) (solicitedMac dst) (.solicit dst)] ∧ t.straits.unresolved = s.straits.unresolved ++ [(dst, o)])

/-- Flow context i keeps its 64 bytes. -/
def SameContext (s t : State) (i : Nat) : Prop := flowOf t i = flowOf s i

/-! Mailboxes. -/

/-- The row of an opcode (Table 14-8). -/
def commandOf (op : Nat) (mb : Fin 16) (seq : Byte) (irq : Bool) (now : Nat) (ok : Bool) : Instr :=
  match op with
  | 0x01 => .identify mb seq irq now
  | 0x02 => .status mb seq irq now
  | 0x10 => .fwUpdate mb seq irq now ok
  | 0x18 => .lifecycleSet mb seq irq now
  | 0x19 => .attest mb seq irq now ok
  | 0x30 => .jobLoad mb seq irq now
  | 0x31 => .jobReload mb seq irq now
  | 0x32 => .jobArm mb seq irq now
  | 0x33 => .jobStart mb seq irq now
  | 0x34 => .jobHalt mb seq irq now
  | 0x35 => .jobRelease mb seq irq now
  | 0x36 => .spareAdopt mb seq irq now
  | 0x37 => .reshard mb seq irq now
  | 0x38 => .commitResume mb seq irq now
  | 0x40 => .tideRole mb seq irq now
  | 0x41 => .tempoSet mb seq irq now
  | 0x50 => .powerState mb seq irq now
  | 0x51 => .govSet mb seq irq now
  | 0x52 => .telemetrySet mb seq irq now
  | 0x60 => .meterRead mb seq irq now
  | 0x70 => .resetCause mb seq irq now
  | 0x71 => .telemetry mb seq irq now
  | 0x72 => .rampToFloor mb seq irq now
  | 0x73 => .isolateStraits mb seq irq now
  | 0x74 => .systemReset mb seq irq now
  | 0x75 => .thermalStatus mb seq irq now
  | 0x76 => .wake mb seq irq now
  | 0x80 => .diagLanes mb seq irq now
  | 0x81 => .diagEcc mb seq irq now
  | 0x82 => .diagProgram mb seq irq now
  | 0x83 => .coreReset mb seq irq now
  | 0x90 => .harbourConfig mb seq irq now
  | 0x91 => .sessionOpen mb seq irq now
  | 0x92 => .sessionClose mb seq irq now
  | 0x93 => .checkpoint mb seq irq now
  | 0x94 => .restore mb seq irq now
  | _ => .unknownCommand mb (BitVec.ofNat 16 op) seq irq now

/-- Mailbox m takes a command word of opcode op, and no refusal that all commands share applies (R423, R426, R429, R433, Table 14-8). -/
def Accepts (s : State) (m op : Nat) (seq : Byte) : Prop :=
  boxServed s m = true ∧ (boxOf s m).state ≠ 1 ∧ seq.toNat = ((boxOf s m).seq + 1) % 256 ∧ servedIn op m = true ∧
    unserved s m = none ∧ exclusiveBusy s op = none ∧ stateGate s op = none

/-- The command of mailbox m runs with an outcome: status code, detail, response. -/
def Ended (t : State) (m op : Nat) (irq : Bool) (code : Nat) (detail : Reg) (resp : List Byte) : Prop :=
  (boxOf t m).state = 1 ∧ (boxOf t m).run = some ⟨op, irq, some ⟨code, detail, resp⟩, []⟩

/-- Outside mailbox m, t is s at tide `now`. -/
def BoxOnly (s : State) (now : Nat) (t : State) (m : Nat) : Prop :=
  { t with control := { t.control with boxes := s.control.boxes } } = atTide s now ∧ ∀ n, n ≠ m → boxOf t n = boxOf s n

/-- CFG_GEN rose by 1 (R448). -/
def GenRose (s t : State) : Prop := t.control.cfgGen = (s.control.cfgGen + 1) % 2 ^ 64

/-- The number in the parameters of a mailbox. -/
abbrev parameter (s : State) (m o n : Nat) : Nat := memNat (boxOf s m).params o n

end Sys2Proof
end

