-- ==== Sys2Proof/WellFormed.lean ====
section
/-! DEFINITION. Which commands have the form that the interfaces give them: lengths of frames, messages and accesses, symbols of a
codeword, readings of the dies. -/

namespace Sys2Proof

/-- Wrong symbols of a line: the line's address is a multiple of 64, each symbol of the 72 once, and wrong (R211). -/
def Upset.wf (u : Upset) : Bool :=
  u.addr % 64 = 0 && u.addr + 64 ≤ 0x024000000000 && u.syms.all (fun y => y.1 < 72 && y.2 != 0) && (u.syms.map (·.1)).Nodup

/-- A word of the core-local space that has changed (R44). -/
def SramUpset.wf (u : SramUpset) : Bool := 8 * u.word + 8 ≤ 0x640000

/-- A frame of Table 8-2: at most 4,096 bytes of payload area, of which at most all are VALID, or 20 body bytes. -/
def Frame.wf (f : Frame) : Bool := if f.size = 0 then f.body.length = 20 else f.body.length ≤ 4096 && f.valid.toNat ≤ f.body.length

/-- A message of Table 8-8: at most 8,192 bytes of payload. -/
def HMsg.wf (m : HMsg) : Bool := m.payload.length ≤ 8192

/-- Lengths of an access through the memory window (R420), and those that a flow context takes beside them (R422). -/
def windowLen (n : Nat) : Bool := 4 ≤ n && n ≤ 64 && n % 4 = 0

/-- A register access of R419: 4 or 8 bytes, naturally aligned; a mailbox takes 1 to 64 bytes within it. -/
def registerLen (off n : Nat) : Bool :=
  if off < 0x10000 then 1 ≤ n && n ≤ 64 && off % 0x1000 + n ≤ 0x1000 else (n = 4 || n = 8) && off % n = 0

/-- Readings of all 38 dies. -/
def allDies (ts : List (BitVec 16)) : Bool := ts.length = 38

/-- A command is well formed. -/
def Instr.wf : Instr → Bool
  | .load _ us => us.all Upset.wf
  | .store _ us => us.all SramUpset.wf
  | .patrolScrub _ us => us.all Upset.wf
  | .wipeVerifyDone _ us => us.all Upset.wf
  | .windowRead _ len us => 1 ≤ len && len ≤ 64 && us.all Upset.wf
  | .contributionAccept _ src us => src < 584 && us.all fun u => u < 2097152
  | .data _ f _ => f.wf
  | .signal _ f _ => f.wf
  | .ack _ f _ => f.wf
  | .nack _ f _ => f.1.wf && f.2.all Frame.wf
  | .ackTimeout f _ => f.2.all Frame.wf
  | .frameCrcFail _ f => f.1.wf
  | .badBlockBoundary a => a.2.length = 64
  | .unknownFrame _ f => f.wf
  | .ident _ f => f.wf
  | .lane _ f => f.wf
  | .marker _ f _ => f.wf
  | .scheduleTempoChange _ f => f.wf
  | .scheduleFrameState _ f => f.wf
  | .tempoReq _ f => f.wf
  | .barArrive _ f _ => f.wf
  | .barRelease _ f _ => f.wf
  | .harbourData m => m.wf
  | .harbourAck m => m.wf
  | .harbourNack m => m.wf
  | .harbourEnd m => m.wf
  | .harbourDigest m => m.wf
  | .fastPowerFrame frame w => frame.1.length = 16 && w.low ≤ w.high && w.high ≤ w.ballast
  | .thermalTrip ts _ => allDies ts
  | .wakePin _ _ _ ts => allDies ts
  | .windowWrite _ bytes _ => windowLen bytes.1.length
  | .flowContextWrite off bytes _ => 1 ≤ bytes.length && off.val % 64 + bytes.length ≤ 64
  | .registerWrite off bytes _ _ => registerLen off bytes.length
  | .jtagBusacc write off len bytes cycle =>
    let n := if write then bytes.length else len
    (if off.val < 0xC00000 then registerLen off n else 1 ≤ n && n ≤ 64) && cycle.2.1.length ≤ 64
  | .ledgerDoneMark k _ => k ≤ 2 * 36864
  | _ => true

end Sys2Proof
end

