-- ==== Sys2Proof/Certificates/Slice0/Obligations.lean ====
section
/-! DEFINITION. The statements for the provers. -/

open Sys2Proof Sys2Proof.Machine

/-! The block. -/

/-- A step takes the command at the front of the queue and runs it on the state with the rest of the queue. With no command waiting the
block idles, save that a SYSTEM_RESET that has completed takes its effect, and that a line which a short window write has merged is
written (R445, R421; that they wait for an idle step is the model's choice, logs 27 and 108). -/
def Obligations.StepRunsFrontCommand : Prop :=
  (∀ (s : State) (c : Instr) (cs : List Instr), s.pending = c :: cs → step s = exec c { s with pending := cs }) ∧
  (∀ s : State, s.pending = [] → s.memory.merging = none → (s.boot.resetDue = none ∨ s.boot.held ≠ 0 → step s = .next s) ∧
    (∀ d, s.boot.resetDue = some d → s.boot.held = 0 → ∃ t, step s = .next t ∧ t.boot.held = 1 ∧ t.boot.source = 5 ∧
      t.boot.sysCount = min 0xFFFFFFFF (s.boot.sysCount + 1) ∧ t.boot.resetDue = none ∧ t.meter = s.meter)) ∧
  (∀ (s : State) p bs, s.pending = [] → s.memory.merging = some (p, bs) → s.boot.resetDue = none → memOn s = true → s.memory.wipe = 0 →
    step s = .next (writeLine { s with memory := { s.memory with merging := none } } p bs true))

/-! The sequencer (02). -/

/-- NOP, FLAG_SET, FLAG_CLEAR, LOOP_SET, TIDE_ARM, JUMP and LOOP_BACK complete in one step (R45, R48, R66, R67, R69, R71): the flag, the loop
counter or the comparator takes its value, and a set of the flag in the same cycle prevails over FLAG_CLEAR and TIDE_ARM; the sequencer goes on at the next word, or at TARGET after JUMP and after LOOP_BACK
while its counter does not reach zero; a counter at 0 stays 0 and does not jump; everything else stays.
Choices of the model in it: logs 6, 40. -/
def Obligations.SequencerWordsComplete : Prop :=
  (∀ (c : Fin 576) (s : State), seqRuns s c = true → badWord (curWord (coreOf s c)) = false →
    let k := coreOf s c
    let w := curWord k
    let f := 1#8 <<< wfld w 53 3
    (opcodeOf w = 0x00 → Runs (.nop c) s (Stepped s c k)) ∧
    (opcodeOf w = 0x08 → Runs (.flagSet c) s (Stepped s c { k with flags := k.flags ||| f })) ∧
    (opcodeOf w = 0x09 → Runs (.flagClear c false) s (Stepped s c { k with flags := k.flags &&& ~~~f }) ∧
      Runs (.flagClear c true) s (Stepped s c { k with flags := k.flags ||| f })) ∧
    (opcodeOf w = 0x21 → Runs (.loopSet c) s (Stepped s c { k with lc := tblSet 0 k.lc (wfld w 53 3) (wfld w 0 32) })) ∧
    (let held := { k with target := some ((k.frameT + (wfld w 0 48 * k.frameQ + 2048) / 4096) % 2 ^ 64), armed := true }
     opcodeOf w = 0x18 → Runs (.tideArm (c, false)) s (Stepped s c { held with flags := k.flags &&& 0xFE }) ∧
      (k.armed = true → Runs (.tideArm (c, true)) s (Stepped s c { held with flags := k.flags ||| 1 })) ∧
      (k.armed = false → Runs (.tideArm (c, true)) s (Stepped s c { held with flags := k.flags &&& 0xFE })))) ∧
  (∀ (c : Fin 576) (s : State), seqRuns s c = true → badWord (curWord (coreOf s c)) = false →
    let k := coreOf s c
    let w := curWord k
    let n := tblGet 0 k.lc (wfld w 53 3)
    let k' := { k with lc := tblSet 0 k.lc (wfld w 53 3) (n - 1) }
    (opcodeOf w = 0x20 → Runs (.jump c) s (Jumped s c k (wfld w 0 15))) ∧
    (opcodeOf w = 0x22 → 1 < n → Runs (.loopBack c) s (Jumped s c k' (wfld w 0 15))) ∧
    (opcodeOf w = 0x22 → n ≤ 1 → Runs (.loopBack c) s (Stepped s c k')))

/-- SEM_ADD limits the sum to 65,535 and then sets SEM_OVF and F1 (R62, R65); SEM_SUB, SEM_WAIT and SEM_WAIT_SUB complete once the
semaphore is at least N, and so does a wait that wakes (R63). A semaphore field of 63 names none. A SEM_SUB that would take the
semaphore below zero stops as undefined (R82); it sees an add of the inbound ferry in its cycle first (R65). -/
def Obligations.SemaphoreWordsComplete : Prop :=
  (∀ (c : Fin 576) (s : State), badWord (curWord (coreOf s c)) = false →
    let k := coreOf s c
    let w := curWord k
    let m := wfld w 50 6
    let n := wfld w 0 16
    let v := tblGet 0 k.sems m
    (seqRuns s c = true → opcodeOf w = 0x01 → Runs (.semAdd (alone c)) s (Stepped s c
      (if m = 63 then k
       else { k with
         sems := tblSet 0 k.sems m (min 65535 (v + n))
         err := if 65535 < v + n then k.err ||| 1 else k.err
         flags := if 65535 < v + n then k.flags ||| 2 else k.flags }))) ∧
    (seqRuns s c = true → opcodeOf w = 0x02 → m = 63 ∨ n ≤ v → Runs (.semSub (alone c)) s (Stepped s c
      (if m = 63 then k else { k with sems := tblSet 0 k.sems m (min 65535 v - n) }))) ∧
    (seqRuns s c = true → opcodeOf w = 0x03 → m = 63 ∨ n ≤ v → Runs (.semWait c) s (Stepped s c k)) ∧
    (seqRuns s c = true → opcodeOf w = 0x04 → m = 63 ∨ n ≤ v → Runs (.semWaitSub (alone c)) s (Stepped s c
      (if m = 63 then k else { k with sems := tblSet 0 k.sems m (min 65535 v - n) }))) ∧
    (seqWaits s c .sem = true → opcodeOf w = 0x03 → n ≤ v → Runs (.semWaitWake (alone c)) s (Stepped s c k)) ∧
    (seqWaits s c .sem = true → opcodeOf w = 0x04 → m ≠ 63 → n ≤ v → Runs (.semWaitWake (alone c)) s
      (Stepped s c { k with sems := tblSet 0 k.sems m (min 65535 v - n) }))) ∧
  (∀ (c : Fin 576) (s : State), seqRuns s c = true →
    let w := curWord (coreOf s c)
    let m := wfld w 50 6
    let v := tblGet 0 (coreOf s c).sems m
    opcodeOf w = 0x02 → badWord w = false → m ≠ 63 →
      (v < wfld w 0 16 → exec (.semSub (alone c)) s = .fault (.semUnderflow (keptOf s))) ∧
      (∀ a, s.adds.find? (fun a => a.core = c.val) = some a → a.sem = m → m < 48 → wfld w 0 16 ≤ min 65535 (v + a.n) →
        Runs (.semSub ⟨c, 1, [], []⟩) s fun t => t.adds = s.adds.erase a ∧
          tblGet 0 (coreOf t c).sems m = min 65535 (v + a.n) - wfld w 0 16))

/-- FLAG_WAIT continues once the flag equals VALUE and clears it with CLEAR_ON_WAKE, also against a set of the same cycle; FENCE continues once every engine of its mask is idle
with an empty queue (R68, Table 2-4); the wakes do the same. While the semaphore is below N, the flag differs from VALUE, an engine
of the mask is busy or the queue is full, the sequencer stops at its word (R54, R63). -/
def Obligations.WaitingWordsWaitAndWake : Prop :=
  (∀ (c : Fin 576) (s : State), badWord (curWord (coreOf s c)) = false →
    let k := coreOf s c
    let w := curWord k
    let n := wfld w 53 3
    let met := k.flags.getLsbD n = decide (wfld w 51 1 = 1)
    let after := if wfld w 52 1 = 1 then { k with flags := k.flags &&& ~~~(1#8 <<< n) } else k
    let metToo := met ∨ wfld w 51 1 = 1
    let afterToo := if wfld w 52 1 = 1 then { k with flags := k.flags &&& ~~~(1#8 <<< n) } else { k with flags := k.flags ||| (1#8 <<< n) }
    (seqRuns s c = true → opcodeOf w = 0x0A → (met → Runs (.flagWait (c, false)) s (Stepped s c after)) ∧
      (metToo → Runs (.flagWait (c, true)) s (Stepped s c afterToo))) ∧
    (seqWaits s c .flag = true → (met → Runs (.flagWaitWake (c, false)) s (Stepped s c after)) ∧
      (metToo → Runs (.flagWaitWake (c, true)) s (Stepped s c afterToo))) ∧
    (seqRuns s c = true → opcodeOf w = 0x28 → maskIdle k (wfld w 50 6) = true → Runs (.fence c) s (Stepped s c k)) ∧
    (seqWaits s c .fence = true → maskIdle k (wfld w 50 6) = true → Runs (.fenceRelease c) s (Stepped s c k))) ∧
  (∀ (c : Fin 576) (s : State), seqRuns s c = true → badWord (curWord (coreOf s c)) = false →
    let k := coreOf s c
    let w := curWord k
    (opcodeOf w = 0x03 → wfld w 50 6 ≠ 63 → tblGet 0 k.sems (wfld w 50 6) < wfld w 0 16 →
      Runs (.semWait c) s (Waiting s c .sem)) ∧
    (opcodeOf w = 0x04 → wfld w 50 6 ≠ 63 → tblGet 0 k.sems (wfld w 50 6) < wfld w 0 16 →
      Runs (.semWaitSub (alone c)) s (Waiting s c .sem)) ∧
    (opcodeOf w = 0x0A → k.flags.getLsbD (wfld w 53 3) ≠ decide (wfld w 51 1 = 1) → Runs (.flagWait (c, false)) s (Waiting s c .flag)) ∧
    (opcodeOf w = 0x28 → maskIdle k (wfld w 50 6) = false → Runs (.fence c) s (Waiting s c .fence)) ∧
    (opcodeOf w = 0x10 → 8 ≤ (engineOf k (wfld w 53 3)).queue.length → Runs (.issue c) s (Waiting s c .issue)))

/-- An ISSUE whose engine queue holds fewer than 8 descriptors copies the 64 bytes at the descriptor's slot, its wait and signal fields
and the comparator's target into the queue (R53–R55); so does an ISSUE that waited for a place. -/
def Obligations.IssueFillsQueue : Prop :=
  ∀ (c : Fin 576) (s : State), badWord (curWord (coreOf s c)) = false →
    let k := coreOf s c
    let w := curWord k
    let e := wfld w 53 3
    let g := engineOf k e
    let q : QEntry := ⟨BitVec.ofNat 512 (memNat k.sram (0x600000 + 64 * wfld w 0 12) 64), wfld w 47 6, wfld w 31 16,
      wfld w 30 1 = 1, wfld w 24 6, wfld w 16 8, wfld w 15 1 = 1, k.target, [], []⟩
    let done := fun (t : State) => OnlyCore s t c ∧ Fetched k (coreOf t c) ∧ (coreOf t c).wait = .none ∧
      SameData { k with engines := tblSet engineIdle k.engines e { g with queue := g.queue ++ [q] } } (coreOf t c) ∧
      (k.pc < 32767 → (coreOf t c).pc = k.pc + 1) ∧ (coreOf t c).mode = k.mode
    g.queue.length < 8 →
      (seqRuns s c = true → opcodeOf w = 0x10 → Runs (.issue c) s done) ∧
      (seqWaits s c .issue = true → Runs (.issueQueueAccept c) s done)

/-- STEP_END waits; HALT stops the sequencer; a word that R47 refuses sets BAD_CMD and F1 and halts at the word (R47, R50, R52). -/
def Obligations.EndingWordsComplete : Prop :=
  ∀ (c : Fin 576) (s : State), seqRuns s c = true →
    let k := coreOf s c
    let w := curWord k
    (opcodeOf w = 0x38 → badWord w = false → Runs (.stepEnd c) s (Waiting s c .stepEnd)) ∧
    (opcodeOf w = 0x3F → badWord w = false → Runs (.halt c) s fun t =>
      OnlyCore s t c ∧ SameData k (coreOf t c) ∧ Fetched k (coreOf t c) ∧ (coreOf t c).mode = .halted ∧ (coreOf t c).pc = k.pc) ∧
    (badWord w = true → Runs (.badCmd c) s fun t =>
      OnlyCore s t c ∧ SameData k (coreOf t c) ∧ (coreOf t c).mode = .halted ∧ (coreOf t c).pc = k.pc ∧
        (coreOf t c).err.getLsbD 1 = true ∧ (coreOf t c).flags = k.flags ||| 2 ∧
        ∀ b, b ≠ 1 → b ≠ 4 → (coreOf t c).err.getLsbD b = k.err.getLsbD b)

/-- A BARRIER word sends one arrival with the step of the core's frame (R75, R292). The arrival raises an isle or package counter; at
EXPECT the count returns to 0 and each member's inbound ferry is told once to add 1; a counter whose EXPECT is 0 discards the
arrival and sets BAR_CFG (R76), and so does a pod counter, whose other arrivals count up to the package's share (R292). The comparator sets F0 once the local tide is at or past the target (R72). The oldest add sent to a
core reaches its semaphore by the rule of SEM_ADD, and a core under reset discards it (R61, R62, R464).
Choices of the model in it: log 1. -/
def Obligations.BarriersTargetsAndInboundAdds : Prop :=
  ((∀ (c : Fin 576) (s : State), seqRuns s c = true →
    let k := coreOf s c
    let w := curWord k
    opcodeOf w = 0x30 → badWord w = false → Runs (.barrier c) s
      (Stepped { s with bars := { s.bars with transit := s.bars.transit ++ [⟨c, wfld w 54 2, wfld w 48 6, k.frameStep⟩] } } c k)) ∧
  (∀ (c : Fin 576) (now : Nat) (s : State) (a : Arrival), alive s = true →
    s.bars.transit.find? (fun a => a.core = c.val) = some a → a.scope = 0 ∨ a.scope = 1 →
    let key := 64 * (a.core / 144) + a.index
    let b := if a.scope = 0 then tblGet barReset s.bars.isle key else tblGet barReset s.bars.pkg a.index
    let base := { s with tide := { s.tide with now := max s.tide.now now },
                         bars := { s.bars with transit := s.bars.transit.erase a } }
    let put := fun (x : Bar) => if a.scope = 0 then { base with bars := { base.bars with isle := tblSet barReset s.bars.isle key x } }
      else { base with bars := { base.bars with pkg := tblSet barReset s.bars.pkg a.index x } }
    let members := if a.scope = 0 then b.members <<< (144 * (a.core / 144)) else b.members
    let grown := s.adds ++ ((List.range 576).filter fun x => members.testBit x && decide (b.relSem < 48)).map fun x => ⟨x, b.relSem, 1⟩
    (b.expect = 0 → Runs (.barrierArrival c now) s fun t =>
      t = modCore base a.core fun k => { k with err := k.err ||| (1#32 <<< errBarCfg), flags := k.flags ||| 2 }) ∧
    (b.count + 1 < b.expect → Runs (.barrierArrival c now) s fun t => t = put { b with count := b.count + 1 }) ∧
    (0 < b.expect → b.expect ≤ b.count + 1 → a.scope = 0 → Runs (.barrierArrival c now) s fun t =>
      { t with adds := s.adds } = put { b with count := 0 } ∧ t.adds = grown) ∧
    (0 < b.expect → b.expect ≤ b.count + 1 → a.scope = 1 → Runs (.barrierArrival c now) s fun t =>
      t.bars.pkg = tblSet barReset s.bars.pkg a.index { b with count := 0 } ∧ t.bars.isle = s.bars.isle ∧
        t.bars.transit = s.bars.transit.erase a ∧ t.adds = grown ∧ t.cores = s.cores)) ∧
  (∀ (c : Fin 576) (now : Nat) (s : State) (a : Arrival), alive s = true →
    s.bars.transit.find? (fun a => a.core = c.val) = some a → a.scope = 2 →
    let base := { s with tide := { s.tide with now := max s.tide.now now },
                         bars := { s.bars with transit := s.bars.transit.erase a } }
    let n := podCount s a.index a.step
    (podExpect s a.index = 0 → Runs (.barrierArrival c now) s fun t =>
      t = modCore base a.core fun k => { k with err := k.err ||| (1#32 <<< errBarCfg), flags := k.flags ||| 2 }) ∧
    (podExpect s a.index ≠ 0 → n.arrivals + 1 ≠ podShare s a.index → Runs (.barrierArrival c now) s fun t =>
      t = putCount base { n with arrivals := n.arrivals + 1 }))) ∧
  ((∀ (c : Fin 576) (now g : Nat) (s : State), coreOn s c = true → (coreOf s c).armed = true → (coreOf s c).target = some g →
    g ≤ max s.tide.now now → Runs (.tideTargetReached c now) s fun t =>
      { t with cores := s.cores } = { s with tide := { s.tide with now := max s.tide.now now } } ∧
      (∀ x, x ≠ c.val → coreOf t x = coreOf s x) ∧
      coreOf t c = { coreOf s c with flags := (coreOf s c).flags ||| 1, armed := false }) ∧
  (∀ (c : Fin 576) (s : State) (a : Add), s.adds.find? (fun a => a.core = c.val) = some a →
    let k := coreOf s c
    let v := tblGet 0 k.sems a.sem
    (coreOn s c = true → a.sem < 48 → Runs (.inboundAdd c) s fun t =>
      { t with cores := s.cores } = { s with adds := s.adds.erase a } ∧ (∀ x, x ≠ c.val → coreOf t x = coreOf s x) ∧
      coreOf t c = { k with
        sems := tblSet 0 k.sems a.sem (min 65535 (v + a.n))
        err := if 65535 < v + a.n then k.err ||| 1 else k.err
        flags := if 65535 < v + a.n then k.flags ||| 2 else k.flags }) ∧
    (alive s = true → k.mode = .wiping → Runs (.inboundAdd c) s fun t => t = { s with adds := s.adds.erase a })))

/-! Descriptors and their engines (02, 06, 07, 08). -/

/-- The head of an engine's queue starts once the engine is free, its semaphore is at least WAIT_N and its held target is reached, and
not before; CONSUME subtracts WAIT_N (R55, R65). A wrong descriptor sets DESC_BAD and completes (R57); one whose ranges lie in no
one memory, or that writes what another descriptor in flight writes, stops as undefined (R83, R84). A late launch is counted (R74,
R80). Choices of the model in it: logs 2, 10, 17, 22, 39, 102. -/
def Obligations.DescriptorsStart : Prop :=
  ∀ (c : Fin 576) (e : Fin 6) (now : Nat) (s : State) (q : QEntry) (rest : List QEntry),
    coreOn s c = true → engineOf (coreOf s c) e = ⟨q :: rest, none⟩ →
    let k := coreOf s c
    let n := max s.tide.now now
    let s0 := atTide s now
    let v := tblGet 0 k.sems q.waitSem
    let start := Instr.descriptorStart (alone c) e now
    (q.waitSem ≠ 63 → v < q.waitN → exec start s = .next s0) ∧
    (∀ g, q.tideHold = true → q.target = some g → n < g → exec start s = .next s0) ∧
    ((q.waitSem = 63 ∨ q.waitN ≤ min 65535 v) → (∀ g, q.tideHold = true → q.target = some g → g ≤ n) →
      let k1 := if q.consume = true ∧ q.waitSem ≠ 63 then { k with sems := tblSet 0 k.sems q.waitSem (min 65535 v - q.waitN) } else k
      let x := startCheck s0 k1 e q.desc
      let k2 := sramTouches k1 x.touch
      let clashes := writesClash s c e q.seen x.writes || landsClash s q.seenAbroad x.lands
      (lateLaunch k q n = false →
        (x.bad = true → Runs start s fun t => OnlyCore s0 t c ∧
          coreOf t c = coreErr (setEngine k2 e ⟨rest, some ⟨q, .ready, [], [], []⟩⟩) errDescBad) ∧
        (x.bad = false → x.inside = false → exec start s = .fault (.sramRange (keptOf s))) ∧
        (x.bad = false → x.inside = true → clashes = true → exec start s = .fault (.writeOverlap (keptOf s))) ∧
        (x.bad = false → x.inside = true → clashes = false → Runs start s fun t => OnlyCore s0 t c ∧
          coreOf t c = setEngine k2 e ⟨rest, some ⟨q, if x.idle then .ready else .work, x.writes, x.lands, x.recs⟩⟩)) ∧
      (lateLaunch k q n = true → x.bad = true ∨ (x.inside = true ∧ clashes = false) → Runs start s fun t =>
        (coreOf t c).lateCnt = (k.lateCnt + 1) % 2 ^ 48 ∧ (engineOf (coreOf t c) e).queue = rest ∧
        (engineOf (coreOf t c) e).run.isSome = true ∧ ∀ x, x ≠ c.val → coreOf t x = coreOf s x))

/-- A descriptor that is ready, or a transfer whose frames are all taken, completes: the engine is free and adds SIG_N to SIG_SEM by
the rule of SEM_ADD (R56, R62, Table 2-6). Those still in flight remember what it wrote (R83). -/
def Obligations.DescriptorsComplete : Prop :=
  ∀ (c : Fin 576) (e : Fin 6) (s : State) (r : Run), coreOn s c = true → (engineOf (coreOf s c) e).run = some r →
    let k := coreOf s c
    let v := tblGet 0 k.sems r.entry.sigSem
    let signals := r.entry.sigSem < 48
    let spills := signals ∧ 65535 < v + r.entry.sigN
    (r.phase = .ready ∨ (r.phase = .sending ∧ framesWait s c (fFlow r.entry.desc) = false)) →
    Runs (.descriptorComplete c e) s fun t => OnlyCoreSeen s t c ∧
      bareEngine (engineOf (coreOf t c) e) = bareEngine { engineOf k e with run := none } ∧
      (∀ g, g ≠ e.val → bareEngine (engineOf (coreOf t c) g) = bareEngine (engineOf k g)) ∧
      (signals → tblGet 0 (coreOf t c).sems r.entry.sigSem = min 65535 (v + r.entry.sigN)) ∧
      (∀ m, ¬ (signals ∧ m = r.entry.sigSem) → tblGet 0 (coreOf t c).sems m = tblGet 0 k.sems m) ∧
      (spills → (coreOf t c).err = k.err ||| 1 ∧ (coreOf t c).flags = k.flags ||| 2) ∧
      (¬ spills → (coreOf t c).err = k.err ∧ (coreOf t c).flags = k.flags) ∧
      { coreOf t c with engines := k.engines, sems := k.sems, err := k.err, flags := k.flags, changed := k.changed } = k

/-- A load moves its rows from package memory into the core's SRAM; nothing else of the SRAM changes, package memory keeps its data
(R58, Table 2-7). From memory without errors each byte arrives that no later row overwrites. A row that reaches the drain slot of
a running drain stops as undefined (R144).
A store moves its rows from the core's SRAM to package memory: outside the rows package memory reads as before, and each byte of a
row that no later row overwrites reads as the SRAM held it (R58, R207, Table 2-7). Choices of the model in it: log 11. -/
def Obligations.LoadsAndStoresMoveRows : Prop :=
  (∀ (c : Fin 576) (us : List Upset) (s : State) (r : Run), coreOn s c = true → memOn s = true →
    (engineOf (coreOf s c) 2).run = some r → r.phase = .work →
    let k := coreOf s c
    let d := r.entry.desc
    (touchesDrainSlot k (lsSramRows d) = true → exec (.load c us) s = .fault (.drainSlotWrite (keptOf s))) ∧
    (touchesDrainSlot k (lsSramRows d) = false →
      (Runs (.load c us) s fun t => DoneRun t c 2 k r ∧ EngineFrame k (coreOf t c) 2 ∧ SramSame k (coreOf t c) (lsSramRows d) ∧
        MemSame s t [] ∧ ∀ x, x ≠ c.val → coreOf t x = coreOf s x) ∧
      (us = [] → CleanMemory s → lsBytes d % 64 = 0 → (∀ n < lsRows d, inMem (lsMem d + n * lsMemStride d) (lsBytes d) = true) →
        Runs (.load c us) s fun t => ∀ n < lsRows d, ∀ i < lsBytes d,
          let a := lsSram d + n * lsSramStride d + i
          (∀ m, n < m → m < lsRows d → ¬ (lsSram d + m * lsSramStride d ≤ a ∧ a < lsSram d + m * lsSramStride d + lsBytes d)) →
            memGet (coreOf t c).sram a = memGet s.memory.data (lsMem d + n * lsMemStride d + i)))) ∧
  (∀ (c : Fin 576) (s : State) (r : Run), coreOn s c = true → memOn s = true →
    (engineOf (coreOf s c) 3).run = some r → r.phase = .work → lsStash r.entry.desc = false → lsBytes r.entry.desc % 64 = 0 →
    let k := coreOf s c
    let d := r.entry.desc
    (Runs (.store c []) s fun t => DoneRun t c 3 k r ∧ EngineFrame k (coreOf t c) 3 ∧ SramSame k (coreOf t c) [] ∧
      MemSame s t (rowRanges (lsMem d) (lsMemStride d) (lsRows d) (lsBytes d)) ∧ ∀ x, x ≠ c.val → coreOf t x = coreOf s x) ∧
    ((∀ i, (stackOf s i).state ≠ 2) → (∀ n < lsRows d, inMem (lsMem d + n * lsMemStride d) (lsBytes d) = true) →
      Runs (.store c []) s fun t => ∀ n < lsRows d, ∀ i < lsBytes d,
        let a := lsMem d + n * lsMemStride d + i
        (∀ m, n < m → m < lsRows d → ¬ (lsMem d + m * lsMemStride d ≤ a ∧ a < lsMem d + m * lsMemStride d + lsBytes d)) →
          memGet t.memory.data a = memGet k.sram (lsSram d + n * lsSramStride d + i)))

/-- A stash write completes and leaves the SRAM as it was (R192). An anchor whose capacity holds the data gets it at DATA_ADDR, and
its record says so: STATE present, DEPTH 0, LENGTH (R193). Choices of the model in it: logs 11, 56. -/
def Obligations.StashWriteFillsAnchor : Prop :=
  ∀ (c : Fin 576) (s : State) (r : Run), coreOn s c = true → memOn s = true →
    (engineOf (coreOf s c) 3).run = some r → r.phase = .work → lsStash r.entry.desc = true →
    let k := coreOf s c
    let d := r.entry.desc
    let m := s.memory.data
    let rec_ := stashRecord d
    let place := memNat m (rec_ + 8) 8 / 64 * 64
    (Runs (.stashWrite c) s fun t => DoneRun t c 3 k r ∧ (coreOf t c).sram = k.sram ∧ ∀ x, x ≠ c.val → coreOf t x = coreOf s x) ∧
    (CleanMemory s → lsBytes d % 64 = 0 → 0 < lsRows d → inMem rec_ 128 = true → inMem place (lsLen d) = true →
      overlap place (lsLen d) rec_ 128 = false → (memGet m rec_).getLsbD 2 = true → lsLen d ≤ memNat m (rec_ + 24) 8 →
      Runs (.stashWrite c) s fun t =>
        MemSame s t [(place, lsLen d), (rec_, 2), (rec_ + 16, 8)] ∧ (coreOf t c).stashSkip = k.stashSkip ∧
        (∀ n < lsRows d, ∀ i < lsBytes d,
          memGet t.memory.data (place + n * lsBytes d + i) = memGet k.sram (lsSram d + n * lsSramStride d + i)) ∧
        (memGet t.memory.data rec_).toNat = (memGet m rec_).toNat / 4 * 4 + 1 ∧
        (memGet t.memory.data (rec_ + 1)).toNat = (memGet m (rec_ + 1)).toNat / 8 * 8 ∧
        memNat t.memory.data (rec_ + 16) 8 = lsLen d)

/-- A pull copies bytes of another core's SRAM into this core's; a source core under reset reads as zeros (R60, R464). A destination in
the drain slot of a running drain stops as undefined (R144). Choices of the model in it: logs 11, 101. -/
def Obligations.PullCopies : Prop :=
  ∀ (c : Fin 576) (s : State) (r : Run), coreOn s c = true → (engineOf (coreOf s c) 4).run = some r → r.phase = .work →
    let k := coreOf s c
    let d := r.entry.desc
    let src := coreField (pSrc d)
    (hitsDrainSlot k (pDst d) (fLen d) = true → exec (.pull c) s = .fault (.drainSlotWrite (keptOf s))) ∧
    (hitsDrainSlot k (pDst d) (fLen d) = false → Runs (.pull c) s fun t =>
      DoneRun t c 4 k r ∧ EngineFrame k (coreOf t c) 4 ∧ SramSame k (coreOf t c) [(pDst d, fLen d)] ∧
      (∀ i < fLen d, memGet (coreOf t c).sram (pDst d + i) =
        if coreResetting s src then 0 else memGet (coreOf s src).sram (pSrcAddr d + i)) ∧
      { t with cores := s.cores } = s ∧ ∀ x, x ≠ c.val → (coreOf t x).sram = (coreOf s x).sram ∧ (x ≠ src → coreOf t x = coreOf s x))

/-- Transfers over an armed local context (R59, R61, R219, R247, R248): OP 0 lands in the destination core's SRAM, OP 1 in package memory,
OP 2 goes frame by frame to its controller behind those of the core that wait, OP 3 moves nothing; OP 0, 1 and 3 send the semaphore add. Over an armed context of a
strait the frames wait on the context; over a context that has faulted nothing is sent. Choices of the model in it: logs 10, 18, 51, 101. -/
def Obligations.FerriesComplete : Prop :=
  ∀ (c : Fin 576) (s : State) (r : Run), coreOn s c = true → (engineOf (coreOf s c) 5).run = some r → r.phase = .work →
    let k := coreOf s c
    let d := r.entry.desc
    let x := flowOf s (fFlow d)
    let dest := cOutFlow x
    let dc := coreField dest
    let row := fun (i : Instr) => (fOp d = 0 ∧ i = .ferryWriteSram c) ∨ (fOp d = 1 ∧ i = .ferryWriteMemory c) ∨
      (fOp d = 2 ∧ i = .remoteAccumulate c) ∨ (fOp d = 3 ∧ i = .ferrySignal c)
    let add : List Add := if coreFieldOk dest = true ∧ fDestSem d < 48 then [⟨dc, fDestSem d, fDestN d⟩] else []
    let self := setCore s c (setPhase (sramTouch k (fSram d) (fBytes d)) 5 .ready)
    (∀ i, row i → cState x ≠ 2 → Runs i s fun t => OnlyCore s t c ∧ coreOf t c = setPhase k 5 .ready) ∧
    (∀ i, row i → cState x = 2 → cRole x ≠ 3 → Runs i s fun t => OnlyCore { s with straits := t.straits } t c ∧
      (rtOf t (fFlow d)).txq = (rtOf s (fFlow d)).txq ++ (ferryFrames s k d).map (⟨some c.val, ·⟩) ∧
      (∀ f, f ≠ fFlow d → rtOf t f = rtOf s f) ∧ { t.straits with rt := s.straits.rt } = s.straits ∧
      (engineOf (coreOf t c) 5).run = some { r with phase := .sending }) ∧
    (cState x = 2 → cRole x = 3 →
      (fOp d = 0 → coreFieldOk dest = true → coreResetting s dc = false → sramOk (fDest d) (fBytes d) = true →
        hitsDrainSlot (coreOf s dc) (fDest d) (fBytes d) = false →
        Runs (.ferryWriteSram c) s fun t => t.adds = s.adds ++ add ∧ { t with adds := s.adds, cores := s.cores } = s ∧
          SramSame (coreOf self dc) (coreOf t dc) [(fDest d, fBytes d)] ∧
          (∀ i < fBytes d, memGet (coreOf t dc).sram (fDest d + i) = memGet k.sram (fSram d + i)) ∧
          ∀ x, x ≠ dc → coreOf t x = coreOf self x) ∧
      (fOp d = 0 → coreFieldOk dest = true → coreResetting s dc = true →
        Runs (.ferryWriteSram c) s fun t => t = { self with adds := s.adds ++ add }) ∧
      (fOp d = 1 → memOn s = true → (∀ i, (stackOf s i).state ≠ 2) → fDest d % 64 = 0 → fBytes d % 64 = 0 →
        Runs (.ferryWriteMemory c) s fun t => t.adds = s.adds ++ add ∧
          { t with adds := s.adds, cores := s.cores, memory := s.memory } = s ∧ t.cores = self.cores ∧
          MemSame s t [(fDest d, fBytes d)] ∧
          ∀ i < fBytes d, memGet t.memory.data (fDest d + i) = memGet k.sram (fSram d + i)) ∧
      (fOp d = 2 → Runs (.remoteAccumulate c) s fun t => OnlyCore { s with memory := t.memory } t c ∧
        (engineOf (coreOf t c) 5).run = some { r with phase := .sending } ∧
        { t.memory with inq := s.memory.inq, nextXfer := s.memory.nextXfer } = s.memory ∧
        t.memory.nextXfer = s.memory.nextXfer + 1 ∧
        inqOf t (8 + c) = inqOf s (8 + c) ++ (ferryFrames s k d).map (⟨fFlow d, some c.val, s.memory.nextXfer, ·⟩) ∧
        ∀ i, i ≠ 8 + c.val → inqOf t i = inqOf s i) ∧
      (fOp d = 3 → Runs (.ferrySignal c) s fun t => t = { self with adds := s.adds ++ add }))

/-! The matrix and clause engines (04, 05). -/

/-- A multiply-accumulate opens its context by ACC_INIT (R118): init 2 takes the counter of the descriptor, init 1 and a closed context
start from +0 with counter 0, else the context stays; then its K-steps follow (R111, R131). The SRAM stays, but that a tile which starts
from +0 and has no K-step is +0 in its slot (R141).
A K-step adds the rounded exact sum of its products to each element of the context's slot, plainly or with the compensated update
(R111–R114, R121–R124), counts a term up to 4,194,303 and sets BOUND_EXCEEDED past it (R125); the SRAM outside the slot stays.
Choices of the model in it: logs 46, 53. -/
def Obligations.MultiplyAccumulateUpdatesSlots : Prop :=
  (∀ (c : Fin 576) (s : State) (r : Run), coreOn s c = true → (engineOf (coreOf s c) 0).run = some r → r.phase = .work →
    let k := coreOf s c
    let d := r.entry.desc
    let x := ctxOf k (mCtx d)
    let anew := mInit d = 1 ∨ (mInit d = 0 ∧ x.isOpen = false)
    let slot := (slotAddr k (ctxSlot k (mCtx d)), slotBytes k)
    mOp d = 0 → Runs (.multiplyAccumulate c) s fun t => OnlyCore s t c ∧
      { coreOf t c with ctxs := k.ctxs, engines := k.engines, sram := k.sram, badWords := k.badWords } = k ∧
      (mSteps d ≠ 0 ∨ ¬ anew → (coreOf t c).sram = k.sram ∧ (coreOf t c).badWords = k.badWords) ∧
      (mSteps d = 0 → anew → SramSame k (coreOf t c) [slot] ∧ ∀ i < slot.2, memGet (coreOf t c).sram (slot.1 + i) = 0) ∧
      (mInit d = 2 → ctxOf (coreOf t c) (mCtx d) = ⟨true, decide (fld d 46 6 1 = 1), x.slot, mTerms d, false⟩) ∧
      (anew → ctxOf (coreOf t c) (mCtx d) = ⟨true, false, x.slot, 0, decide (mSteps d ≠ 0)⟩) ∧
      (mInit d = 0 → x.isOpen = true → ctxOf (coreOf t c) (mCtx d) = x) ∧
      (∀ n, n ≠ mCtx d → ctxOf (coreOf t c) n = ctxOf k n) ∧
      engineOf (coreOf t c) 0 = { engineOf k 0 with run := some { r with
        phase := if mSteps d ≠ 0 then .kStep 0 else if mDrainEn d then .handoff else .ready } }) ∧
  (∀ (c : Fin 576) (s : State) (r : Run) (j : Nat), coreOn s c = true → (engineOf (coreOf s c) 0).run = some r → r.phase = .kStep j →
    let k := coreOf s c
    let d := r.entry.desc
    let x := ctxOf k (mCtx d)
    let slot := ctxSlot k (mCtx d)
    let ks := span (128 * j) (min 128 (mK d - 128 * j))
    Runs (.kStepUpdate c) s fun t => OnlyCore s t c ∧
      SramSame k (coreOf t c) [(slotAddr k slot, slotBytes k)] ∧
      ctxOf (coreOf t c) (mCtx d) =
        { x with zero := false, terms := min 4194303 (x.terms + 1), bound := x.bound || decide (x.terms = 4194303) } ∧
      (∀ n, n ≠ mCtx d → ctxOf (coreOf t c) n = ctxOf k n) ∧
      engineOf (coreOf t c) 0 = { engineOf k 0 with run := some { r with
        phase := if j + 1 < mSteps d then .kStep (j + 1) else if mDrainEn d then .handoff else .ready } } ∧
      ∀ a < shapeRows k.shape, ∀ b < shapeCols k.shape,
        let e := a * shapeCols k.shape + b
        let sum := treeSum (ks.map (operandElem k (operandA k d) a)) (ks.map (operandElem k (operandB k d) b))
        let h := tileElem k x.zero false slot e
        let l := tileElem k x.zero true slot e
        (k.comp = false → memNat (coreOf t c).sram (headAddr k slot e) 4 = toF32 (rnz (fvAdd h sum)) % 2 ^ 32) ∧
        (k.comp = true → memNat (coreOf t c).sram (headAddr k slot e) 4 = toF32 (updateComp h l sum).1 % 2 ^ 32 ∧
          memNat (coreOf t c).sram (tailAddr k slot e) 4 = toF32 (updateComp h l sum).2 % 2 ^ 32))

/-- A handoff waits while a drain runs; then the context's slot and the drain slot exchange, the context closes and the drain takes its
counter and bound bit (R119, R120). No byte of the SRAM changes. A wrong DRAIN_DESC is DESC_BAD (R130); outputs in bytes that a
descriptor in flight writes stop as undefined (R83, R139).
A drain ends: it writes only its output, scales and status word, the status word and ACC_DRAIN_STAT show the tile's counter, bound bit
and context, DRAIN_SEM gains DRAIN_N, and F2 is set if asked (R132, R138, Table 4-10). Choices of the model in it: logs 2, 10, 16, 53. -/
def Obligations.DrainsHandOffAndEnd : Prop :=
  (∀ (c : Fin 576) (s : State) (r : Run), coreOn s c = true → (engineOf (coreOf s c) 0).run = some r →
    let k := coreOf s c
    let d := r.entry.desc
    let dd := handoffDesc k d
    let k1 := if mOp d = 1 then k else sramTouch k (0x600000 + 64 * mDrainDesc d) 64
    let i := handoffCtx d
    let x := ctxOf k i
    (r.phase = .work → mOp d = 1 → Runs (.matrixDrain c) s fun t => OnlyCore s t c ∧ coreOf t c = setPhase k 0 .handoff) ∧
    (r.phase = .handoff → k.drain.isSome = true → exec (.handoff c) s = .next s) ∧
    (r.phase = .handoff → k.drain = none →
      (mOp d ≠ 1 → (drainBad k1 dd || drainAbsent s dd) = true → Runs (.handoff c) s fun t => OnlyCore s t c ∧
        coreOf t c = setPhase (coreErr k1 errDescBad) 0 .ready) ∧
      ((mOp d = 1 ∨ (drainBad k1 dd || drainAbsent s dd) = false) → (drainOutputs k1 dd ++ drainInputs k1 dd).all inOperands = true →
        writesClash s c 6 [] (drainOutputs k1 dd) = true → exec (.handoff c) s = .fault (.writeOverlap (keptOf s))) ∧
      ((mOp d = 1 ∨ (drainBad k1 dd || drainAbsent s dd) = false) → (drainOutputs k1 dd ++ drainInputs k1 dd).all inOperands = true →
        writesClash s c 6 [] (drainOutputs k1 dd) = false →
        Runs (.handoff c) s fun t => OnlyCore s t c ∧ DoneRun t c 0 k r ∧ (coreOf t c).sram = k.sram ∧
          (coreOf t c).drainSlot = ctxSlot k i ∧ ctxSlot (coreOf t c) i = k.drainSlot ∧
          (ctxOf (coreOf t c) i).isOpen = false ∧ (ctxOf (coreOf t c) i).terms = 0 ∧ (ctxOf (coreOf t c) i).bound = false ∧
          (∀ n, n ≠ i → ctxOf (coreOf t c) n = ctxOf k n) ∧
          ∃ dr, (coreOf t c).drain = some dr ∧ dr.desc = dd ∧ dr.ctx = i ∧ dr.terms = (if x.isOpen then x.terms else 0) ∧
            dr.bound = (x.isOpen && x.bound)))) ∧
  (∀ (c : Fin 576) (s : State) (dr : Drain), coreOn s c = true → (coreOf s c).drain = some dr →
    let k := coreOf s c
    let d := dr.desc
    let m := fldB d 36 1
    Runs (.drainEnd c) s fun t => OnlyCoreSeen s t c ∧ (coreOf t c).drain = none ∧ SramSame k (coreOf t c) (drainOutputs k d) ∧
      (m < 48 → tblGet 0 (coreOf t c).sems m = min 65535 (tblGet 0 k.sems m + fldB d 38 2)) ∧
      (∀ n, ¬ (m < 48 ∧ n = m) → tblGet 0 (coreOf t c).sems n = tblGet 0 k.sems n) ∧
      ((coreOf t c).flags.getLsbD 2 = (k.flags.getLsbD 2 || dSetF2 d)) ∧ (coreOf t c).ctxs = k.ctxs ∧
      (∃ sat nonfinite, (coreOf t c).drainStat = reg (drainStatus dr k.comp sat nonfinite)) ∧
      (dNoStatus d = false → memNat (coreOf t c).sram (dStatusAddr d) 4 = (coreOf t c).drainStat.toNat))

/-- After any drain, LAYOUT sets shape and mode, closes every context and restores the slot map, and a table load copies 8,256 bytes of
operand SRAM (R117, R136); while a drain runs both wait. No byte of the SRAM changes. Choices of the model in it: log 2. -/
def Obligations.LayoutAndTableLoadComplete : Prop :=
  ∀ (c : Fin 576) (s : State) (r : Run), coreOn s c = true → (engineOf (coreOf s c) 0).run = some r → r.phase = .work →
    let k := coreOf s c
    let d := r.entry.desc
    let k' := { k with shape := fldB d 2 1, comp := decide (fldB d 3 1 = 1), ctxs := [] }
    let table := some (memRead k.sram (tableAddr d) 8256)
    (mOp d = 2 → k.drain = none → Runs (.layout c) s fun t => OnlyCore s t c ∧ DoneRun t c 0 k r ∧
      { coreOf t c with engines := k.engines } = { k' with drainSlot := slotCount k' - 1 }) ∧
    (mOp d = 3 → k.drain = none → Runs (.matrixTableLoad c) s fun t => OnlyCore s t c ∧ DoneRun t c 0 k r ∧
      { coreOf t c with engines := k.engines, err := k.err, flags := k.flags } =
        (if fldB d 2 1 = 1 then { k with tab1 := table } else { k with tab2 := table })) ∧
    (mOp d = 2 → k.drain.isSome = true → exec (.layout c) s = .next s) ∧
    (mOp d = 3 → k.drain.isSome = true → exec (.matrixTableLoad c) s = .next s)

/-- A clause and a MERGE write nothing outside the ranges of their pass and show CLAUSE_STAT; a clause table load copies its table (R60,
R146, R163, R179–R181). Reduce and permute on one axis, a range in no one memory, a write of the drain slot or of what another
descriptor writes stop as undefined (R83, R84, R144, R185). Choices of the model in it: logs 10, 11, 16, 17, 102, 103. -/
def Obligations.ClauseRowsComplete : Prop :=
  ∀ (c : Fin 576) (s : State) (r : Run), coreOn s c = true → (engineOf (coreOf s c) 1).run = some r → r.phase = .work →
    let k := coreOf s c
    let d := r.entry.desc
    let start : Pass := ⟨k, [], [], [], [], false, false, 0⟩
    let merged := (rowsOf (recOf (recJ r.recs 0))).foldl (mergeUnit k d r.recs s.freeCtr) start
    let outside := fun (p : Pass) => !rangesOk (p.reads ++ p.wrote)
    let lands := fun (i : Instr) (p : Pass) =>
      (outside p = true → exec i s = .fault (.sramRange (keptOf s))) ∧
      (outside p = false → touchesDrainSlot k (writeRanges p.writes) = true → exec i s = .fault (.drainSlotWrite (keptOf s))) ∧
      (outside p = false → touchesDrainSlot k (writeRanges p.writes) = false →
        writesClash s c 1 r.entry.seen (writeRanges p.writes) = true → exec i s = .fault (.writeOverlap (keptOf s))) ∧
      (outside p = false → touchesDrainSlot k (writeRanges p.writes) = false →
        writesClash s c 1 r.entry.seen (writeRanges p.writes) = false →
        Runs i s fun t => OnlyCore s t c ∧ SramSame k (coreOf t c) (writeRanges p.writes) ∧
          (coreOf t c).clauseStat = clauseStatBits p.limited p.nonfinite ∧
          engineOf (coreOf t c) 1 = { engineOf k 1 with run := some { r with phase := .ready, writes := writeRanges p.writes } } ∧
          (coreOf t c).sems = k.sems ∧ (coreOf t c).pc = k.pc ∧ (coreOf t c).ctxs = k.ctxs)
    (cOp d = 0 → redPermuteOneAxis d = true → exec (.clause c) s = .fault (.reducePermute (keptOf s))) ∧
    (cOp d = 0 → redPermuteOneAxis d = false → lands (.clause c) (clausePass k d r.recs s.freeCtr)) ∧
    (cOp d = 2 → lands (.merge c) merged) ∧
    (cOp d = 1 → Runs (.clauseTableLoad c) s fun t => OnlyCore s t c ∧ DoneRun t c 1 k r ∧ (coreOf t c).sram = k.sram ∧
      (fldB d 2 1 = 1 → (coreOf t c).ctab1 = some (memRead k.sram (tableAddr d) 8256) ∧ (coreOf t c).ctab2 = k.ctab2) ∧
      (fldB d 2 1 ≠ 1 → (coreOf t c).ctab2 = some (memRead k.sram (tableAddr d) 8256) ∧ (coreOf t c).ctab1 = k.ctab1))

/-! Cores under reset (15). -/

/-- A core whose PC and ENGINE_BUSY have stood for CORE_US µs is reset: its state and SRAM read as after a core reset, the reset-cause block
names it (R466, R467, R483). The other cores stay.
A core's reset ends: without a job it stays under reset, with one it reads halted; after a watchdog CORE_ERR.WDOG and F1 are set (R465,
R467). A CORE_RESET that waited for this core alone has completed with OK (R464). Choices of the model in it: logs 1, 30, 84. -/
def Obligations.CoreResetsBeginAndEnd : Prop :=
  (∀ (c : Fin 576) (now : Nat) (s : State), islesOn s = true → jobRuns s = true → (coreOf s c).program = true → s.boot.wdogUs ≠ 0 →
    seqState s (coreOf s c) ∈ [1, 2, 3] → (coreOf s c).changed + 1000 * s.boot.wdogUs ≤ max s.tide.now now →
    Runs (.coreWatchdogExpiry c now) s fun t =>
      (coreOf t c).mode = .wiping ∧ (coreOf t c).sems = [] ∧ (coreOf t c).flags = 0 ∧ (coreOf t c).err = 0 ∧ (coreOf t c).sram = [] ∧
      (coreOf t c).engines = [] ∧ (coreOf t c).byWdog = true ∧ (∀ x, x ≠ c.val → coreOf t x = coreOf s x) ∧
      t.boot = { s.boot with lastCore := reg (256 * (c.val / 144) + c.val % 144 + 1024 * (c.val / 144) + 65536),
                             coreCount := min 0xFFFFFFFF (s.boot.coreCount + 1) }) ∧
  (∀ (c : Fin 576) (s : State), alive s = true → (coreOf s c).mode = .wiping →
    ((∀ m r, (boxOf s m).run = some r → r.waits.contains c.val = false) → Runs (.coreResetDone c) s fun t =>
      (s.job.state = 0 → (coreOf t c).mode = .reset) ∧ (s.job.state ≠ 0 → (coreOf t c).mode = .halted) ∧
      ((coreOf s c).byWdog = true → (coreOf t c).err.getLsbD 5 = true ∧ (coreOf t c).flags.getLsbD 1 = true) ∧
      ((coreOf s c).byWdog = false → (coreOf t c).err = (coreOf s c).err) ∧ t.control = s.control) ∧
    (∀ (m : Fin 16) r, (boxOf s m).run = some r → r.waits = [c.val] → memNat (boxOf s m).params 1 2 ≠ 0xFFFF →
      (∀ n r, n ≠ m.val → (boxOf s n).run = some r → r.waits.contains c.val = false) →
      Runs (.coreResetDone c) s fun t => (boxOf t m).run = some { r with waits := [], result := some ⟨0, 0, []⟩ }))

/-! The isthmus links (01). -/

/-- Start-up training settles every module by its failed lanes and brings up each link with 8 or more working modules; the others are
failed (R21, R24–R26, R28, R33). A failure declared on a watched lane begins a change of its module, or waits for the end of the one in
progress in the order of their declaration (R31); a replayed flit changes nothing but the parity count (R17, R29).
A module change applies its failure, the next one that waits begins the next change, and the link's bit of ISTH_EVENT is set (R31, R32).
The link is failed once fewer than 8 of its modules work, and a failed link stays failed (R28, R33).
Choices of the model in it: logs 15, 98, 100. -/
def Obligations.IsthmusRowsComplete : Prop :=
  ((∀ (failed : List LaneFail) (s : State), islesOn s = true → (∀ k < 4, linkState s k = 0) →
    Runs (.isthmusTrainingDone failed) s fun t =>
      (∀ k < 4, ∀ m < 16, isthMod t k m = trainMod s failed k m) ∧
      ∀ k < 4, linkState t k = if 8 ≤ workingMods t k then 1 else 2) ∧
  (∀ (k : Fin 4) (m : Fin 16) (rev : Bool) (lane : Fin 68) (now : Nat) (s : State), islesOn s = true → linkState s k ≠ 0 →
    let x := isthMod s k m
    let n := max s.tide.now now
    let d : LaneDecl := ⟨n / 1000000, 2 * lane + (if rev then 1 else 0)⟩
    let fails := fun (y : IsthModule) => Runs (.isthmusLaneFail k m (rev, lane) now) s fun t =>
      { isthMod t k m with parity := 0 } = { y with parity := 0 } ∧
      { t with isth := s.isth, freeCtr := s.freeCtr } = atTide s now ∧ t.isth.link = s.isth.link ∧ t.isth.event = s.isth.event ∧
      ∀ x y, x < 4 → y < 16 → (x, y) ≠ (k.val, m.val) → isthMod t x y = isthMod s x y
    watched x rev lane = true → declaredLane x d.order = false →
      (x.change = none → fails { x with change := some ⟨d, n⟩ }) ∧
      (∀ c, x.change = some c → c.since ≠ n ∨ declBefore d c.decl = false → fails { x with declared := addDecl d x.declared }) ∧
      (∀ c, x.change = some c → c.since = n → declBefore d c.decl = true →
        fails { x with change := some ⟨d, n⟩, declared := addDecl c.decl x.declared })) ∧
  (∀ (k : Fin 4) (m : Fin 16) (rev : Bool) (s : State), islesOn s = true → worksMod (isthMod s k m) = true →
    Runs (.isthmusFlitReplay k m rev) s fun t =>
      { isthMod t k m with parity := (isthMod s k m).parity } = isthMod s k m ∧
      { t with isth := s.isth, freeCtr := s.freeCtr } = s ∧ t.isth.link = s.isth.link)) ∧
  (∀ (k : Fin 4) (m : Fin 16) (now : Nat) (c : ModChange) (s : State), islesOn s = true → (isthMod s k m).change = some c →
    Runs (.isthmusModuleChangeEnd k m now) s fun t =>
      let x := isthMod s k m
      let y := applyLane x (decide (c.decl.order % 2 = 1)) (c.decl.order / 2)
      (x.declared = [] → isthMod t k m = { y with change := none }) ∧
      (∀ e es, x.declared = e :: es → isthMod t k m = { y with change := some ⟨e, max s.tide.now now⟩, declared := es }) ∧
      t.isth.event.getLsbD k = true ∧
      (linkState s k = 2 → linkState t k = 2) ∧ (linkState s k = 1 → linkState t k = if workingMods t k < 8 then 2 else 1) ∧
      (∀ x y, x < 4 → y < 16 → (x, y) ≠ (k.val, m.val) → isthMod t x y = isthMod s x y) ∧
      ∀ x, x ≠ k.val → linkState t x = linkState s x)

/-- One lane failure by Table 1-5: a module at full width stays there while each direction has a spare for each failed lane, then keeps the
half with fewer failed lanes that its spares cover, the low one when equal, else goes offline (R24–R27); at half width a failure of
an active lane takes it offline and another changes nothing but its record. Choices of the model in it: log 15. -/
def Obligations.LaneFailureSettlesModule : Prop :=
  ∀ (x : IsthModule) (rev : Bool) (lane : Fin 68), laneFailed x rev lane = false →
    let y := markLane x rev lane
    let z := applyLane x rev lane
    let load := fun (hi : Bool) => failedOf y false (halfLanes hi) + failedOf y true (halfLanes hi)
    let covers := fun (hi : Bool) => failedOf y false (halfLanes hi ++ spareLanes) ≤ 4 ∧ failedOf y true (halfLanes hi ++ spareLanes) ≤ 4
    z.failed = (if x.width = 1 ∨ x.width = 2 then y.failed else x.failed) ∧
    (x.width = 1 → failedAll y false ≤ 4 → failedAll y true ≤ 4 →
      z.width = 1 ∧ z.sparesFwd = failedOf y false (List.range 64) ∧ z.sparesRev = failedOf y true (List.range 64)) ∧
    (x.width = 1 → (4 < failedAll y false ∨ 4 < failedAll y true) →
      (covers false → (covers true → load false ≤ load true) → z.width = 2 ∧ z.halfSel = false) ∧
      (covers true → (covers false → load true < load false) → z.width = 2 ∧ z.halfSel = true) ∧
      (¬ covers false → ¬ covers true → z.width = 3)) ∧
    (x.width = 2 → activeHalf x rev lane = true → z.width = 3) ∧
    (x.width = 2 → activeHalf x rev lane = false → z = y) ∧ (x.width = 3 → z = x)

/-! The strait ports (08). -/

/-- Training of a port that is not up begins, or shows what keeps the port down: isolation, a laser fault, a laser module that the matching
qualified set does not list, a dark far end (R42, R236, R239). It ends up, or down with fewer than 8 lanes in a direction; a laser
fault and a dark far end take the port down, with its STRAIT_EVENT bit where it was up. Lanes that were declared failed stay out of use,
and a port that goes down while a job is armed stays down until the next arming (R238, R240). Choices of the model in it: logs 57, 104. -/
def Obligations.PortsTrainAndGoDown : Prop :=
  ∀ (p : Fin 8) (s : State),
    let k := portOf s p
    let why := fun (lit ok : Bool) => if k.isolated then 4 else if k.laserFault then 2 else if !ok then 3 else if !lit then 5 else 0
    let down := fun (t : State) (x : Port) (cause : Nat) => OthersAgree s t p ∧ (k.state = 2 → t.straits.event.getLsbD (8 + p) = true) ∧
      SamePort { x with
        state := 3, cause := cause, pauseTx := false, pauseRx := false, held := [], hunting := false
        failTx := x.failTx ||| x.newTx, failRx := x.failRx ||| x.newRx, newTx := 0, newRx := 0
        latched := x.latched || (armed s && decide (x.state = 1 ∨ x.state = 2)) } (portOf t p)
    (∀ lit laser, mayTrain s p = true → Runs (.portTraining p lit laser) s fun t => OnlyPort s t p ∧
      portOf t p = { k with farLit := lit, qualified := laserOk s laser, state := if why lit (laserOk s laser) = 0 then 1 else 3,
                            cause := why lit (laserOk s laser) }) ∧
    (∀ lit, mayTrain s p = true → k.state = 3 → k.cause = 5 → Runs (.portTrainingRetry p lit) s fun t => OnlyPort s t p ∧
      portOf t p = { k with farLit := lit, state := if why lit k.qualified = 0 then 1 else 3, cause := why lit k.qualified }) ∧
    (straitsOn s = true → Runs (.laserModuleFault p) s fun t => down t { k with laserFault := true } 2) ∧
    (straitsOn s = true → k.state = 1 ∨ k.state = 2 → Runs (.farEndDark p) s fun t => down t { k with farLit := false } 5) ∧
    (∀ rx tx, straitsOn s = true → k.state = 1 →
      let x := { k with trained := true, failRx := k.failRx ||| rx, failTx := k.failTx ||| tx }
      let enough := 8 ≤ activeLanes x.failRx ∧ 8 ≤ activeLanes x.failTx
      (enough → Runs (.portTrainingDone p rx tx) s fun t => OthersAgree s t p ∧
        SamePort { x with state := 2, cause := 0, rr := 0 } (portOf t p)) ∧
      (¬ enough → Runs (.portTrainingDone p rx tx) s fun t => down t x 1))

/-- A receive lane that loses lock, has corrected more than 4,096 symbols in 1 ms or has a second uncorrectable codeword within 1 ms is
declared failed, and a LANE frame tells the active lanes (R237); the far end's LANE frame declares transmit lanes; a lane change applies
what an interval declared, pauses the direction and takes the port down with fewer than 8 lanes (R238, R239). When the pause ends the
frames that waited leave; codeword errors are counted, and so is a bad block boundary, which starts the discarding of blocks (R237, R241).
Choices of the model in it: logs 58, 98, 104. -/
def Obligations.PortLanesAndErrors : Prop :=
  ∀ (p : Fin 8) (now : Nat) (s : State), straitsOn s = true → (portOf s p).state = 2 →
    let k := portOf s p
    let N := max s.tide.now now
    let laneTold := fun (t : State) (n : Fin 32) => (portOf t p).newRx = k.newRx ||| (1#32 <<< n.val) ∧ (portOf t p).failRx = k.failRx ∧
      OtherPorts s t p ∧ ∃ f : Frame, Leaves s t p [f] ∧ f.typ = 9 ∧
        bNat f.body 0 4 = (~~~ (k.failRx ||| (k.newRx ||| (1#32 <<< n.val)))).toNat ∧ bNat f.body 4 1 = 0
    let changed := fun (t : State) (x : Port) => OthersAgree s t p ∧ SamePort x (portOf t p) ∧ t.straits.event.getLsbD p = true
    (∀ (n : Fin 32) (c : Option Nat), (k.failRx ||| k.newRx).getLsbD n = false → 4096 < c.getD 4097 →
      Runs (.straitLaneFail p (n, c)) s fun t => laneTold t n) ∧
    (∀ (n : Fin 32) (c : Nat), c ≤ 4096 → Runs (.straitLaneFail p (n, some c)) s fun t => OnlyPort s t p ∧
      portOf t p = { k with corrected := tblSet 0 k.corrected n (min 0xFFFFFFFF (tblGet 0 k.corrected n + c)) }) ∧
    (∀ f : Frame, k.pauseRx = false → f.typ = 9 → frameGood f = true → bNat f.body 4 1 % 2 = 0 →
      Runs (.lane p f) s fun t => OnlyPort s t p ∧
        portOf t p = { k with hunting := false, newTx := k.newTx ||| (~~~ (reg (bNat f.body 0 4)) &&& ~~~ k.failTx) }) ∧
    (k.pauseRx = false → k.newRx ≠ 0 →
      (8 ≤ activeLanes (k.failRx ||| k.newRx) → Runs (.straitLaneChange p false now) s fun t =>
        changed t { k with failRx := k.failRx ||| k.newRx, newRx := 0, pauseRx := true }) ∧
      (activeLanes (k.failRx ||| k.newRx) < 8 → Runs (.straitLaneChange p false now) s fun t => OthersAgree s t p ∧
        (portOf t p).state = 3 ∧ (portOf t p).cause = 1 ∧ (portOf t p).failRx = k.failRx ||| k.newRx)) ∧
    (k.pauseTx = false → k.newTx ≠ 0 →
      (8 ≤ activeLanes (k.failTx ||| k.newTx) → Runs (.straitLaneChange p true now) s fun t =>
        changed t { k with failTx := k.failTx ||| k.newTx, newTx := 0, pauseTx := true }) ∧
      (activeLanes (k.failTx ||| k.newTx) < 8 → Runs (.straitLaneChange p true now) s fun t => OthersAgree s t p ∧
        (portOf t p).state = 3 ∧ (portOf t p).cause = 1 ∧ (portOf t p).failTx = k.failTx ||| k.newTx)) ∧
    (k.pauseRx = true → Runs (.laneChangePauseEnd p false now) s fun t =>
      OnlyPort (atTide s now) t p ∧ portOf t p = { k with pauseRx := false }) ∧
    (k.pauseTx = true → Runs (.laneChangePauseEnd p true now) s fun t =>
      OtherPorts s t p ∧ portOf t p = { k with pauseTx := false, held := [] } ∧ t.straits.flows = s.straits.flows ∧
        ∃ fs, Sent s t (fs ++ (k.held.map fun f => Out.frame p (sealFrame { f with stamp := BitVec.ofNat 64 N })).reverse)) ∧
    (∀ n : Fin 32,
      let last := tblGet 0 k.ueAt n
      let x := { k with fecUe := min 0xFFFFFFFF (k.fecUe + 1), ueAt := tblSet 0 k.ueAt n (N + 1)
                        codewords := tblSet 0 k.codewords n (min 0xFFFFFFFF (tblGet 0 k.codewords n + 1)) }
      (last = 0 ∨ last + 1000000 ≤ N + 1 → Runs (.uncorrectableCodeword p (n, now)) s fun t => OnlyPort (atTide s now) t p ∧
        portOf t p = x) ∧
      (last ≠ 0 → N + 1 < last + 1000000 → (k.failRx ||| k.newRx).getLsbD n = false →
        Runs (.uncorrectableCodeword p (n, now)) s fun t => laneTold t n)) ∧
    (∀ block, boundaryGood block = false → k.hunting = false → Runs (.badBlockBoundary (p, block)) s fun t => OnlyPort s t p ∧
      portOf t p = { k with fecUe := min 0xFFFFFFFF (k.fecUe + 1), hunting := true })

/-! Flows (08). -/

/-- DATA and SIGNAL frames (R249, R250, R252–R254, R257, R258): of another job they count as foreign, for a context that takes none as
unknown; in order they move RECV_SEQ by one and are forwarded, delivered or dropped by a faulted context, and what a sink accepts waits
behind the frames of its die that wait for a controller (R314); a duplicate is answered by an ACK and a gap by a NACK, and neither
changes the context. -/
def Obligations.SequencedFrames : Prop :=
  ∀ (p : Fin 8) (f : Frame) (now : Nat) (s : State), alive s = true → (portOf s p).state = 2 → (portOf s p).pauseRx = false →
    frameGood f = true →
    let i := frameFlow f
    let d := flowOf s i
    let n := max s.tide.now now
    let tag := s.straits.jobTag ≠ 0 ∧ f.jobTag.toNat = s.straits.jobTag
    let takes := (cState d = 2 ∨ cState d = 3) ∧ (cRole d = 1 ∨ cRole d = 2) ∧ roleLinked (portRole s p) = true
    let row := fun (c : Instr) => (f.typ = 1 ∧ c = .data p f now) ∨ (f.typ = 2 ∧ c = .signal p f now)
    let next := (f.seq.toNat + 1) % 2 ^ 32
    let xfer := if isFirst f = true then s.memory.nextXfer else (rtOf s i).xfer
    ∀ c, row c →
      (¬ tag → Runs c s fun t => OnlyPort (atTide s now) t p ∧
        portOf t p = { portOf s p with hunting := false, foreign := min 0xFFFFFFFF ((portOf s p).foreign + 1) }) ∧
      (tag → ¬ takes → Runs c s fun t => OnlyPort (atTide s now) t p ∧
        portOf t p = { portOf s p with hunting := false, unknown := min 0xFFFFFFFF ((portOf s p).unknown + 1) }) ∧
      (tag → takes → f.seq.toNat = cRecvSeq d → cState d = 3 → Runs c s fun t =>
        cRecvSeq (flowOf t i) = next ∧ cGranted (flowOf t i) = (cGranted d + frameCredits f) % 2 ^ 32 ∧ t.adds = s.adds ∧
          (rtOf t i).txq = (rtOf s i).txq) ∧
      (tag → takes → f.seq.toNat = cRecvSeq d → cState d = 2 → cRole d = 1 → Runs c s fun t =>
        cRecvSeq (flowOf t i) = next ∧ cGranted (flowOf t i) = cGranted d ∧ (rtOf t i).txq = (rtOf s i).txq ++ [⟨none, f⟩] ∧
          (rtOf t i).via = some p.val ∧ t.adds = s.adds) ∧
      (tag → takes → f.seq.toNat = cRecvSeq d → cState d = 2 → cRole d = 2 → f.typ = 2 → inqOf s (i / 2048) = [] →
        coreFieldOk (cDestCore d) = true → f.destSem.toNat < 48 → isLast f = true → Runs c s fun t =>
        cRecvSeq (flowOf t i) = next ∧ cGranted (flowOf t i) = (cGranted d + 1) % 2 ^ 32 ∧
          t.adds = s.adds ++ [⟨coreField (cDestCore d), f.destSem.toNat, f.destN.toNat⟩] ∧ t.cores = s.cores) ∧
      (tag → takes → f.seq.toNat = cRecvSeq d → cState d = 2 → cRole d = 2 →
        (∀ x ∈ (inqOf s (i / 2048)).head?, forController x = true) →
        inqOf s (i / 2048) ≠ [] ∨ (f.typ = 1 ∧ frameOp f = 2 ∧ dCtrl f < 24) → Runs c s fun t =>
        cRecvSeq (flowOf t i) = next ∧ cGranted (flowOf t i) = cGranted d ∧ t.adds = s.adds ∧ t.cores = s.cores ∧
          inqOf t (i / 2048) = inqOf s (i / 2048) ++ [⟨i, none, xfer, f⟩]) ∧
      (tag → takes → f.seq.toNat ≠ cRecvSeq d → seqAfter f.seq.toNat (cRecvSeq d) = true → Runs c s fun t =>
        SameContext s t i ∧ (rtOf t i).ackOwed = false ∧ (rtOf t i).ackAt = n ∧ { t with straits := s.straits, sent := s.sent } = atTide s now ∧
          ∃ a : Frame, Leaves s t p [a] ∧ a.typ = 3 ∧ a.flow.toNat = cUpFlow d % 16384 ∧
            a.seq.toNat = seqDist 1 (cRecvSeq d) ∧ bNat a.body 0 4 = cGranted d) ∧
      (tag → takes → f.seq.toNat ≠ cRecvSeq d → seqAfter f.seq.toNat (cRecvSeq d) = false →
        (∀ q m, (rtOf s i).nack = some (q, m) → q ≠ cRecvSeq d ∨ m + 1000 < n) → Runs c s fun t =>
        SameContext s t i ∧ (rtOf t i).nack = some (cRecvSeq d, n) ∧ { t with straits := s.straits, sent := s.sent } = atTide s now ∧
          ∃ a : Frame, Leaves s t p [a] ∧ a.typ = 4 ∧ a.flow.toNat = cUpFlow d % 16384 ∧ a.seq.toNat = cRecvSeq d ∧
            bNat a.body 0 4 = 2)

/-- A sink's frame of OP 0 that nothing waits before lands in its core's SRAM at the frame's address, VALID bytes of it, and with LAST its
add follows (R59, R242, R249, R314). Bytes outside one memory, in the drain slot of a running drain, or in bytes that a descriptor in
flight writes stop as undefined (R83, R84, R144). Choices of the model in it: logs 10, 55. -/
def Obligations.SinkDeliversToSram : Prop :=
  ∀ (p : Fin 8) (f : Frame) (now : Nat) (s : State), alive s = true → (portOf s p).state = 2 → (portOf s p).pauseRx = false →
    let i := frameFlow f
    let d := flowOf s i
    let c := coreField (cDestCore d)
    let a := f.destAddr.toNat
    let n := min f.body.length f.valid.toNat
    let clashes := writesClash s c 7 [] [(a, n)]
    frameGood f = true → f.typ = 1 → frameOp f = 0 → s.straits.jobTag ≠ 0 → f.jobTag.toNat = s.straits.jobTag → cState d = 2 →
    cRole d = 2 → roleLinked (portRole s p) = true → f.seq.toNat = cRecvSeq d → coreFieldOk (cDestCore d) = true →
    inqOf s (i / 2048) = [] →
    (coreResetting s c = false → isFirst f = true ∨ (a ≠ 0x400000 ∧ a ≠ 0x600000) →
      (sramOk a n = true → hitsDrainSlot (coreOf s c) a n = false → clashes = false → Runs (.data p f now) s fun t =>
        SramSame (coreOf s c) (coreOf t c) [(a, n)] ∧ (∀ j < n, memGet (coreOf t c).sram (a + j) = f.body.getD j 0) ∧
        (∀ x, x ≠ c → CoreAgrees (coreOf s x) (coreOf t x)) ∧ cRecvSeq (flowOf t i) = (f.seq.toNat + 1) % 2 ^ 32 ∧
        t.adds = s.adds ++ (if isLast f = true ∧ f.destSem.toNat < 48 then [⟨c, f.destSem.toNat, f.destN.toNat⟩] else [])) ∧
      (clashes = true → exec (.data p f now) s = .fault (.writeOverlap (keptOf s))) ∧
      (clashes = false → n ≠ 0 → sramOk a n = false → exec (.data p f now) s = .fault (.sramRange (keptOf s))) ∧
      (clashes = false → n ≠ 0 → sramOk a n = true → hitsDrainSlot (coreOf s c) a n = true →
        exec (.data p f now) s = .fault (.drainSlotWrite (keptOf s)))) ∧
    (coreResetting s c = true → Runs (.data p f now) s fun t => t.cores = s.cores ∧
      cRecvSeq (flowOf t i) = (f.seq.toNat + 1) % 2 ^ 32)

/-- An ACK moves ACKED_SEQ past what it covers, frees those copies and restores CREDITS from the grant; a NACK for a held SEQ sends that copy
and those after it again with RETRY set and counts a retry, and the fourth faults the context (R252, R254–R256); either of another job is
only counted (R257). A timeout does the same for the oldest copy, and an ACK is sent every 1 µs while something is unreported.
Choices of the model in it: logs 14, 54, 104. -/
def Obligations.AckAndRetry : Prop :=
  (∀ (p : Fin 8) (f : Frame) (now : Nat) (s : State), alive s = true → (portOf s p).state = 2 → (portOf s p).pauseRx = false →
    frameGood f = true →
    let i := frameFlow f
    let d := flowOf s i
    let r := rtOf s i
    let tag := s.straits.jobTag ≠ 0 ∧ f.jobTag.toNat = s.straits.jobTag
    let upto := (f.seq.toNat + 1) % 2 ^ 32
    let t0 := atTide s now
    let foreign := fun (t : State) => OnlyPort t0 t p ∧
      portOf t p = { portOf s p with hunting := false, foreign := min 0xFFFFFFFF ((portOf s p).foreign + 1) }
    (f.typ = 3 → ¬ tag → Runs (.ack p f now) s foreign) ∧
    (f.typ = 4 → ¬ tag → Runs (.nack p (f, none) now) s foreign) ∧
    (f.typ = 3 → tag → sends d = true → cPort d = p.val →
      seqDist (cAckedSeq d) upto ≤ seqDist (cAckedSeq d) (cSendSeq d) → Runs (.ack p f now) s fun t =>
        cAckedSeq (flowOf t i) = upto ∧ cSendSeq (flowOf t i) = cSendSeq d ∧
        cCredits (flowOf t i) = (r.initial + bNat f.body 0 4 + 2 ^ 32 - r.spent % 2 ^ 32) % 2 ^ 32 ∧
        (rtOf t i).replay = r.replay.filter (fun c => decide (seqDist (cAckedSeq d) upto ≤ seqDist (cAckedSeq d) c.frame.seq.toNat)) ∧
        { t with straits := s.straits } = t0 ∧ OtherPorts s t p ∧ portOf t p = { portOf s p with hunting := false }) ∧
    (f.typ = 4 → tag → sends d = true → cPort d = p.val → ∀ c,
      seqDist (cAckedSeq d) f.seq.toNat < seqDist (cAckedSeq d) (cSendSeq d) →
      r.replay.find? (fun c => c.frame.seq.toNat = f.seq.toNat) = some c → c.lastTx ≠ max s.tide.now now →
      (c.retries < 3 → Runs (.nack p (f, none) now) s fun t =>
        cRetryTotal (flowOf t i) = min 0xFFFF (cRetryTotal d + 1) ∧ (portOf t p).retry = min 0xFFFFFFFF ((portOf s p).retry + 1) ∧
        (rtOf t i).replay.map (·.frame) = r.replay.map (·.frame) ∧
        Leaves s t p ((r.replay.filter fun c => decide (seqDist (cAckedSeq d) f.seq.toNat ≤ seqDist (cAckedSeq d) c.frame.seq.toNat)).map
          fun c => againFrame t0 c.frame)) ∧
      (3 ≤ c.retries → Runs (.nack p (f, none) now) s fun t =>
        cState (flowOf t i) = 3 ∧ fldB (flowOf t i) 1 1 = 1 ∧ (rtOf t i).replay = [] ∧ (rtOf t i).txq = []))) ∧
  (∀ (g : Fin 16384) (now : Nat) (s : State) (c : Replay), alive s = true →
    let d := flowOf s g
    let k := portOf s (cPort d)
    (rtOf s g).replay.head? = some c → sends d = true → k.state = 2 → k.pauseTx = false →
    c.lastTx + max 500 k.ackTmo ≤ max s.tide.now now →
      (c.retries < 3 →
        Runs (.ackTimeout (g, none) now) s fun t => cRetryTotal (flowOf t g) = min 0xFFFF (cRetryTotal d + 1) ∧
          (portOf t (cPort d)).retry = min 0xFFFFFFFF (k.retry + 1)) ∧
      (3 ≤ c.retries → Runs (.ackTimeout (g, none) now) s fun t => cState (flowOf t g) = 3 ∧ fldB (flowOf t g) 1 1 = 1)) ∧
  (∀ (g : Fin 16384) (p : Fin 8) (now : Nat) (s : State), alive s = true → (portOf s p).state = 2 → arrivalPort s g = some p.val →
    cState (flowOf s g) = 2 ∨ cState (flowOf s g) = 3 →
    (rtOf s g).ackOwed = true → (rtOf s g).ackAt + 1000 ≤ max s.tide.now now → Runs (.ackPeriodic g now) s fun t =>
      SameContext s t g ∧ (rtOf t g).ackOwed = false ∧ ∃ a : Frame, Leaves s t p [a] ∧ a.typ = 3 ∧
        a.flow.toNat = cUpFlow (flowOf s g) % 16384 ∧
        a.seq.toNat = seqDist 1 (cRecvSeq (flowOf s g)) ∧ bNat a.body 0 4 = cGranted (flowOf s g))

/-- A port sends the frame at the head of the next ready context: with the context's SEND_SEQ, which rises by 1, at the price of its credits,
with its CRC, and a copy is kept (R243, R248, R251, R252). A frame that fails its CRC brings a NACK of REASON 1 for each armed context
whose frames arrive on the port, but for one that had its NACK within 1 µs, and a frame that nobody takes is counted (R253, R258). -/
def Obligations.PortsSendAndCount : Prop :=
  ∀ (p : Fin 8) (now : Nat) (s : State), alive s = true → (portOf s p).state = 2 →
    let t0 := atTide s now
    let n := max s.tide.now now
    (∀ i x, (portOf s p).pauseTx = false → nextToSend t0 p = some i → (rtOf s i).txq.head? = some x → Runs (.frameSend p now) s fun t =>
      let d := flowOf s i
      ∃ f : Frame, Sent s t [.frame p (sealFrame f)] ∧ f.seq.toNat = cSendSeq d ∧ f.flow.toNat = cOutFlow d % 16384 ∧
        f.body = x.frame.body ∧ f.typ = x.frame.typ ∧ f.stamp.toNat = n % 2 ^ 64 ∧
        cSendSeq (flowOf t i) = (cSendSeq d + 1) % 2 ^ 32 ∧ cCredits (flowOf t i) = cCredits d - frameCredits x.frame ∧
        (rtOf t i).txq = (rtOf s i).txq.tail ∧ (rtOf t i).replay = (rtOf s i).replay ++ [⟨f, 0, n⟩] ∧
        (portOf t p).rr = (i + 1) % 16384 ∧ ∀ j, j ≠ i → flowOf t j = flowOf s j ∧ rtOf t j = rtOf s j) ∧
    ((portOf s p).pauseRx = false → ∀ f : Frame,
      (frameGood f = false → Runs (.frameCrcFail p (f, now)) s fun t =>
        { t with straits := s.straits, sent := s.sent } = t0 ∧ t.straits.flows = s.straits.flows ∧ OtherPorts s t p ∧
        { portOf t p with held := (portOf s p).held } = { portOf s p with hunting := false } ∧
        ∃ fs, Leaves s t p fs ∧ (∀ a ∈ fs, a.typ = 4 ∧ bNat a.body 0 4 = 1) ∧
          ∀ i ∈ contexts s, cState (flowOf s i) = 2 → arrivesOn s i p = true →
            (∀ q m, (rtOf s i).nack = some (q, m) → q ≠ cRecvSeq (flowOf s i) ∨ m + 1000 < n) →
            ∃ a ∈ fs, a.flow.toNat = cUpFlow (flowOf s i) % 16384 ∧ a.seq.toNat = cRecvSeq (flowOf s i)) ∧
      (frameGood f = true →
        (knownType f.typ.toNat = false ∨ ((f.typ = 1 ∨ f.typ = 2) ∧ foreignTag s f = false ∧ unknownTo s p f = true)) →
        Runs (.unknownFrame p f) s fun t => OnlyPort s t p ∧
          portOf t p = { portOf s p with hunting := false, unknown := min 0xFFFFFFFF ((portOf s p).unknown + 1) }))

/-- While the job is armed or being armed an IDENT on a linked port is recorded in PORT_PEER, and identity frames leave each linked port that
is up; the window's end refuses an arming whose ports have not all passed, with TOPOLOGY_MISMATCH and their bitmap (R260, R375, R376).
Choices of the model in it: log 88. -/
def Obligations.IdentityExchange : Prop :=
  ∀ (s : State) (now : Nat), alive s = true →
    (∀ (p : Fin 8) (f : Frame), Comes s p f 8 → roleLinked (portRole s p) = true → s.job.arming = none → armed s = true →
      Runs (.ident p f) s fun t => OnlyPort s t p ∧ (portOf t p).hunting = false ∧
        (portOf t p).peerSn.toNat = bNat f.body 0 8 ∧ (portOf t p).peerPos.getLsbD 31 = true ∧
        (portOf t p).peerPos.toNat % 2 ^ 20 = bNat f.body 8 4 % 2 ^ 20 ∧ (portOf t p).identOk = (portOf s p).identOk) ∧
    (∀ (p : Fin 8) (f : Frame), Comes s p f 8 → roleLinked (portRole s p) = false →
      Runs (.ident p f) s fun t => t = modPort s p fun k => { k with hunting := false }) ∧
    (armed s = true ∨ s.job.arming.isSome = true → Runs (.identSend now) s fun t => OnlySends (atTide s now) t ∧
      ∃ fs, Sent s t fs ∧
        (∀ p : Nat, (∃ f : Frame, Out.frame p f ∈ fs ∧ f.typ = 8 ∧ bNat f.body 8 4 = s.straits.pos % 2 ^ 32 ∧ frameGood f = true) ↔
          (p ∈ linkedPorts s ∧ portUp s p = true ∧ (portOf s p).pauseTx = false)) ∧
        ∀ p ∈ linkedPorts s, portUp s p = true → (portOf s p).pauseTx = true →
          ∃ f : Frame, (portOf t p).held = (portOf s p).held ++ [f] ∧ f.typ = 8) ∧
    (∀ a r, s.job.arming = some a → (∀ p ∈ linkedPorts s, (portOf s p).state ≠ 1) → (boxOf s a.mb).run = some r →
      a.since + (if a.spare then 10000000000 else 20000000) ≤ max s.tide.now now → Runs (.identCheckTimeout now) s fun t =>
        t.job = { s.job with arming := none } ∧ t.straits = s.straits ∧ (boxOf t a.mb).run = some { r with
          result := some ⟨6, reg (portBits ((linkedPorts s).filter fun p => !identPassed s p)), []⟩ })

/-! The tide, its tree and its frames (09). -/

/-- A MARKER of the pod on a port that is up is stored with its arrival, and the parent's gives SRC_RANK, DEPTH and the source sequence (R269–
R272); a frame of another pod is only counted. Every 1 µs a MARKER leaves each port that is up, and a child whose markers live no longer is
dropped (R270, R290). A package leaves for HOLDOVER when no neighbour qualifies, loses LOCKED after 100 ms there, and is LOCKED after 1 s
within ±2 ns under a LOCKED parent (R272, R273). A backup takes over after its silence (R277).
Choices of the model in it: logs 1, 9, 104, 105. -/
def Obligations.TideStates : Prop :=
  ∀ (s : State) (now : Nat), alive s = true →
    let t0 := atTide s now
    let n := max s.tide.now now
    let lost := fun (m : Marker) => m.child = true ∧ m.changedAt + 3000 < n
    (∀ (p : Fin 8) (f : Frame), Comes s p f 0x10 → (s.tide.podId = 0 ∨ f.jobTag.toNat ≠ s.tide.podId) →
      Runs (.marker p f now) s fun t => OnlyPort s t p ∧
        portOf t p = { portOf s p with hunting := false, unknown := min 0xFFFFFFFF ((portOf s p).unknown + 1) }) ∧
    (∀ (p : Fin 8) (f : Frame), PodFrame s p f 0x10 → Runs (.marker p f now) s fun t => t.memory = s.memory ∧
      (∃ m, (portOf t p).marker = some m ∧ m.seq = f.seq.toNat ∧ m.depth = bNat f.body 0 1 ∧ m.rank = bNat f.body 1 1 % 8 ∧
        m.locked = (bNat f.body 1 1).testBit 3 ∧ m.child = (bNat f.body 1 1).testBit 4) ∧
      ((bNat f.body 1 1).testBit 5 = false → OthersAgree s t p ∧ t.cores = s.cores ∧ t.tide.now = n) ∧
      (t.tide.parent = p.val → t.tide.state ≠ 5 → t.tide.srcSeq = f.seq.toNat ∧ t.tide.depth = bNat f.body 0 1 + 1 ∧
        t.tide.srcRank = bNat f.body 1 1 % 8)) ∧
    (s.tide.podId ≠ 0 → (∀ (p : Fin 8) m, (portOf s p).marker = some m → ¬ lost m) → Runs (.markerSend now) s fun t =>
      t.tide = { s.tide with now := n, srcSeq := if s.tide.state = 5 then (s.tide.srcSeq + 1) % 2 ^ 32 else s.tide.srcSeq } ∧
      { t with tide := s.tide, sent := s.sent } = s ∧ ∃ fs, Sent s t fs ∧ ∀ p : Nat,
        (∃ f : Frame, Out.frame p f ∈ fs ∧ f.typ = 0x10 ∧ f.seq.toNat = t.tide.srcSeq % 2 ^ 32) ↔
          (p < 8 ∧ portUp s p = true ∧ (portOf s p).pauseTx = false)) ∧
    (s.tide.podId ≠ 0 → ∀ (p : Fin 8) m, (portOf s p).marker = some m → lost m → Runs (.markerSend now) s fun t =>
      (portOf t p).reqQ = 0 ∧ (portOf t p).marker = some { m with child := false }) ∧
    (s.tide.state ∈ [1, 2, 3] → bestParent t0 = none → Runs (.holdover now) s fun t =>
      t.tide.state = 4 ∧ t.tide.parent = 8 ∧ t.tide.locked = s.tide.locked ∧ t.tide.holdSince = n ∧ t.tide.now = n ∧
        t.tide.event.getLsbD 1 = true ∧ t.cores = s.cores ∧ t.memory = s.memory) ∧
    (s.tide.state = 4 → s.tide.locked = true → s.tide.holdSince + 100000000 ≤ n → Runs (.lockedLoss now) s fun t =>
      t.tide.locked = false ∧ t.tide.state = 4 ∧ t.tide.event.getLsbD 1 = true) ∧
    (∀ m b, s.tide.state = 2 → (portOf s s.tide.parent).marker = some m → m.locked = true → n ≤ m.changedAt + 3000 →
      s.tide.inBound = some b → b + 1000000000 ≤ n → Runs (.lockAcquired now) s fun t =>
        { t with tide := { t.tide with due := s.tide.due } } = { s with tide := { s.tide with now := n, state := 3, locked := true } } ∧
        (s.job.adopted = false → t.tide.due = s.tide.due)) ∧
    (s.tide.podId ≠ 0 → 1 ≤ s.tide.rank → s.tide.rank ≤ 4 → s.tide.state ≠ 5 → s.boot.clkMode ≠ 3 →
      lastLive s + 10000 + 40000 * (s.tide.rank - 1) ≤ n → Runs (.backupTakeover now) s fun t =>
        t.tide.state = 5 ∧ t.tide.locked = true ∧ t.tide.depth = 0 ∧ t.tide.parent = 8 ∧ t.tide.srcRank = s.tide.rank ∧
          t.tide.event.getLsbD 0 = true ∧ t.tide.now = n)

/-- Tempo requirements and announcements: a child's requirement is kept and the parent told every 100 µs (R290); under POLICY AUTO the source
announces a tempo at a boundary at least two steps ahead and repeats it (R284, R291); an announcement is stored once, in step order, and
flooded (R285); a frame state of the parent that differs from the package's own values for its step is adopted, and joins a skerry (R283,
R298). A frame begins when the tide reaches the start that the recurrence T + ns(FRAME_TICKS, Q) gives, with the tempo announced for it, and
the package floods its frame state; the first frame begins at the start that JOB_START or joining gave (R281, R285, R298, R437).
Choices of the model in it: logs 1, 33, 43, 61. -/
def Obligations.TempoScheduleAndFrames : Prop :=
  (∀ (s : State) (now : Nat), alive s = true →
    let t0 := atTide s now
    (∀ (p : Fin 8) (f : Frame) m, PodFrame s p f 0x14 → (portOf s p).marker = some m → m.child = true →
      Runs (.tempoReq p f) s fun t => OthersAgree s t p ∧
        { portOf t p with held := (portOf s p).held } = { portOf s p with hunting := false, reqQ := bNat f.body 0 2 } ∧
        (s.tide.state = 5 → t.tide.podQ = aggregateQ t) ∧ t.cores = s.cores ∧ t.memory = s.memory) ∧
    (s.tide.parent < 8 → Runs (.tempoReqSend now) s fun t => OnlySends t0 t ∧
      (s.tide.podId ≠ 0 → portUp s s.tide.parent = true → ∃ f : Frame, Leaves s t s.tide.parent [f] ∧ f.typ = 0x14 ∧
        bNat f.body 0 2 = aggregateQ s % 2 ^ 16)) ∧
    (s.tide.state = 5 → jobRuns s = true → policyAuto s = true → lastQ s < min s.tide.podQ (tempoMax s) →
      s.tide.pending.length < 4 → Runs (.tempoAnnounce now) s fun t => ∃ b : Nat,
        t.tide.pending = s.tide.pending ++ [⟨b, min s.tide.podQ (tempoMax s)⟩] ∧ currentStep s + 2 ≤ b ∧
        (∀ a ∈ s.tide.pending, a.step < b) ∧ t.tide.event.getLsbD 2 = true ∧ t.cores = s.cores ∧ t.memory = s.memory) ∧
    (s.tide.state = 5 → Runs (.scheduleRepeat now) s fun t => OnlySends t0 t ∧ ∃ fs, Sent s t fs ∧
      (∀ a ∈ s.tide.pending, ∀ p : Nat, s.tide.podId ≠ 0 → p < 8 → portUp s p = true → (portOf s p).pauseTx = false →
        ∃ f : Frame, Out.frame p f ∈ fs ∧ f.typ = 0x11 ∧
          bNat f.body 2 2 = a.q % 2 ^ 16 ∧ bNat f.body 4 8 = a.step % 2 ^ 64)) ∧
    (∀ (p : Fin 8) (f : Frame), PodFrame s p f 0x11 →
      let a : Announce := ⟨bNat f.body 4 8, bNat f.body 2 2⟩
      let v := (bNat f.body 4 8, bNat f.body 12 8, bNat f.body 2 2)
      let seen := modPort s p fun k => { k with hunting := false }
      let skerry := s.job.state = 2 ∧ s.job.adopted = true
      (bNat f.body 0 1 = 1 → a ∉ s.tide.pending →
        Runs (.scheduleTempoChange p f) s fun t => t.tide.event.getLsbD 2 = true ∧ t.tide.pending =
          (s.tide.pending.filter fun b => decide (b.step < a.step)) ++ [a] ++ s.tide.pending.filter fun b => decide (a.step ≤ b.step)) ∧
      (bNat f.body 0 1 = 1 → a ∈ s.tide.pending → Runs (.scheduleTempoChange p f) s fun t => t = seen) ∧
      (bNat f.body 0 1 = 2 → s.tide.parent = p.val → ¬ skerry →
        (ownFrame s v.1 = some v → Runs (.scheduleFrameState p f) s fun t => t = seen) ∧
        (s.tide.running = true → ownFrame s v.1 ≠ some v →
          Runs (.scheduleFrameState p f) s fun t => t.tide.adopt = some v ∧ t.tide.event.getLsbD 5 = true) ∧
        (∀ own, s.tide.running = false → ownFrame s v.1 = some own → own ≠ v →
          Runs (.scheduleFrameState p f) s fun t => t.tide.due = some v ∧ t.tide.event.getLsbD 5 = true)) ∧
      (bNat f.body 0 1 = 2 → s.tide.parent = p.val → skerry → s.tide.locked = true → s.tide.due = none →
        Runs (.scheduleFrameState p f) s fun t =>
          { t with tide := { t.tide with due := none, joinRef := s.tide.joinRef } } = seen ∧ t.tide.joinRef = some v ∧
            t.tide.due.isSome = true))) ∧
  (∀ (s : State) (now : Nat), alive s = true → jobRuns s = true →
    let n := max s.tide.now now
    (s.tide.running = true → s.tide.adopt = none → nextStart s ≤ n → Runs (.frameStart now) s fun t =>
      t.tide.step = s.tide.step + 1 ∧ t.tide.start = s.tide.start + (frameTicks s * s.tide.curQ + 2048) / 4096 ∧
      t.tide.curQ = tempoOf s (s.tide.step + 1) ∧ t.tide.running = true ∧ t.reduction.epoch = (s.tide.step + 1) % 65536 ∧
      t.tide.pending = s.tide.pending.filter (fun a => decide (s.tide.step + 1 < a.step)) ∧ t.tide.now = n ∧
      t.job.state = s.job.state ∧ (reshardAt s = none → t.cores = s.cores)) ∧
    (∀ v, s.tide.running = true → s.tide.adopt = some v → nextStart s ≤ n → n < v.2.1 + (frameTicks s * v.2.2 + 2048) / 4096 →
      Runs (.frameStart now) s fun t => t.tide.step = v.1 ∧ t.tide.start = v.2.1 ∧ t.tide.curQ = v.2.2 ∧ t.tide.running = true ∧
        t.tide.adopt = none ∧ (reshardAt s = none → t.cores = s.cores)) ∧
    (∀ d, s.tide.running = false → s.tide.due = some d → d.2.1 ≤ n → Runs (.frameStart now) s fun t =>
      t.tide.step = d.1 ∧ t.tide.start = d.2.1 ∧ t.tide.curQ = d.2.2 ∧ t.tide.running = true ∧ t.tide.due = none ∧
        (reshardAt s = none → t.cores = s.cores)))

/-- Pod barriers: a child's total is stored and the package's goes to its parent, now and every 10 µs (R294); a release is taken once, flooded,
and at RELEASE_TIDE each member core's inbound ferry is told to add 1 (R296); one that lies in the past is counted and released at
once. Choices of the model in it: logs 1, 31, 105. -/
def Obligations.PodBarriers : Prop :=
  ∀ (s : State) (now : Nat), alive s = true →
    let t0 := atTide s now
    let n := max s.tide.now now
    let adds := fun (i : Nat) => if podRelSem s i < 48 then ((List.range 576).filter fun c => (podMembers s i).testBit c).map fun c =>
      (⟨c, podRelSem s i, 1⟩ : Add) else []
    (∀ (p : Fin 8) (f : Frame) m, PodFrame s p f 0x12 → (portOf s p).marker = some m → m.child = true → s.tide.state ≠ 5 →
      s.tide.noRoom = [] → s.tide.step < 65536 → bNat f.body 2 2 = s.tide.step →
      let i := bNat f.body 0 1 % 8
      let x := podUse s i s.tide.step (bNat f.body 1 1)
      x.closed = false → Runs (.barArrive p f now) s fun t =>
        podUse t i s.tide.step (bNat f.body 1 1) = { x with totals := tblSet 0 x.totals p (bNat f.body 4 2) } ∧
        t.adds = s.adds ∧ t.cores = s.cores ∧ t.memory = s.memory) ∧
    (Runs (.barArriveResend now) s fun t => OnlySends t0 t) ∧
    (∀ (p : Fin 8) (f : Frame), PodFrame s p f 0x13 → s.tide.noRoom = [] → s.tide.step < 65536 → bNat f.body 2 2 = s.tide.step →
      let i := bNat f.body 0 1 % 8
      let u := bNat f.body 1 1
      let rel := bNat f.body 4 8
      ((podUse s i s.tide.step u).release.isSome = true → Runs (.barRelease p f now) s fun t =>
        t = modPort t0 p fun k => { k with hunting := false }) ∧
      ((podUse s i s.tide.step u).release = none → n ≤ rel → Runs (.barRelease p f now) s fun t =>
        (podUse t i s.tide.step u).release = some (rel, n) ∧ (podUse t i s.tide.step u).addDue = true ∧ t.adds = s.adds ∧
          t.tide.lateRels = s.tide.lateRels) ∧
      ((podUse s i s.tide.step u).release = none → rel < n → Runs (.barRelease p f now) s fun t =>
        (podUse t i s.tide.step u).addDue = false ∧ t.adds = s.adds ++ adds i ∧
          t.tide.lateRels = min 0xFFFFFFFF (s.tide.lateRels + 1) ∧ t.tide.event.getLsbD 6 = true)) ∧
    (∀ (i : Fin 8) x, s.tide.uses.find? (fun x => x.idx = i.val && x.addDue &&
        (match x.release with | some r => decide (r.1 ≤ n) | none => false)) = some x →
      Runs (.podReleaseAdd i now) s fun t => t.adds = s.adds ++ adds i ∧ { t with adds := s.adds, tide := s.tide } = s ∧
        (podUse t x.idx x.step x.use).addDue = false)

/-! Arenas, package memory and its controllers (07, 10). -/

/-- The next use of a controller begins to open once its record and its range are free: the accumulators of the range are cleared and the
record takes the use's fields (R311, R312, R218); when clearing has ended STATE reads open. -/
def Obligations.ArenasOpen : Prop :=
  ∀ (i : Fin 24) (now : Nat) (s : State), memOn s = true →
    (∀ n u, nextOpen s i = some (n, u) → jobRuns s = true → s.tide.running = true → s.reduction.stopped = false → inReshard s = false →
      openingOn s i = none → rangeFree s i (useAt s u) = true → s.tide.start ≤ max s.tide.now now → CleanMemory s →
      Runs (.arenaOpen i now) s fun t =>
        let d := useAt s u
        arenaAt t (arenaKey i d.record) = useRecord (n % 65536) d ∧ useState t (useKey n u) = .opening ∧
        begunOf t (arenaKey i d.record) = [] ∧
        (∀ x, accKey i d.base ≤ x → x < accKey i d.base + d.length → accGet t x = 0) ∧
        (∀ x, ¬ (accKey i d.base ≤ x ∧ x < accKey i d.base + d.length) → accGet t x = accGet s x) ∧
        (∀ a, a ≠ arenaKey i d.record → arenaAt t a = arenaAt s a) ∧ MemSame s t [] ∧ t.cores = s.cores) ∧
    (∀ k, openingOn s i = some k → parkOf s i = [] → Runs (.arenaOpened i) s fun t =>
      aState (arenaAt t k) = 1 ∧ (∀ u, recordUse s k = some u → useState t u = .opened) ∧
      (∀ a, a ≠ k → arenaAt t a = arenaAt s a) ∧ t.memory.acc = s.memory.acc ∧ MemSame s t [] ∧ t.cores = s.cores)

/-- A controller takes the frame at the head of a source: it adds each Concord-8 code of a dense frame of an open record, limited to the
32-bit range, with 0x80 and a poisoned accumulator poisoning the sum (R220–R222, R313); a record that is not open parks the frame; a
frame that finds no room waits, and FULL is marked (R314); one that comes while contributions are discarded is taken and dropped (R354);
a transfer beyond EXPECT stops as undefined (R331). When room has freed the frame that waits is taken.
Choices of the model in it: logs 4, 8. -/
def Obligations.ContributionsTaken : Prop :=
  ∀ (i : Fin 24) (s : State), memOn s = true →
    let last := fun (src : Nat) => ∀ y ∈ (inqOf s src).tail.head?, forController y = true
    (∀ (src : Nat) (x : InFrame), headFor s i src = some x → last src →
      let k := arenaKey i (dArena x.frame)
      let r := arenaAt s k
      let e := dElement x.frame
      let counts := (begunOf s k).contains x.xfer = true ∨ (begunOf s k).length < aExpect r
      (mustWait s i x = true → Runs (.contributionAccept i src []) s fun t =>
        t = { s with memory := { s.memory with parkFull := tblSet false s.memory.parkFull i true } }) ∧
      (s.reduction.stopped = true → Runs (.contributionAccept i src []) s fun t =>
        parkOf t i = parkOf s i ∧ inqOf t src = (inqOf s src).tail ∧ t.memory.acc = s.memory.acc ∧ arenaAt t k = r) ∧
      (s.reduction.stopped = false → recordOpen s k = false → mustWait s i x = false → Runs (.contributionAccept i src []) s fun t =>
        parkOf t i = parkOf s i ++ [x] ∧ inqOf t src = (inqOf s src).tail ∧ t.memory.acc = s.memory.acc ∧ arenaAt t k = r) ∧
      (s.reduction.stopped = false → recordOpen s k = true → ¬ counts →
        exec (.contributionAccept i src []) s = .fault (.excessContribution (keptOf s))) ∧
      (∀ b, s.reduction.stopped = false → recordOpen s k = true → counts → aSparse r = false → s.memory.accBad = [] →
        payload x.frame = [b] → e < aLength r → Runs (.contributionAccept i src []) s fun t =>
          let a := accKey (k / 64) (aBase r + e)
          (accGet s a = 0x80000000#32 → accGet t a = 0x80000000#32) ∧
          (accGet s a ≠ 0x80000000#32 → b.toNat = 0x80 → accGet t a = 0x80000000#32) ∧
          (accGet s a ≠ 0x80000000#32 → b.toNat ≠ 0x80 →
            (accGet t a).toInt = max (-2147483647) (min 2147483647 ((accGet s a).toInt + sgn 8 b.toNat))) ∧
          (∀ c, c ≠ a → accGet t c = accGet s c) ∧ inqOf t src = (inqOf s src).tail ∧ MemSame s t [])) ∧
    (∀ (src : Nat) (y : InFrame), (List.range 584).findSome? (fun src => (headFor s i src).bind fun x =>
        if mustWait s i x then none else some (src, x)) = some (src, y) → last src →
      s.reduction.stopped = false → recordOpen s (arenaKey i (dArena y.frame)) = false →
      Runs (.parkWaitRelease i) s fun t => parkOf t i = parkOf s i ++ [y] ∧ inqOf t src = (inqOf s src).tail)

/-- Memory maintenance: a corrected line is written back, the scrub pass goes on by one codeword (R213, R215), a stack that fails during a job
is marked (R205), and the wipe runs its phases: stores, training, zeros in every byte of a stack, verification (R229–R231).
Digest units (R226, R227): SNAP takes the sum of the 24 partial sums modulo 2²⁵⁶ and shows it when it is done; CLEAR sets the partial sums
to 0; both raise CFG_GEN as writes of a register with a RW field (R448). Choices of the model in it: log 28. -/
def Obligations.MemoryMaintenance : Prop :=
  (∀ (i : Fin 24) (s : State),
    (∀ p bs, memOn s = true → s.memory.writeBack.find? (fun p => stackIdx p.1 = i.val) = some (p, bs) → Runs (.eccWriteBack i) s fun t =>
      MemSame s t [(p, bs.length)] ∧ tblGet [] t.memory.upset p = [] ∧ (∀ x ∈ t.memory.writeBack, x.1 ≠ p) ∧
      (∀ j < bs.length, memGet t.memory.data (p + j) = bs.getD j 0) ∧ { t with memory := s.memory } = s) ∧
    (memOn s = true → s.memory.wipe = 0 → s.memory.hours ≠ 0 → stackUp s i = true → Runs (.patrolScrub i []) s fun t =>
      (stackOf t i).scrub = ((stackOf s i).scrub + 64) % 0x1800000000 ∧ MemSame s t [] ∧ t.cores = s.cores) ∧
    (memOn s = true → stackUp s i = true → jobRuns s = true → Runs (.stackFailure i) s fun t =>
      (stackOf t i).state = 2 ∧ MemSame s t [] ∧ { t with memory := s.memory } = s ∧ ∀ j, j ≠ i.val → stackOf t j = stackOf s j) ∧
    (alive s = true → s.memory.wipe = 1 → s.memory.sramDone = false → Runs .wipeSramDone s fun t =>
      t = { s with memory := { s.memory with sramDone := true } }) ∧
    (∀ failed, alive s = true → s.memory.wipe = 1 → s.memory.sramDone = true → Runs (.stackTrainingDone failed) s fun t =>
      t.memory.wipe = (if (List.range 24).all fun j => failed.any (·.val = j) then 0 else 2) ∧
      (∀ j < 24, (stackOf t j).state = if failed.any (·.val = j) then 2 else 1) ∧ MemSame s t []) ∧
    (alive s = true → s.memory.wipe = 2 → stackUp s i = true → (stackOf s i).wroteAll = false → Runs (.wipeWritePassDone i) s fun t =>
      (∀ a, stackIdx a = i.val → memGet t.memory.data a = 0) ∧ (∀ a, stackIdx a ≠ i.val → memGet t.memory.data a = memGet s.memory.data a) ∧
      (stackOf t i).wroteAll = true ∧ (t.memory.wipe = 3 ↔ allStacks t (·.wroteAll) = true)) ∧
    (alive s = true → s.memory.wipe = 3 → stackUp s i = true → (stackOf s i).readAll = false → Runs (.wipeVerifyDone i []) s fun t =>
      (stackOf t i).readAll = true ∧ (t.memory.wipe = 0 ↔ allStacks t (·.readAll) = true) ∧ MemSame s t [])) ∧
  (∀ (r : Fin 16) (now : Nat) (s : State), s.boot.held = 0 → s.boot.clkMode ≠ 3 → s.power.refLost = false → s.power.state < 2 →
    feature s featDigest = true →
    let d := digestOf s r
    let rises := fun (t : State) => t.control.cfgGen = (s.control.cfgGen + 1) % 2 ^ 64
    (Runs (.digestSnap r now) s fun t => digestOf t r = { d with snap := true, taken := digestTotal d } ∧ rises t ∧
      MemSame s t [] ∧ ∀ q, q ≠ r.val → digestOf t q = digestOf s q) ∧
    (Runs (.digestClear r now) s fun t => digestOf t r = { d with sums := [] } ∧ rises t ∧
      MemSame s t [] ∧ ∀ q, q ≠ r.val → digestOf t q = digestOf s q) ∧
    (s.power.vinFault = false → d.snap = true → Runs (.digestSnapDone r) s fun t =>
      digestOf t r = { d with snap := false, sum := d.taken } ∧ { t with memory := s.memory } = s ∧ MemSame s t [] ∧
        ∀ q, q ≠ r.val → digestOf t q = digestOf s q))

/-! Steps, their commit, halts and reshards (09, 11, 12). -/

/-- At STEP_END with every engine idle a core of the running job reports its frame and waits for the next (R50); at the boundary of a halt it
stops instead (R436), a diagnostic program halts (R442) and the end of a fold program is no report (R353). The next frame reference is
delivered once the frame is known and SLOT_READY allows it (R282, R346); after a reshard whose plan names a variant the core has first
taken its program of that variant (R352). Choices of the model in it: log 20. -/
def Obligations.StepDoneAndNextFrame : Prop :=
  ∀ (c : Fin 576) (now : Nat) (s : State),
    let k := coreOf s c
    let others := fun (t : State) => ∀ x, x ≠ c.val → coreOf t x = coreOf s x
    (seqWaits s c .stepEnd = true → maskIdle k 0x3F = true →
      (k.runs = .diag → Runs (.stepDone c now) s fun t => OnlyCore (atTide s now) t c ∧ (coreOf t c).mode = .halted ∧ (coreOf t c).pc = k.pc) ∧
      (k.runs = .fold → Runs (.stepDone c now) s fun t => OnlyCore (atTide s now) t c ∧ coreOf t c = { k with wait := .stepRef }) ∧
      (k.runs = .step ∨ k.runs = .reshard → jobRuns s = true → k.program = true →
        ¬ (s.job.state = 4 ∧ k.frameStep = s.job.haltAt) → Runs (.stepDone c now) s fun t => others t ∧
          coreOf t c = { k with wait := .stepRef, doneUpTo := max k.doneUpTo (k.frameStep + 1) }) ∧
      (k.runs = .step ∨ k.runs = .reshard → k.program = true → s.job.state = 4 → k.frameStep = s.job.haltAt →
        Runs (.stepDone c now) s fun t => others t ∧ (coreOf t c).mode = .halted ∧
          (coreOf t c).doneUpTo = max k.doneUpTo (k.frameStep + 1))) ∧
    (seqWaits s c .stepRef = true → jobRuns s = true → k.program = true → ∀ ref, frameRef s k.doneUpTo = some ref →
      let given := fun (t : State) (pc : Nat) (runs : RunKind) => OnlyCore (atTide s now) t c ∧ coreOf t c = { k with
        pc := pc, held := [], wait := .none, changed := if pc = k.pc then k.changed else max s.tide.now now, dbgStep := false
        frameStep := k.doneUpTo, frameT := ref.1, frameQ := ref.2, runs := runs }
      (s.job.slotReady < k.doneUpTo → exec (.frameReferenceDelivery c now) s = .next (atTide s now)) ∧
      (k.doneUpTo ≤ s.job.slotReady →
        (∀ pc runs, nextRun s k k.doneUpTo = some (.at pc runs) → Runs (.frameReferenceDelivery c now) s fun t => given t pc runs) ∧
        (∀ p, nextRun s k k.doneUpTo = some (.after p) →
          (planVariant s p = none → Runs (.frameReferenceDelivery c now) s fun t => given t k.start .step) ∧
          (∀ v, planVariant s p = some v → (programs s v).any (fun x => x.core = c.val) = true →
            Runs (.frameReferenceDelivery c now) s fun t => others t ∧ (coreOf t c).frameStep = k.doneUpTo ∧
              (coreOf t c).frameT = ref.1 ∧ (coreOf t c).frameQ = ref.2 ∧ (coreOf t c).runs = .step ∧
              (coreOf t c).pc = (coreOf t c).start ∧ (coreOf t c).wait = .none))))

/-- By E_s at the latest the next step is evaluated: a core that has not reported is a fault of the step, and a step without faults completes
the package's use of COMMIT_BAR, at a source with 64 open entries as soon as there is room (R295, R360, R361).
At C_s an evaluated step is decided (R364, R371): applied or skipped by its poison count when COMMIT_BAR was released in time, else
unresolved, which halts the job with cause 2. COMMIT_STAT shows the outcome and the faults.
A DONE mark of the step sets its bit of the ledger, which reads applied once every bit is set; the end mark makes a skipped step
complete (R369). Choices of the model in it: logs 7, 31, 92. -/
def Obligations.StepsAreEvaluatedAndDecided : Prop :=
  (∀ (now : Nat) (s : State), alive s = true →
    let n := s.commit.evalNext
    evaluable s n = true → s.tide.running = true → n < s.tide.step → (n + 1 < s.tide.step ∨ evalTide s ≤ max s.tide.now now) →
    Runs (.evalDeadline now) s fun t => t.cores = s.cores ∧ t.tide.step = s.tide.step ∧ ∃ e, t.commit.evals = s.commit.evals ++ [e] ∧ e.step = n ∧
      (allDone s n = false → e.faults.testBit 0 = true) ∧ (reshardAt s = none → t.commit.evalNext = n + 1) ∧
      (e.faults = 0 → (podUse t (commitBar t) n 0).own = true ∨ (commitBar t, n, 0) ∈ t.tide.noRoom)) ∧
  (∀ (now : Nat) (s : State) (e : Eval), s.commit.evals.head? = some e → alive s = true → jobRuns s = true → s.tide.running = true →
    e.step < s.tide.step →
    let cs := (decisionTide s e.step).getD s.tide.start
    let inTime := ∃ rel at', commitRelease s e.step = some (rel, at') ∧ at' ≤ cs
    cs ≤ max s.tide.now now → Runs (.stepDecision now) s fun t =>
      t.commit.outStep = e.step ∧ t.control.supEvent.getLsbD 1 = true ∧ (∀ x ∈ t.commit.evals, x.step ≠ e.step) ∧
      (inTime → e.poison ≤ secNat s secCommit 24 8 → t.commit.outcome = 1 ∧ t.job = s.job ∧ t.commit.outFaults = e.faults) ∧
      (inTime → secNat s secCommit 24 8 < e.poison → t.commit.outcome = 2 ∧ t.job = s.job ∧ t.commit.outFaults = e.faults) ∧
      (¬ inTime → t.commit.outcome = 3 ∧ t.job.state = 5 ∧ t.job.cause = 2 ∧ t.tide.running = false ∧
        t.commit.outFaults.testBit 7 = true)) ∧
  (∀ (k : Nat) (s : State), memOn s = true →
    let c := s.commit
    let n := subShards s
    let own := { s with commit := { c with own := tblSet false c.own k true } }
    let mir := { s with commit := { c with mirror := tblSet false c.mirror k true } }
    (c.ledState = 1 → k < n → markDone s k c.ledStep = true → Runs (.ledgerDoneMark k false) s fun t =>
      t = { own with commit := { own.commit with ledState := if allMarked own = true then 2 else 1 } }) ∧
    (c.ledState = 1 → k < n → polMirror s = true → markDone s (n + k) c.ledStep = true → Runs (.ledgerDoneMark k true) s fun t =>
      t = { mir with commit := { mir.commit with ledState := if allMarked mir = true then 2 else 1 } }) ∧
    (c.ledState = 3 → Runs (.ledgerDoneMark (2 * n) false) s fun t =>
      t = { s with commit := { c with ledState := if markDone s (2 * n) c.ledStep = true then 4 else 3 } }))

/-- A halt takes effect once the boundary has come, every core has halted and the ledger is settled (R436): HALTED with cause 1, no sequencer
runs, no context is armed (R435). A reshard's fold, once FOLD_BAR has released, abandons the reduction and drops the adds under way;
without the release the job halts with cause 3 and STATE failed (R353). Choices of the model in it: logs 20, 62. -/
def Obligations.HaltAndFold : Prop :=
  ∀ (now : Nat) (s : State),
    let halted := fun (t : State) (cause : Nat) => t.job.state = 5 ∧ t.job.cause = cause ∧ t.tide.running = false ∧
      t.control.supEvent.getLsbD 0 = true ∧ (∀ x, (coreOf t x).mode ≠ .running) ∧ ∀ i, cState (flowOf t i) ≠ 2 ∧ cState (flowOf t i) ≠ 3
    (alive s = true → s.job.state = 4 → s.tide.running = true → s.job.haltAt ≤ s.tide.step → allHalted s = true →
      ledgerSettled s = true → Runs (.haltTakesEffect now) s fun t => halted t 1) ∧
    (islesOn s = true → foldDue s = true → foldReleased s = true → Runs (.reshardFold now) s fun t =>
      t.job = { s.job with rsFolded := true } ∧ t.reduction.abandoned = true ∧ t.reduction.stopped = true ∧ t.adds = [] ∧
        ∀ a, aState (arenaAt t a) = 0) ∧
    (alive s = true → foldDue s = true → foldReleased s = false →
      (s.job.rsAt < s.tide.step ∨ nextStart s ≤ max s.tide.now now) → Runs (.reshardFail now) s fun t =>
        halted t 3 ∧ t.job.rsState = 3)

/-! Power, the governor and the meter (13). -/

/-- Entries and exits of power states end (R388, R390, R393): STATE reads the target, the transition is over, and a POWER_STATE that waited has
ended with OK; an entry waits while ballast is called for; leaving Slack changes nothing else of the cores, and after Ebb or Dry they
run at 400 MHz and the isthmus links have retrained (R23).
Wakes and losses (R392, R401, R485, R491, R492): an enabled pin at its level for 10 µs wakes the package; a die at 105 °C or more takes it to
Dry with THERM_TRIP_N low, and a running job halts with cause 4; without VIN48 package memory loses its contents; without the
reference clock the tide goes to HOLDOVER. Choices of the model in it: logs 25, 66, 74, 75, 77, 100, 102. -/
def Obligations.PowerTransitionsWakesAndLosses : Prop :=
  (∀ (now : Nat) (s : State), alive s = true →
    (∀ v, s.power.going = some v → s.power.ballast = true → exec (.powerEntryDone now) s = .next s) ∧
    (∀ v, s.power.going = some v → s.power.state = 0 → v ≠ 0 → s.power.ballast = false → s.power.wakeHeld = false →
      Runs (.powerEntryDone now) s fun t =>
      t.power.state = v ∧ t.power.going = none ∧ (v = 1 → t.cores = s.cores ∧ t.tide.state = s.tide.state) ∧
      (v ≠ 1 → s.tide.state ≠ 5 → s.boot.clkMode ≠ 3 → t.tide.state = 4) ∧ MemSame s t [] ∧
      ∀ m r, s.power.mailbox = some m → (boxOf s m).run = some r → (boxOf t m).run = some { r with result := some ⟨0, 0, []⟩ }) ∧
    (∀ v, s.power.going = some v → s.power.state = 0 → v ≠ 0 → s.power.ballast = false → s.power.wakeHeld = true → Runs (.powerEntryDone now) s fun t =>
      t.power.state = v ∧ t.power.going = some 0 ∧ t.power.wakeHeld = false) ∧
    (∀ failed, s.power.state ≠ 0 → s.power.going = some 0 → Runs (.powerExitDone (now, failed)) s fun t =>
      t.power.state = 0 ∧ t.power.going = none ∧ MemSame s t [] ∧ (s.power.state = 1 → t.cores = s.cores) ∧
      (s.power.state ≠ 1 → s.boot.isles = true → ∀ k < 4, ∀ m < 16, isthMod t k m = trainMod s failed k m) ∧
      (s.power.state ≠ 1 → (∀ c, (coreOf t c).mhz = 400) ∧ t.tide.mayStep = decide (s.tide.state ≠ 5) ∧ t.power.tripDry = false ∧
        (∀ k, accGet t k = 0) ∧ ∀ a, aState (arenaAt t a) = 0))) ∧
  (∀ (now : Nat) (s : State),
    (∀ (i : Fin 4) level held temps, s.boot.held = 0 → s.power.vinFault = false → s.power.tripDry = false → s.power.going = none →
      s.power.state ≠ 0 → s.power.en.testBit i = true → level = s.power.pol.testBit i → 10 ≤ held →
      Runs (.wakePin i level held temps) s fun t => t.power.going = some 0 ∧ t.power.wakeCause = s.power.wakeCause ||| 2 ^ i.val ∧
        t.power.state = s.power.state ∧ t.cores = s.cores ∧ t.memory = s.memory) ∧
    (∀ temps n, alive s = true → n < 38 → (1050 : Int) ≤ tempOf (takeTemps s temps) n →
      Runs (.thermalTrip temps now) s fun t => t.power.state = 3 ∧ t.power.tripDry = true ∧ t.boot.tripLow = true ∧
        t.power.stat.getLsbD 2 = true ∧ (jobRuns s = true → t.job.state = 5 ∧ t.job.cause = 4) ∧ MemSame s t []) ∧
    (s.boot.held ≠ 2 → s.power.vinFault = false → Runs (.vin48OutOfRange now) s fun t => t.power.state = 3 ∧ t.power.vinFault = true ∧ (∀ a, memGet t.memory.data a = 0) ∧
      t.meter.range = true ∧ t.meter.energy = s.meter.energy) ∧
    (s.boot.clkMode ≠ 3 → s.power.refLost = false →
      (s.boot.held = 0 → Runs (.refclkLoss now) s fun t =>
        t.power.refLost = true ∧ t.tide.state = 4 ∧ t.straits.linkUp = false ∧ (∀ p < 8, portUp t p = false) ∧ t.cores = s.cores ∧
          t.memory = s.memory) ∧
      (s.boot.held = 1 → Runs (.refclkLoss now) s fun t => t = { atTide s now with power := { s.power with refLost := true } })))

/-- A fast-stream frame with a good CRC gives the mean that GOV_POWER shows, and sets the next interval's band by R397 within the cap and the
slews; with a bad CRC the mean stays (R409). Cores move to the clock points between 400 MHz and 1.65 GHz (R398). What the meter measured in
the interval it notes whatever comes of the frame (R414). The ramp begins at its planned start (R404).
Choices of the model in it: logs 19, 52. -/
def Obligations.GovernorSteers : Prop :=
  ∀ (s : State),
    (∀ bytes low range w m, s.boot.held = 0 → s.power.vinFault = false → s.power.state = 0 → frameMean bytes = some m →
      Runs (.fastPowerFrame (bytes, low, range) w) s fun t =>
        let g := if s.power.bandSet then max s.power.bandL (min s.power.bandU m) else m
        t.power.powerMw = m ∧ t.power.meanMw = m ∧ t.power.bandSet = true ∧
        t.power.bandU = min (g + s.power.slewUp) (max (1000 * (if s.memory.wipe = 0 then s.power.cap else 1500)) (g - s.power.slewDn)) ∧
        t.power.bandL = min t.power.bandU (max (floorMw s) (g - s.power.slewDn)) ∧
        (t.power.bandU + 20000 < w.low → t.power.stat.getLsbD 0 = true) ∧ (w.ballast + 20000 < t.power.bandL → t.power.stat.getLsbD 1 = true) ∧
        t.power.ballast = decide (w.high + 20000 < t.power.bandL) ∧ t.memory = s.memory ∧
        (∀ c, { coreOf t c with mhz := (coreOf s c).mhz } = coreOf s c) ∧
        ∀ p, w.points = [p] → (coreOf t p.1).mhz = max 400 (min 1650 p.2)) ∧
    (∀ bytes low range w, s.boot.held = 0 → frameMean bytes = none → Runs (.fastPowerFrame (bytes, low, range) w) s fun t =>
      t.power.powerMw = s.power.powerMw ∧ t.power.meanMw = s.power.meanMw) ∧
    (∀ bytes low range w, Runs (.fastPowerFrame (bytes, low, range) w) s fun t =>
      t.meter = { s.meter with low := s.meter.low || low, range := s.meter.range || range } ∧
        (s.boot.held ≠ 0 → { t with meter := s.meter } = s)) ∧
    (∀ now r, alive s = true → jobRuns s = true → s.tide.running = false → s.power.rampAt = some r → r ≤ max s.tide.now now →
      Runs (.rampStart now) s fun t => t = { atTide s now with power := { s.power with rampAt := none, ramp := some (r, s.power.meanMw) } })

/-- The meter (R407, R408, R410–R415, R430): a METER_READ that waits behind notices is answered after the last of them; every record takes the next SEQ and carries the last record's hash; a tag notice changes the tag in
force; an interval record comes once per interval; a refused write counts a seal event; after losing both supplies the RTC goes on from
the stored value; neither energy nor RTC falls. Choices of the model in it: logs 63, 67, 68, 78. -/
def Obligations.MeterRecords : Prop :=
  ∀ (s : State),
    let m := s.meter
    let grew := fun (t : State) (n : Nat) => t.meter.seqNext = m.seqNext + n
    let last := fun (t : State) => tblGet [] t.meter.ring ((t.meter.seqNext - 1) % 32768)
    let chained := fun (t : State) => t.meter.prev = (shake256 (last t)).take 16 ∧ (last t).take 8 = leBytes 8 (t.meter.seqNext - 1) ∧
      { t with meter := s.meter, power := s.power } = s
    (∀ n rest e rtc, s.boot.held = 0 → s.power.notices = n :: rest → Runs (.settingNotice e rtc) s fun t =>
      grew t 1 ∧ (s.power.reads = [] → chained t) ∧ t.power.notices = rest ∧
        (∀ b r, s.power.reads = [(b, 1)] → (boxOf s b).run = some r →
          t.power.reads = [] ∧ ∃ resp, (boxOf t b).run = some { r with result := some ⟨0, 0, resp⟩ }) ∧ t.meter.tag = (if n.typ = 2 then n.new else m.tag) ∧
        t.meter.energy = max m.energy e ∧ t.meter.rtc = max m.rtc rtc) ∧
    (∀ ptp rtc, s.boot.held = 0 → s.straits.ptpLocked = true → Runs (.timeNotice ptp rtc) s fun t =>
      t = { s with meter := { m with rtc := max m.rtc rtc, ptpOffset := (ptp : Int) - rtc, ptpAt := some rtc } }) ∧
    (∀ e rtc w, let t1 := max m.rtc rtc / 60000000000
      0 < m.interval → t1 % m.interval = 0 → m.closedAt < t1 → Runs (.meterIntervalRecord e rtc w) s fun t =>
        grew t 1 ∧ chained t ∧ t.meter.closedAt = t1 ∧ t.meter.energy = max m.energy e) ∧
    (∀ v e rtc w, 1 ≤ v → v ≤ 60 → v ≠ m.interval → Runs (.mtIntervalWrite v e rtc w) s fun t =>
      grew t 2 ∧ chained t ∧ t.meter.interval = v ∧ t.meter.intervalDue = none) ∧
    (∀ v e rtc w, (v = 0 ∨ 60 < v) → Runs (.mtIntervalWrite v e rtc w) s fun t =>
      grew t 1 ∧ t.meter.interval = m.interval ∧ t.meter.seals = min (2 ^ 30 - 1) (m.seals + 1)) ∧
    (∀ a v e rtc, sealRefused a v = true → Runs (.sealEvent false a v e rtc) s fun t =>
      grew t 1 ∧ chained t ∧ t.meter.seals = min (2 ^ 30 - 1) (m.seals + 1) ∧ t.meter.interval = m.interval) ∧
    (∀ a v e rtc, Runs (.sealEvent true a v e rtc) s fun t => grew t 1 ∧ t.meter.romOk = false) ∧
    (∀ gap e, Runs (.meterStart gap e) s fun t => grew t 1 ∧ chained t ∧ t.meter.rtc = m.stored ∧ t.meter.energy = max m.energy e) ∧
    (∀ rtc, Runs (.rtcStore rtc) s fun t => t = { s with meter := { m with rtc := max m.rtc rtc, stored := max m.rtc rtc } }) ∧
    (∀ e : BitVec 64, s.boot.held = 0 → Runs (.mtEnergyCopy e) s fun t =>
      t = { s with power := { s.power with energy := e }, meter := { m with energy := max m.energy e.toNat } })

/-! The harbour port (08). -/

/-- Messages received (R263, R264): another tag's are counted; DATA in order lands in package memory, and the session counts it; DATA outside the
session's windows is answered by a NACK and changes nothing; END ends the session, but for a digest session, which stays open; a twin's digest is held and compared (R378, R379); an
ACK counts what it covers and ends a session whose END it covers; a NACK changes nothing. Choices of the model in it: logs 60, 106. -/
def Obligations.HarbourReceives : Prop :=
  ∀ (m : HMsg) (s : State), harbourOn s = true → m.version = 1 → netOk s m.net 17 = true → m.dstPort.toNat = s.straits.udp →
    let row := fun (i : Instr) => (m.typ = 1 ∧ i = .harbourData m) ∨ (m.typ = 2 ∧ i = .harbourAck m) ∨ (m.typ = 3 ∧ i = .harbourNack m) ∨
      (m.typ = 4 ∧ i = .harbourEnd m) ∨ (m.typ = 5 ∧ i = .harbourDigest m)
    let mine := m.jobTag.toNat = s.straits.jobTag
    let n := m.payload.length
    let a := m.addr.toNat
    (∀ i, row i → ¬ mine → Runs i s fun t => t = { s with straits := { s.straits with drop := min 0xFFFFFFFF (s.straits.drop + 1) } }) ∧
    (m.typ = 3 → mine → exec (.harbourNack m) s = .next s) ∧
    (∀ k, mine → findSession s false m.session.toNat = some k → m.seq.toNat = (sessionOf s k).recvSeq → (sessionOf s k).recvSeq < 2 ^ 32 →
      let x := sessionOf s k
      let took := fun (t : State) (n : Nat) => (sessionOf t k).recvSeq = (x.recvSeq + 1) % 2 ^ 32 ∧ (sessionOf t k).accepted = x.accepted + n ∧
        (sessionOf t k).ackOwed = true ∧ ∀ j, j ≠ k → sessionOf t j = sessionOf s j
      (m.typ = 1 → inWindows x a n = true → s.memory.wipe = 0 → CleanMemory s → Runs (.harbourData m) s fun t =>
        took t n ∧ MemSame s t [(a, n)] ∧ (∀ j < n, memGet t.memory.data (a + j) = m.payload.getD j 0) ∧ t.cores = s.cores) ∧
      (m.typ = 1 → inWindows x a n = false → Runs (.harbourData m) s fun t =>
        { t with sent := s.sent, straits := { t.straits with unresolved := s.straits.unresolved } } = s ∧
        HarbourSends s t m.src (.message m.src m.srcPort.toNat 3 s.straits.jobTag m.session.toNat m.seq.toNat 1 0 0 [])) ∧
      (m.typ = 4 → x.kind = 4 → Runs (.harbourEnd m) s fun t => took t 0 ∧ (sessionOf t k).state = 1) ∧
      (m.typ = 4 → x.kind ≠ 4 → x.kind ≠ 6 → Runs (.harbourEnd m) s fun t => took t 0 ∧ (sessionOf t k).state = 2 ∧ t.control.supEvent.getLsbD 2 = true) ∧
      (m.typ = 4 → x.kind = 6 → Runs (.harbourEnd m) s fun t => took t 0 ∧
        let good := a = x.accepted ∧ leNat (m.payload.take 4) = 0x50435844 ∧ leNat ((m.payload.drop 4).take 2) = 1
        (good → (sessionOf t k).state = 2 ∧ t.commit.ledStep = leNat ((m.payload.drop 16).take 8)) ∧
        (¬ good → (sessionOf t k).state = 3 ∧ (sessionOf t k).cause = 2 ∧ t.commit = s.commit)) ∧
      (m.typ = 5 → x.kind = 4 → 8 < n → Runs (.harbourDigest m) s fun t => took t n ∧
        let j := leNat (m.payload.take 8)
        let dg := (m.payload.drop 8).take 32
        let own := tblGet [] s.commit.ownDigests j
        tblGet [] t.commit.twinDigests j = dg ∧ (own = dg → t.commit.matched = j ∧ t.commit.diverged = s.commit.diverged) ∧
        (own ≠ [] → own ≠ dg → t.commit.diverged = true ∧ t.control.supEvent.getLsbD 5 = true))) ∧
    (∀ k, m.typ = 2 → mine → findSession s true m.session.toNat = some k →
      let x := sessionOf s k
      let first := ((x.out.head?).map (·.seq)).getD x.nextSeq
      let c := (m.seq.toNat + 1 + 2 ^ 32 - first) % 2 ^ 32
      c ≤ x.out.length → Runs (.harbourAck m) s fun t => (sessionOf t k).bytes = x.bytes + ((x.out.take c).map (·.payload.length)).foldl (· + ·) 0 ∧
        (x.ended = true → x.todo = [] → (sessionOf t k).out.length = x.out.length - c ∧ (c = x.out.length → (sessionOf t k).state = 2)))

/-- Time-driven and network rows of the harbour port (R261–R263): a message unacknowledged for 100 µs goes again, and the seventeenth time the
session fails; an ACK leaves every 100 µs while one is owed; the link, a master's 1588 time, neighbour discovery and echo. A message for a
peer whose MAC address is not known waits until an Advertisement tells it. Choices of the model in it: logs 60, 93, 102, 106. -/
def Obligations.HarbourKeepsGoing : Prop :=
  ∀ (s : State) (now : Nat),
    (∀ (k : Fin 8) h rest, harbourOn s = true → (sessionOf s k).state = 1 → (sessionOf s k).out = h :: rest →
      h.lastTx + 100000 ≤ max s.tide.now now →
      (h.resends < 16 → 0 < (sessionOf s k).limit → Runs (.harbourResend k now) s fun t => (sessionOf t k).state = 1 ∧
        ((sessionOf t k).out.head?.map (·.resends)) = some (h.resends + 1) ∧ (sessionOf t k).out.map (·.seq) = (h :: rest).map (·.seq) ∧
        t.sent.length = s.sent.length + min (sessionOf s k).limit (rest.length + 1)) ∧
      (16 ≤ h.resends → Runs (.harbourResend k now) s fun t => (sessionOf t k).state = 3 ∧ (sessionOf t k).cause = 1)) ∧
    (∀ (k : Fin 8), harbourOn s = true → (sessionOf s k).state ≠ 0 → (sessionOf s k).ackOwed = true → Runs (.harbourAckPeriodic k now) s fun t =>
      let x := sessionOf s k
      sessionOf t k = { x with ackOwed := false, bytes := x.accepted } ∧ { t with sent := s.sent, straits := s.straits } = atTide s now ∧
      HarbourSends s t x.peer (.message x.peer x.peerPort 2 s.straits.jobTag x.sid ((x.recvSeq + 2 ^ 32 - 1) % 2 ^ 32) 0 0 x.window [])) ∧
    (∀ up, alive s = true → up = false ∨ harbourPowered s = true → Runs (.harbourLinkChange up) s fun t =>
      t = { s with straits := { s.straits with linkUp := up, ptpLocked := up && s.straits.ptpLocked } }) ∧
    (∀ net ptp tide, harbourOn s = true → feature s featPtp = true → netOk s net 17 = true → Runs (.ptpMessage (net, true) ptp tide) s fun t =>
      t = { s with straits := { s.straits with ptpLocked := true, ptpOffset := (ptp : Int) - tide } }) ∧
    (∀ net, harbourOn s = true → s.straits.ip ≠ 0 → netOk s net 58 = true →
      let ip := s.straits.ip
      let row := fun (d : Discovery) (mac : BitVec 48) (P : State → Prop) => Runs (.neighborSolicitation net d mac) s fun t =>
        { t with sent := s.sent, straits := { t.straits with neighbours := s.straits.neighbours, unresolved := s.straits.unresolved } } = s ∧ P t
      let learnt := fun (t : State) (who : BitVec 128) (mac : BitVec 48) =>
        t.straits.neighbours.find? (fun n => n.1 = who) = some (who, mac) ∧ (∀ w ∈ t.straits.unresolved, w.1 ≠ who) ∧
          ∀ w ∈ s.straits.unresolved, w.1 = who → Out.harbour (sendVlan s) mac w.2 ∈ t.sent
      (∀ src mac, src ≠ 0 → row (.solicitation ip src) mac fun t => learnt t src mac ∧
        t.sent.head? = some (.harbour (sendVlan s) mac (.advertise src ip Config.mac))) ∧
      (∀ mac, row (.solicitation ip 0) mac fun t =>
        t = { s with sent := .harbour (sendVlan s) allNodesMac (.advertise allNodes ip Config.mac) :: s.sent }) ∧
      (∀ x src mac, x ≠ ip → row (.solicitation x src) mac fun t => t = s) ∧
      (∀ who o mac, (who, o) ∈ s.straits.unresolved → row (.advertisement who) mac fun t => learnt t who mac) ∧
      (∀ src b, Runs (.icmpv6Echo net (ip, src) b) s fun t => { t with sent := s.sent, straits := s.straits } = s ∧
        HarbourSends s t src (.echoReply src b)))

/-! Mailboxes (14). -/

/-- How every mailbox takes a command word (R423, R425, R432, R433, Table 14-5): a word while a command runs is undefined, a repeated SEQ is
ignored, a SEQ that is not the next ends with BAD_SEQ, a mailbox that does not serve the opcode ends with WRONG_MAILBOX, and refusals by
the state of the package end with their code. None of them does anything else.
An opcode that Table 14-8 does not hold ends with UNKNOWN_COMMAND (R432). A running command whose outcome is known completes: response, length,
detail, status and DONE, and with IRQ its vector (R424); a SYSTEM_RESET or LIFECYCLE_SET is followed by its reset 1 ms later, and with FW_UPDATE's
completion the flash holds its image. Choices of the model in it: logs 26, 79, 80, 81. -/
def Obligations.MailboxesTakeAndCompleteCommands : Prop :=
  (∀ (op : Nat) (mb : Fin 16) (seq : Byte) (irq ok : Bool) (now : Nat) (s : State), op ∈ opcodes → boxServed s mb = true →
    let c := commandOf op mb seq irq now ok
    let b := boxOf s mb
    (b.state = 1 → exec c s = .fault (.mailboxWrite (keptOf s))) ∧
    (b.state ≠ 1 → seq.toNat = b.seq → exec c s = .next s) ∧
    (b.state ≠ 1 → seq.toNat ≠ b.seq → seq.toNat ≠ (b.seq + 1) % 256 → irq = false → servedIn op mb = true → Runs c s fun t => BoxOnly s now t mb ∧
      (boxOf t mb).state = 2 ∧ (boxOf t mb).code = 0x10 ∧ (boxOf t mb).seq = b.seq ∧ (boxOf t mb).rspLen = 0) ∧
    (b.state ≠ 1 → seq.toNat = (b.seq + 1) % 256 → servedIn op mb = false → Runs c s fun t => BoxOnly s now t mb ∧
      Ended t mb op irq 0xF 0 []) ∧
    (∀ code d, b.state ≠ 1 → seq.toNat = (b.seq + 1) % 256 → servedIn op mb = true → unserved s mb = some (.refuse code d) →
      Runs c s fun t => BoxOnly s now t mb ∧ Ended t mb op irq code (reg d) []) ∧
    (∀ o, b.state ≠ 1 → seq.toNat = (b.seq + 1) % 256 → servedIn op mb = true → unserved s mb = none → exclusive op = true →
      exclusiveRuns s = some o → Runs c s fun t => BoxOnly s now t mb ∧ Ended t mb op irq 1 (reg o) [])) ∧
  (∀ (mb : Fin 16) (now : Nat) (s : State), boxServed s mb = true →
    (∀ (op : BitVec 16) (seq : Byte) (irq : Bool), op.toNat ∉ opcodes → (boxOf s mb).state ≠ 1 →
      seq.toNat = ((boxOf s mb).seq + 1) % 256 → Runs (.unknownCommand mb op seq irq now) s fun t =>
        BoxOnly s now t mb ∧ Ended t mb op.toNat irq 0xE 0 []) ∧
    (∀ r x, (boxOf s mb).run = some r → r.result = some x → s.commit.resume ≠ some mb.val → Runs (.commandComplete mb now) s fun t =>
      (boxOf t mb).state = 2 ∧ (boxOf t mb).code = x.code ∧ (boxOf t mb).detail = x.detail ∧ (boxOf t mb).rspLen = x.resp.length ∧
      (boxOf t mb).run = none ∧ (boxOf t mb).seq = (boxOf s mb).seq ∧ (∀ i < x.resp.length, memGet (boxOf t mb).resp i = x.resp.getD i 0) ∧
      (∀ n, n ≠ mb.val → boxOf t n = boxOf s n) ∧
      (r.irq = true → s.control.masks.getLsbD mb = false → t.sent = .msix mb.val :: s.sent) ∧
      (r.irq = true → s.control.masks.getLsbD mb = true → t.control.pba.getLsbD mb = true ∧ t.sent = s.sent) ∧
      (r.irq = false → t.sent = s.sent) ∧ (r.opcode = 0x74 → x.code = 0 → t.boot.resetDue = some (max s.tide.now now + 1000000)) ∧
      (r.opcode = 0x18 → x.code = 0 → t.boot.lifecycleDue = some (max s.tide.now now + 1000000)) ∧
      (r.opcode = 0x10 → x.code = 0 → t.boot.flash = s.boot.flashing ∧ t.boot.flashing = []) ∧
      (x.code ≠ 0 → t.boot = s.boot)))

/-- IDENTIFY, STATUS, METER_READ, RESET_CAUSE, TELEMETRY, THERMAL_STATUS, DIAG_LANES and the beginning of SYSTEM_RESET end with OK and their
response, and change nothing else but a telemetry refresh (R3, R428, R440, R445–R447, R483); a METER_READ waits behind the notices that wait
for the meter (R430). Choices of the model in it: logs 63, 79. -/
def Obligations.ReadingCommands : Prop :=
  ∀ (mb : Fin 16) (seq : Byte) (irq : Bool) (now : Nat) (s : State),
    let t0 := atTide s now
    let plain := fun (op : Nat) (c : Instr) (resp : List Byte) => Accepts s mb op seq → Runs c s fun t => BoxOnly s now t mb ∧
      Ended t mb op irq 0 0 resp
    plain 0x01 (.identify mb seq irq now) (identity s) ∧
    (Accepts s mb 0x02 seq → Runs (.status mb seq irq now) s fun t => BoxOnly { s with freeCtr := s.freeCtr + 1 } now t mb ∧
      ∃ resp, Ended t mb 0x02 irq 0 0 resp ∧ (resp.drop 4).take 8 = leBytes 8 s.control.cfgGen ∧ resp.drop 40 = leBytes 8 t0.tide.now) ∧
    (s.power.notices = [] → parameter s mb 0 1 = 0 → parameter s mb 1 1 = 0 → plain 0x60 (.meterRead mb seq irq now) (leBytes 8 s.meter.energy ++
      leBytes 8 s.meter.seqNext ++ leBytes 8 s.meter.rtc ++ leBytes 4 (mtSeal s.meter) ++ leBytes 1 s.meter.interval ++ List.replicate 35 0)) ∧
    (Accepts s mb 0x60 seq → s.power.notices ≠ [] → parameter s mb 0 1 ≤ 1 → parameter s mb 1 1 ≤ 15 → Runs (.meterRead mb seq irq now) s fun t =>
      { t with power := s.power, control := { t.control with boxes := s.control.boxes } } = t0 ∧
      t.power = { s.power with reads := s.power.reads ++ [(mb.val, s.power.notices.length)] } ∧
      (boxOf t mb).run = some ⟨0x60, irq, none, []⟩) ∧
    plain 0x70 (.resetCause mb seq irq now) (causeBytes s ++ leBytes 8 s.control.cfgGen ++ List.replicate 24 0 ++ journalTail s) ∧
    (Accepts s mb 0x71 seq → Runs (.telemetry mb seq irq now) s fun t =>
      BoxOnly { s with control := { s.control with telem := snapshot t0 } } now t mb ∧ Ended t mb 0x71 irq 0 0 (snapshot t0)) ∧
    plain 0x75 (.thermalStatus mb seq irq now) (leBytes 1 (bit (s.power.stat.getLsbD 2)) ++ [0] ++ leBytes 2 1050 ++ temperatures s) ∧
    (∀ k, parameter s mb 0 1 = k → k < 4 → plain 0x80 (.diagLanes mb seq irq now) (isthLaneBytes s k)) ∧
    plain 0x74 (.systemReset mb seq irq now) []

/-- Settings (R396, R401, R410, R443, R444, R447): a telemetry period, the governor's cap and floor commands, the harbour address, the lasers,
wakes and power states; those that change the configuration raise CFG_GEN, and a parameter out of range ends with BAD_PARAM.
The tide's commands (R276, R286): rank 0 of a pod makes the package its source, POD_ID 0 makes it free; TEMPO_SET is for the source alone.
Choices of the model in it: logs 63, 69, 79. -/
def Obligations.SettingCommands : Prop :=
  (∀ (mb : Fin 16) (seq : Byte) (irq : Bool) (now : Nat) (s : State),
    let par := parameter s mb
    (Accepts s mb 0x52 seq → par 0 2 ≤ 1000 → Runs (.telemetrySet mb seq irq now) s fun t => t.control.period = par 0 2 ∧
      Ended t mb 0x52 irq 0 0 [] ∧ GenRose s t ∧ { t with control := s.control } = atTide s now) ∧
    (Accepts s mb 0x52 seq → 1000 < par 0 2 → Runs (.telemetrySet mb seq irq now) s fun t => BoxOnly s now t mb ∧
      ∃ d, Ended t mb 0x52 irq 3 d []) ∧
    (Accepts s mb 0x51 seq → s.power.notices.length < 256 → par 0 1 = 1 → Runs (.govSet mb seq irq now) s fun t =>
      t.power.cap = max 1500 (min 5200 (par 2 2)) ∧ GenRose s t ∧ t.power.floor = s.power.floor ∧ t.power.slewUp = s.power.slewUp ∧
        (∃ resp, Ended t mb 0x51 irq 0 0 resp) ∧
        t.power.notices.length = s.power.notices.length + if t.power.cap = s.power.cap then 0 else 1) ∧
    (Accepts s mb 0x51 seq → s.power.notices.length < 256 → 32 ≤ par 0 1 → Runs (.govSet mb seq irq now) s fun t => BoxOnly s now t mb ∧
      ∃ d, Ended t mb 0x51 irq 3 d []) ∧
    (Accepts s mb 0x72 seq → s.power.notices.length < 256 → Runs (.rampToFloor mb seq irq now) s fun t =>
      t.power.cap = max 1500 (min 5200 (max s.power.floor 1500)) ∧ GenRose s t ∧ Ended t mb 0x72 irq 0 0 []) ∧
    (Accepts s mb 0x72 seq → 256 ≤ s.power.notices.length → Runs (.rampToFloor mb seq irq now) s fun t => BoxOnly s now t mb ∧
      Ended t mb 0x72 irq 1 0xFFFF []) ∧
    (Accepts s mb 0x90 seq → (∀ k < 8, (sessionOf s k).state ≠ 1) → par 16 2 = 0xFFFF ∨ (1 ≤ par 16 2 ∧ par 16 2 ≤ 4094) → Runs (.harbourConfig mb seq irq now) s fun t =>
      t.straits = { s.straits with ip := BitVec.ofNat 128 (par 0 16), vlan := par 16 2, udp := par 18 2 } ∧ GenRose s t ∧
        Ended t mb 0x90 irq 0 0 []) ∧
    (Accepts s mb 0x73 seq → Runs (.isolateStraits mb seq irq now) s fun t => GenRose s t ∧ Ended t mb 0x73 irq 0 0 [] ∧
      ∀ p < 8, (portOf t p).state = 3 ∧ (portOf t p).cause = 4 ∧ (portOf t p).isolated = true) ∧
    (Accepts s mb 0x76 seq → s.power.vinFault = false → s.power.tripDry = false → s.power.going = none →
      Runs (.wake mb seq irq now) s fun t => Ended t mb 0x76 irq 0 0 [] ∧ t.power.wakeCause = s.power.wakeCause ||| 32 ∧
        t.power.going = (if s.power.state = 0 then none else some 0) ∧ t.power.state = s.power.state) ∧
    (Accepts s mb 0x50 seq → s.power.going = none → s.power.notices.length < 256 → 1 ≤ par 0 1 → par 0 1 ≤ 3 → s.power.state = 0 →
      armed s = false → s.memory.wipe = 0 → Runs (.powerState mb seq irq now) s fun t =>
        t.power = { s.power with going := some (par 0 1), mailbox := some mb.val } ∧ (boxOf t mb).run = some ⟨0x50, irq, none, []⟩) ∧
    (Accepts s mb 0x50 seq → s.power.going = none → s.power.notices.length < 256 → 1 ≤ par 0 1 → par 0 1 ≤ 3 → armed s = true →
      Runs (.powerState mb seq irq now) s fun t => BoxOnly s now t mb ∧ ∃ d, Ended t mb 0x50 irq 4 d [])) ∧
  (∀ (mb : Fin 16) (seq : Byte) (irq : Bool) (now : Nat) (s : State),
    let par := parameter s mb
    (Accepts s mb 0x40 seq → armed s = false → s.boot.clkMode ≠ 3 → par 0 2 ≠ 0 → par 2 1 = 0 → s.tide.state ≠ 5 →
      Runs (.tideRole mb seq irq now) s fun t => t.tide.state = 5 ∧ t.tide.podId = par 0 2 ∧ t.tide.rank = 0 ∧ t.tide.locked = true ∧
        t.tide.depth = 0 ∧ t.tide.srcRank = 0 ∧ GenRose s t ∧ Ended t mb 0x40 irq 0 0 []) ∧
    (Accepts s mb 0x40 seq → armed s = false → s.boot.clkMode ≠ 3 → par 0 2 = 0 → par 2 1 ∈ [0, 1, 2, 3, 4, 7] →
      Runs (.tideRole mb seq irq now) s fun t => t.tide.state = 0 ∧ t.tide.podId = 0 ∧ t.tide.locked = false ∧ t.tide.parent = 8 ∧
        GenRose s t ∧ Ended t mb 0x40 irq 0 0 []) ∧
    (Accepts s mb 0x40 seq → armed s = false → par 2 1 ∉ [0, 1, 2, 3, 4, 7] → Runs (.tideRole mb seq irq now) s fun t =>
      BoxOnly s now t mb ∧ ∃ d, Ended t mb 0x40 irq 3 d []) ∧
    (Accepts s mb 0x41 seq → s.tide.pending.length < 4 → s.tide.state = 5 → 4096 ≤ par 0 2 → par 0 2 ≤ 16384 →
      Runs (.tempoSet mb seq irq now) s fun t => ∃ b : Nat, t.tide.pending = s.tide.pending ++ [⟨b, par 0 2⟩] ∧ currentStep s + 2 ≤ b ∧
        GenRose s t ∧ Ended t mb 0x41 irq 0 0 (leBytes 8 b)) ∧
    (Accepts s mb 0x41 seq → s.tide.pending.length < 4 → s.tide.state ≠ 5 → Runs (.tempoSet mb seq irq now) s fun t =>
      BoxOnly s now t mb ∧ ∃ d, Ended t mb 0x41 irq 4 d []))

/-- Firmware, lifecycle and attestation (R441, R470–R476): FW_UPDATE writes only an image that passes its check, and until it completes the
flash holds none that does; LIFECYCLE_SET writes an allowed
transition with its confirmation, and the ledger follows with the reset; each signature takes the next index, reserved before its use, and none exists past
2⁴⁰. Choices of the model in it: logs 71, 79, 82, 83, 109. -/
def Obligations.IdentityCommands : Prop :=
  ∀ (mb : Fin 16) (seq : Byte) (irq ok : Bool) (now : Nat) (s : State),
    let par := parameter s mb
    let t0 := startBox (atTide s now) ⟨mb, 0x10, seq.toNat, irq⟩
    let img := (readRange t0 (par 0 8) (par 8 8) (supReader s)).2
    (Accepts s mb 0x10 seq → CleanMemory s → inMem (par 0 8) (par 8 8) = true → 0 < par 8 8 → par 8 8 ≤ 4194304 →
      (imageFault img = 0 → ok = true → Runs (.fwUpdate mb seq irq now ok) s fun t => t.boot = { s.boot with flash := [], flashing := memWrite [] 0 img } ∧
        Ended t mb 0x10 irq 0 0 (shake256 (imageCode img)) ∧ GenRose s t ∧ MemSame s t []) ∧
      (imageFault img ≠ 0 → Runs (.fwUpdate mb seq irq now ok) s fun t => t.boot = s.boot ∧ Ended t mb 0x10 irq 0xC 0 [])) ∧
    (Accepts s mb 0x18 seq → lifeAllowed (lifecycle s.boot) (par 0 1) = true → (par 0 1 = 1 → s.boot.owners.length < 4) →
      par 1 1 = (if par 0 1 = 3 then 0xDC else 0xC5) → Runs (.lifecycleSet mb seq irq now) s fun t =>
        lifecycle t.boot = par 0 1 ∧ t.commit = s.commit ∧ Ended t mb 0x18 irq 0 0 [] ∧ GenRose s t ∧
        (par 0 1 = 1 → t.boot.owners = s.boot.owners ++ [memRead (boxOf s mb).params 32 32]) ∧
        (par 0 1 ≠ 1 → t.boot.owners = s.boot.owners ∧ t.boot.owned = false)) ∧
    (Accepts s mb 0x18 seq → lifeAllowed (lifecycle s.boot) (par 0 1) = false → Runs (.lifecycleSet mb seq irq now) s fun t =>
      BoxOnly s now t mb ∧ ∃ d, Ended t mb 0x18 irq 3 d []) ∧
    (Accepts s mb 0x19 seq → par 32 1 = 0 → s.boot.sigNext < 2 ^ 40 → s.boot.sigNext ≤ s.boot.sigRes →
      Runs (.attest mb seq irq now ok) s fun t => t.boot.sigNext = s.boot.sigNext + 1 ∧ t.boot.sigNext ≤ t.boot.sigRes ∧
        s.boot.sigRes ≤ t.boot.sigRes ∧ ∃ st sig, t.boot.lastSig = some (s.boot.sigNext, sig) ∧ sig = signature s.boot.sigNext st ∧
          Ended t mb 0x19 irq 0 0 (st ++ sig.take 1664) ∧ { t.boot with sigNext := s.boot.sigNext, sigRes := s.boot.sigRes, lastSig := s.boot.lastSig } = s.boot) ∧
    (Accepts s mb 0x19 seq → par 32 1 = 0 → 2 ^ 40 ≤ s.boot.sigNext → Runs (.attest mb seq irq now ok) s fun t =>
      BoxOnly s now t mb ∧ Ended t mb 0x19 irq 0xB 0 []) ∧
    (Accepts s mb 0x19 seq → par 32 1 = 3 → Runs (.attest mb seq irq now ok) s fun t => BoxOnly s now t mb ∧
      ∃ cert : List Byte, Ended t mb 0x19 irq 0 0 (leBytes 4 Config.xmssOid.toNat ++ leBytes 32 Config.xmssRoot.toNat ++
        leBytes 32 Config.xmssPubSeed.toNat ++ cert))

/-- Loading, arming and releasing (R247, R275, R357, R376, R434, R439, R440): an image that passes every check becomes the loaded job with its tag and
position; one that fails a check changes nothing; arming needs a tide that is LOCKED or SOURCE, ends at once without linked ports and
else begins the identity exchange; JOB_RELEASE resets every core and frees every context. Choices of the model in it: logs 37, 38, 79. -/
def Obligations.JobLoadingCommands : Prop :=
  ∀ (mb : Fin 16) (seq : Byte) (irq : Bool) (now : Nat) (s : State), s.power.notices.length < 256 → CleanMemory s →
    let par := parameter s mb
    let a := par 0 8
    let n := par 8 8
    let at0 := fun (op : Nat) => startBox (atTide s now) ⟨mb, op, seq.toNat, irq⟩
    let img := fun (op : Nat) => (readRange (at0 op) a n (supReader s)).2
    let taken := fun (t : State) (b : List Byte) => t.job.state = 1 ∧ t.job.cause = 0 ∧ t.job.img = some (a, n) ∧
      t.straits.jobTag = bNat b 8 2 ∧ t.straits.pos = bNat b 12 4 % 2 ^ 20 ∧ GenRose s t ∧ MemSame s t [] ∧
      (∀ x < 576, (coreOf t x).mode ≠ .running) ∧ ∀ i, cState (flowOf t i) ≠ 2
    (Accepts s mb 0x30 seq → a % 4096 = 0 → inMem a n = true → n = peekNat s (a + 16) 8 →
      (imageDetail s.boot.features (img 0x30) a = none → Runs (.jobLoad mb seq irq now) s fun t => taken t (img 0x30) ∧ t.job.variant = 0 ∧
        t.commit.ledStep = 0 ∧ t.commit.ledState = 0 ∧
        Ended t mb 0x30 irq 0 0 (((img 0x30).drop 32).take 32 ++ leBytes 2 (bNat (img 0x30) 8 2))) ∧
      (∀ d, imageDetail s.boot.features (img 0x30) a = some d → Runs (.jobLoad mb seq irq now) s fun t =>
        t.job = s.job ∧ t.cores = s.cores ∧ t.straits = s.straits ∧ Ended t mb 0x30 irq 3 (reg d) [])) ∧
    (Accepts s mb 0x30 seq → a % 4096 ≠ 0 → Runs (.jobLoad mb seq irq now) s fun t => BoxOnly s now t mb ∧ ∃ d, Ended t mb 0x30 irq 3 d []) ∧
    (Accepts s mb 0x31 seq → a % 4096 = 0 → inMem a n = true → n = peekNat s (a + 16) 8 →
      imageDetail s.boot.features (img 0x31) a = none → reloadDetail (loadedImage s) (img 0x31) s.job.variant = none →
      Runs (.jobReload mb seq irq now) s fun t => taken t (img 0x31) ∧ t.job.variant = s.job.variant ∧ t.commit.ledStep = s.commit.ledStep) ∧
    (Accepts s mb 0x32 seq → stateSession s = none → (∀ f ∈ s.straits.flows, badOutPort s f.2 = false) → s.tide.state = 3 ∨ s.tide.state = 5 →
      (linkedPorts s = [] → Runs (.jobArm mb seq irq now) s fun t => t.job.state = 2 ∧ t.job.adopted = false ∧ t.job.arming = none ∧
        Ended t mb 0x32 irq 0 0 [0] ∧ ∀ i, cState (flowOf t i) = 0 ∨ cState (flowOf t i) = 2) ∧
      (linkedPorts s ≠ [] → Runs (.jobArm mb seq irq now) s fun t => t.job = { s.job with
        arming := some ⟨mb, false, max s.tide.now now, 0⟩ } ∧ (boxOf t mb).run = some ⟨0x32, irq, none, []⟩)) ∧
    (Accepts s mb 0x32 seq → stateSession s = none → (∀ f ∈ s.straits.flows, badOutPort s f.2 = false) → s.tide.state ≠ 3 → s.tide.state ≠ 5 →
      Runs (.jobArm mb seq irq now) s fun t => BoxOnly s now t mb ∧ Ended t mb 0x32 irq 0xA 0 []) ∧
    (Accepts s mb 0x36 seq → stateSession s = none → (∀ f ∈ s.straits.flows, badOutPort s f.2 = false) → s.tide.state = 3 ∨ s.tide.state = 5 →
      par 0 4 = s.straits.pos → par 4 2 = s.straits.jobTag → linkedPorts s = [] → Runs (.spareAdopt mb seq irq now) s fun t =>
        t.job.state = 2 ∧ t.job.adopted = true ∧ t.commit.replaced.toNat = par 8 8 ∧ Ended t mb 0x36 irq 0 0 [0]) ∧
    (Accepts s mb 0x35 seq → Runs (.jobRelease mb seq irq now) s fun t => t.job.state = 0 ∧ t.job.img = none ∧ t.straits.jobTag = 0 ∧
      t.straits.flows = [] ∧ (∀ x < 576, (coreOf t x).mode = .wiping ∧ (coreOf t x).program = false) ∧ GenRose s t ∧ Ended t mb 0x35 irq 0 0 [])

/-- Running a job (R350, R372, R436, R437): JOB_START sets the first frame and makes each core with a program wait for it; JOB_HALT and RESHARD take a
boundary that is early enough, else they end with BAD_PARAM and REFUSED_STATE; COMMIT_RESUME takes a step that the ledger admits and
writes its verdict. Choices of the model in it: logs 19, 79. -/
def Obligations.JobRunningCommands : Prop :=
  ∀ (mb : Fin 16) (seq : Byte) (irq : Bool) (now : Nat) (s : State),
    let par := parameter s mb
    let t0 := atTide s now
    (Accepts s mb 0x33 seq → stateSession s = none → max s.tide.now now + 1000000 ≤ par 8 8 → (par 16 2 = 0 ∨ (4096 ≤ par 16 2 ∧ par 16 2 ≤ 16384)) →
      Runs (.jobStart mb seq irq now) s fun t => t.job.state = 3 ∧
        t.tide.due = some (par 0 8, par 8 8, if par 16 2 = 0 then tempoStart s else par 16 2) ∧ t.tide.running = false ∧ t.commit.evalNext = par 0 8 ∧
        (∀ x ∈ s.cores, x.2.program = true → x.2.mode ≠ .wiping → ∃ y ∈ t.cores, y.1 = x.1 ∧ y.2.mode = .running ∧ y.2.wait = .stepRef ∧
          y.2.pc = x.2.start ∧ y.2.doneUpTo = par 0 8) ∧ ∃ resp, Ended t mb 0x33 irq 0 0 resp) ∧
    (Accepts s mb 0x33 seq → stateSession s = none → par 8 8 < max s.tide.now now + 1000000 → Runs (.jobStart mb seq irq now) s fun t =>
      BoxOnly s now t mb ∧ ∃ d, Ended t mb 0x33 irq 3 d []) ∧
    (Accepts s mb 0x34 seq → reshardAt s = none → earliestBoundary t0 ≤ par 0 8 → Runs (.jobHalt mb seq irq now) s fun t =>
      t.job = { s.job with state := 4, cause := 0, haltAt := par 0 8 } ∧ Ended t mb 0x34 irq 0 0 [] ∧ t.cores = s.cores) ∧
    (Accepts s mb 0x34 seq → reshardAt s = none → (par 0 8 : Int) < earliestBoundary t0 → Runs (.jobHalt mb seq irq now) s fun t =>
      BoxOnly s now t mb ∧ ∃ d, Ended t mb 0x34 irq 3 d []) ∧
    (Accepts s mb 0x37 seq → reshardAt s = none → earliestBoundary t0 ≤ par 8 8 → par 0 1 < secNat s secReshard 0 1 →
      ((par 1 1).testBit 0 = true ∨ bucketOpen s = false) → Runs (.reshard mb seq irq now) s fun t => t.job = { s.job with
        rsState := 1, rsDrain := (par 1 1).testBit 0, rsPlan := par 0 1, rsAt := par 8 8, rsLeft := planNat s (par 0 1) 1 1, rsFolded := false } ∧
        Ended t mb 0x37 irq 0 0 []) ∧
    (Accepts s mb 0x37 seq → (par 8 8 : Int) < earliestBoundary t0 → Runs (.reshard mb seq irq now) s fun t =>
      BoxOnly s now t mb ∧ ∃ d, Ended t mb 0x37 irq 4 d []) ∧
    (Accepts s mb 0x38 seq → resumable s.commit (par 0 8) = true → Runs (.commitResume mb seq irq now) s fun t =>
      t.commit.resume = some mb.val ∧ t.commit.ledStep = par 0 8 ∧ t.commit.ledState ∈ [1, 2, 3, 4] ∧ (∃ resp, Ended t mb 0x38 irq 0 0 resp) ∧
        ∀ x ∈ s.cores, x.2.program = true → x.2.mode ≠ .wiping → ∃ y ∈ t.cores, y.1 = x.1 ∧ y.2.mode = .running ∧ y.2.wait = .none) ∧
    (Accepts s mb 0x38 seq → resumable s.commit (par 0 8) = false → Runs (.commitResume mb seq irq now) s fun t =>
      BoxOnly s now t mb ∧ ∃ d, Ended t mb 0x38 irq 3 d [])

/-- Diagnostics (R216, R442, R464): DIAG_ECC returns and clears the error counters; DIAG_PROGRAM starts its cores with the present tide as their frame
reference; CORE_RESET puts a core under reset and waits for its wipe. Choices of the model in it: logs 79, 85. -/
def Obligations.DiagnosticCommands : Prop :=
  ∀ (mb : Fin 16) (seq : Byte) (irq : Bool) (now : Nat) (s : State),
    let par := parameter s mb
    let at0 := fun (op : Nat) => startBox (atTide s now) ⟨mb, op, seq.toNat, irq⟩
    (Accepts s mb 0x81 seq → s.power.state < 2 → Runs (.diagEcc mb seq irq now) s fun t =>
      (∀ i < 24, stackOf t i = { stackOf s i with ce := 0, ue := 0, accUe := 0 }) ∧
      Ended t mb 0x81 irq 0 0 ((List.range 24).flatMap (eccBytes s)) ∧ MemSame s t []) ∧
    (Accepts s mb 0x82 seq → CleanMemory s → inMem (par 0 8) (par 8 8) = true →
      let b := (readRange (at0 0x82) (par 0 8) (par 8 8) (supReader s)).2
      64 ≤ b.length → layoutLen secPrograms b ≤ b.length → programsFault b = none → Runs (.diagProgram mb seq irq now) s fun t =>
        Ended t mb 0x82 irq 0 0 [] ∧ MemSame s t [] ∧ ∀ p ∈ programsAt s (par 0 8), (coreOf s p.core).mode ≠ .wiping →
          (∀ q ∈ programsAt s (par 0 8), q.core = p.core → q = p) →
          (coreOf t p.core).mode = .running ∧ (coreOf t p.core).pc = p.start ∧ (coreOf t p.core).runs = .diag ∧
          (coreOf t p.core).frameT = max s.tide.now now ∧ (coreOf t p.core).frameQ = 4096) ∧
    (Accepts s mb 0x83 seq → par 0 1 ≤ 3 → par 1 2 < 144 → (coreOf s (144 * par 0 1 + par 1 2)).mode ≠ .wiping →
      Runs (.coreReset mb seq irq now) s fun t => (coreOf t (144 * par 0 1 + par 1 2)).mode = .wiping ∧
        (∀ x, x ≠ 144 * par 0 1 + par 1 2 → coreOf t x = coreOf s x) ∧ t.boot.coreCount = min 0xFFFFFFFF (s.boot.coreCount + 1) ∧
        (boxOf t mb).run = some ⟨0x83, irq, none, [144 * par 0 1 + par 1 2]⟩) ∧
    (Accepts s mb 0x83 seq → 3 < par 0 1 → Runs (.coreReset mb seq irq now) s fun t => BoxOnly s now t mb ∧ ∃ d, Ended t mb 0x83 irq 3 d [])

/-- Harbour sessions (R381, R382, R443): SESSION_OPEN opens a free slot for its ranges, SESSION_CLOSE frees the slot of an open session; CHECKPOINT and
RESTORE open a session over the JOB_STATE regions once the ledger is settled; with no slot free BUSY names the opcode of a session that holds one.
Choices of the model in it: logs 38, 79, 87. -/
def Obligations.SessionCommands : Prop :=
  ∀ (mb : Fin 16) (seq : Byte) (irq : Bool) (now : Nat) (s : State) (k : Nat),
    let par := parameter s mb
    let opened := fun (t : State) (kind : Nat) => (sessionOf t k).state = 1 ∧ (sessionOf t k).kind = kind ∧ (sessionOf t k).sid = par 0 4 ∧
      (sessionOf t k).window = par 6 2 ∧ ∀ j, j ≠ k → sessionOf t j = sessionOf s j
    (Accepts s mb 0x91 seq → freeSlot s = some k → par 4 1 ∈ [1, 2, 3, 4] → sessionFault s mb (par 4 1) = none → rangesFault s mb = none →
      Runs (.sessionOpen mb seq irq now) s fun t => opened t (par 4 1) ∧ Ended t mb 0x91 irq 0 0 (leBytes 3 k) ∧
        (par 4 1 = 1 → (sessionOf t k).ranges = (List.range (par 26 2)).map (rangeParam s mb)) ∧ MemSame s t []) ∧
    (∀ j, Accepts s mb 0x92 seq → (List.range 8).find? (fun k => (sessionOf s k).state = 1 && (sessionOf s k).sid = par 0 4) = some j →
      Runs (.sessionClose mb seq irq now) s fun t => (sessionOf t j).state = 0 ∧ (sessionOf t j).cause = 3 ∧ Ended t mb 0x92 irq 0 0 [] ∧
        t.control.supEvent.getLsbD 2 = true ∧ ∀ i, i ≠ j → sessionOf t i = sessionOf s i) ∧
    (Accepts s mb 0x93 seq → freeSlot s = some k → ledgerSettled s = true → sessionFault s mb 5 = none → (stateRegions s).length ≤ 252 →
      Runs (.checkpoint mb seq irq now) s fun t => opened t 5 ∧ Ended t mb 0x93 irq 0 0 (leBytes 3 k) ∧ MemSame s t [] ∧
        (sessionOf t k).ranges = (stateRegions s).map (fun r => ⟨r.2.base, r.2.len, 0⟩)) ∧
    (Accepts s mb 0x94 seq → freeSlot s = some k → ledgerSettled s = true → sessionFault s mb 6 = none → Runs (.restore mb seq irq now) s fun t => opened t 6 ∧
      Ended t mb 0x94 irq 0 0 (leBytes 3 k) ∧ MemSame s t [] ∧ (s.job.state = 2 → t.job.state = 1)) ∧
    (Accepts s mb 0x93 seq → freeSlot s = some k → ledgerSettled s = false → Runs (.checkpoint mb seq irq now) s fun t => BoxOnly s now t mb ∧
      ∃ d, Ended t mb 0x93 irq 4 d []) ∧
    (freeSlot s = none → (Accepts s mb 0x91 seq → Runs (.sessionOpen mb seq irq now) s fun t => BoxOnly s now t mb ∧ Ended t mb 0x91 irq 1 (reg (slotHolder s)) []) ∧
      (Accepts s mb 0x93 seq → Runs (.checkpoint mb seq irq now) s fun t => BoxOnly s now t mb ∧ Ended t mb 0x93 irq 1 (reg (slotHolder s)) []) ∧
      (Accepts s mb 0x94 seq → Runs (.restore mb seq irq now) s fun t => BoxOnly s now t mb ∧ Ended t mb 0x94 irq 1 (reg (slotHolder s)) []))

/-! Registers and the memory window (07, 14). -/

/-- Rows that read a register through BAR0: the LO half of a pair captures the HI half, a counter is cleared by its read (R8, R216, R232, R446,
R481); nothing else changes. -/
def Obligations.ReadingRegisters : Prop :=
  ∀ (s : State), pcieOn s = true →
    let c := s.control
    let w := fun (n : Nat) => leBytes 4 (n % 2 ^ 32)
    (∀ now, Runs (.tideNowLoRead now) s fun t => t = { atTide s now with
      rdata := w (max s.tide.now now), control := { c with capTide := some (max s.tide.now now) } }) ∧
    (∀ now, Runs (.jtagBusacc false 0x80004 4 [] (none, [], now)) s fun t => t = { selectBusacc (atTide s now) with
      rdata := w ((c.capTide.getD (max s.tide.now now)) / 2 ^ 32), control := { c with capTide := none } }) ∧
    (Runs .mtEnergyLoRead s fun t => t = { s with
      rdata := w s.power.energy.toNat, control := { c with capEnergy := some s.power.energy.toNat } }) ∧
    (Runs .cfgGenLoRead s fun t => t = { s with rdata := w c.cfgGen, control := { c with capCfg := some c.cfgGen } }) ∧
    (Runs .slotEndedLoRead s fun t => t = { s with
      rdata := w s.job.slotEnded, control := { c with capSlot := some s.job.slotEnded } }) ∧
    (Runs (.sigNextLoRead false) s fun t => t = { s with rdata := w s.boot.sigNext, control := { c with capNext := some s.boot.sigNext } }) ∧
    (Runs (.sigNextLoRead true) s fun t => t = { s with rdata := w s.boot.sigRes, control := { c with capRes := some s.boot.sigRes } }) ∧
    (∀ k : Fin 8, Runs (.harbSessBytesLoRead k) s fun t => t = { s with
      rdata := w (sessionOf s k).bytes, control := { c with capSess := tblSet none c.capSess k (some (sessionOf s k).bytes) } }) ∧
    (∀ i : Fin 24, s.power.state < 2 →
      let only := fun (t : State) => { t with rdata := s.rdata, memory := { t.memory with stack := s.memory.stack } } = s ∧
        ∀ j, j ≠ i.val → stackOf t j = stackOf s j
      (Runs (.memCeCntRead i) s fun t => t.rdata = leBytes 4 (stackOf s i).ce ∧ stackOf t i = { stackOf s i with ce := 0 } ∧ only t) ∧
      (Runs (.memUeCntRead i) s fun t => t.rdata = leBytes 4 (stackOf s i).ue ∧ stackOf t i = { stackOf s i with ue := 0 } ∧ only t) ∧
      (Runs (.accUeCntRead i) s fun t => t.rdata = leBytes 4 (stackOf s i).accUe ∧ stackOf t i = { stackOf s i with accUe := 0 } ∧ only t)) ∧
    (∀ (i : Fin 24) r, s.power.state = 2 ∨ s.power.state = 3 → r = .memCeCntRead i ∨ r = .memUeCntRead i ∨ r = .accUeCntRead i →
      Runs r s fun t => t = { s with rdata := [0, 0, 0, 0] }) ∧
    (∀ p : Fin 8,
      let k := portOf s p
      let only := fun (t : State) => { t with rdata := s.rdata, straits := { t.straits with ports := s.straits.ports } } = s ∧ OtherPorts s t p
      (Runs (.portRetryCntRead p) s fun t => t.rdata = leBytes 4 k.retry ∧ portOf t p = { k with retry := 0 } ∧ only t) ∧
      (Runs (.portForeignCntRead p) s fun t => t.rdata = leBytes 4 k.foreign ∧ portOf t p = { k with foreign := 0 } ∧ only t) ∧
      (Runs (.portUnknownCntRead p) s fun t => t.rdata = leBytes 4 k.unknown ∧ portOf t p = { k with unknown := 0 } ∧ only t) ∧
      (Runs (.portFecUeCntRead p) s fun t => t.rdata = leBytes 4 k.fecUe ∧ portOf t p = { k with fecUe := 0 } ∧ only t)) ∧
    (Runs .harbDropCntRead s fun t => t = { s with rdata := leBytes 4 s.straits.drop, straits := { s.straits with drop := 0 } }) ∧
    (Runs .tideOverrunCntRead s fun t => t = { s with rdata := leBytes 4 s.tide.overruns, tide := { s.tide with overruns := 0 } }) ∧
    (Runs .tideLateRelCntRead s fun t => t = { s with rdata := leBytes 4 s.tide.lateRels, tide := { s.tide with lateRels := 0 } })

/-- Rows that write a register (R8, R66, R67, R346, R396, R410, R419, R431, R448, R462): a write of ones clears event bits, those too that
the hardware sets in that cycle; of a BAR0 and a JTAG write in one cycle the JTAG write is the later; flags F3–F7 follow their mask;
SLOT_READY never falls; the governor's registers keep their bounds, and discard a write while the queue of notices is full; a
word of MB_CMD is the command that it spells; a vector unmasked sends what it holds pending; a telemetry refresh tells the host.
Choices of the model in it: logs 63, 64, 65, 91. -/
def Obligations.WritingRegisters : Prop :=
  ∀ (s : State) (now : Nat), pcieOn s = true →
    (∀ (c : Fin 576) (bits set : BitVec 5), s.power.state < 2 →
      let only := fun (t : State) => GenRose s t ∧ (∀ x, x ≠ c.val → coreOf t x = coreOf s x) ∧ t.memory = s.memory ∧ t.straits = s.straits
      (Runs (.coreFlagsSet c bits now) s fun t => only t ∧
        coreOf t c = { coreOf s c with flags := (coreOf s c).flags ||| (bits.setWidth 8 <<< 3) }) ∧
      (Runs (.coreFlagsClear c bits set now) s fun t => only t ∧
        coreOf t c = { coreOf s c with flags := ((coreOf s c).flags &&& ~~~(bits.setWidth 8 <<< 3)) ||| (set.setWidth 8 <<< 3) })) ∧
    (∀ v, alive s = true → Runs (.slotReadyWrite true v) s fun t => t = { s with job := { s.job with slotHi := v.toNat } }) ∧
    (∀ v, alive s = true → Runs (.slotReadyWrite false v) s fun t => t = { s with job := { s.job with
      slotReady := max s.job.slotReady (v.toNat + 2 ^ 32 * s.job.slotHi) } }) ∧
    (∀ (v : Reg) jtag, s.power.notices.length < 256 →
      (Runs (.govRegisterWrite .cap v jtag now) s fun t => GenRose s t ∧ t.power.cap = max 1500 (min 5200 (v.toNat % 8192)) ∧
        t.power.slewUp = s.power.slewUp ∧ t.power.slewDn = s.power.slewDn ∧ t.power.floor = s.power.floor) ∧
      (Runs (.govRegisterWrite .slew v jtag now) s fun t => GenRose s t ∧ t.power.cap = s.power.cap ∧ t.power.floor = s.power.floor ∧
        t.power.slewUp = max 1 (min 2000 (v.toNat / 65536 % 2048)) ∧ t.power.slewDn = max 1 (min 2000 (v.toNat % 2048))) ∧
      (Runs (.govRegisterWrite .floor v jtag now) s fun t => GenRose s t ∧ t.power.floor = min 5200 (v.toNat % 8192) ∧
        t.power.cap = s.power.cap ∧ t.power.slewUp = s.power.slewUp ∧ t.power.slewDn = s.power.slewDn)) ∧
    (∀ r (v : Reg) jtag, 256 ≤ s.power.notices.length → Runs (.govRegisterWrite r v jtag now) s fun t => GenRose s t ∧
      t.power = { s.power with stat := s.power.stat ||| 8 }) ∧
    (∀ (p : Fin 8) (v w : Reg), Runs (.jtagBusacc true (Fin.ofNat _ (0x7001C + 256 * p.val)) 4 (leBytes 4 v.toNat) (none, leBytes 4 w.toNat, now)) s
      fun t => t.control.cfgGen = (s.control.cfgGen + 2) % 2 ^ 64 ∧ OtherPorts s t p ∧
        portOf t p = { portOf s p with ackTmo := v.toNat % 65536 } ∧ t.cores = s.cores ∧ t.memory = s.memory) ∧
    (∀ (v hw : Reg), Runs (.registerWrite 0x80030 (leBytes 4 v.toNat) (some hw) now) s fun t =>
      t.tide = { s.tide with now := max s.tide.now now, event := (s.tide.event ||| (hw &&& 0x1FF)) &&& ~~~(v &&& 0x1FF) } ∧
      t.control.cfgGen = s.control.cfgGen ∧ t.cores = s.cores ∧ t.memory = s.memory) ∧
    (∀ (p : Fin 8) (v : Reg), Runs (.registerWrite (Fin.ofNat _ (0x7001C + 256 * p.val)) (leBytes 4 v.toNat) none now) s fun t =>
      GenRose s t ∧ OtherPorts s t p ∧ portOf t p = { portOf s p with ackTmo := v.toNat % 65536 } ∧ t.cores = s.cores ∧ t.memory = s.memory) ∧
    (∀ (mb : Fin 16) (op : Nat) (seq : Byte) (irq : Bool), op ∈ opcodes → op ≠ 0x10 → op ≠ 0x19 → (boxOf s mb).state ≠ 1 →
      exec (.registerWrite (Fin.ofNat _ (0x1000 * mb.val)) (leBytes 4 (op + 2 ^ 16 * seq.toNat + 2 ^ 24 * bit irq)) none now) s =
        exec (commandOf op mb seq irq now true) (atTide s now)) ∧
    (∀ v : Fin 32, s.control.masks.getLsbD v = true → Runs (.msixUnmask v) s fun t =>
      t.control.masks = s.control.masks &&& ~~~(1#32 <<< v.val) ∧ t.control.pba = s.control.pba &&& ~~~(1#32 <<< v.val) ∧
      t.sent = (if s.control.pba.getLsbD v = true then .msix v :: s.sent else s.sent) ∧
      { t with control := { t.control with masks := s.control.masks, pba := s.control.pba }, sent := s.sent } = s) ∧
    (s.control.period ≠ 0 → Runs (.telemetryRefresh now) s fun t => t.control.telem = snapshot (atTide s now) ∧
      t.control.supEvent = s.control.supEvent ||| 64 ∧ t.control.cfgGen = s.control.cfgGen ∧ t.cores = s.cores ∧ t.memory = s.memory) ∧
    (∀ (len : BitVec 23), Runs (.bootGo len now) s fun t => GenRose s t ∧ t.boot.length = len.toNat ∧ t.memory = s.memory ∧ t.cores = s.cores ∧
      (s.boot.stat ≠ 3 → s.boot.stat ≠ 8 → t.boot = { s.boot with length := len.toNat }) ∧
      (alive s = true → s.boot.dbgCp = false → s.boot.stat = 3 ∨ s.boot.stat = 8 →
        (4194304 < len.toNat → t.boot.stat = 8 ∧ t.boot.fail = 4) ∧
        (len.toNat ≤ 4194304 → imageFault (memRead s.boot.buffer 0 len.toNat) ≠ 0 → t.boot.stat = 8 ∧
          t.boot.fail = imageFault (memRead s.boot.buffer 0 len.toNat)) ∧
        (len.toNat ≤ 4194304 → imageFault (memRead s.boot.buffer 0 len.toNat) = 0 → t.boot.stat ∈ [6, 7] ∧ t.boot.fail = 0 ∧
          t.boot.serving = true ∧ t.boot.fromHost = true ∧ (t.boot.isles = true ↔ t.boot.stat = 6))))

/-- The memory window (R206–R208, R230, R265, R420–R422, R481): a read returns the bytes of package memory or of a core's SRAM, a write of a
line stores its bytes and no others; the command store reads zero; a flow context takes a write unless the job is armed, where it is
undefined; JTAG reaches the same registers. A short write whose two accesses stand apart reads its line and writes the merged line before
the next access, whatever has been written of it meanwhile. Choices of the model in it: logs 23, 28, 29, 90, 108. -/
def Obligations.WindowAccesses : Prop :=
  (∀ (s : State) (off : Fin 0x400000) (bs : List Byte) (now : Nat), pcieOn s = true → s.memory.merging = none →
    let a := s.control.memwin + off.val
    winShape a bs.length = true → inMem a bs.length = true → bs.length < 64 → s.memory.wipe = 0 → memOn s = true → CleanMemory s →
    let line := mergedLine (memRead s.memory.data (a / 64 * 64) 64) a bs
    Runs (.windowWrite off (bs, true) now) s fun t =>
      t = { atTide s now with memory := { s.memory with merging := some (a / 64 * 64, line) } }) ∧
  (∀ (s : State) (off : Fin 0x400000) p line, s.memory.merging = some (p, line) → pcieOn s = true → s.memory.wipe = 0 → memOn s = true →
    let t := writeLine { s with memory := { s.memory with merging := none } } p line true
    (∀ n, exec (.windowRead off n []) s = exec (.windowRead off n []) (if winShape (s.control.memwin + off) n = true then t else s)) ∧
    (∀ bs gap now, exec (.windowWrite off (bs, gap) now) s =
      exec (.windowWrite off (bs, gap) now) (if winShape (s.control.memwin + off) bs.length = true then t else s))) ∧
  ∀ (s : State) (now : Nat), pcieOn s = true → s.memory.merging = none →
    let at' := fun (off : Fin 0x400000) => s.control.memwin + off.val
    (∀ (off : Fin 0x400000) n, winShape (at' off) n = true → inMem (at' off) n = true → s.memory.wipe = 0 → memOn s = true → CleanMemory s →
      Runs (.windowRead off n []) s fun t => t.rdata = memRead s.memory.data (at' off) n ∧ { t with rdata := s.rdata } = s) ∧
    (∀ (off : Fin 0x400000) (c : Fin 576) o n, winShape (at' off) n = true → at' off = 0x100000000000 + 0x800000 * c.val + o → o + n ≤ 0x800000 →
      (o < 0x640000 → s.memory.wipe = 0 → s.power.state < 2 → Runs (.windowRead off n []) s fun t =>
        t.rdata = memRead (coreOf s c).sram o n ∧ { t with rdata := s.rdata, cores := s.cores } = s ∧ (coreOf t c).sram = (coreOf s c).sram ∧
          ∀ x, x ≠ c.val → coreOf t x = coreOf s x) ∧
      (0x640000 ≤ o → Runs (.windowRead off n []) s fun t => t = { s with rdata := List.replicate n 0 }) ∧
      (∀ (bs : List Byte) gap, bs.length = n → o + n ≤ 0x640000 → s.memory.wipe = 0 → s.power.state < 2 → (coreOf s c).mode ≠ .wiping →
        (hitsDrainSlot (coreOf s c) o n = true → exec (.windowWrite off (bs, gap) now) s = .fault (.drainSlotWrite (keptOf s))) ∧
        (hitsDrainSlot (coreOf s c) o n = false → Runs (.windowWrite off (bs, gap) now) s fun t => OnlyCore (atTide s now) t c ∧
          SramSame (coreOf s c) (coreOf t c) [(o, n)] ∧ ∀ i < n, memGet (coreOf t c).sram (o + i) = bs.getD i 0))) ∧
    (∀ (off : Fin 0x400000) (bs : List Byte), winShape (at' off) bs.length = true → inMem (at' off) bs.length = true → s.memory.wipe = 0 →
      memOn s = true → CleanMemory s → Runs (.windowWrite off (bs, false) now) s fun t => MemSame s t [(at' off, bs.length)] ∧
        (∀ i < bs.length, memGet t.memory.data (at' off + i) = bs.getD i 0) ∧ { t with memory := s.memory } = atTide s now) ∧
    (∀ (off : Fin 0x100000) (bs : List Byte), 1 ≤ bs.length → off.val % 64 + bs.length ≤ 64 →
      (armed s = true → exec (.flowContextWrite off bs now) s = .fault (.flowContextWrite (keptOf s))) ∧
      (armed s = false → Runs (.flowContextWrite off bs now) s fun t => GenRose s t ∧ t.memory = s.memory ∧ t.cores = s.cores ∧
        (∀ f, f ≠ off.val / 64 → flowOf t f = flowOf s f) ∧
        ∀ i < bs.length, 16 ≤ off.val % 64 + i → off.val % 64 + i < 52 → fldB (flowOf t (off.val / 64)) (off.val % 64 + i) 1 = (bs.getD i 0).toNat)) ∧
    (∀ off : Fin 0x1000000, off.val < 0xC00000 → off.val % 4 = 0 → 0x10000 ≤ off.val → Runs (.jtagBusacc false off 4 [] (none, [], now)) s fun t =>
      t = readReg (selectBusacc (atTide s now)) off) ∧
    (∀ (off : Fin 0x1000000) (w : Fin 0x400000) n, off.val = 0xC00000 + w.val → winShape (at' w) n = true → inMem (at' w) n = true →
      s.memory.wipe = 0 → memOn s = true → CleanMemory s → Runs (.jtagBusacc false off n [] (none, [], now)) s fun t =>
        t.rdata = memRead s.memory.data (at' w) n ∧ { t with rdata := s.rdata } = selectBusacc (atTide s now))

/-! Resets and boot (15). -/

/-- Power-on and system resets (R369, R451–R454, R456, R468, R471, R483): every register at its reset value but for what Table 15-2 keeps; RST_CAUSE
names level and source; the ledger is kept save by a lifecycle change. A pulse below 1 µs, and a request while a reset is held, change
nothing but the counter of free values. Choices of the model in it: logs 3, 5, 66, 83, 97. -/
def Obligations.ResetsTakeEffect : Prop :=
  ∀ (s : State) (now lowNs : Nat),
    let keeps := fun (t : State) => t.meter = s.meter ∧ t.control.cfgGen = s.control.cfgGen ∧ t.isth.laneMap = s.isth.laneMap ∧
      t.power.temps = s.power.temps ∧ t.boot.flash = s.boot.flash ∧ t.boot.lcState = s.boot.lcState ∧ t.boot.owners = s.boot.owners ∧
      t.boot.owned = s.boot.owned ∧ t.boot.sigNext = s.boot.sigNext ∧ t.boot.sigRes = s.boot.sigRes ∧ t.pending = s.pending ∧ s.power.notices <+: t.power.notices
    let ledger := fun (t : State) => if lifecycleWritten s = true then t.commit = commitReset else
      (t.commit.ledStep, t.commit.ledState, t.commit.own, t.commit.mirror) =
        (s.commit.ledStep, s.commit.ledState, s.commit.own, s.commit.mirror)
    let fresh := fun (t : State) => (∀ c, (coreOf t c).mode = .reset ∧ (coreOf t c).sram = [] ∧ (coreOf t c).sems = []) ∧ t.adds = [] ∧
      t.memory = memoryReset ∧ t.straits = straitsReset ∧ t.job.state = 0 ∧ t.tide = tideReset ∧ t.reduction = reductionReset ∧
      t.power.cap = 1500 ∧ t.power.slewUp = 500 ∧ t.power.slewDn = 500 ∧ t.power.floor = 0 ∧ t.boot.isles = false ∧ t.boot.serving = false
    let powerOn := fun (source : Nat) (t : State) => keeps t ∧ fresh t ∧ t.boot.held = 2 ∧ t.boot.level = 1 ∧ t.boot.source = source ∧
      t.boot.powerOns = min 0xFFFFFFFF (s.boot.powerOns + 1) ∧ t.boot.sysCount = 0 ∧ t.tap = State.reset.tap ∧ ledger t
    let system := fun (source : Nat) (t : State) => keeps t ∧ fresh t ∧ t.boot.held = 1 ∧ t.boot.level = 2 ∧ t.boot.source = source ∧
      t.boot.tideAt = max s.tide.now now ∧ t.boot.sysCount = min 0xFFFFFFFF (s.boot.sysCount + 1) ∧ t.boot.powerOns = s.boot.powerOns ∧
      t.control.journal = s.control.journal ∧ t.power.en = s.power.en ∧ t.power.pol = s.power.pol ∧ t.tap = s.tap ∧
      (source ≠ 7 → ledger t) ∧ (source = 7 → t.commit = commitReset)
    (s.boot.held ≠ 2 → 1100 ≤ lowNs → Runs (.pwrgoodLow lowNs now) s (powerOn 1)) ∧
    (s.boot.held ≠ 2 → 1000 ≤ lowNs → Runs (.standbyLoss lowNs) s (powerOn 2)) ∧
    (s.boot.held = 0 → 1100 ≤ lowNs → Runs (.sysResetNLow lowNs now) s (system 3)) ∧
    (s.boot.held = 0 → Runs (.perstNAssert now) s (system 4)) ∧
    (alive s = true → s.boot.serving = true → s.power.state ≠ 3 → s.boot.dbgCp = false → Runs (.supervisorWatchdog now) s (system 6)) ∧
    (∀ d, s.boot.held = 0 → s.boot.lifecycleDue = some d → d ≤ max s.tide.now now → Runs (.lifecycleChangeReset now) s (system 7)) ∧
    (lowNs < 1000 ∨ s.boot.held = 2 → Runs (.pwrgoodLow lowNs now) s fun t => t = { s with freeCtr := s.freeCtr + 1 }) ∧
    (lowNs < 1000 ∨ s.boot.held ≠ 0 → Runs (.sysResetNLow lowNs now) s fun t => t = { s with freeCtr := s.freeCtr + 1 }) ∧
    (s.boot.held ≠ 0 → exec (.perstNAssert now) s = .next s)

/-- Boot (R454, R456–R462, R474, R485): at the release of a power-on reset the straps are sampled and the image source follows them; NEXT takes
RES_END; an image that passes its check runs and its dies are checked, another leads to RECOVERY; the debugger holds, steps and
inspects a core or the control processor (R482). Choices of the model in it: logs 71, 72, 73, 107. -/
def Obligations.BootProceeds : Prop :=
  ∀ (s : State),
    (∀ src clk : BitVec 2, s.boot.held = 2 → s.power.vinFault = false → s.boot.dbgCp = false → Runs (.resetRelease true src clk) s fun t =>
      t.boot.held = 0 ∧ t.boot.bootSrc = src.toNat ∧ t.boot.clkMode = clk.toNat ∧ t.boot.sigNext = s.boot.sigRes ∧ t.boot.dieRead = true ∧
      (src = 0 → t.boot.stat = 2) ∧ (src = 3 → t.boot.stat = 8 ∧ t.boot.fail = 5) ∧ (src = 1 ∨ src = 2 → t.boot.stat = if clk = 3 then 2 else 3) ∧
      { t with boot := s.boot } = s) ∧
    (∀ src clk : BitVec 2, s.boot.held ≠ 0 → Runs (.resetRelease false src clk) s fun t => t.boot.held = 0 ∧ t.power.vinFault = true ∧
      t.power.state = 3 ∧ t.boot.stat = s.boot.stat) ∧
    (alive s = true → s.boot.stat = 3 → s.boot.bootSrc = 2 → s.boot.pcieUp = true → s.boot.dbgCp = false → Runs .awaitHostTimeout s fun t =>
      t = { s with boot := { s.boot with stat := 2 } }) ∧
    (alive s = true → s.boot.stat = 2 → s.boot.dbgCp = false →
      (Runs (.flashReadDone false) s fun t => t = { s with boot := { s.boot with stat := 8, fail := 1 } }) ∧
      (imageFault (flashImage s) ≠ 0 → Runs (.flashReadDone true) s fun t =>
        t = { s with boot := { s.boot with stat := 8, fail := imageFault (flashImage s) } }) ∧
      (imageFault (flashImage s) = 0 → Runs (.flashReadDone true) s fun t => t.boot.serving = true ∧ t.boot.fail = 0 ∧
        t.boot.fw = imageCode (flashImage s) ∧ (t.boot.qual, t.boot.features) = qualify (imageExt (imageCode (flashImage s))) ∧
        (t.boot.isles = true ↔ t.boot.qual.toNat / 2 ^ 30 % 4 = 1) ∧ t.boot.stat = (if t.boot.isles = true then 6 else 7) ∧
        { t with boot := s.boot } = s)) ∧
    (pcieOn s = true → Runs .pcieLinkUp s fun t => t = { s with boot := { s.boot with pcieUp := true } }) ∧
    (∀ c : Fin 576,
      (Runs (.debugHalt .halt (some c)) s fun t => OnlyCore s t c ∧ coreOf t c = { coreOf s c with dbgHalt := true, dbgStep := false }) ∧
      (Runs (.debugHalt .step (some c)) s fun t => OnlyCore s t c ∧ coreOf t c = { coreOf s c with dbgStep := (coreOf s c).dbgHalt }) ∧
      (Runs (.debugHalt .resume (some c)) s fun t => OnlyCore s t c ∧ coreOf t c = { coreOf s c with dbgHalt := false, dbgStep := false })) ∧
    (∀ c : Fin 576, Runs (.debugHalt .inspect (some c)) s fun t => { t with rdata := s.rdata } = s ∧ t.rdata.take 2 = leBytes 2 (coreOf s c).pc) ∧
    (Runs (.debugHalt .inspect none) s fun t => t = { s with rdata := leBytes 4 (bootStat s.boot) }) ∧
    (Runs (.debugHalt .halt none) s fun t => t = { s with boot := { s.boot with dbgCp := true } }) ∧
    (s.boot.dbgCp = true → alive s = true → s.boot.stat = 1 → s.boot.bootSrc = 0 →
      (Runs (.debugHalt .step none) s fun t => t = { s with boot := { s.boot with dieRead := true, stat := 2 } }) ∧
      (Runs (.debugHalt .resume none) s fun t => t = { s with boot := { s.boot with dbgCp := false, dieRead := true, stat := 2 } }))

/-! The machine as a whole. -/

/-- The machine after reset: the reset is held, nothing runs, memory lists nothing, the registers read what the register tables give.
Choices of the model in it: logs 5, 28. -/
def Obligations.ResetLeaves : Prop :=
  let s := State.reset
  s.pending = [] ∧ s.boot.held = 2 ∧ s.memory.wf = true ∧ s.job.state = 0 ∧ s.tide.state = 0 ∧
  (∀ c, seqState s (coreOf s c) = 0 ∧ bar0Read s 0x100004 = 0) ∧
  bar0Read s 0xA0010 = 1500 ∧ bar0Read s 0xA0014 = 500 * 65536 + 500 ∧ bar0Read s 0xA0018 = 0 ∧ s.straits.udp = 51024 ∧
  s.straits.vlan = 0xFFFF ∧ s.control.masks = 0xFFFFFFFF ∧ s.control.period = 100 ∧ (boxOf s 1).seq = 0xFF ∧
  (∀ p, (portOf s p).state = 0) ∧ (∀ k, linkState s k = 0) ∧ s.tide.parent = 8

/-- Package memory and the accumulators keep their canonical form: addresses rise strictly and no listed entry reads as an unlisted one
does, whatever a command writes. Choices of the model in it: log 28. -/
def Obligations.StepKeepsMemoryWf : Prop :=
  ∀ s t : State, s.memory.wf = true → step s = .next t → t.memory.wf = true

/-- Every command is modelled: none is refused. A command that can meet no undefined case of Table 0-5 (R10) answers a next state in every
state, and a mailbox command does in every state but with a command running in its mailbox (R425). The other rows, those that move bytes
of a core's SRAM or credits, complete in the states that their own statements give. -/
def Obligations.NoCommandIsRefused : Prop :=
  (∀ (c : Instr) (s : State) (r : Refusal), exec c s ≠ .refused r) ∧
  (∀ (c : Instr) (s : State), undefinedFor c = .never → ∃ t, exec c s = .next t) ∧
  (∀ (c : Instr) (s : State) (m : Fin 16), undefinedFor c = .inMailbox m → (boxOf s m).state ≠ 1 → ∃ t, exec c s = .next t)

/-- Only the front command leaves the queue: exec itself leaves the waiting commands as they are. -/
def Obligations.ExecKeepsQueue : Prop :=
  ∀ (c : Instr) (s t : State), exec c s = .next t → t.pending = s.pending

/-- What must not go back does not: MT_ENERGY and the records' SEQ never fall (R407, R411), and the RTC falls only where the meter starts
again from its stored value (R415). -/
def Obligations.NothingRunsBackwards : Prop :=
  ∀ (c : Instr) (s t : State), exec c s = .next t → s.meter.energy ≤ t.meter.energy ∧ s.meter.seqNext ≤ t.meter.seqNext ∧
    ((∀ gap e, c ≠ .meterStart gap e) → s.meter.rtc ≤ t.meter.rtc)

/-- Signature indices (R474): NEXT takes RES_END at each start; a signature takes NEXT, reserves it before its use where it has to, and NEXT goes
on by 1; no command lets NEXT fall or pass RES_END, and a signature made has an index that no earlier one had. -/
def Obligations.SignatureIndicesAreUsedOnce : Prop :=
  (∀ (s : State) (ok : Bool) (src clk : BitVec 2), s.boot.held ≠ 0 → Runs (.resetRelease ok src clk) s fun t =>
    t.boot.sigNext = s.boot.sigRes ∧ t.boot.sigRes = s.boot.sigRes) ∧
  (∀ (mb : Fin 16) (seq : Byte) (irq ok : Bool) (now : Nat) (s : State), Accepts s mb 0x19 seq → parameter s mb 32 1 = 0 →
    s.boot.sigNext < 2 ^ 40 → Runs (.attest mb seq irq now ok) s fun t =>
      let i := s.boot.sigNext
      t.boot.sigNext = i + 1 ∧ t.boot.sigRes = (if s.boot.sigRes ≤ i then i - i % 1024 + 1024 else s.boot.sigRes) ∧
      ∃ sig, t.boot.lastSig = some (i, sig)) ∧
  (∀ (c : Instr) (s t : State), exec c s = .next t → s.boot.sigNext ≤ s.boot.sigRes →
    s.boot.sigNext ≤ t.boot.sigNext ∧ s.boot.sigRes ≤ t.boot.sigRes ∧ t.boot.sigNext ≤ t.boot.sigRes ∧
    (t.boot.lastSig = s.boot.lastSig ∨ t.boot.lastSig = none ∨
      ∃ sig, t.boot.lastSig = some (s.boot.sigNext, sig) ∧ t.boot.sigNext = s.boot.sigNext + 1))
end

