-- ==== Sys2Proof/Laws/Tbl.lean ====
section
/-! SUPPORT. Laws of sparse tables and byte memories: a read after a write, and the canonical form that every operation keeps. -/

namespace Sys2Proof.Machine

variable {α : Type}

@[simp] theorem tblGet_nil (d : α) (i : Nat) : tblGet d [] i = d := rfl

theorem tblGet_cons (d : α) (k : Nat) (v : α) (t : Tbl α) (i : Nat) :
    tblGet d ((k, v) :: t) i = if k = i then v else tblGet d t i := rfl

/-- A filter that keeps every entry of a key keeps what the key reads as. -/
theorem tblGet_filter_keep (d : α) (p : Nat × α → Bool) (i : Nat) :
    ∀ t : Tbl α, (∀ v, p (i, v) = true) → tblGet d (t.filter p) i = tblGet d t i
  | [], _ => rfl
  | (k, v) :: t, h => by
    have ih := tblGet_filter_keep d p i t h
    by_cases hk : k = i
    · subst hk; simp [h, tblGet_cons]
    · by_cases hp : p (k, v) = true
      · simp [hp, tblGet_cons, hk, ih]
      · simp [hp, tblGet_cons, hk, ih]

/-- A filter that drops every entry of a key makes it read as the default. -/
theorem tblGet_filter_drop (d : α) (p : Nat × α → Bool) (i : Nat) :
    ∀ t : Tbl α, (∀ v, p (i, v) = false) → tblGet d (t.filter p) i = d
  | [], _ => rfl
  | (k, v) :: t, h => by
    have ih := tblGet_filter_drop d p i t h
    by_cases hp : p (k, v) = true
    · have hk : k ≠ i := fun e => by subst e; simp [h] at hp
      simp [hp, tblGet_cons, hk, ih]
    · simp [hp, ih]

theorem tblGet_append (d : α) (i : Nat) :
    ∀ a b : Tbl α, (∀ v, (i, v) ∉ a) → tblGet d (a ++ b) i = tblGet d b i
  | [], _, _ => rfl
  | (k, v) :: a, b, h => by
    have hk : k ≠ i := fun e => h v (by simp [e])
    simp [tblGet_cons, hk, tblGet_append d i a b fun w hw => h w (by simp [hw])]

theorem tblGet_append_mem (d : α) (i : Nat) : ∀ a b : Tbl α, (∃ v, (i, v) ∈ a) → tblGet d (a ++ b) i = tblGet d a i
  | [], _, h => absurd h (by simp)
  | (k, w) :: a, b, ⟨v, hv⟩ => by
    by_cases hk : k = i
    · simp [tblGet_cons, hk]
    · have : (i, v) ∈ a := by
        rcases List.mem_cons.1 hv with h | h
        · exact absurd (congrArg Prod.fst h).symm hk
        · exact h
      simp [tblGet_cons, hk, tblGet_append_mem d i a b ⟨v, this⟩]

/-- A key that a table does not list reads as the default. -/
theorem tblGet_absent (d : α) (i : Nat) (t : Tbl α) (h : ∀ v, (i, v) ∉ t) : tblGet d t i = d := by
  simpa using tblGet_append d i t [] h

@[simp] theorem tblGet_erase_self (d : α) (t : Tbl α) (i : Nat) : tblGet d (tblErase t i) i = d :=
  tblGet_filter_drop d _ i t (by simp)

theorem tblGet_erase_ne (d : α) (t : Tbl α) {i j : Nat} (h : j ≠ i) : tblGet d (tblErase t i) j = tblGet d t j :=
  tblGet_filter_keep d _ j t (by simp [h])

theorem tblGet_ins (d : α) (i j : Nat) (v : α) : ∀ t : Tbl α, (∀ w, (i, w) ∉ t) →
    tblGet d (tblIns t i v) j = if j = i then v else tblGet d t j
  | [], _ => by by_cases h : j = i <;> simp [tblIns, tblGet_cons, eq_comm, h]
  | (k, w) :: t, h => by
    have hk : k ≠ i := fun e => h w (by simp [e])
    have ih := tblGet_ins d i j v t fun x hx => h x (by simp [hx])
    unfold tblIns
    split
    · by_cases hj : j = i
      · simp [tblGet_cons, hj]
      · simp [tblGet_cons, hj, Ne.symm hj]
    · by_cases hj : j = i
      · subst hj; simp [tblGet_cons, hk, ih]
      · simp [tblGet_cons, ih, hj]

/-- What a key reads as after a write. -/
theorem tblGet_set [DecidableEq α] (d : α) (t : Tbl α) (i j : Nat) (v : α) :
    tblGet d (tblSet d t i v) j = if j = i then v else tblGet d t j := by
  unfold tblSet
  by_cases hj : j = i
  · subst hj
    split
    · next h => simp [h]
    · rw [tblGet_ins]
      · simp
      · simp [tblErase]
  · split
    · simp [tblGet_erase_ne d t hj]
    · rw [tblGet_ins]
      · simp [hj, tblGet_erase_ne d t hj]
      · simp [tblErase]

@[simp] theorem tblGet_set_self [DecidableEq α] (d : α) (t : Tbl α) (i : Nat) (v : α) : tblGet d (tblSet d t i v) i = v := by
  simp [tblGet_set]

theorem tblGet_set_ne [DecidableEq α] (d : α) (t : Tbl α) {i j : Nat} (v : α) (h : j ≠ i) :
    tblGet d (tblSet d t i v) j = tblGet d t j := by simp [tblGet_set, h]

@[simp] theorem tblGet_mod_self [DecidableEq α] (d : α) (t : Tbl α) (i : Nat) (f : α → α) :
    tblGet d (tblMod d t i f) i = f (tblGet d t i) := by simp [tblMod]

theorem tblGet_mod_ne [DecidableEq α] (d : α) (t : Tbl α) {i j : Nat} (f : α → α) (h : j ≠ i) :
    tblGet d (tblMod d t i f) j = tblGet d t j := by simp [tblMod, tblGet_set, h]

/-! Canonical form. -/

/-- Canonical form as a statement about all entries. -/
theorem tblWf_iff [DecidableEq α] (d : α) : ∀ t : Tbl α,
    tblWf d t = true ↔ (t.Pairwise fun a b => a.1 < b.1) ∧ ∀ p ∈ t, p.2 ≠ d
  | [] => by simp [tblWf]
  | [(k, v)] => by simp [tblWf]
  | (k, v) :: (k', v') :: t => by
    have ih := tblWf_iff d ((k', v') :: t)
    simp only [tblWf, Bool.and_eq_true, ih, List.pairwise_cons, List.mem_cons, bne_iff_ne, decide_eq_true_eq]
    constructor
    · rintro ⟨⟨hv, hk⟩, ⟨h1, h2⟩, h3⟩
      refine ⟨⟨?_, h1, h2⟩, ?_⟩
      · rintro p (rfl | hp)
        · exact hk
        · exact lt_trans hk (h1 p hp)
      · rintro p (rfl | hp)
        · exact hv
        · exact h3 p hp
    · rintro ⟨⟨h0, h1, h2⟩, h3⟩
      exact ⟨⟨h3 _ (Or.inl rfl), h0 _ (Or.inl rfl)⟩, ⟨h1, h2⟩, fun p hp => h3 p (Or.inr hp)⟩

@[simp] theorem tblWf_nil [DecidableEq α] (d : α) : tblWf d [] = true := rfl

theorem tblWf_filter [DecidableEq α] (d : α) (t : Tbl α) (p : Nat × α → Bool) (h : tblWf d t = true) :
    tblWf d (t.filter p) = true := by
  rw [tblWf_iff] at *
  exact ⟨h.1.filter _, fun q hq => h.2 q (List.mem_of_mem_filter hq)⟩

theorem mem_tblIns {t : Tbl α} {i : Nat} {v : α} {p : Nat × α} : p ∈ tblIns t i v → p = (i, v) ∨ p ∈ t := by
  induction t with
  | nil => simp [tblIns]
  | cons q t ih =>
    obtain ⟨k, w⟩ := q
    unfold tblIns
    split
    · simp
    · simp only [List.mem_cons]
      rintro (rfl | hp)
      · exact Or.inr (Or.inl rfl)
      · rcases ih hp with h | h
        · exact Or.inl h
        · exact Or.inr (Or.inr h)

theorem pairwise_tblIns {t : Tbl α} {i : Nat} {v : α} (h : t.Pairwise fun a b => a.1 < b.1) (hi : ∀ w, (i, w) ∉ t) :
    (tblIns t i v).Pairwise fun a b => a.1 < b.1 := by
  induction t with
  | nil => simp [tblIns]
  | cons q t ih =>
    obtain ⟨k, w⟩ := q
    have hk : k ≠ i := fun e => hi w (by simp [e])
    rw [List.pairwise_cons] at h
    unfold tblIns
    split
    · next hlt =>
      refine List.pairwise_cons.2 ⟨?_, List.pairwise_cons.2 h⟩
      rintro p hp
      rcases List.mem_cons.1 hp with rfl | hp
      · exact hlt
      · exact lt_trans hlt (h.1 p hp)
    · next hlt =>
      refine List.pairwise_cons.2 ⟨?_, ih h.2 fun x hx => hi x (by simp [hx])⟩
      rintro p hp
      rcases mem_tblIns hp with rfl | hp
      · simp at hlt ⊢; omega
      · exact h.1 p hp

/-- A write keeps the canonical form. -/
theorem tblWf_set [DecidableEq α] (d : α) (t : Tbl α) (i : Nat) (v : α) (h : tblWf d t = true) :
    tblWf d (tblSet d t i v) = true := by
  have he : tblWf d (tblErase t i) = true := tblWf_filter d t _ h
  unfold tblSet
  split
  · exact he
  · next hv =>
    rw [tblWf_iff] at *
    refine ⟨pairwise_tblIns he.1 (by simp [tblErase]), fun p hp => ?_⟩
    rcases mem_tblIns hp with rfl | hp
    · exact hv
    · exact he.2 p hp

theorem tblWf_mod [DecidableEq α] (d : α) (t : Tbl α) (i : Nat) (f : α → α) (h : tblWf d t = true) :
    tblWf d (tblMod d t i f) = true := tblWf_set d t i _ h

/-- Equal memories are equal data: two canonical tables that read the same everywhere are the same. -/
theorem tbl_ext [DecidableEq α] (d : α) : ∀ s t : Tbl α, tblWf d s = true → tblWf d t = true →
    (∀ i, tblGet d s i = tblGet d t i) → s = t
  | [], [], _, _, _ => rfl
  | [], (k, v) :: t, _, ht, h => by
    have := ((tblWf_iff d _).1 ht).2 (k, v) (by simp)
    exact absurd (by simpa [tblGet_cons] using (h k).symm) this
  | (k, v) :: s, [], hs, _, h => by
    have := ((tblWf_iff d _).1 hs).2 (k, v) (by simp)
    exact absurd (by simpa [tblGet_cons] using h k) this
  | (k, v) :: s, (k', v') :: t, hs, ht, h => by
    have hs' := (tblWf_iff d _).1 hs
    have ht' := (tblWf_iff d _).1 ht
    have low : ∀ (u : Tbl α) (a j : Nat), (∀ p ∈ u, a < p.1) → j ≤ a → tblGet d u j = d := by
      intro u
      induction u with
      | nil => intros; rfl
      | cons q u ih =>
        intro a j hu hj
        have hq := hu q (by simp)
        have : q.1 ≠ j := by omega
        rw [tblGet_cons, if_neg this, ih a j (fun p hp => hu p (by simp [hp])) hj]
    have ls := (List.pairwise_cons.1 hs'.1).1
    have lt := (List.pairwise_cons.1 ht'.1).1
    have hk : k = k' := by
      rcases lt_trichotomy k k' with hlt | he | hgt
      · have := h k
        rw [tblGet_cons, if_pos rfl, tblGet_cons, if_neg (by omega), low t k' k lt (by omega)] at this
        exact absurd this (hs'.2 (k, v) (by simp))
      · exact he
      · have := h k'
        rw [tblGet_cons, if_neg (by omega), tblGet_cons, if_pos rfl, low s k k' ls (by omega)] at this
        exact absurd this.symm (ht'.2 (k', v') (by simp))
    subst hk
    have hv : v = v' := by simpa [tblGet_cons] using h k
    subst hv
    have tail : ∀ (u : Tbl α), tblWf d ((k, v) :: u) = true → tblWf d u = true := by
      intro u hu
      have hu := (tblWf_iff d _).1 hu
      exact (tblWf_iff d u).2 ⟨(List.pairwise_cons.1 hu.1).2, fun p hp => hu.2 p (by simp [hp])⟩
    have := tbl_ext d s t (tail s hs) (tail t ht) (fun i => by
      by_cases hi : i = k
      · subst hi; rw [low s i i ls le_rfl, low t i i lt le_rfl]
      · have := h i
        rwa [tblGet_cons, if_neg (Ne.symm hi), tblGet_cons, if_neg (Ne.symm hi)] at this)
    rw [this]

/-! Byte memories. -/

@[simp] theorem memGet_nil (a : Nat) : memGet [] a = 0 := rfl

theorem span_length (a n : Nat) : (span a n).length = n := by simp [span]

theorem span_getElem (a n i : Nat) (h : i < (span a n).length) : (span a n)[i] = a + i := by simp [span]

theorem mem_span {a n x : Nat} : x ∈ span a n ↔ a ≤ x ∧ x < a + n := by
  simp only [span, List.mem_map, List.mem_range]
  constructor
  · rintro ⟨k, hk, rfl⟩; omega
  · rintro ⟨h1, h2⟩; exact ⟨x - a, by omega, by omega⟩

theorem mem_newCells {a : Nat} {bs : List Byte} {p : Nat × Byte} (h : p ∈ newCells a bs) : a ≤ p.1 ∧ p.1 < a + bs.length := by
  have h1 := (List.of_mem_zip (a := p.1) (b := p.2) (List.mem_of_mem_filter h)).1
  exact mem_span.1 h1

theorem zip_span (a : Nat) (b : Byte) (bs : List Byte) :
    (span a (b :: bs).length).zip (b :: bs) = (a, b) :: (span (a + 1) bs.length).zip bs := by
  have : span a (bs.length + 1) = a :: span (a + 1) bs.length := by
    simp only [span, List.range_succ_eq_map, List.map_cons, List.map_map]
    refine congrArg₂ _ (by omega) (List.map_congr_left fun x _ => ?_)
    simp; omega
  simp [this]

theorem tblGet_newCells (bs : List Byte) : ∀ a i : Nat, tblGet 0 (newCells a bs) (a + i) = bs.getD i 0 := by
  unfold newCells
  induction bs with
  | nil => intros; simp
  | cons b bs ih =>
    intro a i
    rw [zip_span]
    have low : tblGet 0 (((span (a + 1) bs.length).zip bs).filter fun c => c.2 != 0) a = 0 := by
      refine tblGet_absent _ _ _ fun v hv => ?_
      have := mem_span.1 (List.of_mem_zip (List.mem_of_mem_filter hv)).1
      omega
    rw [List.filter_cons]
    cases i with
    | zero =>
      split
      · simp [tblGet_cons]
      · next hb =>
        have hb : b = 0 := by simpa using hb
        simpa [hb] using low
    | succ i =>
      have h1 : a + (i + 1) = (a + 1) + i := by omega
      have h2 : a ≠ a + 1 + i := by omega
      split
      · rw [tblGet_cons, h1, if_neg h2, ih (a + 1) i]; simp
      · rw [h1, ih (a + 1) i]; simp

/-- A byte inside what was written reads as written. -/
theorem memGet_memWrite_in (m : Mem) (a i : Nat) (bs : List Byte) (h : i < bs.length) :
    memGet (memWrite m a bs) (a + i) = bs.getD i 0 := by
  unfold memGet memWrite
  rw [List.append_assoc, tblGet_append]
  · rw [← tblGet_newCells bs a i]
    by_cases h0 : ∃ v, (a + i, v) ∈ newCells a bs
    · exact tblGet_append_mem _ _ _ _ h0
    · have hn : ∀ v, (a + i, v) ∉ newCells a bs := fun v hv => h0 ⟨v, hv⟩
      rw [tblGet_append _ _ _ _ hn, tblGet_absent _ _ _ hn, tblGet_filter_drop]
      intro v; simp; omega
  · intro v hv
    have := (List.mem_filter.1 hv).2
    simp at this

/-- A byte outside what was written reads as before. -/
theorem memGet_memWrite_out (m : Mem) (a x : Nat) (bs : List Byte) (h : x < a ∨ a + bs.length ≤ x) :
    memGet (memWrite m a bs) x = memGet m x := by
  have hn : ∀ v, (x, v) ∉ newCells a bs := fun v hv => by have := mem_newCells hv; simp at this; omega
  unfold memGet memWrite
  rcases h with h | h
  · have e : tblGet (0 : Byte) (m.filter fun c => decide (c.1 < a)) x = tblGet 0 m x :=
      tblGet_filter_keep 0 _ x m (by simp [h])
    by_cases h0 : ∃ v, (x, v) ∈ m.filter fun c => decide (c.1 < a)
    · rw [List.append_assoc, tblGet_append_mem _ _ _ _ h0, e]
    · have h1 : ∀ v, (x, v) ∉ m.filter fun c => decide (c.1 < a) := fun v hv => h0 ⟨v, hv⟩
      rw [List.append_assoc, tblGet_append _ _ _ _ h1, tblGet_append _ _ _ _ hn, tblGet_filter_drop, ← e, tblGet_absent _ _ _ h1]
      intro v; simp; omega
  · rw [List.append_assoc, tblGet_append, tblGet_append _ _ _ _ hn]
    · exact tblGet_filter_keep 0 _ x m (by simp [h])
    · intro v hv
      have := (List.mem_filter.1 hv).2
      simp at this
      omega

theorem pairwise_newCells (a : Nat) (bs : List Byte) : (newCells a bs).Pairwise fun p q => p.1 < q.1 := by
  have key : ∀ (l : List Nat) (bs : List Byte), l.Pairwise (· < ·) → (l.zip bs).Pairwise fun p q => p.1 < q.1 := by
    intro l
    induction l with
    | nil => simp
    | cons x l ih =>
      intro bs h
      cases bs with
      | nil => simp
      | cons b bs =>
        rw [List.pairwise_cons] at h
        simp only [List.zip_cons_cons, List.pairwise_cons]
        exact ⟨fun p hp => h.1 p.1 (List.of_mem_zip (a := p.1) (b := p.2) hp).1, ih bs h.2⟩
  refine (key (span a bs.length) bs ?_).filter _
  simpa [span, List.pairwise_map] using List.pairwise_lt_range (n := bs.length)

/-- Writing bytes keeps the canonical form of a memory. -/
theorem memWf_memWrite (m : Mem) (a : Nat) (bs : List Byte) (h : memWf m = true) : memWf (memWrite m a bs) = true := by
  unfold memWf at *
  rw [tblWf_iff] at *
  unfold memWrite
  refine ⟨?_, ?_⟩
  · rw [List.append_assoc]
    refine List.pairwise_append.2 ⟨h.1.filter _, List.pairwise_append.2 ⟨pairwise_newCells a bs, h.1.filter _, ?_⟩, ?_⟩
    · intro p hp q hq
      have := mem_newCells hp
      have h2 := (List.mem_filter.1 hq).2
      simp at h2
      omega
    · intro p hp q hq
      have h1 := (List.mem_filter.1 hp).2
      simp at h1
      rcases List.mem_append.1 hq with hq | hq
      · have := mem_newCells hq; omega
      · have h2 := (List.mem_filter.1 hq).2
        simp at h2
        omega
  · intro p hp
    simp only [List.mem_append] at hp
    rcases hp with (hp | hp) | hp
    · exact h.2 p (List.mem_of_mem_filter hp)
    · have := (List.mem_filter.1 hp).2
      simpa using this
    · exact h.2 p (List.mem_of_mem_filter hp)

theorem memWf_filter (m : Mem) (p : Nat × Byte → Bool) (h : memWf m = true) : memWf (m.filter p) = true := tblWf_filter 0 m p h

end Sys2Proof.Machine
end

