-- ==== Sys2Proof/Laws/State.lean ====
section
/-! SUPPORT. The updates of State field by field: what each leaves as it was, and what a read after it finds. -/

namespace Sys2Proof.Machine

@[simp] theorem setCore_pending (s : State) (c : Nat) (k : Core) : (setCore s c k).pending = s.pending := rfl
@[simp] theorem setCore_adds (s : State) (c : Nat) (k : Core) : (setCore s c k).adds = s.adds := rfl
@[simp] theorem setCore_bars (s : State) (c : Nat) (k : Core) : (setCore s c k).bars = s.bars := rfl
@[simp] theorem setCore_isth (s : State) (c : Nat) (k : Core) : (setCore s c k).isth = s.isth := rfl
@[simp] theorem setCore_memory (s : State) (c : Nat) (k : Core) : (setCore s c k).memory = s.memory := rfl
@[simp] theorem setCore_reduction (s : State) (c : Nat) (k : Core) : (setCore s c k).reduction = s.reduction := rfl
@[simp] theorem setCore_straits (s : State) (c : Nat) (k : Core) : (setCore s c k).straits = s.straits := rfl
@[simp] theorem setCore_tide (s : State) (c : Nat) (k : Core) : (setCore s c k).tide = s.tide := rfl
@[simp] theorem setCore_job (s : State) (c : Nat) (k : Core) : (setCore s c k).job = s.job := rfl
@[simp] theorem setCore_commit (s : State) (c : Nat) (k : Core) : (setCore s c k).commit = s.commit := rfl
@[simp] theorem setCore_power (s : State) (c : Nat) (k : Core) : (setCore s c k).power = s.power := rfl
@[simp] theorem setCore_meter (s : State) (c : Nat) (k : Core) : (setCore s c k).meter = s.meter := rfl
@[simp] theorem setCore_control (s : State) (c : Nat) (k : Core) : (setCore s c k).control = s.control := rfl
@[simp] theorem setCore_boot (s : State) (c : Nat) (k : Core) : (setCore s c k).boot = s.boot := rfl
@[simp] theorem setCore_sent (s : State) (c : Nat) (k : Core) : (setCore s c k).sent = s.sent := rfl
@[simp] theorem setCore_rdata (s : State) (c : Nat) (k : Core) : (setCore s c k).rdata = s.rdata := rfl
@[simp] theorem setCore_freeCtr (s : State) (c : Nat) (k : Core) : (setCore s c k).freeCtr = s.freeCtr := rfl
@[simp] theorem setCore_tap (s : State) (c : Nat) (k : Core) : (setCore s c k).tap = s.tap := rfl

@[simp] theorem modCore_pending (s : State) (c : Nat) (f : Core → Core) : (modCore s c f).pending = s.pending := rfl
@[simp] theorem modCore_adds (s : State) (c : Nat) (f : Core → Core) : (modCore s c f).adds = s.adds := rfl
@[simp] theorem modCore_bars (s : State) (c : Nat) (f : Core → Core) : (modCore s c f).bars = s.bars := rfl
@[simp] theorem modCore_isth (s : State) (c : Nat) (f : Core → Core) : (modCore s c f).isth = s.isth := rfl
@[simp] theorem modCore_memory (s : State) (c : Nat) (f : Core → Core) : (modCore s c f).memory = s.memory := rfl
@[simp] theorem modCore_reduction (s : State) (c : Nat) (f : Core → Core) : (modCore s c f).reduction = s.reduction := rfl
@[simp] theorem modCore_straits (s : State) (c : Nat) (f : Core → Core) : (modCore s c f).straits = s.straits := rfl
@[simp] theorem modCore_tide (s : State) (c : Nat) (f : Core → Core) : (modCore s c f).tide = s.tide := rfl
@[simp] theorem modCore_job (s : State) (c : Nat) (f : Core → Core) : (modCore s c f).job = s.job := rfl
@[simp] theorem modCore_commit (s : State) (c : Nat) (f : Core → Core) : (modCore s c f).commit = s.commit := rfl
@[simp] theorem modCore_power (s : State) (c : Nat) (f : Core → Core) : (modCore s c f).power = s.power := rfl
@[simp] theorem modCore_meter (s : State) (c : Nat) (f : Core → Core) : (modCore s c f).meter = s.meter := rfl
@[simp] theorem modCore_control (s : State) (c : Nat) (f : Core → Core) : (modCore s c f).control = s.control := rfl
@[simp] theorem modCore_boot (s : State) (c : Nat) (f : Core → Core) : (modCore s c f).boot = s.boot := rfl
@[simp] theorem modCore_sent (s : State) (c : Nat) (f : Core → Core) : (modCore s c f).sent = s.sent := rfl
@[simp] theorem modCore_rdata (s : State) (c : Nat) (f : Core → Core) : (modCore s c f).rdata = s.rdata := rfl
@[simp] theorem modCore_freeCtr (s : State) (c : Nat) (f : Core → Core) : (modCore s c f).freeCtr = s.freeCtr := rfl
@[simp] theorem modCore_tap (s : State) (c : Nat) (f : Core → Core) : (modCore s c f).tap = s.tap := rfl

@[simp] theorem modStack_pending (s : State) (i : Nat) (f : Stack → Stack) : (modStack s i f).pending = s.pending := rfl
@[simp] theorem modStack_cores (s : State) (i : Nat) (f : Stack → Stack) : (modStack s i f).cores = s.cores := rfl
@[simp] theorem modStack_adds (s : State) (i : Nat) (f : Stack → Stack) : (modStack s i f).adds = s.adds := rfl
@[simp] theorem modStack_bars (s : State) (i : Nat) (f : Stack → Stack) : (modStack s i f).bars = s.bars := rfl
@[simp] theorem modStack_isth (s : State) (i : Nat) (f : Stack → Stack) : (modStack s i f).isth = s.isth := rfl
@[simp] theorem modStack_reduction (s : State) (i : Nat) (f : Stack → Stack) : (modStack s i f).reduction = s.reduction := rfl
@[simp] theorem modStack_straits (s : State) (i : Nat) (f : Stack → Stack) : (modStack s i f).straits = s.straits := rfl
@[simp] theorem modStack_tide (s : State) (i : Nat) (f : Stack → Stack) : (modStack s i f).tide = s.tide := rfl
@[simp] theorem modStack_job (s : State) (i : Nat) (f : Stack → Stack) : (modStack s i f).job = s.job := rfl
@[simp] theorem modStack_commit (s : State) (i : Nat) (f : Stack → Stack) : (modStack s i f).commit = s.commit := rfl
@[simp] theorem modStack_power (s : State) (i : Nat) (f : Stack → Stack) : (modStack s i f).power = s.power := rfl
@[simp] theorem modStack_meter (s : State) (i : Nat) (f : Stack → Stack) : (modStack s i f).meter = s.meter := rfl
@[simp] theorem modStack_control (s : State) (i : Nat) (f : Stack → Stack) : (modStack s i f).control = s.control := rfl
@[simp] theorem modStack_boot (s : State) (i : Nat) (f : Stack → Stack) : (modStack s i f).boot = s.boot := rfl
@[simp] theorem modStack_sent (s : State) (i : Nat) (f : Stack → Stack) : (modStack s i f).sent = s.sent := rfl
@[simp] theorem modStack_rdata (s : State) (i : Nat) (f : Stack → Stack) : (modStack s i f).rdata = s.rdata := rfl
@[simp] theorem modStack_freeCtr (s : State) (i : Nat) (f : Stack → Stack) : (modStack s i f).freeCtr = s.freeCtr := rfl
@[simp] theorem modStack_tap (s : State) (i : Nat) (f : Stack → Stack) : (modStack s i f).tap = s.tap := rfl

@[simp] theorem modPort_pending (s : State) (p : Nat) (f : Port → Port) : (modPort s p f).pending = s.pending := rfl
@[simp] theorem modPort_cores (s : State) (p : Nat) (f : Port → Port) : (modPort s p f).cores = s.cores := rfl
@[simp] theorem modPort_adds (s : State) (p : Nat) (f : Port → Port) : (modPort s p f).adds = s.adds := rfl
@[simp] theorem modPort_bars (s : State) (p : Nat) (f : Port → Port) : (modPort s p f).bars = s.bars := rfl
@[simp] theorem modPort_isth (s : State) (p : Nat) (f : Port → Port) : (modPort s p f).isth = s.isth := rfl
@[simp] theorem modPort_memory (s : State) (p : Nat) (f : Port → Port) : (modPort s p f).memory = s.memory := rfl
@[simp] theorem modPort_reduction (s : State) (p : Nat) (f : Port → Port) : (modPort s p f).reduction = s.reduction := rfl
@[simp] theorem modPort_tide (s : State) (p : Nat) (f : Port → Port) : (modPort s p f).tide = s.tide := rfl
@[simp] theorem modPort_job (s : State) (p : Nat) (f : Port → Port) : (modPort s p f).job = s.job := rfl
@[simp] theorem modPort_commit (s : State) (p : Nat) (f : Port → Port) : (modPort s p f).commit = s.commit := rfl
@[simp] theorem modPort_power (s : State) (p : Nat) (f : Port → Port) : (modPort s p f).power = s.power := rfl
@[simp] theorem modPort_meter (s : State) (p : Nat) (f : Port → Port) : (modPort s p f).meter = s.meter := rfl
@[simp] theorem modPort_control (s : State) (p : Nat) (f : Port → Port) : (modPort s p f).control = s.control := rfl
@[simp] theorem modPort_boot (s : State) (p : Nat) (f : Port → Port) : (modPort s p f).boot = s.boot := rfl
@[simp] theorem modPort_sent (s : State) (p : Nat) (f : Port → Port) : (modPort s p f).sent = s.sent := rfl
@[simp] theorem modPort_rdata (s : State) (p : Nat) (f : Port → Port) : (modPort s p f).rdata = s.rdata := rfl
@[simp] theorem modPort_freeCtr (s : State) (p : Nat) (f : Port → Port) : (modPort s p f).freeCtr = s.freeCtr := rfl
@[simp] theorem modPort_tap (s : State) (p : Nat) (f : Port → Port) : (modPort s p f).tap = s.tap := rfl

@[simp] theorem setFlow_pending (s : State) (f : Nat) (d : Line) : (setFlow s f d).pending = s.pending := rfl
@[simp] theorem setFlow_cores (s : State) (f : Nat) (d : Line) : (setFlow s f d).cores = s.cores := rfl
@[simp] theorem setFlow_adds (s : State) (f : Nat) (d : Line) : (setFlow s f d).adds = s.adds := rfl
@[simp] theorem setFlow_bars (s : State) (f : Nat) (d : Line) : (setFlow s f d).bars = s.bars := rfl
@[simp] theorem setFlow_isth (s : State) (f : Nat) (d : Line) : (setFlow s f d).isth = s.isth := rfl
@[simp] theorem setFlow_memory (s : State) (f : Nat) (d : Line) : (setFlow s f d).memory = s.memory := rfl
@[simp] theorem setFlow_reduction (s : State) (f : Nat) (d : Line) : (setFlow s f d).reduction = s.reduction := rfl
@[simp] theorem setFlow_tide (s : State) (f : Nat) (d : Line) : (setFlow s f d).tide = s.tide := rfl
@[simp] theorem setFlow_job (s : State) (f : Nat) (d : Line) : (setFlow s f d).job = s.job := rfl
@[simp] theorem setFlow_commit (s : State) (f : Nat) (d : Line) : (setFlow s f d).commit = s.commit := rfl
@[simp] theorem setFlow_power (s : State) (f : Nat) (d : Line) : (setFlow s f d).power = s.power := rfl
@[simp] theorem setFlow_meter (s : State) (f : Nat) (d : Line) : (setFlow s f d).meter = s.meter := rfl
@[simp] theorem setFlow_control (s : State) (f : Nat) (d : Line) : (setFlow s f d).control = s.control := rfl
@[simp] theorem setFlow_boot (s : State) (f : Nat) (d : Line) : (setFlow s f d).boot = s.boot := rfl
@[simp] theorem setFlow_sent (s : State) (f : Nat) (d : Line) : (setFlow s f d).sent = s.sent := rfl
@[simp] theorem setFlow_rdata (s : State) (f : Nat) (d : Line) : (setFlow s f d).rdata = s.rdata := rfl
@[simp] theorem setFlow_freeCtr (s : State) (f : Nat) (d : Line) : (setFlow s f d).freeCtr = s.freeCtr := rfl
@[simp] theorem setFlow_tap (s : State) (f : Nat) (d : Line) : (setFlow s f d).tap = s.tap := rfl

@[simp] theorem modRt_pending (s : State) (f : Nat) (g : FlowRt → FlowRt) : (modRt s f g).pending = s.pending := rfl
@[simp] theorem modRt_cores (s : State) (f : Nat) (g : FlowRt → FlowRt) : (modRt s f g).cores = s.cores := rfl
@[simp] theorem modRt_adds (s : State) (f : Nat) (g : FlowRt → FlowRt) : (modRt s f g).adds = s.adds := rfl
@[simp] theorem modRt_bars (s : State) (f : Nat) (g : FlowRt → FlowRt) : (modRt s f g).bars = s.bars := rfl
@[simp] theorem modRt_isth (s : State) (f : Nat) (g : FlowRt → FlowRt) : (modRt s f g).isth = s.isth := rfl
@[simp] theorem modRt_memory (s : State) (f : Nat) (g : FlowRt → FlowRt) : (modRt s f g).memory = s.memory := rfl
@[simp] theorem modRt_reduction (s : State) (f : Nat) (g : FlowRt → FlowRt) : (modRt s f g).reduction = s.reduction := rfl
@[simp] theorem modRt_tide (s : State) (f : Nat) (g : FlowRt → FlowRt) : (modRt s f g).tide = s.tide := rfl
@[simp] theorem modRt_job (s : State) (f : Nat) (g : FlowRt → FlowRt) : (modRt s f g).job = s.job := rfl
@[simp] theorem modRt_commit (s : State) (f : Nat) (g : FlowRt → FlowRt) : (modRt s f g).commit = s.commit := rfl
@[simp] theorem modRt_power (s : State) (f : Nat) (g : FlowRt → FlowRt) : (modRt s f g).power = s.power := rfl
@[simp] theorem modRt_meter (s : State) (f : Nat) (g : FlowRt → FlowRt) : (modRt s f g).meter = s.meter := rfl
@[simp] theorem modRt_control (s : State) (f : Nat) (g : FlowRt → FlowRt) : (modRt s f g).control = s.control := rfl
@[simp] theorem modRt_boot (s : State) (f : Nat) (g : FlowRt → FlowRt) : (modRt s f g).boot = s.boot := rfl
@[simp] theorem modRt_sent (s : State) (f : Nat) (g : FlowRt → FlowRt) : (modRt s f g).sent = s.sent := rfl
@[simp] theorem modRt_rdata (s : State) (f : Nat) (g : FlowRt → FlowRt) : (modRt s f g).rdata = s.rdata := rfl
@[simp] theorem modRt_freeCtr (s : State) (f : Nat) (g : FlowRt → FlowRt) : (modRt s f g).freeCtr = s.freeCtr := rfl
@[simp] theorem modRt_tap (s : State) (f : Nat) (g : FlowRt → FlowRt) : (modRt s f g).tap = s.tap := rfl

@[simp] theorem modSession_pending (s : State) (k : Nat) (g : Session → Session) : (modSession s k g).pending = s.pending := rfl
@[simp] theorem modSession_cores (s : State) (k : Nat) (g : Session → Session) : (modSession s k g).cores = s.cores := rfl
@[simp] theorem modSession_adds (s : State) (k : Nat) (g : Session → Session) : (modSession s k g).adds = s.adds := rfl
@[simp] theorem modSession_bars (s : State) (k : Nat) (g : Session → Session) : (modSession s k g).bars = s.bars := rfl
@[simp] theorem modSession_isth (s : State) (k : Nat) (g : Session → Session) : (modSession s k g).isth = s.isth := rfl
@[simp] theorem modSession_memory (s : State) (k : Nat) (g : Session → Session) : (modSession s k g).memory = s.memory := rfl
@[simp] theorem modSession_reduction (s : State) (k : Nat) (g : Session → Session) : (modSession s k g).reduction = s.reduction := rfl
@[simp] theorem modSession_tide (s : State) (k : Nat) (g : Session → Session) : (modSession s k g).tide = s.tide := rfl
@[simp] theorem modSession_job (s : State) (k : Nat) (g : Session → Session) : (modSession s k g).job = s.job := rfl
@[simp] theorem modSession_commit (s : State) (k : Nat) (g : Session → Session) : (modSession s k g).commit = s.commit := rfl
@[simp] theorem modSession_power (s : State) (k : Nat) (g : Session → Session) : (modSession s k g).power = s.power := rfl
@[simp] theorem modSession_meter (s : State) (k : Nat) (g : Session → Session) : (modSession s k g).meter = s.meter := rfl
@[simp] theorem modSession_control (s : State) (k : Nat) (g : Session → Session) : (modSession s k g).control = s.control := rfl
@[simp] theorem modSession_boot (s : State) (k : Nat) (g : Session → Session) : (modSession s k g).boot = s.boot := rfl
@[simp] theorem modSession_sent (s : State) (k : Nat) (g : Session → Session) : (modSession s k g).sent = s.sent := rfl
@[simp] theorem modSession_rdata (s : State) (k : Nat) (g : Session → Session) : (modSession s k g).rdata = s.rdata := rfl
@[simp] theorem modSession_freeCtr (s : State) (k : Nat) (g : Session → Session) : (modSession s k g).freeCtr = s.freeCtr := rfl
@[simp] theorem modSession_tap (s : State) (k : Nat) (g : Session → Session) : (modSession s k g).tap = s.tap := rfl

@[simp] theorem modBox_pending (s : State) (m : Nat) (g : Mailbox → Mailbox) : (modBox s m g).pending = s.pending := rfl
@[simp] theorem modBox_cores (s : State) (m : Nat) (g : Mailbox → Mailbox) : (modBox s m g).cores = s.cores := rfl
@[simp] theorem modBox_adds (s : State) (m : Nat) (g : Mailbox → Mailbox) : (modBox s m g).adds = s.adds := rfl
@[simp] theorem modBox_bars (s : State) (m : Nat) (g : Mailbox → Mailbox) : (modBox s m g).bars = s.bars := rfl
@[simp] theorem modBox_isth (s : State) (m : Nat) (g : Mailbox → Mailbox) : (modBox s m g).isth = s.isth := rfl
@[simp] theorem modBox_memory (s : State) (m : Nat) (g : Mailbox → Mailbox) : (modBox s m g).memory = s.memory := rfl
@[simp] theorem modBox_reduction (s : State) (m : Nat) (g : Mailbox → Mailbox) : (modBox s m g).reduction = s.reduction := rfl
@[simp] theorem modBox_straits (s : State) (m : Nat) (g : Mailbox → Mailbox) : (modBox s m g).straits = s.straits := rfl
@[simp] theorem modBox_tide (s : State) (m : Nat) (g : Mailbox → Mailbox) : (modBox s m g).tide = s.tide := rfl
@[simp] theorem modBox_job (s : State) (m : Nat) (g : Mailbox → Mailbox) : (modBox s m g).job = s.job := rfl
@[simp] theorem modBox_commit (s : State) (m : Nat) (g : Mailbox → Mailbox) : (modBox s m g).commit = s.commit := rfl
@[simp] theorem modBox_power (s : State) (m : Nat) (g : Mailbox → Mailbox) : (modBox s m g).power = s.power := rfl
@[simp] theorem modBox_meter (s : State) (m : Nat) (g : Mailbox → Mailbox) : (modBox s m g).meter = s.meter := rfl
@[simp] theorem modBox_boot (s : State) (m : Nat) (g : Mailbox → Mailbox) : (modBox s m g).boot = s.boot := rfl
@[simp] theorem modBox_sent (s : State) (m : Nat) (g : Mailbox → Mailbox) : (modBox s m g).sent = s.sent := rfl
@[simp] theorem modBox_rdata (s : State) (m : Nat) (g : Mailbox → Mailbox) : (modBox s m g).rdata = s.rdata := rfl
@[simp] theorem modBox_freeCtr (s : State) (m : Nat) (g : Mailbox → Mailbox) : (modBox s m g).freeCtr = s.freeCtr := rfl
@[simp] theorem modBox_tap (s : State) (m : Nat) (g : Mailbox → Mailbox) : (modBox s m g).tap = s.tap := rfl

@[simp] theorem useFree_pending (s : State) : (useFree s).pending = s.pending := rfl
@[simp] theorem useFree_cores (s : State) : (useFree s).cores = s.cores := rfl
@[simp] theorem useFree_adds (s : State) : (useFree s).adds = s.adds := rfl
@[simp] theorem useFree_bars (s : State) : (useFree s).bars = s.bars := rfl
@[simp] theorem useFree_isth (s : State) : (useFree s).isth = s.isth := rfl
@[simp] theorem useFree_memory (s : State) : (useFree s).memory = s.memory := rfl
@[simp] theorem useFree_reduction (s : State) : (useFree s).reduction = s.reduction := rfl
@[simp] theorem useFree_straits (s : State) : (useFree s).straits = s.straits := rfl
@[simp] theorem useFree_tide (s : State) : (useFree s).tide = s.tide := rfl
@[simp] theorem useFree_job (s : State) : (useFree s).job = s.job := rfl
@[simp] theorem useFree_commit (s : State) : (useFree s).commit = s.commit := rfl
@[simp] theorem useFree_power (s : State) : (useFree s).power = s.power := rfl
@[simp] theorem useFree_meter (s : State) : (useFree s).meter = s.meter := rfl
@[simp] theorem useFree_control (s : State) : (useFree s).control = s.control := rfl
@[simp] theorem useFree_boot (s : State) : (useFree s).boot = s.boot := rfl
@[simp] theorem useFree_sent (s : State) : (useFree s).sent = s.sent := rfl
@[simp] theorem useFree_rdata (s : State) : (useFree s).rdata = s.rdata := rfl

@[simp] theorem emit_pending (s : State) (o : Out) : (emit s o).pending = s.pending := rfl
@[simp] theorem emit_cores (s : State) (o : Out) : (emit s o).cores = s.cores := rfl
@[simp] theorem emit_adds (s : State) (o : Out) : (emit s o).adds = s.adds := rfl
@[simp] theorem emit_bars (s : State) (o : Out) : (emit s o).bars = s.bars := rfl
@[simp] theorem emit_isth (s : State) (o : Out) : (emit s o).isth = s.isth := rfl
@[simp] theorem emit_memory (s : State) (o : Out) : (emit s o).memory = s.memory := rfl
@[simp] theorem emit_reduction (s : State) (o : Out) : (emit s o).reduction = s.reduction := rfl
@[simp] theorem emit_straits (s : State) (o : Out) : (emit s o).straits = s.straits := rfl
@[simp] theorem emit_tide (s : State) (o : Out) : (emit s o).tide = s.tide := rfl
@[simp] theorem emit_job (s : State) (o : Out) : (emit s o).job = s.job := rfl
@[simp] theorem emit_commit (s : State) (o : Out) : (emit s o).commit = s.commit := rfl
@[simp] theorem emit_power (s : State) (o : Out) : (emit s o).power = s.power := rfl
@[simp] theorem emit_meter (s : State) (o : Out) : (emit s o).meter = s.meter := rfl
@[simp] theorem emit_control (s : State) (o : Out) : (emit s o).control = s.control := rfl
@[simp] theorem emit_boot (s : State) (o : Out) : (emit s o).boot = s.boot := rfl
@[simp] theorem emit_rdata (s : State) (o : Out) : (emit s o).rdata = s.rdata := rfl
@[simp] theorem emit_freeCtr (s : State) (o : Out) : (emit s o).freeCtr = s.freeCtr := rfl
@[simp] theorem emit_tap (s : State) (o : Out) : (emit s o).tap = s.tap := rfl

@[simp] theorem atTide_pending (s : State) (now : Nat) : (atTide s now).pending = s.pending := rfl
@[simp] theorem atTide_cores (s : State) (now : Nat) : (atTide s now).cores = s.cores := rfl
@[simp] theorem atTide_adds (s : State) (now : Nat) : (atTide s now).adds = s.adds := rfl
@[simp] theorem atTide_bars (s : State) (now : Nat) : (atTide s now).bars = s.bars := rfl
@[simp] theorem atTide_isth (s : State) (now : Nat) : (atTide s now).isth = s.isth := rfl
@[simp] theorem atTide_memory (s : State) (now : Nat) : (atTide s now).memory = s.memory := rfl
@[simp] theorem atTide_reduction (s : State) (now : Nat) : (atTide s now).reduction = s.reduction := rfl
@[simp] theorem atTide_straits (s : State) (now : Nat) : (atTide s now).straits = s.straits := rfl
@[simp] theorem atTide_job (s : State) (now : Nat) : (atTide s now).job = s.job := rfl
@[simp] theorem atTide_commit (s : State) (now : Nat) : (atTide s now).commit = s.commit := rfl
@[simp] theorem atTide_power (s : State) (now : Nat) : (atTide s now).power = s.power := rfl
@[simp] theorem atTide_meter (s : State) (now : Nat) : (atTide s now).meter = s.meter := rfl
@[simp] theorem atTide_control (s : State) (now : Nat) : (atTide s now).control = s.control := rfl
@[simp] theorem atTide_boot (s : State) (now : Nat) : (atTide s now).boot = s.boot := rfl
@[simp] theorem atTide_sent (s : State) (now : Nat) : (atTide s now).sent = s.sent := rfl
@[simp] theorem atTide_rdata (s : State) (now : Nat) : (atTide s now).rdata = s.rdata := rfl
@[simp] theorem atTide_freeCtr (s : State) (now : Nat) : (atTide s now).freeCtr = s.freeCtr := rfl
@[simp] theorem atTide_tap (s : State) (now : Nat) : (atTide s now).tap = s.tap := rfl

@[simp] theorem markFault_pending (s : State) (n b : Nat) : (markFault s n b).pending = s.pending := rfl
@[simp] theorem markFault_cores (s : State) (n b : Nat) : (markFault s n b).cores = s.cores := rfl
@[simp] theorem markFault_adds (s : State) (n b : Nat) : (markFault s n b).adds = s.adds := rfl
@[simp] theorem markFault_bars (s : State) (n b : Nat) : (markFault s n b).bars = s.bars := rfl
@[simp] theorem markFault_isth (s : State) (n b : Nat) : (markFault s n b).isth = s.isth := rfl
@[simp] theorem markFault_memory (s : State) (n b : Nat) : (markFault s n b).memory = s.memory := rfl
@[simp] theorem markFault_reduction (s : State) (n b : Nat) : (markFault s n b).reduction = s.reduction := rfl
@[simp] theorem markFault_straits (s : State) (n b : Nat) : (markFault s n b).straits = s.straits := rfl
@[simp] theorem markFault_tide (s : State) (n b : Nat) : (markFault s n b).tide = s.tide := rfl
@[simp] theorem markFault_job (s : State) (n b : Nat) : (markFault s n b).job = s.job := rfl
@[simp] theorem markFault_power (s : State) (n b : Nat) : (markFault s n b).power = s.power := rfl
@[simp] theorem markFault_meter (s : State) (n b : Nat) : (markFault s n b).meter = s.meter := rfl
@[simp] theorem markFault_control (s : State) (n b : Nat) : (markFault s n b).control = s.control := rfl
@[simp] theorem markFault_boot (s : State) (n b : Nat) : (markFault s n b).boot = s.boot := rfl
@[simp] theorem markFault_sent (s : State) (n b : Nat) : (markFault s n b).sent = s.sent := rfl
@[simp] theorem markFault_rdata (s : State) (n b : Nat) : (markFault s n b).rdata = s.rdata := rfl
@[simp] theorem markFault_freeCtr (s : State) (n b : Nat) : (markFault s n b).freeCtr = s.freeCtr := rfl
@[simp] theorem markFault_tap (s : State) (n b : Nat) : (markFault s n b).tap = s.tap := rfl

@[simp] theorem setTide_pending (s : State) (f : Tide → Tide) : (setTide s f).pending = s.pending := rfl
@[simp] theorem setTide_cores (s : State) (f : Tide → Tide) : (setTide s f).cores = s.cores := rfl
@[simp] theorem setTide_adds (s : State) (f : Tide → Tide) : (setTide s f).adds = s.adds := rfl
@[simp] theorem setTide_bars (s : State) (f : Tide → Tide) : (setTide s f).bars = s.bars := rfl
@[simp] theorem setTide_isth (s : State) (f : Tide → Tide) : (setTide s f).isth = s.isth := rfl
@[simp] theorem setTide_memory (s : State) (f : Tide → Tide) : (setTide s f).memory = s.memory := rfl
@[simp] theorem setTide_reduction (s : State) (f : Tide → Tide) : (setTide s f).reduction = s.reduction := rfl
@[simp] theorem setTide_straits (s : State) (f : Tide → Tide) : (setTide s f).straits = s.straits := rfl
@[simp] theorem setTide_job (s : State) (f : Tide → Tide) : (setTide s f).job = s.job := rfl
@[simp] theorem setTide_commit (s : State) (f : Tide → Tide) : (setTide s f).commit = s.commit := rfl
@[simp] theorem setTide_power (s : State) (f : Tide → Tide) : (setTide s f).power = s.power := rfl
@[simp] theorem setTide_meter (s : State) (f : Tide → Tide) : (setTide s f).meter = s.meter := rfl
@[simp] theorem setTide_control (s : State) (f : Tide → Tide) : (setTide s f).control = s.control := rfl
@[simp] theorem setTide_boot (s : State) (f : Tide → Tide) : (setTide s f).boot = s.boot := rfl
@[simp] theorem setTide_sent (s : State) (f : Tide → Tide) : (setTide s f).sent = s.sent := rfl
@[simp] theorem setTide_rdata (s : State) (f : Tide → Tide) : (setTide s f).rdata = s.rdata := rfl
@[simp] theorem setTide_freeCtr (s : State) (f : Tide → Tide) : (setTide s f).freeCtr = s.freeCtr := rfl
@[simp] theorem setTide_tap (s : State) (f : Tide → Tide) : (setTide s f).tap = s.tap := rfl

@[simp] theorem setPower_pending (s : State) (f : Power → Power) : (setPower s f).pending = s.pending := rfl
@[simp] theorem setPower_cores (s : State) (f : Power → Power) : (setPower s f).cores = s.cores := rfl
@[simp] theorem setPower_adds (s : State) (f : Power → Power) : (setPower s f).adds = s.adds := rfl
@[simp] theorem setPower_bars (s : State) (f : Power → Power) : (setPower s f).bars = s.bars := rfl
@[simp] theorem setPower_isth (s : State) (f : Power → Power) : (setPower s f).isth = s.isth := rfl
@[simp] theorem setPower_memory (s : State) (f : Power → Power) : (setPower s f).memory = s.memory := rfl
@[simp] theorem setPower_reduction (s : State) (f : Power → Power) : (setPower s f).reduction = s.reduction := rfl
@[simp] theorem setPower_straits (s : State) (f : Power → Power) : (setPower s f).straits = s.straits := rfl
@[simp] theorem setPower_tide (s : State) (f : Power → Power) : (setPower s f).tide = s.tide := rfl
@[simp] theorem setPower_job (s : State) (f : Power → Power) : (setPower s f).job = s.job := rfl
@[simp] theorem setPower_commit (s : State) (f : Power → Power) : (setPower s f).commit = s.commit := rfl
@[simp] theorem setPower_meter (s : State) (f : Power → Power) : (setPower s f).meter = s.meter := rfl
@[simp] theorem setPower_control (s : State) (f : Power → Power) : (setPower s f).control = s.control := rfl
@[simp] theorem setPower_boot (s : State) (f : Power → Power) : (setPower s f).boot = s.boot := rfl
@[simp] theorem setPower_sent (s : State) (f : Power → Power) : (setPower s f).sent = s.sent := rfl
@[simp] theorem setPower_rdata (s : State) (f : Power → Power) : (setPower s f).rdata = s.rdata := rfl
@[simp] theorem setPower_freeCtr (s : State) (f : Power → Power) : (setPower s f).freeCtr = s.freeCtr := rfl
@[simp] theorem setPower_tap (s : State) (f : Power → Power) : (setPower s f).tap = s.tap := rfl

@[simp] theorem setMeter_pending (s : State) (f : Meter → Meter) : (setMeter s f).pending = s.pending := rfl
@[simp] theorem setMeter_cores (s : State) (f : Meter → Meter) : (setMeter s f).cores = s.cores := rfl
@[simp] theorem setMeter_adds (s : State) (f : Meter → Meter) : (setMeter s f).adds = s.adds := rfl
@[simp] theorem setMeter_bars (s : State) (f : Meter → Meter) : (setMeter s f).bars = s.bars := rfl
@[simp] theorem setMeter_isth (s : State) (f : Meter → Meter) : (setMeter s f).isth = s.isth := rfl
@[simp] theorem setMeter_memory (s : State) (f : Meter → Meter) : (setMeter s f).memory = s.memory := rfl
@[simp] theorem setMeter_reduction (s : State) (f : Meter → Meter) : (setMeter s f).reduction = s.reduction := rfl
@[simp] theorem setMeter_straits (s : State) (f : Meter → Meter) : (setMeter s f).straits = s.straits := rfl
@[simp] theorem setMeter_tide (s : State) (f : Meter → Meter) : (setMeter s f).tide = s.tide := rfl
@[simp] theorem setMeter_job (s : State) (f : Meter → Meter) : (setMeter s f).job = s.job := rfl
@[simp] theorem setMeter_commit (s : State) (f : Meter → Meter) : (setMeter s f).commit = s.commit := rfl
@[simp] theorem setMeter_power (s : State) (f : Meter → Meter) : (setMeter s f).power = s.power := rfl
@[simp] theorem setMeter_control (s : State) (f : Meter → Meter) : (setMeter s f).control = s.control := rfl
@[simp] theorem setMeter_boot (s : State) (f : Meter → Meter) : (setMeter s f).boot = s.boot := rfl
@[simp] theorem setMeter_sent (s : State) (f : Meter → Meter) : (setMeter s f).sent = s.sent := rfl
@[simp] theorem setMeter_rdata (s : State) (f : Meter → Meter) : (setMeter s f).rdata = s.rdata := rfl
@[simp] theorem setMeter_freeCtr (s : State) (f : Meter → Meter) : (setMeter s f).freeCtr = s.freeCtr := rfl
@[simp] theorem setMeter_tap (s : State) (f : Meter → Meter) : (setMeter s f).tap = s.tap := rfl

@[simp] theorem setJob_pending (s : State) (f : Job → Job) : (setJob s f).pending = s.pending := rfl
@[simp] theorem setJob_cores (s : State) (f : Job → Job) : (setJob s f).cores = s.cores := rfl
@[simp] theorem setJob_adds (s : State) (f : Job → Job) : (setJob s f).adds = s.adds := rfl
@[simp] theorem setJob_bars (s : State) (f : Job → Job) : (setJob s f).bars = s.bars := rfl
@[simp] theorem setJob_isth (s : State) (f : Job → Job) : (setJob s f).isth = s.isth := rfl
@[simp] theorem setJob_memory (s : State) (f : Job → Job) : (setJob s f).memory = s.memory := rfl
@[simp] theorem setJob_reduction (s : State) (f : Job → Job) : (setJob s f).reduction = s.reduction := rfl
@[simp] theorem setJob_straits (s : State) (f : Job → Job) : (setJob s f).straits = s.straits := rfl
@[simp] theorem setJob_tide (s : State) (f : Job → Job) : (setJob s f).tide = s.tide := rfl
@[simp] theorem setJob_commit (s : State) (f : Job → Job) : (setJob s f).commit = s.commit := rfl
@[simp] theorem setJob_power (s : State) (f : Job → Job) : (setJob s f).power = s.power := rfl
@[simp] theorem setJob_meter (s : State) (f : Job → Job) : (setJob s f).meter = s.meter := rfl
@[simp] theorem setJob_control (s : State) (f : Job → Job) : (setJob s f).control = s.control := rfl
@[simp] theorem setJob_boot (s : State) (f : Job → Job) : (setJob s f).boot = s.boot := rfl
@[simp] theorem setJob_sent (s : State) (f : Job → Job) : (setJob s f).sent = s.sent := rfl
@[simp] theorem setJob_rdata (s : State) (f : Job → Job) : (setJob s f).rdata = s.rdata := rfl
@[simp] theorem setJob_freeCtr (s : State) (f : Job → Job) : (setJob s f).freeCtr = s.freeCtr := rfl
@[simp] theorem setJob_tap (s : State) (f : Job → Job) : (setJob s f).tap = s.tap := rfl

@[simp] theorem accSet_pending (s : State) (k : Nat) (v : Reg) : (accSet s k v).pending = s.pending := rfl
@[simp] theorem accSet_cores (s : State) (k : Nat) (v : Reg) : (accSet s k v).cores = s.cores := rfl
@[simp] theorem accSet_adds (s : State) (k : Nat) (v : Reg) : (accSet s k v).adds = s.adds := rfl
@[simp] theorem accSet_bars (s : State) (k : Nat) (v : Reg) : (accSet s k v).bars = s.bars := rfl
@[simp] theorem accSet_isth (s : State) (k : Nat) (v : Reg) : (accSet s k v).isth = s.isth := rfl
@[simp] theorem accSet_reduction (s : State) (k : Nat) (v : Reg) : (accSet s k v).reduction = s.reduction := rfl
@[simp] theorem accSet_straits (s : State) (k : Nat) (v : Reg) : (accSet s k v).straits = s.straits := rfl
@[simp] theorem accSet_tide (s : State) (k : Nat) (v : Reg) : (accSet s k v).tide = s.tide := rfl
@[simp] theorem accSet_job (s : State) (k : Nat) (v : Reg) : (accSet s k v).job = s.job := rfl
@[simp] theorem accSet_commit (s : State) (k : Nat) (v : Reg) : (accSet s k v).commit = s.commit := rfl
@[simp] theorem accSet_power (s : State) (k : Nat) (v : Reg) : (accSet s k v).power = s.power := rfl
@[simp] theorem accSet_meter (s : State) (k : Nat) (v : Reg) : (accSet s k v).meter = s.meter := rfl
@[simp] theorem accSet_control (s : State) (k : Nat) (v : Reg) : (accSet s k v).control = s.control := rfl
@[simp] theorem accSet_boot (s : State) (k : Nat) (v : Reg) : (accSet s k v).boot = s.boot := rfl
@[simp] theorem accSet_sent (s : State) (k : Nat) (v : Reg) : (accSet s k v).sent = s.sent := rfl
@[simp] theorem accSet_rdata (s : State) (k : Nat) (v : Reg) : (accSet s k v).rdata = s.rdata := rfl
@[simp] theorem accSet_freeCtr (s : State) (k : Nat) (v : Reg) : (accSet s k v).freeCtr = s.freeCtr := rfl
@[simp] theorem accSet_tap (s : State) (k : Nat) (v : Reg) : (accSet s k v).tap = s.tap := rfl

@[simp] theorem modDigest_pending (s : State) (r : Nat) (f : Digest → Digest) : (modDigest s r f).pending = s.pending := rfl
@[simp] theorem modDigest_cores (s : State) (r : Nat) (f : Digest → Digest) : (modDigest s r f).cores = s.cores := rfl
@[simp] theorem modDigest_adds (s : State) (r : Nat) (f : Digest → Digest) : (modDigest s r f).adds = s.adds := rfl
@[simp] theorem modDigest_bars (s : State) (r : Nat) (f : Digest → Digest) : (modDigest s r f).bars = s.bars := rfl
@[simp] theorem modDigest_isth (s : State) (r : Nat) (f : Digest → Digest) : (modDigest s r f).isth = s.isth := rfl
@[simp] theorem modDigest_reduction (s : State) (r : Nat) (f : Digest → Digest) : (modDigest s r f).reduction = s.reduction := rfl
@[simp] theorem modDigest_straits (s : State) (r : Nat) (f : Digest → Digest) : (modDigest s r f).straits = s.straits := rfl
@[simp] theorem modDigest_tide (s : State) (r : Nat) (f : Digest → Digest) : (modDigest s r f).tide = s.tide := rfl
@[simp] theorem modDigest_job (s : State) (r : Nat) (f : Digest → Digest) : (modDigest s r f).job = s.job := rfl
@[simp] theorem modDigest_commit (s : State) (r : Nat) (f : Digest → Digest) : (modDigest s r f).commit = s.commit := rfl
@[simp] theorem modDigest_power (s : State) (r : Nat) (f : Digest → Digest) : (modDigest s r f).power = s.power := rfl
@[simp] theorem modDigest_meter (s : State) (r : Nat) (f : Digest → Digest) : (modDigest s r f).meter = s.meter := rfl
@[simp] theorem modDigest_control (s : State) (r : Nat) (f : Digest → Digest) : (modDigest s r f).control = s.control := rfl
@[simp] theorem modDigest_boot (s : State) (r : Nat) (f : Digest → Digest) : (modDigest s r f).boot = s.boot := rfl
@[simp] theorem modDigest_sent (s : State) (r : Nat) (f : Digest → Digest) : (modDigest s r f).sent = s.sent := rfl
@[simp] theorem modDigest_rdata (s : State) (r : Nat) (f : Digest → Digest) : (modDigest s r f).rdata = s.rdata := rfl
@[simp] theorem modDigest_freeCtr (s : State) (r : Nat) (f : Digest → Digest) : (modDigest s r f).freeCtr = s.freeCtr := rfl
@[simp] theorem modDigest_tap (s : State) (r : Nat) (f : Digest → Digest) : (modDigest s r f).tap = s.tap := rfl

@[simp] theorem setArena_pending (s : State) (k : Nat) (r : Arena) : (setArena s k r).pending = s.pending := rfl
@[simp] theorem setArena_cores (s : State) (k : Nat) (r : Arena) : (setArena s k r).cores = s.cores := rfl
@[simp] theorem setArena_adds (s : State) (k : Nat) (r : Arena) : (setArena s k r).adds = s.adds := rfl
@[simp] theorem setArena_bars (s : State) (k : Nat) (r : Arena) : (setArena s k r).bars = s.bars := rfl
@[simp] theorem setArena_isth (s : State) (k : Nat) (r : Arena) : (setArena s k r).isth = s.isth := rfl
@[simp] theorem setArena_reduction (s : State) (k : Nat) (r : Arena) : (setArena s k r).reduction = s.reduction := rfl
@[simp] theorem setArena_straits (s : State) (k : Nat) (r : Arena) : (setArena s k r).straits = s.straits := rfl
@[simp] theorem setArena_tide (s : State) (k : Nat) (r : Arena) : (setArena s k r).tide = s.tide := rfl
@[simp] theorem setArena_job (s : State) (k : Nat) (r : Arena) : (setArena s k r).job = s.job := rfl
@[simp] theorem setArena_commit (s : State) (k : Nat) (r : Arena) : (setArena s k r).commit = s.commit := rfl
@[simp] theorem setArena_power (s : State) (k : Nat) (r : Arena) : (setArena s k r).power = s.power := rfl
@[simp] theorem setArena_meter (s : State) (k : Nat) (r : Arena) : (setArena s k r).meter = s.meter := rfl
@[simp] theorem setArena_control (s : State) (k : Nat) (r : Arena) : (setArena s k r).control = s.control := rfl
@[simp] theorem setArena_boot (s : State) (k : Nat) (r : Arena) : (setArena s k r).boot = s.boot := rfl
@[simp] theorem setArena_sent (s : State) (k : Nat) (r : Arena) : (setArena s k r).sent = s.sent := rfl
@[simp] theorem setArena_rdata (s : State) (k : Nat) (r : Arena) : (setArena s k r).rdata = s.rdata := rfl
@[simp] theorem setArena_freeCtr (s : State) (k : Nat) (r : Arena) : (setArena s k r).freeCtr = s.freeCtr := rfl
@[simp] theorem setArena_tap (s : State) (k : Nat) (r : Arena) : (setArena s k r).tap = s.tap := rfl

@[simp] theorem setPark_pending (s : State) (i : Nat) (l : List InFrame) : (setPark s i l).pending = s.pending := rfl
@[simp] theorem setPark_cores (s : State) (i : Nat) (l : List InFrame) : (setPark s i l).cores = s.cores := rfl
@[simp] theorem setPark_adds (s : State) (i : Nat) (l : List InFrame) : (setPark s i l).adds = s.adds := rfl
@[simp] theorem setPark_bars (s : State) (i : Nat) (l : List InFrame) : (setPark s i l).bars = s.bars := rfl
@[simp] theorem setPark_isth (s : State) (i : Nat) (l : List InFrame) : (setPark s i l).isth = s.isth := rfl
@[simp] theorem setPark_reduction (s : State) (i : Nat) (l : List InFrame) : (setPark s i l).reduction = s.reduction := rfl
@[simp] theorem setPark_straits (s : State) (i : Nat) (l : List InFrame) : (setPark s i l).straits = s.straits := rfl
@[simp] theorem setPark_tide (s : State) (i : Nat) (l : List InFrame) : (setPark s i l).tide = s.tide := rfl
@[simp] theorem setPark_job (s : State) (i : Nat) (l : List InFrame) : (setPark s i l).job = s.job := rfl
@[simp] theorem setPark_commit (s : State) (i : Nat) (l : List InFrame) : (setPark s i l).commit = s.commit := rfl
@[simp] theorem setPark_power (s : State) (i : Nat) (l : List InFrame) : (setPark s i l).power = s.power := rfl
@[simp] theorem setPark_meter (s : State) (i : Nat) (l : List InFrame) : (setPark s i l).meter = s.meter := rfl
@[simp] theorem setPark_control (s : State) (i : Nat) (l : List InFrame) : (setPark s i l).control = s.control := rfl
@[simp] theorem setPark_boot (s : State) (i : Nat) (l : List InFrame) : (setPark s i l).boot = s.boot := rfl
@[simp] theorem setPark_sent (s : State) (i : Nat) (l : List InFrame) : (setPark s i l).sent = s.sent := rfl
@[simp] theorem setPark_rdata (s : State) (i : Nat) (l : List InFrame) : (setPark s i l).rdata = s.rdata := rfl
@[simp] theorem setPark_freeCtr (s : State) (i : Nat) (l : List InFrame) : (setPark s i l).freeCtr = s.freeCtr := rfl
@[simp] theorem setPark_tap (s : State) (i : Nat) (l : List InFrame) : (setPark s i l).tap = s.tap := rfl

@[simp] theorem setInq_pending (s : State) (i : Nat) (l : List InFrame) : (setInq s i l).pending = s.pending := rfl
@[simp] theorem setInq_cores (s : State) (i : Nat) (l : List InFrame) : (setInq s i l).cores = s.cores := rfl
@[simp] theorem setInq_adds (s : State) (i : Nat) (l : List InFrame) : (setInq s i l).adds = s.adds := rfl
@[simp] theorem setInq_bars (s : State) (i : Nat) (l : List InFrame) : (setInq s i l).bars = s.bars := rfl
@[simp] theorem setInq_isth (s : State) (i : Nat) (l : List InFrame) : (setInq s i l).isth = s.isth := rfl
@[simp] theorem setInq_reduction (s : State) (i : Nat) (l : List InFrame) : (setInq s i l).reduction = s.reduction := rfl
@[simp] theorem setInq_straits (s : State) (i : Nat) (l : List InFrame) : (setInq s i l).straits = s.straits := rfl
@[simp] theorem setInq_tide (s : State) (i : Nat) (l : List InFrame) : (setInq s i l).tide = s.tide := rfl
@[simp] theorem setInq_job (s : State) (i : Nat) (l : List InFrame) : (setInq s i l).job = s.job := rfl
@[simp] theorem setInq_commit (s : State) (i : Nat) (l : List InFrame) : (setInq s i l).commit = s.commit := rfl
@[simp] theorem setInq_power (s : State) (i : Nat) (l : List InFrame) : (setInq s i l).power = s.power := rfl
@[simp] theorem setInq_meter (s : State) (i : Nat) (l : List InFrame) : (setInq s i l).meter = s.meter := rfl
@[simp] theorem setInq_control (s : State) (i : Nat) (l : List InFrame) : (setInq s i l).control = s.control := rfl
@[simp] theorem setInq_boot (s : State) (i : Nat) (l : List InFrame) : (setInq s i l).boot = s.boot := rfl
@[simp] theorem setInq_sent (s : State) (i : Nat) (l : List InFrame) : (setInq s i l).sent = s.sent := rfl
@[simp] theorem setInq_rdata (s : State) (i : Nat) (l : List InFrame) : (setInq s i l).rdata = s.rdata := rfl
@[simp] theorem setInq_freeCtr (s : State) (i : Nat) (l : List InFrame) : (setInq s i l).freeCtr = s.freeCtr := rfl
@[simp] theorem setInq_tap (s : State) (i : Nat) (l : List InFrame) : (setInq s i l).tap = s.tap := rfl

@[simp] theorem setUse_pending (s : State) (k : Nat) (v : UseState) : (setUse s k v).pending = s.pending := rfl
@[simp] theorem setUse_cores (s : State) (k : Nat) (v : UseState) : (setUse s k v).cores = s.cores := rfl
@[simp] theorem setUse_adds (s : State) (k : Nat) (v : UseState) : (setUse s k v).adds = s.adds := rfl
@[simp] theorem setUse_bars (s : State) (k : Nat) (v : UseState) : (setUse s k v).bars = s.bars := rfl
@[simp] theorem setUse_isth (s : State) (k : Nat) (v : UseState) : (setUse s k v).isth = s.isth := rfl
@[simp] theorem setUse_memory (s : State) (k : Nat) (v : UseState) : (setUse s k v).memory = s.memory := rfl
@[simp] theorem setUse_straits (s : State) (k : Nat) (v : UseState) : (setUse s k v).straits = s.straits := rfl
@[simp] theorem setUse_tide (s : State) (k : Nat) (v : UseState) : (setUse s k v).tide = s.tide := rfl
@[simp] theorem setUse_job (s : State) (k : Nat) (v : UseState) : (setUse s k v).job = s.job := rfl
@[simp] theorem setUse_commit (s : State) (k : Nat) (v : UseState) : (setUse s k v).commit = s.commit := rfl
@[simp] theorem setUse_power (s : State) (k : Nat) (v : UseState) : (setUse s k v).power = s.power := rfl
@[simp] theorem setUse_meter (s : State) (k : Nat) (v : UseState) : (setUse s k v).meter = s.meter := rfl
@[simp] theorem setUse_control (s : State) (k : Nat) (v : UseState) : (setUse s k v).control = s.control := rfl
@[simp] theorem setUse_boot (s : State) (k : Nat) (v : UseState) : (setUse s k v).boot = s.boot := rfl
@[simp] theorem setUse_sent (s : State) (k : Nat) (v : UseState) : (setUse s k v).sent = s.sent := rfl
@[simp] theorem setUse_rdata (s : State) (k : Nat) (v : UseState) : (setUse s k v).rdata = s.rdata := rfl
@[simp] theorem setUse_freeCtr (s : State) (k : Nat) (v : UseState) : (setUse s k v).freeCtr = s.freeCtr := rfl
@[simp] theorem setUse_tap (s : State) (k : Nat) (v : UseState) : (setUse s k v).tap = s.tap := rfl

@[simp] theorem setRecordUse_pending (s : State) (k v : Nat) : (setRecordUse s k v).pending = s.pending := rfl
@[simp] theorem setRecordUse_cores (s : State) (k v : Nat) : (setRecordUse s k v).cores = s.cores := rfl
@[simp] theorem setRecordUse_adds (s : State) (k v : Nat) : (setRecordUse s k v).adds = s.adds := rfl
@[simp] theorem setRecordUse_bars (s : State) (k v : Nat) : (setRecordUse s k v).bars = s.bars := rfl
@[simp] theorem setRecordUse_isth (s : State) (k v : Nat) : (setRecordUse s k v).isth = s.isth := rfl
@[simp] theorem setRecordUse_memory (s : State) (k v : Nat) : (setRecordUse s k v).memory = s.memory := rfl
@[simp] theorem setRecordUse_straits (s : State) (k v : Nat) : (setRecordUse s k v).straits = s.straits := rfl
@[simp] theorem setRecordUse_tide (s : State) (k v : Nat) : (setRecordUse s k v).tide = s.tide := rfl
@[simp] theorem setRecordUse_job (s : State) (k v : Nat) : (setRecordUse s k v).job = s.job := rfl
@[simp] theorem setRecordUse_commit (s : State) (k v : Nat) : (setRecordUse s k v).commit = s.commit := rfl
@[simp] theorem setRecordUse_power (s : State) (k v : Nat) : (setRecordUse s k v).power = s.power := rfl
@[simp] theorem setRecordUse_meter (s : State) (k v : Nat) : (setRecordUse s k v).meter = s.meter := rfl
@[simp] theorem setRecordUse_control (s : State) (k v : Nat) : (setRecordUse s k v).control = s.control := rfl
@[simp] theorem setRecordUse_boot (s : State) (k v : Nat) : (setRecordUse s k v).boot = s.boot := rfl
@[simp] theorem setRecordUse_sent (s : State) (k v : Nat) : (setRecordUse s k v).sent = s.sent := rfl
@[simp] theorem setRecordUse_rdata (s : State) (k v : Nat) : (setRecordUse s k v).rdata = s.rdata := rfl
@[simp] theorem setRecordUse_freeCtr (s : State) (k v : Nat) : (setRecordUse s k v).freeCtr = s.freeCtr := rfl
@[simp] theorem setRecordUse_tap (s : State) (k v : Nat) : (setRecordUse s k v).tap = s.tap := rfl

@[simp] theorem setPkgBar_pending (s : State) (b : Nat) (x : Bar) : (setPkgBar s b x).pending = s.pending := rfl
@[simp] theorem setPkgBar_cores (s : State) (b : Nat) (x : Bar) : (setPkgBar s b x).cores = s.cores := rfl
@[simp] theorem setPkgBar_adds (s : State) (b : Nat) (x : Bar) : (setPkgBar s b x).adds = s.adds := rfl
@[simp] theorem setPkgBar_isth (s : State) (b : Nat) (x : Bar) : (setPkgBar s b x).isth = s.isth := rfl
@[simp] theorem setPkgBar_memory (s : State) (b : Nat) (x : Bar) : (setPkgBar s b x).memory = s.memory := rfl
@[simp] theorem setPkgBar_reduction (s : State) (b : Nat) (x : Bar) : (setPkgBar s b x).reduction = s.reduction := rfl
@[simp] theorem setPkgBar_straits (s : State) (b : Nat) (x : Bar) : (setPkgBar s b x).straits = s.straits := rfl
@[simp] theorem setPkgBar_tide (s : State) (b : Nat) (x : Bar) : (setPkgBar s b x).tide = s.tide := rfl
@[simp] theorem setPkgBar_job (s : State) (b : Nat) (x : Bar) : (setPkgBar s b x).job = s.job := rfl
@[simp] theorem setPkgBar_commit (s : State) (b : Nat) (x : Bar) : (setPkgBar s b x).commit = s.commit := rfl
@[simp] theorem setPkgBar_power (s : State) (b : Nat) (x : Bar) : (setPkgBar s b x).power = s.power := rfl
@[simp] theorem setPkgBar_meter (s : State) (b : Nat) (x : Bar) : (setPkgBar s b x).meter = s.meter := rfl
@[simp] theorem setPkgBar_control (s : State) (b : Nat) (x : Bar) : (setPkgBar s b x).control = s.control := rfl
@[simp] theorem setPkgBar_boot (s : State) (b : Nat) (x : Bar) : (setPkgBar s b x).boot = s.boot := rfl
@[simp] theorem setPkgBar_sent (s : State) (b : Nat) (x : Bar) : (setPkgBar s b x).sent = s.sent := rfl
@[simp] theorem setPkgBar_rdata (s : State) (b : Nat) (x : Bar) : (setPkgBar s b x).rdata = s.rdata := rfl
@[simp] theorem setPkgBar_freeCtr (s : State) (b : Nat) (x : Bar) : (setPkgBar s b x).freeCtr = s.freeCtr := rfl
@[simp] theorem setPkgBar_tap (s : State) (b : Nat) (x : Bar) : (setPkgBar s b x).tap = s.tap := rfl

@[simp] theorem setIsleBar_pending (s : State) (k : Nat) (x : Bar) : (setIsleBar s k x).pending = s.pending := rfl
@[simp] theorem setIsleBar_cores (s : State) (k : Nat) (x : Bar) : (setIsleBar s k x).cores = s.cores := rfl
@[simp] theorem setIsleBar_adds (s : State) (k : Nat) (x : Bar) : (setIsleBar s k x).adds = s.adds := rfl
@[simp] theorem setIsleBar_isth (s : State) (k : Nat) (x : Bar) : (setIsleBar s k x).isth = s.isth := rfl
@[simp] theorem setIsleBar_memory (s : State) (k : Nat) (x : Bar) : (setIsleBar s k x).memory = s.memory := rfl
@[simp] theorem setIsleBar_reduction (s : State) (k : Nat) (x : Bar) : (setIsleBar s k x).reduction = s.reduction := rfl
@[simp] theorem setIsleBar_straits (s : State) (k : Nat) (x : Bar) : (setIsleBar s k x).straits = s.straits := rfl
@[simp] theorem setIsleBar_tide (s : State) (k : Nat) (x : Bar) : (setIsleBar s k x).tide = s.tide := rfl
@[simp] theorem setIsleBar_job (s : State) (k : Nat) (x : Bar) : (setIsleBar s k x).job = s.job := rfl
@[simp] theorem setIsleBar_commit (s : State) (k : Nat) (x : Bar) : (setIsleBar s k x).commit = s.commit := rfl
@[simp] theorem setIsleBar_power (s : State) (k : Nat) (x : Bar) : (setIsleBar s k x).power = s.power := rfl
@[simp] theorem setIsleBar_meter (s : State) (k : Nat) (x : Bar) : (setIsleBar s k x).meter = s.meter := rfl
@[simp] theorem setIsleBar_control (s : State) (k : Nat) (x : Bar) : (setIsleBar s k x).control = s.control := rfl
@[simp] theorem setIsleBar_boot (s : State) (k : Nat) (x : Bar) : (setIsleBar s k x).boot = s.boot := rfl
@[simp] theorem setIsleBar_sent (s : State) (k : Nat) (x : Bar) : (setIsleBar s k x).sent = s.sent := rfl
@[simp] theorem setIsleBar_rdata (s : State) (k : Nat) (x : Bar) : (setIsleBar s k x).rdata = s.rdata := rfl
@[simp] theorem setIsleBar_freeCtr (s : State) (k : Nat) (x : Bar) : (setIsleBar s k x).freeCtr = s.freeCtr := rfl
@[simp] theorem setIsleBar_tap (s : State) (k : Nat) (x : Bar) : (setIsleBar s k x).tap = s.tap := rfl

@[simp] theorem setIsthMod_pending (s : State) (k m : Nat) (x : IsthModule) : (setIsthMod s k m x).pending = s.pending := rfl
@[simp] theorem setIsthMod_cores (s : State) (k m : Nat) (x : IsthModule) : (setIsthMod s k m x).cores = s.cores := rfl
@[simp] theorem setIsthMod_adds (s : State) (k m : Nat) (x : IsthModule) : (setIsthMod s k m x).adds = s.adds := rfl
@[simp] theorem setIsthMod_bars (s : State) (k m : Nat) (x : IsthModule) : (setIsthMod s k m x).bars = s.bars := rfl
@[simp] theorem setIsthMod_memory (s : State) (k m : Nat) (x : IsthModule) : (setIsthMod s k m x).memory = s.memory := rfl
@[simp] theorem setIsthMod_reduction (s : State) (k m : Nat) (x : IsthModule) : (setIsthMod s k m x).reduction = s.reduction := rfl
@[simp] theorem setIsthMod_straits (s : State) (k m : Nat) (x : IsthModule) : (setIsthMod s k m x).straits = s.straits := rfl
@[simp] theorem setIsthMod_tide (s : State) (k m : Nat) (x : IsthModule) : (setIsthMod s k m x).tide = s.tide := rfl
@[simp] theorem setIsthMod_job (s : State) (k m : Nat) (x : IsthModule) : (setIsthMod s k m x).job = s.job := rfl
@[simp] theorem setIsthMod_commit (s : State) (k m : Nat) (x : IsthModule) : (setIsthMod s k m x).commit = s.commit := rfl
@[simp] theorem setIsthMod_power (s : State) (k m : Nat) (x : IsthModule) : (setIsthMod s k m x).power = s.power := rfl
@[simp] theorem setIsthMod_meter (s : State) (k m : Nat) (x : IsthModule) : (setIsthMod s k m x).meter = s.meter := rfl
@[simp] theorem setIsthMod_control (s : State) (k m : Nat) (x : IsthModule) : (setIsthMod s k m x).control = s.control := rfl
@[simp] theorem setIsthMod_boot (s : State) (k m : Nat) (x : IsthModule) : (setIsthMod s k m x).boot = s.boot := rfl
@[simp] theorem setIsthMod_sent (s : State) (k m : Nat) (x : IsthModule) : (setIsthMod s k m x).sent = s.sent := rfl
@[simp] theorem setIsthMod_rdata (s : State) (k m : Nat) (x : IsthModule) : (setIsthMod s k m x).rdata = s.rdata := rfl
@[simp] theorem setIsthMod_freeCtr (s : State) (k m : Nat) (x : IsthModule) : (setIsthMod s k m x).freeCtr = s.freeCtr := rfl
@[simp] theorem setIsthMod_tap (s : State) (k m : Nat) (x : IsthModule) : (setIsthMod s k m x).tap = s.tap := rfl

@[simp] theorem setLink_pending (s : State) (k v : Nat) : (setLink s k v).pending = s.pending := rfl
@[simp] theorem setLink_cores (s : State) (k v : Nat) : (setLink s k v).cores = s.cores := rfl
@[simp] theorem setLink_adds (s : State) (k v : Nat) : (setLink s k v).adds = s.adds := rfl
@[simp] theorem setLink_bars (s : State) (k v : Nat) : (setLink s k v).bars = s.bars := rfl
@[simp] theorem setLink_memory (s : State) (k v : Nat) : (setLink s k v).memory = s.memory := rfl
@[simp] theorem setLink_reduction (s : State) (k v : Nat) : (setLink s k v).reduction = s.reduction := rfl
@[simp] theorem setLink_straits (s : State) (k v : Nat) : (setLink s k v).straits = s.straits := rfl
@[simp] theorem setLink_tide (s : State) (k v : Nat) : (setLink s k v).tide = s.tide := rfl
@[simp] theorem setLink_job (s : State) (k v : Nat) : (setLink s k v).job = s.job := rfl
@[simp] theorem setLink_commit (s : State) (k v : Nat) : (setLink s k v).commit = s.commit := rfl
@[simp] theorem setLink_power (s : State) (k v : Nat) : (setLink s k v).power = s.power := rfl
@[simp] theorem setLink_meter (s : State) (k v : Nat) : (setLink s k v).meter = s.meter := rfl
@[simp] theorem setLink_control (s : State) (k v : Nat) : (setLink s k v).control = s.control := rfl
@[simp] theorem setLink_boot (s : State) (k v : Nat) : (setLink s k v).boot = s.boot := rfl
@[simp] theorem setLink_sent (s : State) (k v : Nat) : (setLink s k v).sent = s.sent := rfl
@[simp] theorem setLink_rdata (s : State) (k v : Nat) : (setLink s k v).rdata = s.rdata := rfl
@[simp] theorem setLink_freeCtr (s : State) (k v : Nat) : (setLink s k v).freeCtr = s.freeCtr := rfl
@[simp] theorem setLink_tap (s : State) (k v : Nat) : (setLink s k v).tap = s.tap := rfl

@[simp] theorem putUse_pending (s : State) (x : PodUse) : (putUse s x).pending = s.pending := rfl
@[simp] theorem putUse_cores (s : State) (x : PodUse) : (putUse s x).cores = s.cores := rfl
@[simp] theorem putUse_adds (s : State) (x : PodUse) : (putUse s x).adds = s.adds := rfl
@[simp] theorem putUse_bars (s : State) (x : PodUse) : (putUse s x).bars = s.bars := rfl
@[simp] theorem putUse_isth (s : State) (x : PodUse) : (putUse s x).isth = s.isth := rfl
@[simp] theorem putUse_memory (s : State) (x : PodUse) : (putUse s x).memory = s.memory := rfl
@[simp] theorem putUse_reduction (s : State) (x : PodUse) : (putUse s x).reduction = s.reduction := rfl
@[simp] theorem putUse_straits (s : State) (x : PodUse) : (putUse s x).straits = s.straits := rfl
@[simp] theorem putUse_job (s : State) (x : PodUse) : (putUse s x).job = s.job := rfl
@[simp] theorem putUse_commit (s : State) (x : PodUse) : (putUse s x).commit = s.commit := rfl
@[simp] theorem putUse_power (s : State) (x : PodUse) : (putUse s x).power = s.power := rfl
@[simp] theorem putUse_meter (s : State) (x : PodUse) : (putUse s x).meter = s.meter := rfl
@[simp] theorem putUse_control (s : State) (x : PodUse) : (putUse s x).control = s.control := rfl
@[simp] theorem putUse_boot (s : State) (x : PodUse) : (putUse s x).boot = s.boot := rfl
@[simp] theorem putUse_sent (s : State) (x : PodUse) : (putUse s x).sent = s.sent := rfl
@[simp] theorem putUse_rdata (s : State) (x : PodUse) : (putUse s x).rdata = s.rdata := rfl
@[simp] theorem putUse_freeCtr (s : State) (x : PodUse) : (putUse s x).freeCtr = s.freeCtr := rfl
@[simp] theorem putUse_tap (s : State) (x : PodUse) : (putUse s x).tap = s.tap := rfl

@[simp] theorem putCount_pending (s : State) (x : PodCount) : (putCount s x).pending = s.pending := rfl
@[simp] theorem putCount_cores (s : State) (x : PodCount) : (putCount s x).cores = s.cores := rfl
@[simp] theorem putCount_adds (s : State) (x : PodCount) : (putCount s x).adds = s.adds := rfl
@[simp] theorem putCount_bars (s : State) (x : PodCount) : (putCount s x).bars = s.bars := rfl
@[simp] theorem putCount_isth (s : State) (x : PodCount) : (putCount s x).isth = s.isth := rfl
@[simp] theorem putCount_memory (s : State) (x : PodCount) : (putCount s x).memory = s.memory := rfl
@[simp] theorem putCount_reduction (s : State) (x : PodCount) : (putCount s x).reduction = s.reduction := rfl
@[simp] theorem putCount_straits (s : State) (x : PodCount) : (putCount s x).straits = s.straits := rfl
@[simp] theorem putCount_job (s : State) (x : PodCount) : (putCount s x).job = s.job := rfl
@[simp] theorem putCount_commit (s : State) (x : PodCount) : (putCount s x).commit = s.commit := rfl
@[simp] theorem putCount_power (s : State) (x : PodCount) : (putCount s x).power = s.power := rfl
@[simp] theorem putCount_meter (s : State) (x : PodCount) : (putCount s x).meter = s.meter := rfl
@[simp] theorem putCount_control (s : State) (x : PodCount) : (putCount s x).control = s.control := rfl
@[simp] theorem putCount_boot (s : State) (x : PodCount) : (putCount s x).boot = s.boot := rfl
@[simp] theorem putCount_sent (s : State) (x : PodCount) : (putCount s x).sent = s.sent := rfl
@[simp] theorem putCount_rdata (s : State) (x : PodCount) : (putCount s x).rdata = s.rdata := rfl
@[simp] theorem putCount_freeCtr (s : State) (x : PodCount) : (putCount s x).freeCtr = s.freeCtr := rfl
@[simp] theorem putCount_tap (s : State) (x : PodCount) : (putCount s x).tap = s.tap := rfl

/-! Reads after updates. -/

@[simp] theorem coreOf_setCore_self (s : State) (c : Nat) (k : Core) : coreOf (setCore s c k) c = k := by simp [coreOf, setCore]

theorem coreOf_setCore_ne (s : State) {c x : Nat} (k : Core) (h : x ≠ c) : coreOf (setCore s c k) x = coreOf s x := by
  simp [coreOf, setCore, tblGet_set, h]

@[simp] theorem coreOf_modCore_self (s : State) (c : Nat) (f : Core → Core) : coreOf (modCore s c f) c = f (coreOf s c) := by
  simp [modCore]

theorem coreOf_modCore_ne (s : State) {c x : Nat} (f : Core → Core) (h : x ≠ c) : coreOf (modCore s c f) x = coreOf s x :=
  coreOf_setCore_ne s _ h

@[simp] theorem stackOf_modStack_self (s : State) (i : Nat) (f : Stack → Stack) : stackOf (modStack s i f) i = f (stackOf s i) := by
  simp [stackOf, modStack]

theorem stackOf_modStack_ne (s : State) {i j : Nat} (f : Stack → Stack) (h : j ≠ i) : stackOf (modStack s i f) j = stackOf s j := by
  simp [stackOf, modStack, tblGet_mod_ne _ _ _ h]

@[simp] theorem portOf_modPort_self (s : State) (p : Nat) (f : Port → Port) : portOf (modPort s p f) p = f (portOf s p) := by
  simp [portOf, modPort]

theorem portOf_modPort_ne (s : State) {p q : Nat} (f : Port → Port) (h : q ≠ p) : portOf (modPort s p f) q = portOf s q := by
  simp [portOf, modPort, tblGet_mod_ne _ _ _ h]

@[simp] theorem flowOf_setFlow_self (s : State) (f : Nat) (d : Line) : flowOf (setFlow s f d) f = d := by simp [flowOf, setFlow]

theorem flowOf_setFlow_ne (s : State) {f g : Nat} (d : Line) (h : g ≠ f) : flowOf (setFlow s f d) g = flowOf s g := by
  simp [flowOf, setFlow, tblGet_set, h]

@[simp] theorem rtOf_modRt_self (s : State) (f : Nat) (g : FlowRt → FlowRt) : rtOf (modRt s f g) f = g (rtOf s f) := by
  simp [rtOf, modRt]

theorem rtOf_modRt_ne (s : State) {f h : Nat} (g : FlowRt → FlowRt) (n : h ≠ f) : rtOf (modRt s f g) h = rtOf s h := by
  simp [rtOf, modRt, tblGet_mod_ne _ _ _ n]

@[simp] theorem sessionOf_modSession_self (s : State) (k : Nat) (g : Session → Session) :
    sessionOf (modSession s k g) k = g (sessionOf s k) := by simp [sessionOf, modSession]

theorem sessionOf_modSession_ne (s : State) {k j : Nat} (g : Session → Session) (n : j ≠ k) :
    sessionOf (modSession s k g) j = sessionOf s j := by simp [sessionOf, modSession, tblGet_mod_ne _ _ _ n]

@[simp] theorem boxOf_modBox_self (s : State) (m : Nat) (g : Mailbox → Mailbox) : boxOf (modBox s m g) m = g (boxOf s m) := by
  simp [boxOf, modBox]

theorem boxOf_modBox_ne (s : State) {m n : Nat} (g : Mailbox → Mailbox) (h : n ≠ m) : boxOf (modBox s m g) n = boxOf s n := by
  simp [boxOf, modBox, tblGet_mod_ne _ _ _ h]

@[simp] theorem semGet_semPut_self (k : Core) (n v : Nat) : semGet (semPut k n v) n = v := by simp [semGet, semPut]

theorem semGet_semPut_ne (k : Core) {n m : Nat} (v : Nat) (h : m ≠ n) : semGet (semPut k n v) m = semGet k m := by
  simp [semGet, semPut, tblGet_set, h]

@[simp] theorem engineOf_setEngine_self (k : Core) (e : Nat) (g : Engine) : engineOf (setEngine k e g) e = g := by
  simp [engineOf, setEngine]

theorem engineOf_setEngine_ne (k : Core) {e f : Nat} (g : Engine) (h : f ≠ e) : engineOf (setEngine k e g) f = engineOf k f := by
  simp [engineOf, setEngine, tblGet_set, h]

@[simp] theorem atTide_now (s : State) (now : Nat) : (atTide s now).tide.now = max s.tide.now now := rfl

/-- An event that comes about answers its effect. -/
@[simp] theorem when_true (s t : State) : when true s t = .next t := rfl

@[simp] theorem when_false (s t : State) : when false s t = .next s := rfl

/-- Whether or not it comes about, an event answers a state. -/
theorem when_next (g : Bool) (s t : State) : when g s t = .next (if g then t else s) := rfl

end Sys2Proof.Machine
end

