-- ==== Sys2Proof/Laws/Memory.lean ====
section
/-! SUPPORT. What the operations on package memory and on the accumulation caches do to the state (07): a read changes counters and
reports alone, a write changes its own bytes alone, and every one keeps the canonical form of memory. -/

namespace Sys2Proof.Machine

open Sys2Proof

/-! Reports of an error: an event register, a step fault. -/

/-- A state that differs only by reports: pending vectors, SUP_EVENT, the faults of steps, the outputs. -/
def ReportSame (s t : State) : Prop :=
  { t with commit := { t.commit with faults := s.commit.faults, armFaults := s.commit.armFaults },
           control := { t.control with supEvent := s.control.supEvent, pba := s.control.pba }, sent := s.sent } = s

theorem ReportSame.refl (s : State) : ReportSame s s := rfl

theorem ReportSame.trans {a b c : State} (h1 : ReportSame a b) (h2 : ReportSame b c) : ReportSame a c := by
  unfold ReportSame at *
  refine Eq.trans ?_ h1
  rw [← h2]

theorem fire_report (s : State) (v : Nat) : ReportSame s (fire s v) := by
  unfold fire emit ReportSame
  split <;> rfl

theorem fireOnRise_report (s : State) (v : Nat) (a b : Reg) : ReportSame s (fireOnRise s v a b) := by
  unfold fireOnRise
  split
  · exact .refl s
  · exact fire_report s v

theorem setSupEvent_report (s : State) (b : Nat) : ReportSame s (setSupEvent s b) := by
  have h : ReportSame s { s with control := { s.control with supEvent := s.control.supEvent ||| (1#32 <<< b) } } := rfl
  exact h.trans (fireOnRise_report _ _ _ _)

theorem markFault_report (s : State) (n b : Nat) : ReportSame s (markFault s n b) := rfl

theorem faultArmed_report (s : State) (b : Nat) : ReportSame s (faultArmed s b) := by
  unfold faultArmed
  split
  · rfl
  · exact .refl s

theorem faultAt_report (s : State) (n b : Nat) : ReportSame s (faultAt s n b) := by
  unfold faultAt
  split
  · exact markFault_report _ _ _
  · exact faultArmed_report _ _

theorem markFaults_report (b : Nat) : ∀ (l : List Nat) (s : State), ReportSame s (l.foldl (fun t k => markFault t k b) s)
  | [], s => .refl s
  | k :: l, s => (markFault_report s k b).trans (markFaults_report b l _)

theorem faultNow_report (s : State) (b : Nat) : ReportSame s (faultNow s b) := by
  unfold faultNow
  split
  · exact markFaults_report _ _ _
  · exact faultArmed_report _ _

theorem memFault_report (s : State) : ∀ r, ReportSame s (memFault s r)
  | .package => faultNow_report s 1
  | .host => .refl s
  | .step n => faultAt_report s n 1

/-! Reads. -/

/-- A state that differs only by what a read of memory changes: reports, counters of stacks, lines to write back. -/
def ReadSame (s t : State) : Prop :=
  ReportSame s { t with memory := { t.memory with stack := s.memory.stack, writeBack := s.memory.writeBack } } ∧
    ∀ i, (stackOf t i).state = (stackOf s i).state

theorem ReadSame.refl (s : State) : ReadSame s s := ⟨rfl, fun _ => rfl⟩

theorem ReadSame.trans {a b c : State} (h1 : ReadSame a b) (h2 : ReadSame b c) : ReadSame a c := by
  refine ⟨?_, fun i => (h2.2 i).trans (h1.2 i)⟩
  have e1 := h1.1
  have e2 := h2.1
  unfold ReportSame at *
  refine Eq.trans ?_ e1
  rw [← e2]

theorem ReadSame.of_report {s t : State} (h : ReportSame s t) : ReadSame s t := by
  have hm : t.memory = s.memory := by have e := congrArg State.memory h; exact e
  refine ⟨?_, fun i => by unfold stackOf; rw [hm]⟩
  rw [← hm]
  exact h

theorem ReadSame.data {s t : State} (h : ReadSame s t) : t.memory.data = s.memory.data := by
  have e := congrArg (fun x : State => x.memory.data) h.1; exact e
theorem ReadSame.upset {s t : State} (h : ReadSame s t) : t.memory.upset = s.memory.upset := by
  have e := congrArg (fun x : State => x.memory.upset) h.1; exact e
theorem ReadSame.acc {s t : State} (h : ReadSame s t) : t.memory.acc = s.memory.acc := by
  have e := congrArg (fun x : State => x.memory.acc) h.1; exact e
theorem ReadSame.cores {s t : State} (h : ReadSame s t) : t.cores = s.cores := by
  have e := congrArg State.cores h.1; exact e
theorem ReadSame.power {s t : State} (h : ReadSame s t) : t.power = s.power := by
  have e := congrArg State.power h.1; exact e
theorem ReadSame.boot {s t : State} (h : ReadSame s t) : t.boot = s.boot := by
  have e := congrArg State.boot h.1; exact e
theorem ReadSame.straits {s t : State} (h : ReadSame s t) : t.straits = s.straits := by
  have e := congrArg State.straits h.1; exact e
theorem ReadSame.tide {s t : State} (h : ReadSame s t) : t.tide = s.tide := by
  have e := congrArg State.tide h.1; exact e
theorem ReadSame.job {s t : State} (h : ReadSame s t) : t.job = s.job := by
  have e := congrArg State.job h.1; exact e
theorem ReadSame.pending {s t : State} (h : ReadSame s t) : t.pending = s.pending := by
  have e := congrArg State.pending h.1; exact e
theorem ReadSame.wf {s t : State} (h : ReadSame s t) : t.memory.wf = s.memory.wf := by
  unfold Memory.wf; rw [h.data, h.acc]

theorem modStack_read (s : State) (i : Nat) (f : Stack → Stack) (h : ∀ k, (f k).state = k.state) : ReadSame s (modStack s i f) := by
  refine ⟨rfl, fun j => ?_⟩
  unfold stackOf modStack
  by_cases e : j = i
  · rw [e, tblGet_mod_self, h]
  · rw [tblGet_mod_ne _ _ _ e]

theorem countUe_read (s : State) (p : Nat) (r : Reader) : ReadSame s (countUe s p r) := by
  have h : ReadSame s (modStack s (stackIdx p) fun k => { k with ue := sat32 (k.ue + 1), ueAddr := p, ueValid := true }) :=
    modStack_read s (stackIdx p) _ fun _ => rfl
  exact h.trans (.of_report ((memFault_report _ _).trans (setSupEvent_report _ _)))

theorem readLine_read (s : State) (p : Nat) (r : Reader) : ReadSame s (readLine s p r).1 := by
  unfold readLine
  split
  · exact countUe_read s p r
  · split
    next bs ce ue _ =>
    split
    · exact countUe_read s p r
    · split
      · have h : ReadSame s (modStack s (stackIdx p) fun k => { k with ce := sat32 (k.ce + 1) }) := modStack_read s _ _ fun _ => rfl
        exact h.trans ⟨rfl, fun _ => rfl⟩
      · exact .refl s

theorem readLines_read (r : Reader) : ∀ (n : Nat) (s : State) (p : Nat), ReadSame s (readLines s p n r).1
  | 0, s, _ => .refl s
  | n + 1, s, p => (readLine_read s p r).trans (readLines_read r n _ _)

theorem readRange_read (s : State) (p n : Nat) (r : Reader) : ReadSame s (readRange s p n r).1 := readLines_read r _ _ _

/-- Memory without errors reads as it holds, and nothing changes. -/
theorem readLine_clean {s : State} (h : CleanMemory s) (p : Nat) (r : Reader) : readLine s p r = (s, memRead s.memory.data p 64) := by
  unfold readLine
  rw [if_neg (h.2 _), h.1]
  rfl

theorem memRead_length (m : Mem) (a n : Nat) : (memRead m a n).length = n := by simp [memRead, span]

theorem memRead_append (m : Mem) (a i j : Nat) : memRead m a i ++ memRead m (a + i) j = memRead m a (i + j) := by
  unfold memRead span
  simp only [List.map_map]
  rw [List.range_add, List.map_append, List.map_map]
  congr 1
  refine List.map_congr_left fun x _ => ?_
  simp [Nat.add_assoc]

theorem readLines_clean {s : State} (h : CleanMemory s) (r : Reader) : ∀ (n p : Nat),
    readLines s p n r = (s, memRead s.memory.data p (64 * n))
  | 0, _ => rfl
  | n + 1, p => by
    unfold readLines
    simp only [readLine_clean h, readLines_clean h r n]
    rw [memRead_append]
    congr 2
    omega

theorem memRead_getElem? (m : Mem) (a n i : Nat) : (memRead m a n)[i]? = if i < n then some (memGet m (a + i)) else none := by
  unfold memRead span
  by_cases h : i < n
  · simp [h]
  · simp [h]

theorem memRead_getD (m : Mem) (a n i : Nat) (h : i < n) (d : Byte) : (memRead m a n).getD i d = memGet m (a + i) := by
  rw [List.getD_eq_getElem?_getD, memRead_getElem?, if_pos h]; rfl

/-- A piece of what was read. -/
theorem memRead_drop_take (m : Mem) (a n i j : Nat) (h : i + j ≤ n) : ((memRead m a n).drop i).take j = memRead m (a + i) j := by
  refine List.ext_getElem? fun k => ?_
  rw [List.getElem?_take, memRead_getElem?]
  split
  · rw [List.getElem?_drop, memRead_getElem?, if_pos (by omega), Nat.add_assoc]
  · rfl

theorem readRange_clean {s : State} (h : CleanMemory s) (p n : Nat) (r : Reader) : readRange s p n r = (s, memRead s.memory.data p n) := by
  unfold readRange
  simp only [readLines_clean h]
  have : p - p / 64 * 64 + n ≤ 64 * cdiv (p + n - p / 64 * 64) 64 := by unfold cdiv; omega
  rw [memRead_drop_take _ _ _ _ _ this]
  congr 2
  omega

/-! Writes. -/

/-- A state that differs only by what a write of these ranges changes: the ranges' bytes, errors and write-backs, digests, and what a
read changes. -/
def WriteSame (s t : State) (rs : List Range) : Prop :=
  ReadSame s { t with memory := { t.memory with data := s.memory.data, upset := s.memory.upset, digests := s.memory.digests } } ∧
    MemSame s t rs ∧ (memWf s.memory.data = true → memWf t.memory.data = true)

theorem memSame_refl (s : State) (rs : List Range) : MemSame s s rs := fun _ _ => rfl

theorem memSame_of_data {s t : State} (h : t.memory.data = s.memory.data) (rs : List Range) : MemSame s t rs := fun a _ => by rw [h]

theorem WriteSame.of_read {s t : State} (h : ReadSame s t) (rs : List Range) : WriteSame s t rs := by
  refine ⟨?_, memSame_of_data h.data rs, fun hw => by rw [h.data]; exact hw⟩
  have h1 := h.data
  have h2 := h.upset
  have h3 : t.memory.digests = s.memory.digests := by have e := congrArg (fun x : State => x.memory.digests) h.1; exact e
  rw [← h1, ← h2, ← h3]
  exact h

theorem WriteSame.refl (s : State) (rs : List Range) : WriteSame s s rs := .of_read (.refl s) rs

theorem WriteSame.trans {a b c : State} {xs ys : List Range} (h1 : WriteSame a b xs) (h2 : WriteSame b c ys) :
    WriteSame a c (xs ++ ys) := by
  refine ⟨?_, fun x hx => ?_, fun h => h2.2.2 (h1.2.2 h)⟩
  · refine ⟨?_, fun i => (h2.1.2 i).trans (h1.1.2 i)⟩
    have e1 := h1.1.1
    have e2 := h2.1.1
    unfold ReportSame at *
    refine Eq.trans ?_ e1
    rw [← e2]
  · rw [h2.2.1 x fun r hr => hx r (List.mem_append_right _ hr), h1.2.1 x fun r hr => hx r (List.mem_append_left _ hr)]

theorem WriteSame.mono {s t : State} {xs ys : List Range} (h : WriteSame s t xs)
    (hs : ∀ r ∈ xs, ∀ a, r.1 ≤ a → a < r.1 + r.2 → ∃ q ∈ ys, q.1 ≤ a ∧ a < q.1 + q.2) : WriteSame s t ys := by
  refine ⟨h.1, fun a ha => h.2.1 a fun r hr hc => ?_, h.2.2⟩
  obtain ⟨q, hq, h1, h2⟩ := hs r hr a hc.1 hc.2
  exact ha q hq ⟨h1, h2⟩

theorem WriteSame.cores {s t : State} {rs : List Range} (h : WriteSame s t rs) : t.cores = s.cores := h.1.cores
theorem WriteSame.state {s t : State} {rs : List Range} (h : WriteSame s t rs) (i : Nat) :
    (stackOf t i).state = (stackOf s i).state := h.1.2 i
theorem WriteSame.acc {s t : State} {rs : List Range} (h : WriteSame s t rs) : t.memory.acc = s.memory.acc := h.1.acc
theorem WriteSame.wf {s t : State} {rs : List Range} (h : WriteSame s t rs) (hw : s.memory.wf = true) : t.memory.wf = true := by
  unfold Memory.wf at *
  rw [h.acc]
  simp at *
  exact ⟨h.2.2 hw.1, hw.2⟩

/-- What a line write leaves beside data: the digests alone change (R225). -/
theorem digestLine_eq (m : Memory) (p : Nat) (bs : List Byte) : ∃ ds, digestLine m p bs = { m with digests := ds } := by
  unfold digestLine
  dsimp only
  split
  · exact ⟨m.digests, rfl⟩
  · exact ⟨_, rfl⟩

/-- A line write is a write of its 64 bytes; on a working stack they read as written. -/
theorem writeLine_eq (s : State) (p : Nat) (bs : List Byte) (counted : Bool) : ∃ ds, writeLine s p bs counted =
    { s with memory := if (stackOf s (stackIdx p)).state = 2 then { s.memory with digests := ds }
      else putLine { s.memory with digests := ds } p bs } := by
  unfold writeLine
  cases counted
  · exact ⟨s.memory.digests, rfl⟩
  · obtain ⟨ds, h⟩ := digestLine_eq s.memory p bs
    refine ⟨ds, ?_⟩
    simp only [h, if_true]

theorem writeLine_write (s : State) (p : Nat) (bs : List Byte) (counted : Bool) (h : bs.length ≤ 64) :
    WriteSame s (writeLine s p bs counted) [(p, 64)] := by
  obtain ⟨ds, e⟩ := writeLine_eq s p bs counted
  rw [e]
  split
  · exact ⟨⟨rfl, fun _ => rfl⟩, fun _ _ => rfl, id⟩
  · refine ⟨⟨rfl, fun _ => rfl⟩, fun a ha => ?_, fun hw => memWf_memWrite _ _ _ hw⟩
    refine memGet_memWrite_out _ _ _ _ ?_
    have := ha (p, 64) (by simp)
    simp at this
    omega

theorem writeLine_byte (s : State) (p : Nat) (bs : List Byte) (counted : Bool) (hs : (stackOf s (stackIdx p)).state ≠ 2) (i : Nat)
    (h : i < bs.length) : memGet (writeLine s p bs counted).memory.data (p + i) = bs.getD i 0 := by
  obtain ⟨ds, e⟩ := writeLine_eq s p bs counted
  rw [e, if_neg hs]
  exact memGet_memWrite_in _ _ _ _ h

/-! Writes of several lines. -/

theorem chunks_length {n : Nat} : ∀ (fuel : Nat) (bs c : List Byte), c ∈ chunks n fuel bs → c.length ≤ n
  | 0, _, _, h => by simp [chunks] at h
  | fuel + 1, bs, c, h => by
    unfold chunks at h
    split at h
    · simp at h
    · rcases List.mem_cons.1 h with h | h
      · rw [h]; exact List.length_take_le _ _
      · exact chunks_length fuel _ c h

theorem chunks_getElem? {n : Nat} (hn : 0 < n) : ∀ (fuel : Nat) (bs : List Byte) (i : Nat), bs.length < fuel →
    (chunks n fuel bs)[i]? = if n * i < bs.length then some ((bs.drop (n * i)).take n) else none
  | 0, _, _, h => by omega
  | fuel + 1, bs, i, h => by
    unfold chunks
    by_cases hb : bs = []
    · simp [hb]
    · have hl : 0 < bs.length := List.length_pos_of_ne_nil hb
      rw [if_neg (by simpa using hb)]
      cases i with
      | zero => simp [hl]
      | succ i =>
        rw [List.getElem?_cons_succ, chunks_getElem? hn fuel _ i (by simp; omega)]
        rw [List.length_drop, List.drop_drop]
        have e : n + n * i = n * (i + 1) := by rw [Nat.mul_succ]; omega
        rw [e]
        by_cases hx : n * (i + 1) < bs.length
        · rw [if_pos hx, if_pos (by omega)]
        · rw [if_neg hx, if_neg (by omega)]

theorem padTo_length_le (bs : List Byte) (h : bs.length ≤ 64) : (padTo 64 bs).length ≤ 64 := by
  unfold padTo; simp; omega

theorem writeLines_fold (p : Nat) (counted : Bool) : ∀ (cs : List (List Byte)) (j m : Nat) (s : State), (∀ c ∈ cs, c.length ≤ 64) →
    WriteSame s ((cs.zip (List.range' j m)).foldl (fun s l => writeLine s (p + 64 * l.2) (padTo 64 l.1) counted) s)
      [(p + 64 * j, 64 * cs.length)]
  | [], _, _, s, _ => .refl s _
  | _ :: _, _, 0, s, _ => .refl s _
  | c :: cs, j, m + 1, s, h => by
    rw [List.range'_succ, List.zip_cons_cons, List.foldl_cons]
    have h1 := writeLine_write s (p + 64 * j) (padTo 64 c) counted (padTo_length_le c (h c (by simp)))
    have h2 := writeLines_fold p counted cs (j + 1) m (writeLine s (p + 64 * j) (padTo 64 c) counted) fun c hc => h c (by simp [hc])
    refine (h1.trans h2).mono fun r hr a ha hb => ⟨_, List.mem_singleton.2 rfl, ?_⟩
    simp at hr
    rcases hr with rfl | rfl <;> simp at * <;> omega

/-- A write of lines changes the bytes of its lines alone. -/
theorem writeLines_write (s : State) (p : Nat) (bs : List Byte) (counted : Bool) :
    WriteSame s (writeLines s p bs counted) [(p, 64 * cdiv bs.length 64)] := by
  have h := writeLines_fold p counted (chunks 64 (bs.length + 1) bs) 0 (bs.length + 1) s fun c hc => chunks_length _ _ _ hc
  rw [← List.range_eq_range'] at h
  refine h.mono fun r hr a ha hb => ⟨_, List.mem_singleton.2 rfl, ?_⟩
  have hl : (chunks 64 (bs.length + 1) bs).length ≤ cdiv bs.length 64 := by
    refine Nat.le_of_not_lt fun hc => ?_
    have := chunks_getElem? (n := 64) (by omega) (bs.length + 1) bs (cdiv bs.length 64) (by omega)
    rw [if_neg (by unfold cdiv; omega)] at this
    rw [List.getElem?_eq_none_iff] at this
    omega
  simp at hr
  subst hr
  simp at *
  omega

theorem writeLines_fold_byte (p : Nat) (counted : Bool) : ∀ (cs : List (List Byte)) (j m : Nat) (s : State), (∀ c ∈ cs, c.length = 64) →
    cs.length ≤ m → (∀ i, (stackOf s i).state ≠ 2) → ∀ k c i, cs[k]? = some c → i < 64 →
    memGet ((cs.zip (List.range' j m)).foldl (fun s l => writeLine s (p + 64 * l.2) (padTo 64 l.1) counted) s).memory.data
      (p + 64 * (j + k) + i) = c.getD i 0
  | [], _, _, _, _, _, _, _, _, _, hk, _ => by simp at hk
  | _ :: _, _, 0, _, _, hm, _, _, _, _, _, _ => by simp at hm
  | c :: cs, j, m + 1, s, h, hm, hs, k, c', i, hk, hi => by
    rw [List.range'_succ, List.zip_cons_cons, List.foldl_cons]
    have hc : c.length = 64 := h c (by simp)
    have hp : padTo 64 c = c := by unfold padTo; simp [hc]
    have w := writeLine_write s (p + 64 * j) (padTo 64 c) counted (by rw [hp, hc])
    cases k with
    | zero =>
      have e : c = c' := by simpa using hk
      have w2 := writeLines_fold p counted cs (j + 1) m (writeLine s (p + 64 * j) (padTo 64 c) counted) fun c hc => by
        rw [h c (by simp [hc])]
      rw [w2.2.1 _ fun r hr => by simp at hr; subst hr; simp; omega]
      rw [hp, Nat.add_zero, writeLine_byte _ _ _ _ (hs _) _ (by omega), e]
    | succ k =>
      have := writeLines_fold_byte p counted cs (j + 1) m (writeLine s (p + 64 * j) (padTo 64 c) counted)
        (fun c hc => h c (by simp [hc])) (by simpa using hm) (fun i => by rw [w.state]; exact hs i) k c' i (by simpa using hk) hi
      rw [← this]
      congr 1
      omega

/-- With no failed stack, the bytes of whole lines read as written. -/
theorem writeLines_byte (s : State) (p : Nat) (bs : List Byte) (counted : Bool) (hs : ∀ i, (stackOf s i).state ≠ 2)
    (hb : bs.length % 64 = 0) (i : Nat) (hi : i < bs.length) :
    memGet (writeLines s p bs counted).memory.data (p + i) = bs.getD i 0 := by
  have hg := chunks_getElem? (n := 64) (by omega) (bs.length + 1) bs (i / 64) (by omega)
  rw [if_pos (by omega)] at hg
  have hall : ∀ c ∈ chunks 64 (bs.length + 1) bs, c.length = 64 := by
    intro c hc
    obtain ⟨k, hk⟩ := List.mem_iff_getElem?.1 hc
    rw [chunks_getElem? (by omega) _ _ _ (by omega)] at hk
    split at hk
    · simp at hk; rw [← hk]; simp; omega
    · simp at hk
  have hl : (chunks 64 (bs.length + 1) bs).length ≤ bs.length + 1 := by
    refine Nat.le_of_not_lt fun hc => ?_
    have := chunks_getElem? (n := 64) (by omega) (bs.length + 1) bs (bs.length + 1) (by omega)
    rw [if_neg (by omega), List.getElem?_eq_none_iff] at this
    omega
  have := writeLines_fold_byte p counted _ 0 (bs.length + 1) s hall hl hs (i / 64) _ (i % 64) hg (by omega)
  rw [← List.range_eq_range'] at this
  have e : p + 64 * (0 + i / 64) + i % 64 = p + i := by omega
  rw [e] at this
  unfold writeLines
  rw [this]
  simp only [List.getD_eq_getElem?_getD, List.getElem?_take, List.getElem?_drop]
  rw [if_pos (by omega)]
  congr 2
  omega

theorem readLine_length (s : State) (p : Nat) (r : Reader) : (readLine s p r).2.length = 64 := by
  unfold readLine
  split
  · simp
  · have hd : (decodeLine (memRead s.memory.data p 64) (tblGet [] s.memory.upset p)).1.length = 64 := by
      unfold decodeLine
      split
      · exact memRead_length _ _ _
      · split
        · exact memRead_length _ _ _
        · split
          · simp [withPattern, memRead_length]
          · split <;> simp [withPattern, memRead_length]
    split
    next bs ce ue h =>
    rw [h] at hd
    split
    · exact hd
    · split <;> exact hd

/-- A write of part of a line changes its line alone. -/
theorem mergeLine_write (s : State) (p : Nat) (bs : List Byte) (counted : Bool) (r : Reader) (h : p % 64 + bs.length ≤ 64) :
    WriteSame s (mergeLine s p bs counted r) [(p / 64 * 64, 64)] := by
  unfold mergeLine
  have hl := readLine_length s (p / 64 * 64) r
  have hr := readLine_read s (p / 64 * 64) r
  have := (WriteSame.of_read hr []).trans (writeLine_write (readLine s (p / 64 * 64) r).1 (p / 64 * 64)
    ((readLine s (p / 64 * 64) r).2.take (p - p / 64 * 64) ++ bs ++ (readLine s (p / 64 * 64) r).2.drop (p - p / 64 * 64 + bs.length))
    counted (by simp [hl]; omega))
  exact this

/-- In memory without errors it changes the bytes written alone, and they read as written. -/
theorem mergeLine_clean (s : State) (p : Nat) (bs : List Byte) (counted : Bool) (r : Reader) (h : p % 64 + bs.length ≤ 64)
    (hc : CleanMemory s) : WriteSame s (mergeLine s p bs counted r) [(p, bs.length)] ∧
      ∀ i < bs.length, memGet (mergeLine s p bs counted r).memory.data (p + i) = bs.getD i 0 := by
  have hw := mergeLine_write s p bs counted r h
  have key : ∀ i < 64, memGet (mergeLine s p bs counted r).memory.data (p / 64 * 64 + i) =
      if p % 64 ≤ i ∧ i < p % 64 + bs.length then bs.getD (i - p % 64) 0 else memGet s.memory.data (p / 64 * 64 + i) := by
    intro i hi
    have em : mergeLine s p bs counted r = writeLine s (p / 64 * 64) ((memRead s.memory.data (p / 64 * 64) 64).take (p - p / 64 * 64) ++
        bs ++ (memRead s.memory.data (p / 64 * 64) 64).drop (p - p / 64 * 64 + bs.length)) counted := by
      unfold mergeLine
      simp only [readLine_clean hc]
    rw [em]
    rw [writeLine_byte _ _ _ _ (hc.2 _) _ (by simp [memRead_length]; omega)]
    have e : p - p / 64 * 64 = p % 64 := by omega
    rw [e]
    simp only [List.getD_eq_getElem?_getD]
    by_cases h1 : i < p % 64
    · rw [if_neg (by omega), List.append_assoc, List.getElem?_append_left (by simp [memRead_length]; omega), List.getElem?_take,
        if_pos h1, memRead_getElem?, if_pos hi]
      rfl
    · by_cases h2 : i < p % 64 + bs.length
      · rw [if_pos (by omega), List.append_assoc, List.getElem?_append_right (by simp [memRead_length]; omega),
          List.getElem?_append_left (by simp [memRead_length]; omega)]
        simp only [List.length_take, memRead_length]
        congr 2
        omega
      · rw [if_neg (by omega), List.getElem?_append_right (by simp [memRead_length]; omega), List.getElem?_drop, memRead_getElem?]
        simp only [List.length_append, List.length_take, memRead_length]
        rw [if_pos (by omega)]
        simp only [Option.getD_some]
        congr 1
        omega
  refine ⟨⟨hw.1, fun a ha => ?_, hw.2.2⟩, fun i hi => ?_⟩
  · by_cases hin : p / 64 * 64 ≤ a ∧ a < p / 64 * 64 + 64
    · have := key (a - p / 64 * 64) (by omega)
      rw [if_neg] at this
      · have e : p / 64 * 64 + (a - p / 64 * 64) = a := by omega
        rw [e] at this
        exact this
      · have := ha (p, bs.length) (by simp)
        simp at this
        omega
    · exact hw.2.1 a fun r hr => by simp at hr; subst hr; exact hin
  · have := key (p % 64 + i) (by omega)
    rw [if_pos (by omega)] at this
    have e : p / 64 * 64 + (p % 64 + i) = p + i := by omega
    have e2 : p % 64 + i - p % 64 = i := by omega
    rw [e, e2] at this
    exact this

/-- Writes leave memory without errors as such. -/
theorem writeLine_keepsClean (s : State) (p : Nat) (bs : List Byte) (counted : Bool) (h : CleanMemory s) :
    CleanMemory (writeLine s p bs counted) := by
  obtain ⟨ds, e⟩ := writeLine_eq s p bs counted
  rw [e, if_neg (h.2 _)]
  refine ⟨?_, h.2⟩
  show tblErase s.memory.upset p = []
  rw [h.1]
  rfl

theorem writeLines_keepsClean (s : State) (p : Nat) (bs : List Byte) (counted : Bool) (h : CleanMemory s) :
    CleanMemory (writeLines s p bs counted) := by
  unfold writeLines
  generalize (chunks 64 (bs.length + 1) bs).zip (List.range (bs.length + 1)) = l
  induction l generalizing s with
  | nil => exact h
  | cons x l ih => exact ih _ (writeLine_keepsClean _ _ _ _ h)

theorem mergeLine_keepsClean (s : State) (p : Nat) (bs : List Byte) (counted : Bool) (r : Reader) (h : CleanMemory s) :
    CleanMemory (mergeLine s p bs counted r) := by
  unfold mergeLine
  simp only [readLine_clean h]
  exact writeLine_keepsClean _ _ _ _ h

theorem getD_take_drop (bs : List Byte) (i n j : Nat) (h : j < n) : ((bs.drop i).take n).getD j 0 = bs.getD (i + j) 0 := by
  simp [List.getD_eq_getElem?_getD, List.getElem?_drop, h]

/-- The middle of a write that begins at a line. -/
theorem writeLines_clean (s : State) (p : Nat) (bs : List Byte) (counted : Bool) (hb : bs.length % 64 = 0) (h : CleanMemory s) :
    WriteSame s (writeLines s p bs counted) [(p, bs.length)] ∧
      ∀ i < bs.length, memGet (writeLines s p bs counted).memory.data (p + i) = bs.getD i 0 := by
  refine ⟨?_, writeLines_byte s p bs counted h.2 hb⟩
  have := writeLines_write s p bs counted
  have e : 64 * cdiv bs.length 64 = bs.length := by unfold cdiv; omega
  rwa [e] at this

/-- A write of any range, in memory without errors: the bytes written read as written, the others as before (R194, R421). -/
theorem writeRange_clean (s : State) (p : Nat) (bs : List Byte) (counted : Bool) (r : Reader) (h : CleanMemory s) :
    WriteSame s (writeRange s p bs counted r) [(p, bs.length)] ∧
      (∀ i < bs.length, memGet (writeRange s p bs counted r).memory.data (p + i) = bs.getD i 0) ∧
      CleanMemory (writeRange s p bs counted r) := by
  obtain ⟨head, hh⟩ : ∃ n, n = min bs.length ((64 - p % 64) % 64) := ⟨_, rfl⟩
  obtain ⟨full, hf⟩ : ∃ n, n = (bs.length - head) / 64 * 64 := ⟨_, rfl⟩
  obtain ⟨a, ha⟩ : ∃ t, t = if head = 0 then s else mergeLine s p (bs.take head) counted r := ⟨_, rfl⟩
  have h1 : WriteSame s a [(p, head)] ∧ (∀ i < head, memGet a.memory.data (p + i) = bs.getD i 0) ∧ CleanMemory a := by
    by_cases h0 : head = 0
    · rw [ha, if_pos h0, h0]
      exact ⟨.refl s _, fun i hi => by omega, h⟩
    · rw [ha, if_neg h0]
      have hl : (bs.take head).length = head := by simp; omega
      have hm := mergeLine_clean s p (bs.take head) counted r (by rw [hl]; omega) h
      rw [hl] at hm
      refine ⟨hm.1, fun i hi => ?_, mergeLine_keepsClean _ _ _ _ _ h⟩
      rw [hm.2 i hi]
      simp [List.getD_eq_getElem?_getD, hi]
  obtain ⟨b, hb⟩ : ∃ t, t = writeLines a (p + head) ((bs.drop head).take full) counted := ⟨_, rfl⟩
  have hbl : ((bs.drop head).take full).length = full := by simp; omega
  have h2 : WriteSame a b [(p + head, full)] ∧ (∀ i < full, memGet b.memory.data (p + head + i) = bs.getD (head + i) 0) ∧
      CleanMemory b := by
    have hm := writeLines_clean a (p + head) ((bs.drop head).take full) counted (by rw [hbl]; omega) h1.2.2
    rw [hbl, ← hb] at hm
    refine ⟨hm.1, fun i hi => ?_, by rw [hb]; exact writeLines_keepsClean _ _ _ _ h1.2.2⟩
    rw [hm.2 i hi, getD_take_drop _ _ _ _ hi]
  have e : writeRange s p bs counted r = if (bs.drop (head + full)).isEmpty then b
      else mergeLine b (p + head + full) (bs.drop (head + full)) counted r := by
    unfold writeRange
    simp only [← hh, ← hf, ← ha, ← hb]
  rw [e]
  have tl : (bs.drop (head + full)).length = bs.length - (head + full) := by simp
  have h3 : let t := if (bs.drop (head + full)).isEmpty then b else mergeLine b (p + head + full) (bs.drop (head + full)) counted r
      WriteSame b t [(p + head + full, bs.length - (head + full))] ∧
      (∀ i < bs.length - (head + full), memGet t.memory.data (p + head + full + i) = bs.getD (head + full + i) 0) ∧ CleanMemory t := by
    intro t
    by_cases h0 : (bs.drop (head + full)).isEmpty = true
    · have hz : (bs.drop (head + full)).length = 0 := by rw [List.isEmpty_iff.1 h0]; rfl
      have ht : t = b := if_pos h0
      rw [ht]
      exact ⟨.refl b _, fun i hi => by omega, h2.2.2⟩
    · have ht : t = mergeLine b (p + head + full) (bs.drop (head + full)) counted r := if_neg h0
      have hnz : (bs.drop (head + full)).length ≠ 0 := fun hz => h0 (List.isEmpty_iff.2 (List.length_eq_zero_iff.1 hz))
      have hm := mergeLine_clean b (p + head + full) (bs.drop (head + full)) counted r (by omega) h2.2.2
      rw [tl, ← ht] at hm
      refine ⟨hm.1, fun i hi => ?_, by rw [ht]; exact mergeLine_keepsClean _ _ _ _ _ h2.2.2⟩
      rw [hm.2 i hi]
      simp [List.getD_eq_getElem?_getD, List.getElem?_drop]
  obtain ⟨c, hc⟩ : ∃ t, t = if (bs.drop (head + full)).isEmpty then b
      else mergeLine b (p + head + full) (bs.drop (head + full)) counted r := ⟨_, rfl⟩
  rw [← hc] at h3 ⊢
  have h3 : WriteSame b c [(p + head + full, bs.length - (head + full))] ∧
      (∀ i < bs.length - (head + full), memGet c.memory.data (p + head + full + i) = bs.getD (head + full + i) 0) ∧ CleanMemory c := h3
  refine ⟨((h1.1.trans h2.1).trans h3.1).mono fun r hr a h1 h2 => ⟨_, List.mem_singleton.2 rfl, ?_⟩, fun i hi => ?_, h3.2.2⟩
  · simp at hr
    rcases hr with rfl | rfl | rfl <;> simp at * <;> omega
  · by_cases hx : i < head
    · rw [h3.1.2.1 _ fun r hr => by simp at hr; subst hr; simp; omega, h2.1.2.1 _ fun r hr => by simp at hr; subst hr; simp; omega]
      exact h1.2.1 i hx
    · by_cases hy : i < head + full
      · rw [h3.1.2.1 _ fun r hr => by simp at hr; subst hr; simp; omega]
        have := h2.2.1 (i - head) (by omega)
        rw [show p + head + (i - head) = p + i by omega, show head + (i - head) = i by omega] at this
        exact this
      · have := h3.2.1 (i - (head + full)) (by omega)
        rw [show p + head + full + (i - (head + full)) = p + i by omega, show head + full + (i - (head + full)) = i by omega] at this
        exact this

/-! The canonical form. -/

/-- A write of any range keeps the canonical form (errors or not). -/
theorem wf_writeLine (s : State) (p : Nat) (bs : List Byte) (counted : Bool) (h : s.memory.wf = true) :
    (writeLine s p bs counted).memory.wf = true := by
  obtain ⟨ds, e⟩ := writeLine_eq s p bs counted
  rw [e]
  unfold Memory.wf at *
  simp only [Bool.and_eq_true] at *
  split
  · exact h
  · exact ⟨memWf_memWrite _ _ _ h.1, h.2⟩

theorem wf_writeLines (s : State) (p : Nat) (bs : List Byte) (counted : Bool) (h : s.memory.wf = true) :
    (writeLines s p bs counted).memory.wf = true := (writeLines_write s p bs counted).wf h

theorem wf_readLine (s : State) (p : Nat) (r : Reader) : (readLine s p r).1.memory.wf = s.memory.wf := (readLine_read s p r).wf

theorem wf_readLines (s : State) (p n : Nat) (r : Reader) : (readLines s p n r).1.memory.wf = s.memory.wf := (readLines_read r n s p).wf

theorem wf_readRange (s : State) (p n : Nat) (r : Reader) : (readRange s p n r).1.memory.wf = s.memory.wf := (readRange_read s p n r).wf

theorem wf_mergeLine (s : State) (p : Nat) (bs : List Byte) (counted : Bool) (r : Reader) (h : s.memory.wf = true) :
    (mergeLine s p bs counted r).memory.wf = true := by
  unfold mergeLine
  exact wf_writeLine _ _ _ _ ((wf_readLine s _ r).trans h)

/-- With no merged line to come nothing happens. -/
@[simp] theorem landMerge_none (s : State) (h : s.memory.merging = none) : landMerge s = s := by
  unfold landMerge
  rw [h]

/-- A merged line that waits is written as a line. -/
theorem landMerge_some (s : State) (p : Nat) (bs : List Byte) (h : s.memory.merging = some (p, bs)) (hm : memOn s = true)
    (hw : s.memory.wipe = 0) : landMerge s = writeLine { s with memory := { s.memory with merging := none } } p bs true := by
  unfold landMerge
  rw [h]
  simp [hm, hw]

theorem wf_landMerge (s : State) (h : s.memory.wf = true) : (landMerge s).memory.wf = true := by
  unfold landMerge
  split
  · exact h
  · dsimp only
    split
    · exact wf_writeLine _ _ _ _ h
    · exact h

theorem wf_mergeRead (s : State) (p : Nat) (bs : List Byte) (h : s.memory.wf = true) : (mergeRead s p bs).memory.wf = true := by
  unfold mergeRead
  exact (wf_readLine s _ _).trans h

theorem wf_writeRange (s : State) (p : Nat) (bs : List Byte) (counted : Bool) (r : Reader) (h : s.memory.wf = true) :
    (writeRange s p bs counted r).memory.wf = true := by
  unfold writeRange
  dsimp only
  have h1 : ∀ hd : Nat, (if hd = 0 then s else mergeLine s p (bs.take hd) counted r).memory.wf = true := by
    intro hd
    split
    · exact h
    · exact wf_mergeLine _ _ _ _ _ h
  split
  · exact wf_writeLines _ _ _ _ (h1 _)
  · exact wf_mergeLine _ _ _ _ _ (wf_writeLines _ _ _ _ (h1 _))

theorem addUpsets_same (us : List Upset) : ∀ s : State, { (addUpsets s us).memory with upset := s.memory.upset } = s.memory ∧
    { addUpsets s us with memory := s.memory } = s := by
  induction us with
  | nil => exact fun _ => ⟨rfl, rfl⟩
  | cons u us ih =>
    intro s
    have e : addUpsets s (u :: us) = addUpsets (addUpset s u) us := rfl
    have h1 : { (addUpset s u).memory with upset := s.memory.upset } = s.memory ∧ { addUpset s u with memory := s.memory } = s := by
      unfold addUpset
      dsimp only
      split <;> exact ⟨rfl, rfl⟩
    obtain ⟨h2, h3⟩ := ih (addUpset s u)
    rw [e]
    refine ⟨?_, ?_⟩
    · have h := congrArg (fun m : Memory => { m with upset := s.memory.upset }) h2
      exact h.trans h1.1
    · have h := congrArg (fun t : State => { t with memory := s.memory }) h3
      exact h.trans h1.2

theorem addUpsets_data (s : State) (us : List Upset) : (addUpsets s us).memory.data = s.memory.data := by
  have e := congrArg Memory.data (addUpsets_same us s).1; exact e

theorem wf_addUpsets (s : State) (us : List Upset) : (addUpsets s us).memory.wf = s.memory.wf := by
  have e := congrArg Memory.wf (addUpsets_same us s).1; exact e

theorem wf_accSet (s : State) (k : Nat) (v : Reg) (h : s.memory.wf = true) : (accSet s k v).memory.wf = true := by
  unfold Memory.wf at *
  simp only [Bool.and_eq_true] at *
  exact ⟨h.1, tblWf_set 0 _ _ _ h.2⟩

theorem accTouch_read (s : State) (k : Nat) (r : Reader) : ReadSame s (accTouch s k r) := by
  unfold accTouch
  split
  · have h : ReadSame s (modStack s (k / 2097152) fun x => { x with accUe := sat32 (x.accUe + 1) }) := modStack_read s _ _ fun _ => rfl
    exact h.trans (.of_report ((memFault_report _ _).trans (setSupEvent_report _ _)))
  · exact .refl s

theorem readAcc_read (s : State) (p n : Nat) (r : Reader) : ReadSame s (readAcc s p n r).1 := by
  unfold readAcc
  dsimp only
  generalize span ((p - 0x110000000000) / 4) (n / 4) = l
  have key : ∀ (l : List Nat) (x : State × List Byte), ReadSame x.1
      (l.foldl (fun x k => (accTouch x.1 k r, x.2 ++ leBytes 4 (accGet x.1 k).toNat)) x).1 := by
    intro l
    induction l with
    | nil => exact fun x => .refl x.1
    | cons k l ih => exact fun x => (accTouch_read x.1 k r).trans (ih _)
  exact key l (s, [])

/-- A write of a cache window leaves package memory and keeps the canonical form. -/
theorem writeAcc_same (s : State) (p : Nat) (bs : List Byte) :
    { writeAcc s p bs with memory := { (writeAcc s p bs).memory with acc := s.memory.acc, accBad := s.memory.accBad } } = s ∧
      (s.memory.wf = true → (writeAcc s p bs).memory.wf = true) := by
  unfold writeAcc
  dsimp only
  generalize (chunks 4 (bs.length + 1) bs).zip (List.range (bs.length + 1)) = l
  induction l generalizing s with
  | nil => exact ⟨rfl, id⟩
  | cons x l ih =>
    rw [List.foldl_cons]
    have h1 : ∀ t : State, t = { accSet s ((p - 0x110000000000) / 4 + x.2) (BitVec.ofNat 32 (leNat x.1)) with memory :=
        { (accSet s ((p - 0x110000000000) / 4 + x.2) (BitVec.ofNat 32 (leNat x.1))).memory with
          accBad := tblSet false (accSet s ((p - 0x110000000000) / 4 + x.2) (BitVec.ofNat 32 (leNat x.1))).memory.accBad
            ((p - 0x110000000000) / 4 + x.2) false } } →
        { t with memory := { t.memory with acc := s.memory.acc, accBad := s.memory.accBad } } = s ∧
          (s.memory.wf = true → t.memory.wf = true) := by
      rintro t rfl
      exact ⟨rfl, fun h => wf_accSet s _ _ h⟩
    obtain ⟨h2, h3⟩ := h1 _ rfl
    obtain ⟨h4, h5⟩ := ih _
    refine ⟨?_, fun h => h5 (h3 h)⟩
    have h := congrArg (fun t : State => { t with memory := { t.memory with acc := s.memory.acc, accBad := s.memory.accBad } }) h4
    exact h.trans h2

theorem wf_writeAcc (s : State) (p : Nat) (bs : List Byte) (h : s.memory.wf = true) : (writeAcc s p bs).memory.wf = true :=
  (writeAcc_same s p bs).2 h

/-- A pass over a stack's zeros keeps the canonical form. -/
theorem wf_filter (m : Memory) (f : Nat × Byte → Bool) (h : m.wf = true) : ({ m with data := m.data.filter f } : Memory).wf = true := by
  unfold Memory.wf at *
  simp only [Bool.and_eq_true] at *
  exact ⟨memWf_filter _ _ h.1, h.2⟩

end Sys2Proof.Machine
end

