-- ==== Sys2Proof/Laws/Sequencer.lean ====
section
/-! SUPPORT. What a fetch, an advance, a wait and a jump of the sequencer do to the state (02). -/

namespace Sys2Proof.Machine

open Sys2Proof

theorem SameData_trans {a b c : Core} (h1 : SameData a b) (h2 : SameData b c) : SameData a c := by
  unfold SameData at *
  refine Eq.trans ?_ h1
  rw [← h2]

theorem coreErr_idem (k : Core) (b : Nat) : coreErr (coreErr k b) b = coreErr k b := by
  simp [coreErr, BitVec.or_assoc]

/-- An update cycle of one add, of one SEM_SUB, of one SEM_WAIT_SUB (R62, R65). -/
theorem semCycle_add (v n : Nat) : semCycle v ⟨[n], none, [], none⟩ = ⟨min 65535 (v + n), decide (65535 < v + n), false, [], false⟩ := by
  simp [semCycle, takeWaits]

theorem semCycle_sub (v n : Nat) : semCycle v ⟨[], some n, [], none⟩ =
    ⟨min 65535 v - n, decide (65535 < v), decide (min 65535 v < n), [], false⟩ := by
  simp [semCycle, takeWaits]

theorem semCycle_waitSub (v n : Nat) : semCycle v ⟨[], none, [], some n⟩ =
    ⟨if n ≤ min 65535 v then min 65535 v - n else min 65535 v, decide (65535 < v), false, [], decide (n ≤ min 65535 v)⟩ := by
  unfold semCycle takeWaits takeWait
  by_cases h : n ≤ min 65535 v <;> simp [h]

/-- An add to a semaphore (R62). -/
theorem semAdd_eq (k : Core) (m n : Nat) (h : m < 48) : semAdd k m n =
    { k with
      sems := tblSet 0 k.sems m (min 65535 (tblGet 0 k.sems m + n))
      err := if 65535 < tblGet 0 k.sems m + n then k.err ||| 1 else k.err
      flags := if 65535 < tblGet 0 k.sems m + n then k.flags ||| 2 else k.flags } := by
  unfold semAdd
  rw [if_pos h]
  simp only [semCycle_add, semGet, semPut, decide_eq_true_eq]
  by_cases ho : 65535 < tblGet 0 k.sems m + n
  · simp only [if_pos ho]; rfl
  · simp only [if_neg ho]

theorem semAdd_none (k : Core) (m n : Nat) (h : ¬ m < 48) : semAdd k m n = k := by
  unfold semAdd
  rw [if_neg h]

/-- A touch of the SRAM changes nothing, or sets SRAM_UNCORR where a word is bad. -/
theorem sramTouch_cases (k : Core) (a n : Nat) :
    sramTouch k a n = k ∨ (k.badWords.any (·.2) = true ∧ sramTouch k a n = coreErr k errSram) := by
  unfold sramTouch
  split
  · next h =>
    refine Or.inr ⟨?_, rfl⟩
    unfold sramBad at h
    rw [List.any_eq_true] at *
    obtain ⟨p, hp, h⟩ := h
    simp at h
    exact ⟨p, hp, h.1⟩
  · exact Or.inl rfl

/-- So do touches in a row. -/
theorem touches_cases {α : Type} (l : List α) (f g : α → Nat) : ∀ k : Core,
    (l.foldl (fun k i => sramTouch k (f i) (g i)) k = k) ∨
      (k.badWords.any (·.2) = true ∧ l.foldl (fun k i => sramTouch k (f i) (g i)) k = coreErr k errSram) := by
  induction l with
  | nil => intro k; exact Or.inl rfl
  | cons x l ih =>
    intro k
    simp only [List.foldl_cons]
    rcases sramTouch_cases k (f x) (g x) with h | ⟨hb, h⟩ <;> rw [h]
    · exact ih k
    · rcases ih (coreErr k errSram) with h2 | ⟨_, h2⟩ <;> rw [h2]
      · exact Or.inr ⟨hb, rfl⟩
      · exact Or.inr ⟨hb, coreErr_idem _ _⟩

theorem fetchTouch_cases (k : Core) (n : Nat) :
    fetchTouch k n = k ∨ (k.badWords.any (·.2) = true ∧ fetchTouch k n = coreErr k errSram) :=
  touches_cases _ (fun i => 0x600000 + 8 * i) (fun _ => 8) k

theorem setCore_onlyCore (s : State) (c : Nat) (k : Core) : OnlyCore s (setCore s c k) c :=
  ⟨rfl, fun _ h => coreOf_setCore_ne s k h⟩

theorem coreOf_advance_self (s : State) (c : Nat) (k : Core) : coreOf (advance s c k) c = advanceCore s k := by
  simp [advance, useFree, coreOf, setCore]

theorem advance_onlyCore (s : State) (c : Nat) (k : Core) : OnlyCore s (advance s c k) c :=
  ⟨rfl, fun x h => by simpa [advance, useFree, coreOf] using coreOf_setCore_ne s _ h⟩

/-- A word that is done. -/
theorem advance_stepped (s : State) (c : Nat) (k : Core) : Stepped s c k (advance s c k) := by
  refine ⟨advance_onlyCore s c k, ?_⟩
  rw [coreOf_advance_self]
  unfold advanceCore movePc nextPc
  dsimp only
  rcases fetchTouch_cases k (Config.prefetch s.freeCtr) with h | ⟨hb, h⟩ <;> rw [h]
  · refine ⟨rfl, Or.inl ⟨rfl, rfl⟩, rfl, rfl, ?_⟩
    split
    · exact Nat.mod_lt _ (by decide)
    · rfl
  · refine ⟨rfl, Or.inr ⟨hb, rfl, rfl⟩, rfl, rfl, ?_⟩
    split
    · exact Nat.mod_lt _ (by decide)
    · rfl

/-- A wait. -/
theorem wait_waiting (s : State) (c : Nat) (w : SeqWait) : Waiting s c w (setCore s c (waitCore (coreOf s c) w)) := by
  refine ⟨setCore_onlyCore _ _ _, ?_⟩
  rw [coreOf_setCore_self]
  unfold waitCore
  rcases fetchTouch_cases (coreOf s c) 0 with h | ⟨hb, h⟩ <;> rw [h]
  · exact ⟨rfl, Or.inl ⟨rfl, rfl⟩, rfl, rfl, rfl⟩
  · exact ⟨rfl, Or.inr ⟨hb, rfl, rfl⟩, rfl, rfl, rfl⟩

/-- A jump. -/
theorem jump_jumped (s : State) (c : Nat) (k : Core) (p : Nat) : Jumped s c k p (setCore s c (jumpCore s k p)) := by
  refine ⟨setCore_onlyCore _ _ _, ?_⟩
  rw [coreOf_setCore_self]
  exact ⟨rfl, rfl, rfl, rfl, rfl, rfl, rfl⟩

/-- A halt. -/
theorem haltCore_data (k : Core) : SameData k (haltCore k) ∧ Fetched k (haltCore k) ∧ (haltCore k).mode = .halted ∧
    (haltCore k).pc = k.pc := by
  unfold haltCore
  rcases fetchTouch_cases k 0 with h | ⟨hb, h⟩ <;> rw [h]
  · exact ⟨rfl, Or.inl ⟨rfl, rfl⟩, rfl, rfl⟩
  · exact ⟨rfl, Or.inr ⟨hb, rfl, rfl⟩, rfl, rfl⟩

/-- A FLAG_WAIT whose flag equals VALUE continues; else it waits (R68). -/
theorem flagWaitEff_met {s : State} {c : Nat} {k : Core} {w : W64} (h : k.flags.getLsbD (wfld w 53 3) = decide (wfld w 51 1 = 1)) :
    flagWaitEff s c k w false =
      advance s c (if wfld w 52 1 = 1 then { k with flags := k.flags &&& ~~~(1#8 <<< wfld w 53 3) } else k) := by
  have h' : (flagGet k (wfld w 53 3) = true) = (wfld w 51 1 = 1) := by
    rw [eq_iff_iff, flagGet, h, decide_eq_true_eq]
  simp only [flagWaitEff, h', Bool.false_eq_true, false_and, or_false, if_true, if_false]
  rfl

theorem flagWaitEff_wait {s : State} {c : Nat} {k : Core} {w : W64} (h : k.flags.getLsbD (wfld w 53 3) ≠ decide (wfld w 51 1 = 1)) :
    flagWaitEff s c k w false = setCore s c (waitCore k .flag) := by
  have h' : ¬ ((flagGet k (wfld w 53 3) = true) = (wfld w 51 1 = 1)) := by
    rw [eq_iff_iff, flagGet]
    intro e
    exact h (Bool.eq_iff_iff.2 (by simpa using e))
  simp only [flagWaitEff, h', Bool.false_eq_true, false_and, or_false, if_false]

/-- A set of the cycle satisfies a wait for 1. -/
theorem flagWaitEff_set {s : State} {c : Nat} {k : Core} {w : W64} (h : wfld w 51 1 = 1) :
    flagWaitEff s c k w true =
      advance s c (flagPut k (wfld w 53 3) (decide (wfld w 52 1 ≠ 1))) := by
  simp only [flagWaitEff, h, and_true, or_true, if_true]
  by_cases h2 : wfld w 52 1 = 1 <;> simp [h2]

/-- What a sequencer row answers for a word that is not bad. -/
theorem seqRow_runs {s : State} {c op : Nat} {f : Core → W64 → Host.Outcome State Fault Refusal} (hr : seqRuns s c = true)
    (ho : opcodeOf (curWord (coreOf s c)) = op) (hb : badWord (curWord (coreOf s c)) = false) :
    seqRow s c op f = f (coreOf s c) (curWord (coreOf s c)) := by
  simp [seqRow, hr, ho, hb]

theorem wakeRow_runs {s : State} {c : Nat} {w : SeqWait} {f : Core → W64 → Host.Outcome State Fault Refusal}
    (hw : seqWaits s c w = true) : wakeRow s c w f = f (coreOf s c) (curWord (coreOf s c)) := by
  simp [wakeRow, hw]

/-! Adds on their way (R61, R76). -/

theorem queueAdd_fold (ms : List Nat) (sem : Nat) : ∀ s : State, ms.foldl (fun t c => queueAdd t c sem 1) s =
    if sem < 48 then { s with adds := s.adds ++ ms.map fun c => ⟨c, sem, 1⟩ } else s := by
  induction ms with
  | nil => intro s; simp
  | cons m ms ih =>
    intro s
    rw [List.foldl_cons, ih]
    unfold queueAdd
    split <;> simp

theorem queueAddAll_eq (s : State) (m sem : Nat) : queueAddAll s m sem =
    if sem < 48 then { s with adds := s.adds ++ ((List.range 576).filter fun c => m.testBit c).map fun c => ⟨c, sem, 1⟩ } else s :=
  queueAdd_fold _ _ _

/-- An update cycle of one consuming wait (R65). -/
theorem semCycle_wait (v n : Nat) : (semCycle v ⟨[], none, [n], none⟩).value =
    if n ≤ min 65535 v then min 65535 v - n else min 65535 v := by
  unfold semCycle takeWaits takeWait
  by_cases h : n ≤ min 65535 v <;> simp [h, takeWaits]

end Sys2Proof.Machine
end

