-- ==== Sys2Proof/Laws/Engines.lean ====
section
/-! SUPPORT. What the rows of the engines share (02): a row that runs, the phases of a descriptor, writes of a core's SRAM in order, the
rows of a load, what the other engines remember. -/

namespace Sys2Proof.Machine

open Sys2Proof

/-- When the head of a queue may start (R55). -/
theorem startReady_iff (k : Core) (q : QEntry) (n : Nat) : startReady k q n = true ↔
    (q.waitSem = 63 ∨ q.waitN ≤ tblGet 0 k.sems q.waitSem) ∧ (∀ g, q.tideHold = true → q.target = some g → g ≤ n) := by
  unfold startReady
  have : semGet k q.waitSem = tblGet 0 k.sems q.waitSem := rfl
  rw [this]
  cases hq : q.tideHold <;> cases ht : q.target <;> simp

/-- An engine row whose descriptor is at the row's phase runs. -/
theorem engineRow_runs {s : State} {c e : Nat} {p : Phase} {kind : Line → Bool} {f : Core → Run → Host.Outcome State Fault Refusal}
    {r : Run} (hc : coreOn s c = true) (hr : (engineOf (coreOf s c) e).run = some r) (hp : r.phase = p) (hk : kind r.entry.desc = true) :
    engineRow s c e p kind f = f (coreOf s c) r := by
  unfold engineRow running
  rw [hr, Option.filter_some, if_pos (by simp [hp])]
  simp [hc, hk]

theorem setPhase_engine {k : Core} {e : Nat} {r : Run} (p : Phase) (h : (engineOf k e).run = some r) :
    engineOf (setPhase k e p) e = { engineOf k e with run := some { r with phase := p } } := by
  unfold setPhase
  rw [engineOf_setEngine_self, h]
  rfl

theorem setPhase_other (k : Core) {e g : Nat} (p : Phase) (h : g ≠ e) : engineOf (setPhase k e p) g = engineOf k g :=
  engineOf_setEngine_ne _ _ h

/-- Writes in order: only the bytes of the SRAM and the error bits of words change. -/
theorem sramWrites_core : ∀ (ws : List (Nat × List Byte)) (k : Core),
    { sramWrites k ws with sram := k.sram, badWords := k.badWords } = k
  | [], _ => rfl
  | w :: ws, k => by
    have h := congrArg (fun x : Core => { x with sram := k.sram, badWords := k.badWords }) (sramWrites_core ws (sramWrite k w.1 w.2))
    exact h

/-- A byte outside all of them stays. -/
theorem sramWrites_out : ∀ (ws : List (Nat × List Byte)) (k : Core) (a : Nat),
    (∀ w ∈ ws, ¬ (w.1 ≤ a ∧ a < w.1 + w.2.length)) → memGet (sramWrites k ws).sram a = memGet k.sram a
  | [], _, _, _ => rfl
  | w :: ws, k, a, h => by
    show memGet (sramWrites (sramWrite k w.1 w.2) ws).sram a = _
    rw [sramWrites_out ws _ a fun w hw => h w (by simp [hw])]
    refine memGet_memWrite_out _ _ _ _ ?_
    have := h w (by simp)
    omega

/-- A byte of one that no later one covers reads as written. -/
theorem sramWrites_in (xs ys : List (Nat × List Byte)) (w : Nat × List Byte) (k : Core) (i : Nat) (hi : i < w.2.length)
    (h : ∀ v ∈ ys, ¬ (v.1 ≤ w.1 + i ∧ w.1 + i < v.1 + v.2.length)) :
    memGet (sramWrites k (xs ++ w :: ys)).sram (w.1 + i) = w.2.getD i 0 := by
  have e : sramWrites k (xs ++ w :: ys) = sramWrites (sramWrite (sramWrites k xs) w.1 w.2) ys := by
    unfold sramWrites; rw [List.foldl_append]; rfl
  rw [e, sramWrites_out _ _ _ h]
  exact memGet_memWrite_in _ _ _ _ hi

/-- The rows of a load. -/
structure Loaded (d : Line) (s : State) (n : Nat) (x : State × List (Nat × List Byte)) (ws : List (Nat × List Byte)) : Prop where
  same : ReadSame s x.1
  rows : ∃ L : List (Nat × List Byte), x.2 = ws ++ L ∧ L.length = n ∧ ∀ j (_ : j < n), ∃ bs, L[j]? = some (lsSram d + (lsRows d - n + j) * lsSramStride d, bs) ∧
    bs.length ≤ lsBytes d ∧ (CleanMemory s → lsBytes d % 64 = 0 → inMem (lsMem d + (lsRows d - n + j) * lsMemStride d) (lsBytes d) = true →
      bs = memRead s.memory.data (lsMem d + (lsRows d - n + j) * lsMemStride d) (lsBytes d))

theorem readLines_length (r : Reader) : ∀ (n : Nat) (s : State) (p : Nat), (readLines s p n r).2.length = 64 * n
  | 0, _, _ => rfl
  | n + 1, s, p => by
    unfold readLines
    simp [readLine_length, readLines_length r n]
    omega

theorem leBytes_length : ∀ n x : Nat, (leBytes n x).length = n
  | 0, _ => rfl
  | n + 1, x => by simp [leBytes, leBytes_length n]

theorem readAcc_length (s : State) (p n : Nat) (r : Reader) : (readAcc s p n r).2.length = 4 * (n / 4) := by
  unfold readAcc
  dsimp only
  have hl := span_length ((p - 0x110000000000) / 4) (n / 4)
  generalize span ((p - 0x110000000000) / 4) (n / 4) = l at hl
  have key : ∀ (l : List Nat) (x : State × List Byte), (l.foldl (fun x k => (accTouch x.1 k r, x.2 ++ leBytes 4 (accGet x.1 k).toNat)) x).2.length
      = x.2.length + 4 * l.length := by
    intro l
    induction l with
    | nil => intro x; simp
    | cons k l ih => intro x; rw [List.foldl_cons, ih]; simp [leBytes_length]; omega
  rw [key]
  simp [hl]

theorem loadRow_spec (s : State) (d : Line) (r : Nat) : ReadSame s (loadRow s d r).1 ∧ (loadRow s d r).2.length ≤ lsBytes d ∧
    (CleanMemory s → lsBytes d % 64 = 0 → inMem (lsMem d + r * lsMemStride d) (lsBytes d) = true →
      (loadRow s d r) = (s, memRead s.memory.data (lsMem d + r * lsMemStride d) (lsBytes d))) := by
  unfold loadRow
  dsimp only
  split
  · next hi =>
    refine ⟨readLines_read _ _ _ _, ?_, fun hc h64 _ => ?_⟩
    · rw [readLines_length]; omega
    · rw [readLines_clean hc]; congr 2; omega
  · next hi =>
    refine ⟨readAcc_read _ _ _ _, ?_, fun _ _ h => absurd h hi⟩
    rw [readAcc_length]; omega

theorem ReadSame.clean {s t : State} (h : ReadSame s t) (hc : CleanMemory s) : CleanMemory t :=
  ⟨h.upset.trans hc.1, fun i => by rw [h.2 i]; exact hc.2 i⟩

theorem loadRows_spec (d : Line) : ∀ (n : Nat) (s : State) (ws : List (Nat × List Byte)), n ≤ lsRows d → Loaded d s n (loadRows d n s ws) ws
  | 0, s, ws, _ => ⟨.refl s, [], by simp [loadRows], rfl, fun j h => by omega⟩
  | n + 1, s, ws, hn => by
    obtain ⟨h1, h2, h3⟩ := loadRow_spec s d (lsRows d - (n + 1))
    obtain ⟨s2, L, e, hl, hL⟩ := loadRows_spec d n (loadRow s d (lsRows d - (n + 1))).1
      (ws ++ [(lsSram d + (lsRows d - (n + 1)) * lsSramStride d, (loadRow s d (lsRows d - (n + 1))).2)]) (by omega)
    refine ⟨h1.trans s2, (lsSram d + (lsRows d - (n + 1)) * lsSramStride d, (loadRow s d (lsRows d - (n + 1))).2) :: L, ?_, by simp [hl], ?_⟩
    · unfold loadRows
      dsimp only
      rw [e]
      simp
    · intro j hj
      cases j with
      | zero =>
        refine ⟨_, by simp, h2, fun hc h64 hin => ?_⟩
        rw [h3 hc h64 (by simpa using hin)]
        simp
      | succ j =>
        obtain ⟨bs, g1, g2, g3⟩ := hL j (by omega)
        have e2 : lsRows d - (n + 1) + (j + 1) = lsRows d - n + j := by omega
        rw [e2]
        refine ⟨bs, by simpa using g1, g2, fun hc h64 hin => ?_⟩
        rw [g3 (h1.clean hc) h64 hin, h1.data]

/-! What the other engines remember of writes (R83). -/

theorem engineOf_remember_self (e : Nat) (ws : List Range) : ∀ (l : List Nat) (k : Core),
    engineOf (l.foldl (fun k g => if g = e then k else
      let x := engineOf k g
      setEngine k g { x with queue := x.queue.map (seeWrites ws), run := x.run.map fun r => { r with entry := seeWrites ws r.entry } }) k) e = engineOf k e := by
  intro l
  induction l with
  | nil => intro k; rfl
  | cons g l ih =>
    intro k
    rw [List.foldl_cons, ih]
    split
    · rfl
    · next h => exact engineOf_setEngine_ne _ _ (Ne.symm h)

theorem remember_rest (e : Nat) (ws : List Range) : ∀ (l : List Nat) (k : Core),
    { l.foldl (fun k g => if g = e then k else
      let x := engineOf k g
      setEngine k g { x with queue := x.queue.map (seeWrites ws), run := x.run.map fun r => { r with entry := seeWrites ws r.entry } }) k with engines := k.engines } = k := by
  intro l
  induction l with
  | nil => intro k; rfl
  | cons g l ih =>
    intro k
    rw [List.foldl_cons]
    split
    · exact ih k
    · have := ih (setEngine k g { engineOf k g with queue := (engineOf k g).queue.map (seeWrites ws), run := (engineOf k g).run.map fun r => { r with entry := seeWrites ws r.entry } })
      generalize List.foldl _ _ l = K at *
      have h2 : { K with engines := k.engines } = { ({ K with engines := (setEngine k g { engineOf k g with queue := (engineOf k g).queue.map (seeWrites ws), run := (engineOf k g).run.map fun r => { r with entry := seeWrites ws r.entry } }).engines } : Core) with engines := k.engines } := rfl
      rw [h2, this]
      rfl

theorem sramTouches_cases (k : Core) (rs : List Range) :
    sramTouches k rs = k ∨ (k.badWords.any (·.2) = true ∧ sramTouches k rs = coreErr k errSram) := touches_cases rs (·.1) (·.2) k

theorem engineOf_coreErr (k : Core) (b e : Nat) : engineOf (coreErr k b) e = engineOf k e := rfl

/-- An engine that has read its ranges and is ready. -/
theorem setPhase_touched {k k1 : Core} (e : Nat) (p : Phase) {r : Run} (hr : (engineOf k e).run = some r)
    (h : k1 = k ∨ (k.badWords.any (·.2) = true ∧ k1 = coreErr k errSram)) :
    engineOf (setPhase k1 e p) e = { engineOf k e with run := some { r with phase := p } } ∧ EngineFrame k (setPhase k1 e p) e ∧
      (setPhase k1 e p).sram = k.sram := by
  rcases h with h | ⟨_, h⟩ <;> subst h
  · exact ⟨setPhase_engine _ hr, ⟨rfl, fun g hg => setPhase_other _ _ hg, Or.inl rfl, Or.inl rfl⟩, rfl⟩
  · refine ⟨setPhase_engine _ hr, ⟨rfl, fun g hg => setPhase_other _ _ hg, Or.inr rfl, Or.inr rfl⟩, rfl⟩

theorem storeRow_spec (s : State) (d : Line) (r : Nat) (bs : List Byte) (hb : bs.length = lsBytes d) (h64 : lsBytes d % 64 = 0) :
    (storeRow s d r bs).cores = s.cores ∧ (∀ i, (stackOf (storeRow s d r bs) i).state = (stackOf s i).state) ∧
      MemSame s (storeRow s d r bs) [(lsMem d + r * lsMemStride d, lsBytes d)] ∧
      ((∀ i, (stackOf s i).state ≠ 2) → inMem (lsMem d + r * lsMemStride d) (lsBytes d) = true → ∀ i < lsBytes d,
        memGet (storeRow s d r bs).memory.data (lsMem d + r * lsMemStride d + i) = bs.getD i 0) := by
  unfold storeRow
  dsimp only
  rw [hb]
  split
  · next hin =>
    have h := writeLines_write s (lsMem d + r * lsMemStride d) bs true
    have e : 64 * cdiv bs.length 64 = lsBytes d := by rw [hb]; unfold cdiv; omega
    rw [e] at h
    refine ⟨h.cores, h.state, h.2.1, fun hs _ i hi => writeLines_byte _ _ _ _ hs (by omega) _ (by omega)⟩
  · next hin =>
    have h := (writeAcc_same s (lsMem d + r * lsMemStride d) bs).1
    refine ⟨?_, fun i => ?_, ?_, fun _ h => absurd h hin⟩
    · have e := congrArg State.cores h; exact e
    · have e := congrArg (fun t : State => (stackOf t i).state) h; exact e
    · refine memSame_of_data ?_ _
      have e := congrArg (fun t : State => t.memory.data) h; exact e

theorem storeRows_spec (d : Line) (f : Nat → List Byte) (hf : ∀ r, (f r).length = lsBytes d) (h64 : lsBytes d % 64 = 0) :
    ∀ (m j : Nat) (s : State), let t := (List.range' j m).foldl (fun t r => storeRow t d r (f r)) s
      t.cores = s.cores ∧ (∀ i, (stackOf t i).state = (stackOf s i).state) ∧
      MemSame s t ((List.range' j m).map fun r => (lsMem d + r * lsMemStride d, lsBytes d)) ∧
      ((∀ i, (stackOf s i).state ≠ 2) → (∀ r, j ≤ r → r < j + m → inMem (lsMem d + r * lsMemStride d) (lsBytes d) = true) → ∀ r, j ≤ r → r < j + m →
        ∀ i < lsBytes d, (∀ q, r < q → q < j + m → ¬ (lsMem d + q * lsMemStride d ≤ lsMem d + r * lsMemStride d + i ∧
          lsMem d + r * lsMemStride d + i < lsMem d + q * lsMemStride d + lsBytes d)) →
        memGet t.memory.data (lsMem d + r * lsMemStride d + i) = (f r).getD i 0)
  | 0, _, s => ⟨rfl, fun _ => rfl, memSame_refl s _, fun _ _ r h1 h2 => by omega⟩
  | m + 1, j, s => by
    intro t
    obtain ⟨a1, a2, a3, a4⟩ := storeRow_spec s d j (f j) (hf j) h64
    obtain ⟨b1, b2, b3, b4⟩ := storeRows_spec d f hf h64 m (j + 1) (storeRow s d j (f j))
    have ht : t = (List.range' (j + 1) m).foldl (fun t r => storeRow t d r (f r)) (storeRow s d j (f j)) := by
      simp only [t, List.range'_succ, List.foldl_cons]
    rw [← ht] at b1 b2 b3 b4
    refine ⟨b1.trans a1, fun i => (b2 i).trans (a2 i), fun a ha => ?_, fun hs hin r h1 h2 i hi hl => ?_⟩
    · rw [b3 a fun q hq => ha q (by rw [List.range'_succ, List.map_cons]; exact List.mem_cons_of_mem _ hq)]
      refine a3 a fun q hq => ?_
      rw [List.mem_singleton] at hq
      subst hq
      exact ha _ (by rw [List.range'_succ, List.map_cons]; exact List.mem_cons_self)
    · by_cases hrj : r = j
      · subst hrj
        rw [b3 _ fun q hq => ?_]
        · exact a4 hs (hin r (by omega) (by omega)) i hi
        · obtain ⟨q', hq', rfl⟩ := List.mem_map.1 hq
          rw [List.mem_range'_1] at hq'
          exact hl q' (by omega) (by omega)
      · exact b4 (fun i => by rw [a2]; exact hs i) (fun r h1 h2 => hin r (by omega) (by omega)) r (by omega) (by omega) i hi
          fun q h1 h2 => hl q h1 (by omega)

theorem coreOn_alive {s : State} {c : Nat} (h : coreOn s c = true) : alive s = true ∧ coreResetting s c = false := by
  unfold coreOn islesOn at h; simp at h; exact ⟨h.1.1.1.1, h.2⟩

theorem setPhase_frame (k : Core) (e : Nat) (p : Phase) : { setPhase k e p with engines := k.engines } = k := rfl

theorem landAdd_eq (s : State) (dest m n : Nat) : landAdd s dest m n =
    { s with adds := s.adds ++ if coreFieldOk dest = true ∧ m < 48 then [⟨coreField dest, m, n⟩] else [] } := by
  unfold landAdd queueAdd
  by_cases h1 : coreFieldOk dest = true <;> by_cases h2 : m < 48 <;> simp [h1, h2]

theorem ferryRow_faulted {s : State} {c op : Nat} {r : Run} {f : Core → Line → Nat → Host.Outcome State Fault Refusal}
    (hc : coreOn s c = true) (hr : (engineOf (coreOf s c) 5).run = some r) (hp : r.phase = .work) (ho : fOp r.entry.desc = op)
    (hx : cState (flowOf s (fFlow r.entry.desc)) ≠ 2) : ferryRow s c op f = .next (setCore s c (setPhase (coreOf s c) 5 .ready)) := by
  unfold ferryRow
  rw [engineRow_runs hc hr hp (by simpa using ho)]
  exact if_pos (by simpa [fArmed] using hx)

theorem ferryRow_strait {s : State} {c op : Nat} {r : Run} {f : Core → Line → Nat → Host.Outcome State Fault Refusal}
    (hc : coreOn s c = true) (hr : (engineOf (coreOf s c) 5).run = some r) (hp : r.phase = .work) (ho : fOp r.entry.desc = op)
    (hx : cState (flowOf s (fFlow r.entry.desc)) = 2) (hl : cRole (flowOf s (fFlow r.entry.desc)) ≠ 3) :
    ferryRow s c op f = .next (ferryStrait s c (coreOf s c) r.entry.desc) := by
  unfold ferryRow
  rw [engineRow_runs hc hr hp (by simpa using ho)]
  exact (if_neg (by simpa [fArmed] using hx)).trans (if_neg hl)

theorem ferryRow_local {s : State} {c op : Nat} {r : Run} {f : Core → Line → Nat → Host.Outcome State Fault Refusal}
    (hc : coreOn s c = true) (hr : (engineOf (coreOf s c) 5).run = some r) (hp : r.phase = .work) (ho : fOp r.entry.desc = op)
    (hx : cState (flowOf s (fFlow r.entry.desc)) = 2) (hl : cRole (flowOf s (fFlow r.entry.desc)) = 3) :
    ferryRow s c op f = f (coreOf s c) r.entry.desc (cOutFlow (flowOf s (fFlow r.entry.desc))) := by
  unfold ferryRow
  rw [engineRow_runs hc hr hp (by simpa using ho)]
  exact (if_neg (by simpa [fArmed] using hx)).trans (if_pos hl)

end Sys2Proof.Machine
end

