-- ==== Sys2Proof/Laws/Events.lean ====
section
/-! SUPPORT. What raising an event, computing the tempo anew, faulting a flow and taking a port down leave of the state (08, 09, R431). -/

namespace Sys2Proof.Machine

open Sys2Proof

/-- A state that differs only by what firing a vector changes: the pending bits and the outputs. -/
def FireSame (s t : State) : Prop := { t with control := { t.control with pba := s.control.pba }, sent := s.sent } = s

theorem FireSame.refl (s : State) : FireSame s s := rfl

theorem fire_same (s : State) (v : Nat) : FireSame s (fire s v) := by
  unfold fire emit FireSame
  split <;> rfl

theorem fireOnRise_same (s : State) (v : Nat) (a b : Reg) : FireSame s (fireOnRise s v a b) := by
  unfold fireOnRise
  split
  · exact .refl s
  · exact fire_same s v

theorem setIsthEvent_same (s : State) (b : Reg) :
    FireSame { s with isth := { s.isth with event := s.isth.event ||| b } } (setIsthEvent s b) := fireOnRise_same _ _ _ _

theorem setStraitEvent_same (s : State) (b : Reg) :
    FireSame { s with straits := { s.straits with event := s.straits.event ||| b } } (setStraitEvent s b) := fireOnRise_same _ _ _ _

theorem setTideEvent_same (s : State) (b : Nat) :
    FireSame { s with tide := { s.tide with event := s.tide.event ||| (1#32 <<< b) } } (setTideEvent s b) := fireOnRise_same _ _ _ _

theorem setGovStat_same (s : State) (b : Nat) :
    FireSame { s with power := { s.power with stat := s.power.stat ||| (1#32 <<< b) } } (setGovStat s b) := fireOnRise_same _ _ _ _

theorem setSupEvent_same (s : State) (b : Nat) :
    FireSame { s with control := { s.control with supEvent := s.control.supEvent ||| (1#32 <<< b) } } (setSupEvent s b) :=
  fireOnRise_same _ _ _ _

theorem FireSame.trans {a b c : State} (h1 : FireSame a b) (h2 : FireSame b c) : FireSame a c := by
  unfold FireSame at *
  refine Eq.trans ?_ h1
  rw [← h2]

/-- A state that differs only by the tide unit and what it sends: adds on their way, pending bits, outputs, and of a port the frames that
wait for a pause to end, the marker record and the required tempo. -/
def TideSame (s t : State) : Prop :=
  { t with tide := s.tide, adds := s.adds, straits := { t.straits with ports := s.straits.ports },
           control := { t.control with pba := s.control.pba }, sent := s.sent } = s ∧
  ∀ q, { portOf t q with held := (portOf s q).held, marker := (portOf s q).marker, reqQ := (portOf s q).reqQ } = portOf s q

theorem TideSame.refl (s : State) : TideSame s s := ⟨rfl, fun _ => rfl⟩

theorem TideSame.trans {a b c : State} (h1 : TideSame a b) (h2 : TideSame b c) : TideSame a c := by
  refine ⟨Eq.trans ?_ h1.1, fun q => Eq.trans ?_ (h1.2 q)⟩
  · rw [← h2.1]
  · rw [← h2.2 q]

theorem TideSame.ite {c : Prop} [Decidable c] {s a b : State} (ha : TideSame s a) (hb : TideSame s b) :
    TideSame s (if c then a else b) := by
  split
  · exact ha
  · exact hb

theorem TideSame.of_ports {s t : State} (h : { t with tide := s.tide, adds := s.adds, control := { t.control with pba := s.control.pba }, sent := s.sent } = s) :
    TideSame s t := by
  have e : t.straits = s.straits := by have e := congrArg State.straits h; exact e
  refine ⟨?_, fun q => ?_⟩
  · rw [← e]; exact h
  · unfold portOf; rw [e]

theorem TideSame.event (s : State) (b : Nat) : TideSame s (setTideEvent s b) := by
  refine .of_ports ?_
  have e := congrArg (fun x : State => { x with tide := s.tide, adds := s.adds }) (setTideEvent_same s b)
  exact e

theorem TideSame.setTide (s : State) (f : Tide → Tide) : TideSame s (Machine.setTide s f) := .of_ports rfl

theorem TideSame.putUse (s : State) (x : PodUse) : TideSame s (Machine.putUse s x) := .setTide _ _

theorem TideSame.modPort (s : State) (p : Nat) (f : Port → Port)
    (h : ∀ k, { f k with held := k.held, marker := k.marker, reqQ := k.reqQ } = k) : TideSame s (Machine.modPort s p f) := by
  refine ⟨rfl, fun q => ?_⟩
  by_cases e : q = p
  · subst e; rw [portOf_modPort_self]; exact h _
  · rw [portOf_modPort_ne _ _ e]

theorem sendOut_same (s : State) (p : Nat) (f : Frame) : TideSame s (sendOut s p f) := by
  unfold sendOut
  exact .ite (.modPort _ _ _ fun _ => rfl) (.of_ports rfl)

theorem sendTide_same (s : State) (p typ seq : Nat) (body : List Byte) : TideSame s (sendTide s p typ seq body) := by
  unfold sendTide
  exact .ite (sendOut_same _ _ _) (.refl s)

theorem tideSame_foldl {α : Type} (f : State → α → State) (h : ∀ s x, TideSame s (f s x)) : ∀ (l : List α) (s : State),
    TideSame s (l.foldl f s)
  | [], s => .refl s
  | x :: l, s => (h s x).trans (tideSame_foldl f h l _)

theorem flood_same (s : State) (but typ : Nat) (body : List Byte) : TideSame s (flood s but typ body) :=
  tideSame_foldl _ (fun _ _ => .ite (.refl _) (sendTide_same _ _ _ _ _)) _ s

theorem sendTotal_same (s : State) (x : PodUse) : TideSame s (sendTotal s x) := by
  unfold sendTotal
  exact .ite (sendTide_same _ _ _ _ _) (.refl s)

theorem resendTotals_same (s : State) : TideSame s (resendTotals s) := tideSame_foldl _ sendTotal_same _ s

theorem sendCtl_same (s : State) (p typ flow seq : Nat) (body : List Byte) : TideSame s (sendCtl s p typ flow seq body) := by
  unfold sendCtl
  exact .ite (sendOut_same _ _ _) (.refl s)

theorem queueAdds_same (s : State) (members sem : Nat) : TideSame s (queueAddAll s members sem) := by
  refine tideSame_foldl _ (fun s c => ?_) _ s
  unfold queueAdd
  exact .ite (.of_ports rfl) (.refl s)

theorem takeRelease_same (s : State) (x : PodUse) (rel but : Nat) : TideSame s (takeRelease s x rel but) := by
  have h : TideSame s (flood (putUse s { x with release := some (rel, s.tide.now), addDue := true }) but 0x13
      (leBytes 1 x.idx ++ leBytes 1 x.use ++ leBytes 2 x.step ++ leBytes 8 rel)) := (TideSame.putUse s _).trans (flood_same _ _ _ _)
  unfold takeRelease
  exact .ite (h.trans (((TideSame.setTide _ _).trans (.event _ _)).trans ((queueAdds_same _ _ _).trans (.putUse _ _)))) h

theorem tryRelease_same (s : State) (x : PodUse) : TideSame s (tryRelease s x) := by
  unfold tryRelease
  exact .ite (.ite (.refl s) (takeRelease_same _ _ _ _)) (.refl s)

theorem podChanged_same (s : State) (x : PodUse) : TideSame s (podChanged s x) := by
  unfold podChanged
  exact (TideSame.putUse s x).trans (.ite (tryRelease_same _ _) (sendTotal_same _ _))

theorem showPodQ_same (s : State) : TideSame s (showPodQ s) := by
  obtain ⟨n, hn⟩ : ∃ n, aggregateQ s = n := ⟨_, rfl⟩
  unfold showPodQ
  simp only [hn]
  refine .ite ?_ (.refl s)
  exact .ite ((TideSame.trans (.ite ((TideSame.setTide _ _).trans (.event _ _)) (.setTide _ _))) (.event _ _))
    (.ite ((TideSame.setTide _ _).trans (.event _ _)) (.setTide _ _))

theorem aggregateChanged_same (s : State) (old : Nat) : TideSame s (aggregateChanged s old) := by
  unfold aggregateChanged
  exact .ite ((showPodQ_same s).trans (sendTide_same _ _ _ _ _)) (showPodQ_same s)

/-- Computing the required tempo anew (R289). -/
theorem recomputeTempo_same (s : State) : TideSame s (recomputeTempo s) := by
  unfold recomputeTempo
  refine TideSame.trans (.ite ?_ ?_) (aggregateChanged_same _ _)
  · exact (TideSame.setTide _ _).trans (.event _ _)
  · exact .setTide _ _

theorem loseChild_same (s : State) (p : Nat) : TideSame s (loseChild s p) := by
  obtain ⟨n, hn⟩ : ∃ n, aggregateQ s = n := ⟨_, rfl⟩
  obtain ⟨a, ha⟩ : ∃ a, (modPort s p fun k => { k with reqQ := 0 }) = a := ⟨_, rfl⟩
  have h1 : TideSame s a := by rw [← ha]; exact .modPort _ _ _ fun _ => rfl
  obtain ⟨b, hb⟩ : ∃ b, aggregateChanged a n = b := ⟨_, rfl⟩
  have h2 : TideSame s b := by rw [← hb]; exact h1.trans (aggregateChanged_same a n)
  unfold loseChild
  simp only [hn, ha, hb]
  refine h2.trans (tideSame_foldl _ (fun t x => ?_) _ _)
  split
  · exact podChanged_same t _
  · exact .putUse t _

theorem dropChild_same (s : State) (p : Nat) : TideSame s (dropChild s p) := by
  obtain ⟨a, ha⟩ : ∃ a, (modPort s p fun k => { k with marker := k.marker.map fun m => { m with child := false } }) = a := ⟨_, rfl⟩
  have h1 : TideSame s a := by rw [← ha]; exact .modPort _ _ _ fun _ => rfl
  unfold dropChild
  rw [ha]
  exact h1.trans (loseChild_same a p)

/-- A state that differs only by what faulting flows changes: contexts and what waits on them, STRAIT_EVENT, faults of steps, reports. -/
def FlowSame (s t : State) : Prop :=
  FireSame s { t with
    straits := { t.straits with flows := s.straits.flows, rt := s.straits.rt, event := s.straits.event }
    commit := { t.commit with faults := s.commit.faults, armFaults := s.commit.armFaults } }

theorem FlowSame.refl (s : State) : FlowSame s s := FireSame.refl s

theorem FlowSame.trans {a b c : State} (h1 : FlowSame a b) (h2 : FlowSame b c) : FlowSame a c := by
  unfold FlowSame FireSame at *
  refine Eq.trans ?_ h1
  rw [← h2]

theorem FlowSame.faultNow (s : State) (b : Nat) : FlowSame s (faultNow s b) := by
  have key : ∀ (l : List Nat) (s : State), FlowSame s (l.foldl (fun t k => markFault t k b) s) := by
    intro l
    induction l with
    | nil => exact fun s => .refl s
    | cons k l ih =>
      intro s
      have h : FlowSame s (markFault s k b) := rfl
      exact h.trans (ih _)
  unfold Machine.faultNow
  split
  · exact key _ _
  · unfold faultArmed
    split
    · rfl
    · exact .refl s

theorem FlowSame.event (s : State) (b : Reg) : FlowSame s (setStraitEvent s b) := by
  have h := setStraitEvent_same s b
  unfold FlowSame FireSame at *
  have e := congrArg (fun x : State => { x with
    straits := { x.straits with flows := s.straits.flows, rt := s.straits.rt, event := s.straits.event }
    commit := { x.commit with faults := s.commit.faults, armFaults := s.commit.armFaults } }) h
  exact e

theorem FlowSame.ite {c : Prop} [Decidable c] {s a b : State} (ha : FlowSame s a) (hb : FlowSame s b) :
    FlowSame s (if c then a else b) := by
  split
  · exact ha
  · exact hb

theorem setFlow_same (s : State) (i : Nat) (d : Line) : FlowSame s (setFlow s i d) := by
  unfold FlowSame FireSame setFlow
  rfl

theorem modRt_same (s : State) (i : Nat) (g : FlowRt → FlowRt) : FlowSame s (modRt s i g) := by
  unfold FlowSame FireSame modRt
  rfl

theorem grant_same (s : State) (i n : Nat) : FlowSame s (grant s i n) := by
  unfold grant cSet
  exact (setFlow_same _ _ _).trans (modRt_same _ _ _)

theorem faultFlow_same (s : State) (i cause : Nat) : FlowSame s (faultFlow s i cause) := by
  obtain ⟨n, hn⟩ : ∃ n, (((rtOf s i).txq.filter fun x => x.core.isNone).map fun x => frameCredits x.frame).foldl (· + ·) 0 = n := ⟨_, rfl⟩
  obtain ⟨a, ha⟩ : ∃ a, setFlow s i (setFld (cPut (flowOf s i) 1 8 cause) 0 2 fFaulted) = a := ⟨_, rfl⟩
  have h1 : FlowSame s a := by rw [← ha]; exact setFlow_same _ _ _
  unfold faultFlow
  simp only [hn, ha]
  refine .ite (FlowSame.trans (FlowSame.trans (FlowSame.trans ?_ (modRt_same _ _ _)) (.event _ _)) (.faultNow _ _)) (.refl s)
  exact .ite (h1.trans (grant_same _ _ _)) h1

theorem flowSame_foldl {α : Type} (f : State → α → State) (h : ∀ s x, FlowSame s (f s x)) : ∀ (l : List α) (s : State),
    FlowSame s (l.foldl f s)
  | [], s => .refl s
  | x :: l, s => (h s x).trans (flowSame_foldl f h l _)

theorem flowPorts {s t : State} (h : FlowSame s t) : t.straits.ports = s.straits.ports := by
  have e := congrArg (fun x : State => x.straits.ports) h; exact e

theorem portOf_of {s t : State} (h : t.straits.ports = s.straits.ports) (q : Nat) : portOf t q = portOf s q := by
  unfold portOf; rw [h]

/-- A port as it stands while it is down: its state and cause, and what stays (R238–R240). -/
def downPort (s : State) (k : Port) (cause : Nat) : Port :=
  { k with
    state := 3, cause := cause, pauseTx := false, pauseRx := false, held := [], hunting := false
    failTx := k.failTx ||| k.newTx, failRx := k.failRx ||| k.newRx, newTx := 0, newRx := 0
    latched := k.latched || (armed s && (k.state = 1 || k.state = 2)) }

/-- What portDown leaves, but for the tide unit's own. -/
theorem portDown_base (s : State) (p cause : Nat) : ∃ t, TideSame t (portDown s p cause) ∧
    t.straits.ports = (modPort s p fun k => downPort s k cause).straits.ports := by
  obtain ⟨a, ha⟩ : ∃ a, (modPort s p fun k => downPort s k cause) = a := ⟨_, rfl⟩
  obtain ⟨b, hb⟩ : ∃ b, (if portUp s p = true then setStraitEvent a (1#32 <<< (8 + p)) else a) = b := ⟨_, rfl⟩
  have h2 : FlowSame a b := by rw [← hb]; exact .ite (.event _ _) (.refl a)
  have e : portDown s p cause =
    let u := ((contexts b).filter fun i =>
      let d := flowOf b i
      (sends d && !cNoPort d && cPort d = p) || arrivesOn b i p).foldl (fun s i => faultFlow s i 2) b
    recomputeTempo (dropChild (if (portUp s p && armed u) = true then faultNow u 2 else u) p) := by
    rw [← hb, ← ha]; rfl
  rw [e]
  refine ⟨_, (dropChild_same _ _).trans (recomputeTempo_same _), ?_⟩
  rw [ha]
  refine flowPorts (s := a) ?_
  have h3 := fun f => h2.trans (flowSame_foldl (fun s i => faultFlow s i 2) (fun s i => faultFlow_same s i 2) ((contexts b).filter f) b)
  exact .ite ((h3 _).trans (.faultNow _ _)) (h3 _)

/-- A port that goes down. -/
theorem portDown_port (s : State) (p cause : Nat) :
    let k := downPort s (portOf s p) cause
    let t := portDown s p cause
    { portOf t p with held := k.held, marker := k.marker, reqQ := k.reqQ } = k := by
  obtain ⟨t, h1, h2⟩ := portDown_base s p cause
  have h := h1.2 p
  rw [portOf_of h2, portOf_modPort_self] at h
  exact h

theorem portDown_other (s : State) {p q : Nat} (cause : Nat) (h : q ≠ p) :
    let k := portOf s q
    { portOf (portDown s p cause) q with held := k.held, marker := k.marker, reqQ := k.reqQ } = k := by
  obtain ⟨t, h1, h2⟩ := portDown_base s p cause
  have e := h1.2 q
  rw [portOf_of h2, portOf_modPort_ne _ _ h] at e
  exact e

theorem tideEvent {s t : State} (h : TideSame s t) : t.straits.event = s.straits.event := by
  have e := congrArg (fun x : State => x.straits.event) h.1; exact e

/-- Events of the straits only rise when flows fault. -/
def EventRises (s t : State) : Prop := ∀ b, s.straits.event.getLsbD b = true → t.straits.event.getLsbD b = true

theorem setStraitEvent_event (s : State) (b : Reg) : (setStraitEvent s b).straits.event = s.straits.event ||| b := by
  have e := congrArg (fun x : State => x.straits.event) (setStraitEvent_same s b); exact e

theorem faultNow_event (s : State) (b : Nat) : (faultNow s b).straits = s.straits := by
  have e := congrArg State.straits (faultNow_report s b); exact e

theorem faultFlow_rises (s : State) (i cause : Nat) : EventRises s (faultFlow s i cause) := by
  intro b hb
  obtain ⟨n, hn⟩ : ∃ n, (((rtOf s i).txq.filter fun x => x.core.isNone).map fun x => frameCredits x.frame).foldl (· + ·) 0 = n := ⟨_, rfl⟩
  obtain ⟨a, ha⟩ : ∃ a, setFlow s i (setFld (cPut (flowOf s i) 1 8 cause) 0 2 fFaulted) = a := ⟨_, rfl⟩
  have h1 : a.straits.event = s.straits.event := by
    rw [← ha]
    have e : ∀ d, (setFlow s i d).straits.event = s.straits.event := fun _ => rfl
    exact e _
  unfold faultFlow
  simp only [hn, ha]
  split
  · rw [faultNow_event, setStraitEvent_event]
    rw [BitVec.getLsbD_or]
    obtain ⟨c, hc⟩ : ∃ c, (if cRole (flowOf s i) = roleTransit then grant a i n else a) = c := ⟨_, rfl⟩
    have h2 : c.straits.event = a.straits.event := by
      rw [← hc]
      split
      · have e : ∀ d g, (modRt (setFlow a i d) i g).straits.event = a.straits.event := fun _ _ => rfl
        exact e _ _
      · rfl
    have : (modRt c i fun r => { r with txq := [], replay := [] }).straits.event = c.straits.event := rfl
    rw [hc, this, h2, h1]
    simp [hb]
  · exact hb

theorem rises_foldl {α : Type} (f : State → α → State) (h : ∀ s x, EventRises s (f s x)) : ∀ (l : List α) (s : State), EventRises s (l.foldl f s)
  | [], _ => fun _ hb => hb
  | x :: l, s => fun b hb => rises_foldl f h l _ b (h s x b hb)

theorem portDown_event (s : State) (p cause : Nat) (hp : portUp s p = true) : p < 24 → (portDown s p cause).straits.event.getLsbD (8 + p) = true := by
  intro hlt
  unfold portDown
  dsimp only
  rw [tideEvent ((dropChild_same _ _).trans (recomputeTempo_same _))]
  have hx : ∀ t : State, t.straits.event.getLsbD (8 + p) = true → (if (portUp s p && armed t) = true then faultNow t 2 else t).straits.event.getLsbD (8 + p) = true := by
    intro t ht; split
    · rw [faultNow_event]; exact ht
    · exact ht
  apply hx
  refine rises_foldl _ (fun s i => faultFlow_rises s i 2) _ _ _ ?_
  rw [if_pos hp, setStraitEvent_event, BitVec.getLsbD_or]
  simp
  right; omega

end Sys2Proof.Machine
end

