-- ==== Sys2Proof/Laws/Fields.lean ====
section
/-! SUPPORT. Reading a bit field after writing one: flow contexts and descriptors (64-byte lines), arena records. -/

namespace Sys2Proof.Machine

open Sys2Proof

/-- A number with the field of n bits at lo replaced. -/
def putBits (x lo n v : Nat) : Nat := x - bitsOf x lo n * 2 ^ lo + v % 2 ^ n * 2 ^ lo

/-- The number as what lies above the field, the field, and what lies below. -/
theorem split_bits (x lo n : Nat) : x = x / 2 ^ (lo + n) * 2 ^ (lo + n) + bitsOf x lo n * 2 ^ lo + x % 2 ^ lo := by
  unfold bitsOf
  have h1 := Nat.div_add_mod x (2 ^ lo)
  have h2 := Nat.div_add_mod (x / 2 ^ lo) (2 ^ n)
  rw [Nat.div_div_eq_div_mul, ← Nat.pow_add] at h2
  have h3 : x / 2 ^ (lo + n) * 2 ^ (lo + n) = 2 ^ lo * (2 ^ n * (x / 2 ^ (lo + n))) := by rw [Nat.pow_add]; ring
  have h4 : 2 ^ lo * (x / 2 ^ lo) = 2 ^ lo * (2 ^ n * (x / 2 ^ (lo + n)) + x / 2 ^ lo % 2 ^ n) := by rw [h2]
  rw [h3]
  have h5 : x / 2 ^ lo % 2 ^ n * 2 ^ lo = 2 ^ lo * (x / 2 ^ lo % 2 ^ n) := Nat.mul_comm _ _
  rw [h5, ← Nat.mul_add, ← h4, h1]

theorem putBits_eq (x lo n v : Nat) :
    putBits x lo n v = x / 2 ^ (lo + n) * 2 ^ (lo + n) + v % 2 ^ n * 2 ^ lo + x % 2 ^ lo := by
  unfold putBits
  have h := split_bits x lo n
  omega

theorem putBits_lt {x lo n v w : Nat} (hx : x < 2 ^ w) (h : lo + n ≤ w) : putBits x lo n v < 2 ^ w := by
  rw [putBits_eq]
  obtain ⟨k, rfl⟩ := Nat.exists_eq_add_of_le h
  have h1 : x / 2 ^ (lo + n) < 2 ^ k := Nat.div_lt_of_lt_mul (by rwa [← Nat.pow_add])
  have h2 : v % 2 ^ n * 2 ^ lo + x % 2 ^ lo < 2 ^ (lo + n) := by
    have a : v % 2 ^ n + 1 ≤ 2 ^ n := Nat.mod_lt _ (Nat.two_pow_pos n)
    have b : x % 2 ^ lo < 2 ^ lo := Nat.mod_lt _ (Nat.two_pow_pos lo)
    have c : (v % 2 ^ n + 1) * 2 ^ lo ≤ 2 ^ n * 2 ^ lo := Nat.mul_le_mul_right _ a
    rw [Nat.pow_add, Nat.mul_comm (2 ^ lo)]
    rw [Nat.add_mul] at c
    omega
  have h3 : (x / 2 ^ (lo + n) + 1) * 2 ^ (lo + n) ≤ 2 ^ k * 2 ^ (lo + n) := Nat.mul_le_mul_right _ h1
  rw [Nat.pow_add 2 (lo + n) k, Nat.mul_comm (2 ^ (lo + n)) (2 ^ k)]
  rw [Nat.add_mul] at h3
  omega

theorem bitsOf_putBits_self (x lo n v : Nat) : bitsOf (putBits x lo n v) lo n = v % 2 ^ n := by
  rw [putBits_eq]
  unfold bitsOf
  have e : x / 2 ^ (lo + n) * 2 ^ (lo + n) + v % 2 ^ n * 2 ^ lo + x % 2 ^ lo =
      2 ^ lo * (x / 2 ^ (lo + n) * 2 ^ n + v % 2 ^ n) + x % 2 ^ lo := by rw [Nat.pow_add]; ring
  rw [e, Nat.mul_add_div (Nat.two_pow_pos lo), Nat.div_eq_of_lt (Nat.mod_lt _ (Nat.two_pow_pos lo)), Nat.add_zero,
    Nat.mul_comm (x / _), Nat.mul_add_mod, Nat.mod_mod]

/-- A field that lies below. -/
theorem bitsOf_putBits_low (x lo n v a m : Nat) (h : a + m ≤ lo) : bitsOf (putBits x lo n v) a m = bitsOf x a m := by
  have key : ∀ y, bitsOf y a m = bitsOf (y % 2 ^ lo) a m := by
    intro y
    unfold bitsOf
    obtain ⟨k, rfl⟩ := Nat.exists_eq_add_of_le h
    have e : (2 : Nat) ^ (a + m + k) = 2 ^ a * (2 ^ m * 2 ^ k) := by rw [Nat.pow_add, Nat.pow_add, Nat.mul_assoc]
    rw [e, Nat.mod_mul_right_div_self, Nat.mod_mul_right_mod]
  rw [key, key x, putBits_eq]
  congr 1
  have e : x / 2 ^ (lo + n) * 2 ^ (lo + n) + v % 2 ^ n * 2 ^ lo + x % 2 ^ lo =
      2 ^ lo * (x / 2 ^ (lo + n) * 2 ^ n + v % 2 ^ n) + x % 2 ^ lo := by rw [Nat.pow_add]; ring
  rw [e, Nat.mul_add_mod, Nat.mod_mod]

/-- A field that lies above. -/
theorem bitsOf_putBits_high (x lo n v a m : Nat) (h : lo + n ≤ a) : bitsOf (putBits x lo n v) a m = bitsOf x a m := by
  have key : ∀ y, bitsOf y a m = bitsOf (y / 2 ^ (lo + n)) (a - (lo + n)) m := by
    intro y
    unfold bitsOf
    rw [Nat.div_div_eq_div_mul, ← Nat.pow_add]
    congr 3
    omega
  rw [key, key x]
  congr 1
  rw [putBits_eq]
  have h2 : v % 2 ^ n * 2 ^ lo + x % 2 ^ lo < 2 ^ (lo + n) := by
    have a : v % 2 ^ n + 1 ≤ 2 ^ n := Nat.mod_lt _ (Nat.two_pow_pos n)
    have b : x % 2 ^ lo < 2 ^ lo := Nat.mod_lt _ (Nat.two_pow_pos lo)
    have c : (v % 2 ^ n + 1) * 2 ^ lo ≤ 2 ^ n * 2 ^ lo := Nat.mul_le_mul_right _ a
    rw [Nat.pow_add, Nat.mul_comm (2 ^ lo)]
    rw [Nat.add_mul] at c
    omega
  rw [Nat.add_assoc, Nat.mul_comm (x / _), Nat.mul_add_div (Nat.two_pow_pos _), Nat.div_eq_of_lt h2, Nat.add_zero]

/-! Lines. -/

theorem setFld_toNat (d : Line) (lo n v : Nat) (h : lo + n ≤ 512) : (setFld d lo n v).toNat = putBits d.toNat lo n v := by
  unfold setFld
  rw [BitVec.toNat_ofNat]
  exact Nat.mod_eq_of_lt (putBits_lt d.isLt h)

theorem bitsOf_setFld_self (d : Line) (lo n v : Nat) (h : lo + n ≤ 512) : bitsOf (setFld d lo n v).toNat lo n = v % 2 ^ n := by
  rw [setFld_toNat d lo n v h, bitsOf_putBits_self]

theorem bitsOf_setFld_ne (d : Line) (lo n v a m : Nat) (h : lo + n ≤ 512) (hd : a + m ≤ lo ∨ lo + n ≤ a) :
    bitsOf (setFld d lo n v).toNat a m = bitsOf d.toNat a m := by
  rw [setFld_toNat d lo n v h]
  rcases hd with hd | hd
  · exact bitsOf_putBits_low _ _ _ _ _ _ hd
  · exact bitsOf_putBits_high _ _ _ _ _ _ hd

/-- A field of a context after a write of the same field, and of another. -/
theorem fldB_cPut_self (d : Line) (byte n v : Nat) (h : byte + n ≤ 64) : fldB (cPut d byte (8 * n) v) byte n = v % 2 ^ (8 * n) :=
  bitsOf_setFld_self d (8 * byte) (8 * n) v (by omega)

theorem fldB_cPut_ne (d : Line) (byte n v b m : Nat) (h : 8 * byte + n ≤ 512) (hd : 8 * (b + m) ≤ 8 * byte ∨ 8 * byte + n ≤ 8 * b) :
    fldB (cPut d byte n v) b m = fldB d b m :=
  bitsOf_setFld_ne d (8 * byte) n v (8 * b) (8 * m) h (by omega)

theorem fld_cPut_ne (d : Line) (byte n v b lo m : Nat) (h : 8 * byte + n ≤ 512)
    (hd : 8 * b + lo + m ≤ 8 * byte ∨ 8 * byte + n ≤ 8 * b + lo) : fld (cPut d byte n v) b lo m = fld d b lo m :=
  bitsOf_setFld_ne d (8 * byte) n v (8 * b + lo) m h hd

theorem cState_setState (d : Line) (v : Nat) : cState (setFld d 0 2 v) = v % 4 := bitsOf_setFld_self d 0 2 v (by omega)

theorem cRole_setState (d : Line) (v : Nat) : cRole (setFld d 0 2 v) = cRole d := bitsOf_setFld_ne d 0 2 v 2 2 (by omega) (by omega)

/-! Arena records. -/

theorem aPut_toNat (r : Arena) (byte n v : Nat) (h : 8 * byte + n ≤ 256) : (aPut r byte n v).toNat = putBits r.toNat (8 * byte) n v := by
  unfold aPut
  rw [BitVec.toNat_ofNat]
  exact Nat.mod_eq_of_lt (putBits_lt r.isLt h)

theorem aFld_aPut_self (r : Arena) (byte n v : Nat) (h : 8 * byte + n ≤ 256) : aFld (aPut r byte n v) byte n = v % 2 ^ n := by
  unfold aFld
  rw [aPut_toNat r byte n v h, bitsOf_putBits_self]

theorem aFld_aPut_ne (r : Arena) (byte n v b m : Nat) (h : 8 * byte + n ≤ 256) (hd : 8 * b + m ≤ 8 * byte ∨ 8 * byte + n ≤ 8 * b) :
    aFld (aPut r byte n v) b m = aFld r b m := by
  unfold aFld
  rw [aPut_toNat r byte n v h]
  rcases hd with hd | hd
  · exact bitsOf_putBits_low _ _ _ _ _ _ hd
  · exact bitsOf_putBits_high _ _ _ _ _ _ hd

theorem aState_setAState (r : Arena) (v : Nat) : aState (setAState r v) = v % 4 := aFld_aPut_self r 17 2 v (by omega)

/-! Little-endian numbers. -/

theorem leNat_leBytes : ∀ n x : Nat, leNat (leBytes n x) = x % 2 ^ (8 * n)
  | 0, x => by simp [leBytes, leNat, Nat.mod_one]
  | n + 1, x => by
    unfold leBytes leNat
    rw [leNat_leBytes n, BitVec.toNat_ofNat]
    have e : (2 : Nat) ^ (8 * (n + 1)) = 256 * 2 ^ (8 * n) := by rw [show 8 * (n + 1) = 8 + 8 * n by omega, Nat.pow_add]
    rw [e, Nat.mod_mul]

end Sys2Proof.Machine
end

