-- ==== Sys2Proof/Laws/Runs.lean ====
section
/-! SUPPORT. From what exec answers to what a statement says of it. -/

namespace Sys2Proof.Machine

open Sys2Proof

/-- A command that answers a state runs to it. -/
theorem runs_of {i : Instr} {s t : State} {P : State → Prop} (h : exec i s = .next t) (hp : P t) : Runs i s P := ⟨t, h, hp⟩

/-- An event whose condition holds runs to its effect. -/
theorem runs_when {i : Instr} {s t : State} {g : Bool} {P : State → Prop} (h : exec i s = when g s t) (hg : g = true) (hp : P t) :
    Runs i s P := ⟨t, by rw [h, hg]; rfl, hp⟩

end Sys2Proof.Machine
end

