-- ==== Sys2Proof/Tests/Slice0.lean ====
section
/-! SUPPORT. Tests of the model: ill-formed terms, the spec's worked examples, small steps, and a witness for the hypotheses of each
statement of Certificates/Slice0/Obligations.lean. -/

namespace Sys2Proof.Tests

set_option Elab.async false

open Sys2Proof.Machine

/-! Terms that WellFormed refuses, one per check. -/

/-- A control frame with its CRC. -/
def someFrame (typ : Byte) (flow : BitVec 16) (body : List Byte) : Frame := sealFrame ⟨typ, 0, 7, flow, 0, 0, 0, 63, 0, 0, 0, body, 0⟩

/-- An untagged Ethernet frame that carries IPv6 with a next header. -/
def carrier (proto : Byte) : Net := ⟨none, 0x86DD, 100, proto, true⟩

def bulk (typ : Byte) (addr : W64) (payload : List Byte) : HMsg :=
  ⟨carrier 17, 51024, 1, 5, 1, typ, 7, 9, 0, 0, addr, 0, payload⟩

theorem test_wf_upset_misaligned : (Instr.load 0 [⟨32, [(0, 1)]⟩]).wf = false := by decide +kernel
theorem test_wf_upset_past_memory : (Instr.load 0 [⟨0x024000000000, [(0, 1)]⟩]).wf = false := by decide +kernel
theorem test_wf_upset_symbol_72 : (Instr.patrolScrub 0 [⟨0, [(72, 1)]⟩]).wf = false := by decide +kernel
theorem test_wf_upset_no_change : (Instr.wipeVerifyDone 0 [⟨0, [(3, 0)]⟩]).wf = false := by decide +kernel
theorem test_wf_upset_symbol_twice : (Instr.windowRead 0 4 [⟨0, [(3, 1), (3, 2)]⟩]).wf = false := by decide +kernel
theorem test_wf_upset_good : (Instr.load 0 [⟨64, [(3, 1), (71, 2)]⟩]).wf = true := by decide +kernel
theorem test_wf_sram_upset : (Instr.store 0 [⟨0xC8000, 1⟩]).wf = false ∧ (Instr.store 0 [⟨0xC7FFF, 1⟩]).wf = true := by decide +kernel
theorem test_wf_window_read : (Instr.windowRead 0 0 []).wf = false ∧ (Instr.windowRead 0 65 []).wf = false := by decide +kernel
theorem test_wf_contribution_source : (Instr.contributionAccept 0 584 []).wf = false := by decide +kernel
theorem test_wf_contribution_element : (Instr.contributionAccept 0 583 [2097152]).wf = false := by decide +kernel
theorem test_wf_control_body : (Instr.ack 0 (someFrame 3 0 []) 0).wf = false ∧
    (Instr.ack 0 (someFrame 3 0 (List.replicate 20 0)) 0).wf = true := by decide +kernel
theorem test_wf_data_body :
    let f := fun (n : Nat) (valid : BitVec 16) => ({ someFrame 1 0 (List.replicate n 0) with size := 5, valid := valid } : Frame)
    (Instr.data 0 (f 4097 0) 0).wf = false ∧ (Instr.data 0 (f 4096 4096) 0).wf = true ∧ (Instr.data 0 (f 4096 4097) 0).wf = false := by
  decide +kernel
theorem test_wf_frames_of_one_cycle : (Instr.nack 0 (someFrame 4 0 (List.replicate 20 0), some (someFrame 3 0 [])) 0).wf = false ∧
    (Instr.ackTimeout (0, some (someFrame 3 0 [])) 0).wf = false := by decide +kernel
theorem test_wf_block : (Instr.badBlockBoundary (0, List.replicate 63 1)).wf = false := by decide +kernel
theorem test_wf_message : (Instr.harbourData (bulk 1 0 (List.replicate 8193 0))).wf = false := by decide +kernel
theorem test_wf_power_frame_bytes : (Instr.fastPowerFrame ([], false, false) ⟨0, 0, 0, []⟩).wf = false := by decide +kernel
theorem test_wf_power_work : (Instr.fastPowerFrame (List.replicate 16 0, false, false) ⟨2, 1, 3, []⟩).wf = false ∧
    (Instr.fastPowerFrame (List.replicate 16 0, false, false) ⟨1, 3, 2, []⟩).wf = false := by decide +kernel
theorem test_wf_trip_dies : (Instr.thermalTrip [] 0).wf = false := by decide +kernel
theorem test_wf_wake_dies : (Instr.wakePin 0 true 10 [0]).wf = false := by decide +kernel
theorem test_wf_window_write : (Instr.windowWrite 0 ([0, 0], false) 0).wf = false ∧ (Instr.windowWrite 0 (List.replicate 68 0, false) 0).wf = false := by
  decide +kernel
theorem test_wf_flow_context : (Instr.flowContextWrite 0 [] 0).wf = false ∧ (Instr.flowContextWrite 63 [0, 0] 0).wf = false := by decide +kernel
theorem test_wf_register_length : (Instr.registerWrite 0x80000 [0, 0] none 0).wf = false := by decide +kernel
theorem test_wf_register_alignment : (Instr.registerWrite 0x80002 [0, 0, 0, 0] none 0).wf = false := by decide +kernel
theorem test_wf_mailbox_end : (Instr.registerWrite 0xFFF [0, 0] none 0).wf = false := by decide +kernel
theorem test_wf_jtag : (Instr.jtagBusacc false 0x80000 3 [] (none, [], 0)).wf = false ∧ (Instr.jtagBusacc true 0xC00000 0 [] (none, [], 0)).wf = false ∧
    (Instr.jtagBusacc true 0x80000 4 [0, 0, 0, 0] (none, List.replicate 65 0, 0)).wf = false := by decide +kernel
theorem test_wf_ledger_mark : (Instr.ledgerDoneMark 73729 false).wf = false := by decide +kernel

/-! The table has no row with bits: no word spells a command. -/

theorem test_no_word_spells_a_command : decodeTableWord 64 0x3F00000000000000 = none := by decide +kernel

/-! Worked examples and reference values of the spec. -/

/-- R204's example address. -/
theorem test_memory_map : stackIdx 0x01456789ABC0 = 14 ∧ localAddr 0x01456789ABC0 = 0x63BEC4BC0 ∧
    pseudoChannel (localAddr 0x01456789ABC0) = 43 ∧ channelOf (localAddr 0x01456789ABC0) = 21 ∧ halfOf (localAddr 0x01456789ABC0) = 1 ∧
    globalAddr 14 0x63BEC4BC0 = 0x01456789ABC0 := by decide +kernel

theorem test_crc32c_check_value : crc32c [0x31, 0x32, 0x33, 0x34, 0x35, 0x36, 0x37, 0x38, 0x39] = 0xE3069283#32 := by decide +kernel

theorem test_shake256_empty : (shake256 []).take 8 = [0x46, 0xB9, 0xDD, 0x2B, 0x0B, 0xA8, 0x8D, 0x13] := by decide +kernel

/-- 04's example of the output formats: 0x40533333 as BF16 and FP16. -/
theorem test_output_formats : toBF16 (ofF32 0x40533333) = 0x4053 ∧ toFP16 (ofF32 0x40533333) = 0x429A := by decide +kernel

/-- Rounding to nearest, ties to even, and the limits of FP32. -/
theorem test_fp32_rounding : toF32 (fvAdd (ofF32 0x4B800000) (ofF32 0x3F800000)) = 0x4B800000 ∧
    toF32 (fvAdd (ofF32 0x4B800001) (ofF32 0x3F800000)) = 0x4B800002 ∧ toF32 (fvMul (ofF32 0x7F7FFFFF) (ofF32 0x40000000)) = 0x7F800000 ∧
    toF32 (fvAdd (ofF32 0x7F800000) (ofF32 0xFF800000)) = 0x7FC00000 := by decide +kernel

/-- R284's tempo arithmetic: ticks at a tempo in 1/4,096. -/
theorem test_ticks_to_ns : ticksNs 250000000 4096 = 250000000 ∧ ticksNs 250000000 5120 = 312500000 ∧ ticksNs 250000000 4494 = 274291992 ∧
    ticksNs 800 5120 = 1000 := by decide +kernel

/-- R65's example: a counter at 65,535 that gains 1 and loses 1 in one cycle. -/
theorem test_semaphore_cycle : (semCycle 65535 ⟨[1], some 1, [], none⟩).value = 65534 ∧ (semCycle 65535 ⟨[1], some 1, [], none⟩).ovf = true := by
  decide +kernel

/-- 03's MXFP4 example: inputs 20.0, −3.1 and 0.3. -/
theorem test_mxfp4_block :
    let b := encMXBlock 0x0C ([ofF32 0x41A00000, ofF32 0xC0466666, ofF32 0x3E99999A] ++ List.replicate 29 fvZero)
    b.1 = 129 ∧ (packCodes 4 b.2.1).take 2 = [0xA6, 0x00] := by decide +kernel

/-- 03's Concord-8 example at scale code 0x75; a NaN is poison. -/
theorem test_concord8_codes : [ofF32 0x3CFF9724, ofF32 0x3AC00000, ofF32 0x3A000000, ofF32 0xBE000000, .nan].map (fun v => (encConcord8 0x75 v).1) =
    [0x20, 0x02, 0x00, 0x81, 0x80] := by decide +kernel

/-- 03's Concord-W example: 31,744 at scale code 0x75 over 768 contributions; poison decodes to NaN. -/
theorem test_concordW_decode : toF32 (decConcordWVal 31744 0x75 (ofF32 0x3AAAAAAB)) = 0x3D255556 ∧
    toF32 (decConcordWVal poison 0x75 (ofF32 0x3AAAAAAB)) = 0x7FC00000 := by decide +kernel

/-- R103, R104: 497 needs 16 bits; the block reads back. -/
theorem test_concordW_block :
    let b := (encConcordWBlock (497 :: List.replicate 31 0)).1
    b.take 3 = [0x01, 0xF1, 0x01] ∧ (decConcordWBlock b).1.take 2 = [497, 0] := by decide +kernel

/-- R479, R480: with BYPASS in every TAP the data register path has 14 bits; MT's register is always one bit beside IDCODE. -/
theorem test_bypass_path : drPath (scanInstr tapsReset fun _ => .bypass) = 14 ∧ (tapChain.filter hasTap).length = 14 ∧
    ((tapChain.filter hasTap).map irBits) = [16, 12, 8, 8, 12, 8, 8, 12, 8, 8, 12, 8, 8, 4] ∧ tapActs 37 .busacc = .bypass := by decide +kernel

def lanesAt (m : Fin 16) (rev : Bool) (ls : List (Fin 68)) : List LaneFail := ls.map fun l => ⟨3, m, rev, l⟩

/-- 01's example of start-up training: modules 5, 11 and 14 of ISTH13. -/
theorem test_isthmus_training :
    let failed := lanesAt 5 false [3, 9, 14, 20, 27, 41] ++ lanesAt 5 true [36] ++ lanesAt 11 false [1] ++ lanesAt 11 true [2] ++
      lanesAt 14 false [0, 1, 2, 3, 4] ++ lanesAt 14 true [32, 33, 34, 35, 36]
    let w := fun m => let x := trainMod State.reset failed 3 m; (x.width, x.halfSel, x.sparesFwd, x.sparesRev)
    w 5 = (2, true, 1, 1) ∧ w 11 = (1, false, 1, 1) ∧ w 14 = (3, false, 0, 0) ∧ w 0 = (1, false, 0, 0) := by decide +kernel

/-- R313, 07's example: +100, −27 and poison reach one accumulator. -/
theorem test_accumulator_order :
    let run := fun (qs : List Nat) => qs.foldl (fun a b => (addCode a b).1) (0 : Reg)
    run [100, 0xE5] = 73 ∧ run [100, 0xE5, 0x80] = 0x80000000 ∧ run [0x80, 100, 0xE5] = 0x80000000 := by decide +kernel

/-! Small states: a package in Flood whose isles run, whose wipe has ended and whose lifecycle is owned; one busy core, engine or mailbox. -/

def up : State := { State.reset with
  boot := { bootReset with held := 0, stat := 6, isles := true, serving := true, qual := 0x40FF0000, features := 0xFFFFFFFFFFFFFFFF, dieRead := true, lcState := 1, wdogUs := 1000 }
  memory := { memoryReset with wipe := 0, sramDone := true } }

/-- No stack is listed, so none has failed. -/
theorem clean_of {s : State} (h : s.memory.upset = []) (h' : s.memory.stack = []) : CleanMemory s := by
  refine ⟨h, fun i => ?_⟩
  simp [stackOf, h', tblGet, stackReset]

theorem up_clean : CleanMemory up := clean_of rfl rfl

/-- A command word: opcode and the rest. -/
def word (op rest : Nat) : W64 := BitVec.ofNat 64 (op * 2 ^ 56 + rest)

/-- Core 575 executes a word. -/
def at575 (k : Core) : State := { up with cores := [(575, k)] }
def running (w : W64) (k : Core) : State := at575 { k with mode := .running, pc := 9, held := [(9, w)] }
def waits (w : W64) (v : SeqWait) (k : Core) : State := at575 { k with mode := .running, pc := 9, wait := v, held := [(9, w)] }

/-- What the statements about a word of core 575 assume. -/
def runsWord (s : State) (op : Nat) : Bool :=
  seqRuns s 575 && !badWord (curWord (coreOf s 575)) && opcodeOf (curWord (coreOf s 575)) == op
def waitsWord (s : State) (v : SeqWait) (op : Nat) : Bool :=
  seqWaits s 575 v && !badWord (curWord (coreOf s 575)) && opcodeOf (curWord (coreOf s 575)) == op

/-- A line from fields: bit position and value. -/
def ln (fs : List (Nat × Nat)) : Line := BitVec.ofNat 512 ((fs.map fun f => f.2 * 2 ^ f.1).foldl (· + ·) 0)

/-- A descriptor that waits for no semaphore. -/
def entry (d : Line) : QEntry := ⟨d, 63, 0, false, 63, 0, false, none, [], []⟩
def busy (e : Nat) (r : Run) (k : Core) : State := at575 { k with engines := [(e, ⟨[], some r⟩)] }
def works (e : Nat) (d : Line) (recs : List Line) : State := busy e ⟨entry d, .work, [], [], recs⟩ coreReset

/-- What the statements about the running descriptor of engine e of core 575 assume. -/
def runsIn (s : State) (e : Nat) (p : Phase) : Bool :=
  coreOn s 575 && (match (engineOf (coreOf s 575) e).run with | some r => r.phase == p | none => false)

/-- A job image that holds some sections, one of each type, at address 0; the job runs with tag 7. -/
def image (secs : List (Nat × List Byte)) : List Byte :=
  let ps := secs.map fun x => (x.1, padTo 64 x.2)
  let start := 128 + 16 * ps.length
  let offset := fun i => start + ((ps.take i).map (·.2.length)).foldl (· + ·) 0
  List.replicate 6 0 ++ leBytes 2 ps.length ++ List.replicate 120 0 ++
    (ps.zip (List.range ps.length)).flatMap (fun x => leBytes 2 x.1.1 ++ leBytes 2 0 ++ leBytes 8 (offset x.2) ++ leBytes 4 x.1.2.length) ++
    ps.flatMap (·.2)

def withImage (s : State) (secs : List (Nat × List Byte)) : State :=
  { s with memory := { s.memory with data := memWrite [] 0 (image secs) }, straits := { s.straits with jobTag := 7 },
           job := { s.job with img := some (0, (image secs).length), state := 3 } }

/-- A tide section: FRAME_TICKS 1,000, TEMPO_START 4,096, TEMPO_MAX 16,384, POLICY AUTO; counter 7 has EXPECT 1 and two
cores of the package, and releases S47 of core 575. -/
def tideSection : Nat × List Byte :=
  (secTide, leBytes 8 1000 ++ leBytes 2 4096 ++ leBytes 2 16384 ++ [1] ++ List.replicate 707 0 ++ [1, 0, 2, 0, 47, 0, 0, 0] ++ List.replicate 71 0 ++ [0x80])

/-! Hypotheses met, statement by statement. -/

theorem witness_StepRunsFrontCommand :
    ({ up with pending := [.markerSend 5, .nop 0] } : State).pending = .markerSend 5 :: [.nop 0] ∧
    up.pending = [] ∧ up.memory.merging = none ∧ memOn up = true ∧ up.memory.wipe = 0 ∧ up.boot.resetDue = none ∧ up.boot.held = 0 ∧
    ({ up with boot := { up.boot with resetDue := some 9 } } : State).boot.resetDue = some 9 := by
  decide +kernel

theorem witness_SequencerWordsComplete :
    ([0x00, 0x08, 0x09, 0x21, 0x18, 0x20].all fun op => runsWord (running (word op (7 * 2 ^ 53)) coreReset) op) = true ∧
    runsWord (running (word 0x18 5) { coreReset with armed := true }) 0x18 = true ∧ coreReset.armed = false ∧
    (runsWord (running (word 0x22 0) { coreReset with lc := [(0, 2)] }) 0x22 = true ∧
      1 < tblGet 0 (coreOf (running (word 0x22 0) { coreReset with lc := [(0, 2)] }) 575).lc 0) ∧
    ([0, 1].all fun n => runsWord (running (word 0x22 0) { coreReset with lc := [(0, n)] }) 0x22) = true := by decide +kernel

/-- SEM_ADD past 65,535; SEM_SUB, SEM_WAIT and SEM_WAIT_SUB with N at the semaphore's value, and with no semaphore; both wakes; N one above. -/
theorem witness_SemaphoreWordsComplete :
    let k := { coreReset with sems := [(47, 65535)] }
    let rest := fun (m n : Nat) => m * 2 ^ 50 + n
    ([1, 2, 3, 4].all fun op => runsWord (running (word op (rest 47 65535)) k) op && runsWord (running (word op (rest 63 65535)) k) op) = true ∧
    (waitsWord (waits (word 3 (rest 47 65535)) .sem k) .sem 3 && waitsWord (waits (word 4 (rest 47 65535)) .sem k) .sem 4) = true ∧
    runsWord (running (word 2 (rest 46 1)) k) 2 = true ∧ tblGet 0 k.sems 46 < 1 ∧
    (let s : State := { running (word 2 (rest 46 1)) k with adds := [⟨575, 46, 1⟩] };
      runsWord s 2 = true ∧ (s.adds.find? fun a => a.core = 575) = some ⟨575, 46, 1⟩ ∧ 1 ≤ min 65535 (tblGet 0 k.sems 46 + 1)) := by
  decide +kernel

theorem witness_WaitingWordsWaitAndWake :
    let k := { coreReset with flags := 0x80, sems := [(5, 3)], engines := [(5, ⟨List.replicate 8 (entry 0), none⟩)] }
    let f := fun (n v : Nat) => n * 2 ^ 53 + v * 2 ^ 51 + 2 ^ 52
    (runsWord (running (word 0x0A (f 7 1)) k) 0x0A && waitsWord (waits (word 0x0A (f 7 1)) .flag k) .flag 0x0A) = true ∧
    k.flags.getLsbD 7 = decide (wfld (word 0x0A (f 7 1)) 51 1 = 1) ∧ k.flags.getLsbD 6 ≠ decide (wfld (word 0x0A (f 6 1)) 51 1 = 1) ∧
    runsWord (running (word 0x0A (f 6 1)) k) 0x0A = true ∧
    (runsWord (running (word 0x28 (0x1F * 2 ^ 50)) k) 0x28 && waitsWord (waits (word 0x28 (0x1F * 2 ^ 50)) .fence k) .fence 0x28) = true ∧
    maskIdle k 0x1F = true ∧ maskIdle k 0x3F = false ∧
    ([3, 4].all fun op => runsWord (running (word op (5 * 2 ^ 50 + 4)) k) op) = true ∧
    runsWord (running (word 0x10 (5 * 2 ^ 53 + 63 * 2 ^ 47 + 63 * 2 ^ 24)) k) 0x10 = true ∧ 8 ≤ (engineOf k 5).queue.length := by decide +kernel

theorem witness_IssueFillsQueue :
    let w := word 0x10 (4 * 2 ^ 53 + 63 * 2 ^ 47 + 63 * 2 ^ 24 + 4095)
    let k := { coreReset with engines := [(4, ⟨List.replicate 7 (entry 0), none⟩)] }
    runsWord (running w k) 0x10 = true ∧ seqWaits (waits w .issue k) 575 .issue = true ∧ (engineOf k 4).queue.length < 8 := by decide +kernel

theorem witness_EndingWordsComplete :
    runsWord (running (word 0x38 0) coreReset) 0x38 = true ∧ runsWord (running (word 0x3F 0) coreReset) 0x3F = true ∧
    ([word 0xFF 0, word 0x01 (48 * 2 ^ 50), word 0x08 (2 * 2 ^ 53), word 0x10 (6 * 2 ^ 53), word 0x30 (1 * 2 ^ 54 + 16 * 2 ^ 48),
        word 0x30 (3 * 2 ^ 54)].all fun w => seqRuns (running w coreReset) 575 && badWord (curWord (coreOf (running w coreReset) 575))) = true := by
  decide +kernel

/-- Arrivals at the last isle counter and the last package counter: unconfigured, below EXPECT, at EXPECT; at a pod counter, unconfigured and
below the package's share. -/
theorem witness_BarriersTargetsAndInboundAdds :
    let arrival := fun (sc i : Nat) => ({ up with bars := { up.bars with transit := [⟨575, sc, i, 4⟩] } } : State)
    let isle := fun (b : Bar) => ({ arrival 0 63 with bars := { (arrival 0 63).bars with isle := [(255, b)] } } : State)
    let pkg := fun (b : Bar) => ({ arrival 1 15 with bars := { (arrival 1 15).bars with pkg := [(15, b)] } } : State)
    ((arrival 0 63).bars.transit.find? fun a => a.core = 575) = some ⟨575, 0, 63, 4⟩ ∧ alive (arrival 0 63) = true ∧
    tblGet barReset (arrival 0 63).bars.isle 255 = ⟨0, 0, 0, 0⟩ ∧ tblGet barReset (isle ⟨2, 47, 1, 0⟩).bars.isle 255 = ⟨2, 47, 1, 0⟩ ∧
    tblGet barReset (isle ⟨2, 47, 1, 1⟩).bars.isle 255 = ⟨2, 47, 1, 1⟩ ∧ tblGet barReset (pkg ⟨1, 47, 1, 0⟩).bars.pkg 15 = ⟨1, 47, 1, 0⟩ ∧
    runsWord (running (word 0x30 (2 * 2 ^ 54 + 7 * 2 ^ 48)) coreReset) 0x30 = true ∧
    (let s := at575 { coreReset with armed := true, target := some 100 };
      coreOn s 575 = true ∧ (coreOf s 575).armed = true ∧ (coreOf s 575).target = some 100 ∧ 100 ≤ max s.tide.now 100) ∧
    (let s : State := { up with adds := [⟨575, 47, 65535⟩] };
      (s.adds.find? fun a => a.core = 575) = some ⟨575, 47, 65535⟩ ∧ coreOn s 575 = true) ∧
    (coreOf (at575 { coreReset with mode := .wiping }) 575).mode = .wiping ∧
    (let s := fun (i : Nat) => ({ withImage up [tideSection] with bars := { up.bars with transit := [⟨575, 2, i, 4⟩] } } : State);
      alive (s 7) = true ∧ podExpect (s 6) 6 = 0 ∧ podExpect (s 7) 7 = 1 ∧ (podCount (s 7) 7 4).arrivals + 1 ≠ podShare (s 7) 7) := by
  decide +kernel

/-- A table load whose table ends past the operand memory; a wrong format; a load of no rows, and one whose rows another engine writes; a
held target reached long ago. -/
theorem witness_DescriptorsStart :
    let load := fun (rows sram : Nat) => ln [(0, 3), (16, rows), (32, 64), (192, sram), (224, 64)]
    let queued := fun (e : Nat) (q : QEntry) (k : Core) => at575 { k with engines := tblSet engineIdle k.engines e ⟨[q], none⟩ }
    let held := { entry (load 1 0) with tideHold := true, target := some 100 }
    let sem := { entry (load 1 0) with waitSem := 47, waitN := 2, consume := true }
    let other : Core := { coreReset with engines := [(4, ⟨[], some ⟨entry 0, .work, [(0, 64)], [], []⟩⟩)] }
    let x := fun (e : Nat) (d : Line) => startCheck up coreReset e d
    (engineOf (coreOf (queued 2 held coreReset) 575) 2 = ⟨[held], none⟩ ∧ coreOn (queued 2 held coreReset) 575 = true) ∧
    (lateLaunch coreReset held 102 = false ∧ lateLaunch coreReset held 103 = true) ∧
    (sem.waitSem ≠ 63 ∧ tblGet 0 ({ coreReset with sems := [(47, 1)] } : Core).sems 47 < sem.waitN ∧
      sem.waitN ≤ min 65535 (tblGet 0 ({ coreReset with sems := [(47, 2)] } : Core).sems 47)) ∧
    (x 2 (ln [(0, 4)])).bad = true ∧ lateLaunch coreReset { entry (ln [(0, 4)]) with tideHold := true, target := some 0 } 3 = true ∧
    ((x 4 (ln [(0, 5), (32, 64), (96, 0x63FFC1)])).bad = false ∧ (x 4 (ln [(0, 5), (32, 64), (96, 0x63FFC1)])).inside = false) ∧
    ((x 2 (load 1 0)).bad = false ∧ (x 2 (load 1 0)).inside = true ∧ writesClash (at575 other) 575 2 [] (x 2 (load 1 0)).writes = true ∧
      writesClash (at575 coreReset) 575 2 [] (x 2 (load 1 0)).writes = false ∧ landsClash up [] (x 2 (load 1 0)).lands = false) ∧ (x 2 (load 0 0)).idle = true := by decide +kernel

theorem witness_DescriptorsComplete :
    let s := busy 5 ⟨{ entry 0 with sigSem := 47, sigN := 255 }, .ready, [], [], []⟩ { coreReset with sems := [(47, 65535)] }
    runsIn s 5 .ready = true ∧ tblGet 0 (coreOf s 575).sems 47 + 255 > 65535 ∧
    (let t := busy 5 ⟨entry 0, .sending, [], [], []⟩ coreReset; runsIn t 5 .sending = true ∧ framesWait t 575 0 = false) := by decide +kernel

/-- A drain that runs from context 0. -/
def draining : Drain := ⟨0, 0, 0, false, false, []⟩
def drainCore : Core := { coreReset with drain := some draining }

def loadLine (rows sram : Nat) : Line := ln [(0, 3), (16, rows), (32, 64), (64, 4096), (128, 64), (192, sram), (224, 64)]
def storeLine (rows mem : Nat) : Line := ln [(0, 4), (16, rows), (32, 64), (64, mem), (128, 64), (192, 0), (224, 64)]

/-- A row at the first byte of the drain slot, and one that ends before it; the last line of package memory. -/
theorem witness_LoadsAndStoresMoveRows :
    let s := works 2 (loadLine 2 0) []
    let t := works 3 (storeLine 1 0x023FFFFFFFC0) []
    (runsIn s 2 .work = true ∧ memOn s = true ∧ CleanMemory s ∧ lsBytes (loadLine 2 0) % 64 = 0 ∧
      (∀ n < lsRows (loadLine 2 0), inMem (lsMem (loadLine 2 0) + n * lsMemStride (loadLine 2 0)) (lsBytes (loadLine 2 0)) = true)) ∧
    (runsIn (busy 2 ⟨entry (loadLine 1 0x5F0000), .work, [], [], []⟩ drainCore) 2 .work = true ∧
      touchesDrainSlot drainCore (lsSramRows (loadLine 1 0x5F0000)) = true ∧ touchesDrainSlot drainCore (lsSramRows (loadLine 1 0x5EFFC0)) = false) ∧
    (runsIn t 3 .work = true ∧ memOn t = true ∧ lsStash (storeLine 1 0x023FFFFFFFC0) = false ∧ (∀ i, (stackOf t i).state ≠ 2) ∧
      inMem (lsMem (storeLine 1 0x023FFFFFFFC0)) (lsBytes (storeLine 1 0x023FFFFFFFC0)) = true) := by
  refine ⟨⟨by decide +kernel, by decide +kernel, clean_of rfl rfl, by decide +kernel, by decide +kernel⟩, by decide +kernel,
    by decide +kernel, by decide +kernel, by decide +kernel, (clean_of rfl rfl).2, by decide +kernel⟩

/-- An anchor of capacity 64 at data address 4,096. -/
theorem witness_StashWriteFillsAnchor :
    let d := ln [(0, 4), (8, 1), (16, 1), (32, 64), (224, 64)]
    let s : State := { works 3 d [] with memory := { up.memory with data := [(0, 4), (9, 0x10), (24, 64)] } }
    let m := s.memory.data
    runsIn s 3 .work = true ∧ memOn s = true ∧ lsStash d = true ∧ CleanMemory s ∧ lsBytes d % 64 = 0 ∧ 0 < lsRows d ∧
      inMem (stashRecord d) 128 = true ∧ memNat m (stashRecord d + 8) 8 / 64 * 64 = 4096 ∧ inMem 4096 (lsLen d) = true ∧
      overlap 4096 (lsLen d) (stashRecord d) 128 = false ∧ (memGet m (stashRecord d)).getLsbD 2 = true ∧
      lsLen d ≤ memNat m (stashRecord d + 24) 8 := by
  refine ⟨by decide +kernel, by decide +kernel, by decide +kernel, clean_of rfl rfl, ?_⟩
  decide +kernel

theorem witness_PullCopies :
    let d := fun dst => ln [(0, 5), (16, 0x38F), (32, 64), (96, dst)]
    runsIn (busy 4 ⟨entry (d 0x5F0000), .work, [], [], []⟩ drainCore) 4 .work = true ∧ hitsDrainSlot drainCore (pDst (d 0x5F0000)) (fLen (d 0)) = true ∧
      hitsDrainSlot drainCore (pDst (d 0x5EFFC0)) (fLen (d 0)) = false := by decide +kernel

/-- The line of a flow context: STATE, ROLE and more. -/
def context (state role : Nat) (more : List (Nat × Nat)) : Line := ln ([(0, state), (2, role)] ++ more)

/-- A transfer of 64 bytes over context 16,383, local to core 574 or sent out by port 7. -/
theorem witness_FerriesComplete :
    let d := fun (op dest : Nat) => ln [(0, 6), (8, op), (16, 16383), (32, 64), (128, dest), (192, 47), (208, 9)]
    let s := fun (op dest : Nat) (x : Line) => ({ works 5 (d op dest) [] with straits := { up.straits with flows := [(16383, x)] } } : State)
    let loc := context 2 3 [(32, 0x38E)]
    ([0, 1, 2, 3].all fun op => runsIn (s op 0 loc) 5 .work && fOp (d op 0) == op && fFlow (d op 0) == 16383) = true ∧
    (cState (flowOf (s 0 0 (context 3 0 [])) 16383) ≠ 2 ∧ cState (flowOf (s 0 0 (context 2 0 [])) 16383) = 2 ∧
      cRole (flowOf (s 0 0 (context 2 0 [])) 16383) ≠ 3) ∧
    (cState (flowOf (s 0 0 loc) 16383) = 2 ∧ cRole (flowOf (s 0 0 loc) 16383) = 3 ∧ coreFieldOk (cOutFlow loc) = true ∧
      coreField (cOutFlow loc) = 574 ∧ coreResetting (s 0 0 loc) 574 = false ∧ sramOk (fDest (d 0 0x63FFC0)) (fBytes (d 0 0)) = true ∧
      hitsDrainSlot (coreOf (s 0 0 loc) 574) 0x63FFC0 64 = false) ∧
    coreResetting ({ s 0 0 loc with cores := [(574, { coreReset with mode := .wiping })] } : State) 574 = true ∧
    (memOn (s 1 0 loc) = true ∧ (∀ i, (stackOf (s 1 0 loc) i).state ≠ 2) ∧ fDest (d 1 0x023FFFFFFFC0) % 64 = 0 ∧ fBytes (d 1 0) % 64 = 0) := by
  refine ⟨by decide +kernel, by decide +kernel, by decide +kernel, by decide +kernel, by decide +kernel, (clean_of rfl rfl).2, ?_⟩
  decide +kernel

theorem witness_MultiplyAccumulateUpdatesSlots :
    let d := fun (init k : Nat) => ln [(0, 1), (32, 31), (38, init), (64, k)]
    ([0, 1, 2].all fun i => runsIn (works 0 (d i 128) []) 0 .work && mOp (d i 128) == 0 && mInit (d i 128) == i) = true ∧
    mK (d 0 0) = 0 ∧ (ctxOf coreReset 31).isOpen = false ∧ (ctxOf { coreReset with ctxs := [(31, ⟨true, false, none, 0, true⟩)] } 31).isOpen = true ∧
    runsIn (busy 0 ⟨entry (d 0 129), .kStep 1, [], [], []⟩ { coreReset with comp := true, ctxs := [(31, ⟨true, false, none, 4194303, false⟩)] })
      0 (.kStep 1) = true := by decide +kernel

theorem witness_DrainsHandOffAndEnd :
    let alone := ln [(0, 1), (8, 1)]
    let fused := ln [(0, 1), (63, 1)]
    runsIn (works 0 alone []) 0 .work = true ∧ mOp alone = 1 ∧ mOp fused ≠ 1 ∧ mDrainEn fused = true ∧
    runsIn (busy 0 ⟨entry alone, .handoff, [], [], []⟩ drainCore) 0 .handoff = true ∧ drainCore.drain.isSome = true ∧
    (drainBad coreReset (handoffDesc coreReset fused) = true ∧
      drainBad coreReset (handoffDesc { coreReset with sram := [(0x600000, 1), (0x600001, 1)] } fused) = false) ∧
    ((drainOutputs coreReset alone ++ drainInputs coreReset alone).all inOperands = true ∧
      writesClash (at575 coreReset) 575 6 [] (drainOutputs coreReset alone) = false ∧
      writesClash (busy 4 ⟨entry 0, .work, [(0, 64)], [], []⟩ coreReset) 575 6 [] (drainOutputs coreReset alone) = true ∧
      drainAbsent up (handoffDesc { coreReset with sram := [(0x600000, 1), (0x600001, 1)] } fused) = false) ∧
    (coreOn (at575 drainCore) 575 = true ∧ (coreOf (at575 drainCore) 575).drain = some draining ∧ dNoStatus 0 = false ∧
      fldB (ln [(288, 47)]) 36 1 < 48) := by decide +kernel

theorem witness_LayoutAndTableLoadComplete :
    ([2, 3].all fun op => mOp (ln [(0, 1), (8, op)]) == op && runsIn (works 0 (ln [(0, 1), (8, op)]) []) 0 .work &&
      runsIn (busy 0 ⟨entry (ln [(0, 1), (8, op)]), .work, [], [], []⟩ drainCore) 0 .work) = true ∧ coreReset.drain = none := by decide +kernel

/-- One element copied from 0x100: to 0x640000 (in no memory), to the drain slot, to what a pull writes, to 0x3FFFFC; likewise a MERGE. -/
theorem witness_ClauseRowsComplete :
    let d := ln [(0, 2), (16, 1 + 2 ^ 12)]
    let merge := ln [(0, 2), (8, 2)]
    let r := fun (a : Nat) => ln [(0, a), (64, 1), (96, 1), (112, 1), (128, 1), (144, 1)]
    let recs := fun (a : Nat) => [r 0x100, r 0x100, r a]
    let p := fun (a : Nat) => clausePass coreReset d (recs a) 0
    let m := fun (a : Nat) => (rowsOf (recOf (recJ (recs a) 0))).foldl (mergeUnit coreReset merge (recs a) 0)
      ⟨coreReset, [], [], [], [], false, false, 0⟩
    let outside := fun (q : Pass) => !rangesOk (q.reads ++ q.wrote)
    let other := busy 4 ⟨entry 0, .work, [(0x200, 64)], [], []⟩ coreReset
    (runsIn (works 1 d (recs 0)) 1 .work = true ∧ runsIn (works 1 merge (recs 0)) 1 .work = true ∧
      cOp d = 0 ∧ cOp merge = 2 ∧ cOp (ln [(0, 2), (8, 1)]) = 1) ∧
    (redPermuteOneAxis (ln [(16, 2 ^ 7 + 2 ^ 9)]) = true ∧ redPermuteOneAxis d = false) ∧
    (outside (p 0x640000) && outside (m 0x640000) && !outside (p 0x3FFFFC) && !outside (m 0x3FFF80)) = true ∧
    (writeRanges (p 0x3FFFFC).writes = [(0x3FFFFC, 4)] ∧ touchesDrainSlot drainCore (writeRanges (p 0x5F0000).writes) = true ∧
      touchesDrainSlot drainCore (writeRanges (m 0x5F0000).writes) = true) ∧
    (writesClash other 575 1 [] (writeRanges (p 0x200).writes) = true ∧ writesClash other 575 1 [] (writeRanges (m 0x200).writes) = true ∧
      writesClash other 575 1 [] (writeRanges (p 0x1FC).writes) = false) := by decide +kernel

/-- The whole number of microseconds that wdogUs gives, just past; a core whose reset ends with no command waiting for it, and one that
mailbox 15 waits for. -/
theorem witness_CoreResetsBeginAndEnd :
    let s : State := { at575 { coreReset with mode := .running, program := true } with job := { jobReset with state := 3 } }
    let w : State := at575 { coreReset with mode := .wiping, byWdog := true }
    let r : Running := ⟨0x83, false, none, [575]⟩
    let v : State := { w with control := { w.control with boxes := [(15, { mailboxReset with run := some r, params := [(1, 0x8F), (2, 3)] })] } }
    (islesOn s = true ∧ jobRuns s = true ∧ (coreOf s 575).program = true ∧ s.boot.wdogUs ≠ 0 ∧ seqState s (coreOf s 575) ∈ [1, 2, 3] ∧
      (coreOf s 575).changed + 1000 * s.boot.wdogUs ≤ max s.tide.now 1000000) ∧
    (alive w = true ∧ (coreOf w 575).mode = .wiping ∧ (coreOf w 575).byWdog = true ∧
      (∀ m q, (boxOf w m).run = some q → q.waits.contains 575 = false)) ∧
    (alive v = true ∧ (coreOf v 575).mode = .wiping ∧ (boxOf v 15).run = some r ∧ memNat (boxOf v 15).params 1 2 ≠ 0xFFFF ∧
      (∀ n q, n ≠ 15 → (boxOf v n).run = some q → q.waits.contains 575 = false)) := by
  refine ⟨by decide +kernel, ⟨by decide +kernel, by decide +kernel, by decide +kernel, ?_⟩, by decide +kernel, by decide +kernel, by decide +kernel,
    by decide +kernel, ?_⟩
  · intro m q h
    exact absurd (show (none : Option Running) = some q from h) (by simp)
  · intro n q hn h
    exact absurd h (by simp [boxOf, tblGet, mailboxReset, Ne.symm hn])

/-- A module of link 3 at full width, link 3 trained. -/
def fullModule : IsthModule := { moduleReset with width := 1 }
def linkUp3 (x : IsthModule) : State :=
  { up with isth := { up.isth with mods := (List.range 7).map (fun m => (48 + m, fullModule)) ++ [(63, x)], link := [(3, 1)] } }

theorem witness_IsthmusRowsComplete :
    (islesOn up = true ∧ ∀ k < 4, linkState up k = 0) ∧
    (islesOn (linkUp3 fullModule) = true ∧ linkState (linkUp3 fullModule) 3 ≠ 0 ∧ watched (isthMod (linkUp3 fullModule) 3 15) true 67 = true ∧
      worksMod (isthMod (linkUp3 fullModule) 3 15) = true) ∧
    (declaredLane fullModule 135 = false ∧ fullModule.change = none ∧ declBefore ⟨0, 135⟩ ⟨0, 134⟩ = false ∧ declBefore ⟨0, 135⟩ ⟨1, 0⟩ = true ∧
      declaredLane { fullModule with change := some ⟨⟨1, 0⟩, 5⟩ } 135 = false) ∧
    (let s := fun (ds : List LaneDecl) => linkUp3 { fullModule with change := some ⟨⟨0, 134⟩, 5⟩, declared := ds };
      (isthMod (s []) 3 15).change = some ⟨⟨0, 134⟩, 5⟩ ∧ (isthMod (s []) 3 15).declared = [] ∧ (isthMod (s [⟨0, 135⟩]) 3 15).declared = [⟨0, 135⟩] ∧
        linkState (s []) 3 = 1) := by decide +kernel

/-- Full width with four failures and with five; which half covers; half width, its lanes and others; offline. -/
theorem witness_LaneFailureSettlesModule :
    let marked := fun (w : Nat) (fs : List Nat) => ({ moduleReset with width := w, failed := fs.map (·, true) } : IsthModule)
    let y := fun (w : Nat) (fs : List Nat) => markLane (marked w fs) true 67
    let covers := fun (x : IsthModule) (hi : Bool) =>
      decide (failedOf x false (halfLanes hi ++ spareLanes) ≤ 4) && decide (failedOf x true (halfLanes hi ++ spareLanes) ≤ 4)
    laneFailed (marked 1 [68, 69, 70]) true 67 = false ∧ (failedAll (y 1 [68, 69, 70]) false ≤ 4 ∧ failedAll (y 1 [68, 69, 70]) true = 4) ∧
    (failedAll (y 1 [68, 69, 70, 71]) true = 5 ∧ covers (y 1 [68, 69, 70, 71]) true = true ∧ covers (y 1 [68, 69, 70, 71]) false = false) ∧
    (covers (y 1 [100, 101, 102, 103]) false = true ∧ covers (y 1 [100, 101, 102, 103]) true = false) ∧
    (covers (y 1 [132, 133, 134, 68, 100, 0, 32]) false = false ∧ covers (y 1 [132, 133, 134, 68, 100]) true = false) ∧
    (activeHalf { marked 2 [] with halfSel := true } true 63 = true ∧ activeHalf { marked 2 [] with halfSel := true } true 31 = false) := by
  decide +kernel

/-- Port 7 as given. -/
def port7 (k : Port) : State := { up with straits := { up.straits with ports := [(7, k)] } }
def portUp7 : Port := { portReset with state := 2 }

theorem witness_PortsTrainAndGoDown :
    mayTrain (port7 portReset) 7 = true ∧
    (let s := port7 { portReset with state := 3, cause := 5 }; mayTrain s 7 = true ∧ (portOf s 7).state = 3 ∧ (portOf s 7).cause = 5) ∧
    (straitsOn (port7 portUp7) = true ∧ (portOf (port7 portUp7) 7).state = 2) ∧ (portOf (port7 { portReset with state := 1 }) 7).state = 1 ∧
    activeLanes (0x00FFFFFF ||| 0) = 8 ∧ activeLanes (0x00FFFFFF ||| 0x01000000) = 7 := by decide +kernel

theorem witness_PortLanesAndErrors :
    let s := port7 { portUp7 with newRx := 0x00FFFFFF, newTx := 0x00FFFFFF, pauseRx := true, pauseTx := true }
    let f := someFrame 9 0 ([0xFE, 0xFF, 0xFF, 0xFF] ++ List.replicate 16 0)
    (straitsOn s = true ∧ (portOf s 7).state = 2 ∧ (portOf s 7).newRx ≠ 0 ∧ activeLanes ((portOf s 7).failRx ||| (portOf s 7).newRx) = 8 ∧
      (portOf s 7).newTx ≠ 0 ∧ (portOf s 7).pauseRx = true ∧ (portOf s 7).pauseTx = true) ∧
    activeLanes ((portOf (port7 { portUp7 with newRx := 0x01FFFFFF }) 7).failRx ||| 0x01FFFFFF) < 8 ∧
    (((portOf s 7).failRx ||| (portOf s 7).newRx).getLsbD 31 = false) ∧
    (straitsOn (port7 portUp7) = true ∧ (portOf (port7 portUp7) 7).pauseRx = false ∧ (portOf (port7 portUp7) 7).pauseTx = false ∧ f.typ = 9 ∧
      frameGood f = true ∧ bNat f.body 4 1 % 2 = 0) ∧
    (4096 < (none : Option Nat).getD 4097 ∧ 4096 < (some 4097).getD 4097) ∧
    (tblGet 0 portUp7.ueAt 31 = 0 ∧ 5 + 1000000 ≤ max tideReset.now 1000004 + 1 ∧ max tideReset.now 1000003 + 1 < 5 + 1000000) ∧
    (boundaryGood (1 :: List.replicate 63 0) = false ∧ portUp7.hunting = false) := by decide +kernel

/-- Port roles: port 7 is linked with the far end's port 0. -/
def roles7 : Nat × List Byte := (secRoles, List.replicate 112 0 ++ [1, 0])

/-- Port 7 is up and linked; context 16,383 as given. -/
def linked7 (x : Line) : State :=
  withImage { port7 portUp7 with straits := { (port7 portUp7).straits with flows := [(16383, x)] } } [roles7]

/-- A frame of context 16,383 without CRC: OP, FIRST and LAST in its flags; a DATA frame has a payload area of 256 bytes. -/
def flowFrame (typ flags : Byte) (seq : BitVec 32) (dest : W64) (body : List Byte) : Frame :=
  ⟨typ, flags, 7, 16383, seq, BitVec.ofNat 16 body.length, if typ = 1 then 1 else 0, 47, 9, 0, dest,
    body ++ List.replicate ((if typ = 1 then 256 else 20) - body.length) 0, 0⟩

/-- A frame of the right layout with its CRC is good. -/
theorem seal_good {f : Frame} (h : (decide (f.size.toNat ≤ 5) && (!knownType f.typ.toNat || (decide (f.size = 0) != decide (f.typ = 1)))
    && decide (f.body.length = frameArea f)) = true) : frameGood (sealFrame f) = true := by
  show (_ && decide (frameCrc f = frameCrc (sealFrame f))) = true
  exact (Bool.and_eq_true _ _).mpr ⟨h, decide_eq_true rfl⟩

theorem witness_SequencedFrames :
    let s := fun (state role : Nat) => linked7 (context state role [(64, 0x38F)])
    let f := flowFrame 1 2 0 0 [1]
    let takes := fun (d : Line) => (cState d = 2 ∨ cState d = 3) ∧ (cRole d = 1 ∨ cRole d = 2)
    (alive (s 2 1) = true ∧ (portOf (s 2 1) 7).state = 2 ∧ (portOf (s 2 1) 7).pauseRx = false ∧ roleLinked (portRole (s 2 1) 7) = true ∧
      (s 2 1).straits.jobTag = f.jobTag.toNat ∧ f.jobTag.toNat ≠ (8 : Nat) ∧ frameFlow f = 16383) ∧
    (frameGood (sealFrame f) = true ∧ frameGood (sealFrame (flowFrame 2 8 0 0 [])) = true) ∧
    (takes (flowOf (s 2 1) 16383) ∧ takes (flowOf (s 3 2) 16383) ∧ takes (flowOf (s 2 2) 16383) ∧ ¬ takes (flowOf (s 1 1) 16383)) ∧
    (f.seq.toNat = cRecvSeq (flowOf (s 2 1) 16383) ∧ coreFieldOk (cDestCore (flowOf (s 2 2) 16383)) = true ∧ f.destSem.toNat < 48 ∧
      isLast (flowFrame 2 8 0 0 []) = true ∧ frameOp f = 2 ∧ dCtrl (flowFrame 1 2 0 (BitVec.ofNat 64 (23 * 2 ^ 32)) []) < 24 ∧
      inqOf (s 2 2) 7 = [] ∧ forController ⟨16383, none, 0, flowFrame 1 2 0 (BitVec.ofNat 64 (23 * 2 ^ 32)) []⟩ = true) ∧
    (seqAfter (0xFFFFFFFF : BitVec 32).toNat 0 = true ∧ seqAfter (1 : BitVec 32).toNat 0 = false) ∧ (rtOf (s 2 1) 16383).nack = none := by
  refine ⟨?_, ⟨seal_good ?_, seal_good ?_⟩, ?_⟩ <;> decide +kernel

theorem witness_SinkDeliversToSram :
    let s := linked7 (context 2 2 [(64, 0x38F)])
    let f := fun (dest : W64) => flowFrame 1 8 0 dest (List.replicate 64 1)
    let writer : Core := { coreReset with engines := [(4, ⟨[], some ⟨entry 0, .work, [(0x63FFC0, 64)], [], []⟩⟩)] }
    frameGood (sealFrame (f 0x63FFC0)) = true ∧ alive s = true ∧ (portOf s 7).state = 2 ∧ (portOf s 7).pauseRx = false ∧
    min (f 0).body.length (f 0).valid.toNat = 64 ∧ inqOf s 7 = [] ∧ frameOp (f 0) = 0 ∧ s.straits.jobTag = (f 0).jobTag.toNat ∧
    s.straits.jobTag ≠ 0 ∧ cState (flowOf s 16383) = 2 ∧ cRole (flowOf s 16383) = 2 ∧ roleLinked (portRole s 7) = true ∧
    (f 0).seq.toNat = cRecvSeq (flowOf s 16383) ∧ coreFieldOk (cDestCore (flowOf s 16383)) = true ∧ coreField (cDestCore (flowOf s 16383)) = 575 ∧
    coreResetting s 575 = false ∧ sramOk 0x63FFC0 64 = true ∧ sramOk 0x63FFC1 64 = false ∧ hitsDrainSlot (coreOf s 575) 0x63FFC0 64 = false ∧
    writesClash s 575 7 [] [(0x63FFC0, 64)] = false ∧ hitsDrainSlot drainCore 0x5F0000 64 = true ∧
    writesClash ({ s with cores := [(575, writer)] } : State) 575 7 [] [(0x63FFC0, 64)] = true ∧
    coreResetting ({ s with cores := [(575, { coreReset with mode := .wiping })] } : State) 575 = true :=
  ⟨seal_good (by decide +kernel), by decide +kernel⟩

/-- A source on port 7 that has sent SEQ 0, with its copy sent three times again and four times, and a frame waiting. -/
def sender (retries : Nat) : State :=
  let s := linked7 (context 2 0 [(16, 7), (96, 1), (192, 1)])
  { s with straits := { s.straits with rt := [(16383, { flowIdle with
      txq := [⟨none, flowFrame 1 0 0 0 [1]⟩], replay := [⟨flowFrame 1 0 0 0 [], retries, 0⟩], initial := 2, spent := 1 })] } }

theorem witness_AckAndRetry :
    let s := sender 2
    let d := flowOf s 16383
    (alive s = true ∧ (portOf s 7).state = 2 ∧ (portOf s 7).pauseRx = false ∧ frameGood (sealFrame (flowFrame 3 0 0 0 [])) = true ∧
      frameGood (sealFrame (flowFrame 4 0 0 0 [])) = true ∧ s.straits.jobTag = 7 ∧ sends d = true ∧ cPort d = 7) ∧
    (seqDist (cAckedSeq d) 1 ≤ seqDist (cAckedSeq d) (cSendSeq d)) ∧
    (seqDist (cAckedSeq d) 0 < seqDist (cAckedSeq d) (cSendSeq d) ∧
      ((rtOf s 16383).replay.find? fun c => c.frame.seq.toNat = 0) = some ⟨flowFrame 1 0 0 0 [], 2, 0⟩ ∧
      ((rtOf (sender 3) 16383).replay.find? fun c => c.frame.seq.toNat = 0) = some ⟨flowFrame 1 0 0 0 [], 3, 0⟩) ∧
    ((rtOf s 16383).replay.head? = some ⟨flowFrame 1 0 0 0 [], 2, 0⟩ ∧ (portOf s 7).pauseTx = false ∧ 0 ≠ max s.tide.now 2000 ∧
      0 + max 500 (portOf s 7).ackTmo ≤ max s.tide.now 2000) ∧
    (let t := linked7 (context 2 2 []);
      arrivalPort t 16383 = some 7 ∧ cState (flowOf t 16383) = 2 ∧
      (rtOf ({ t with straits := { t.straits with rt := [(16383, { flowIdle with ackOwed := true })] } } : State) 16383).ackOwed = true) := by
  decide +kernel

theorem witness_PortsSendAndCount :
    (alive (sender 0) = true ∧ (portOf (sender 0) 7).state = 2 ∧ (portOf (sender 0) 7).pauseTx = false ∧
      nextToSend (atTide (sender 0) 5) 7 = some 16383 ∧ (rtOf (sender 0) 16383).txq.head? = some ⟨none, flowFrame 1 0 0 0 [1]⟩) ∧
    (frameGood (flowFrame 2 0 0 0 []) = false ∧ (portOf (sender 0) 7).pauseRx = false ∧ frameGood (sealFrame (flowFrame 5 0 0 0 [])) = true ∧
      frameGood (sealFrame (flowFrame 2 0 0 0 [])) = true ∧ knownType 5 = false ∧ foreignTag (sender 0) (flowFrame 2 0 0 0 []) = false ∧
      unknownTo (sender 0) 7 (flowFrame 2 0 0 0 []) = true) := by
  decide +kernel

theorem witness_IdentityExchange :
    let s := linked7 0
    let f := someFrame 8 0 (List.replicate 20 0)
    let a : Arming := ⟨15, false, 0, 0⟩
    let t : State := { s with job := { s.job with state := 1, arming := some a },
                              control := { s.control with boxes := [(15, { mailboxReset with run := some ⟨0x32, false, none, []⟩ })] } }
    (alive s = true ∧ (portOf s 7).state = 2 ∧ (portOf s 7).pauseRx = false ∧ f.typ = 8 ∧ frameGood f = true ∧ roleLinked (portRole s 7) = true ∧
      s.job.arming = none ∧ armed s = true) ∧ roleLinked (portRole (port7 portUp7) 7) = false ∧
    (t.job.arming = some a ∧ (∀ p ∈ linkedPorts t, (portOf t p).state ≠ 1) ∧ (boxOf t 15).run = some ⟨0x32, false, none, []⟩ ∧
      a.since + (if a.spare then 10000000000 else 20000000) ≤ max t.tide.now 20000000) := by decide +kernel

/-- Port 7 with a marker of a child or of a parent; pod 9. -/
def inPod (k : Port) (t : Tide) : State := { port7 k with tide := { t with podId := 9 } }
def tideFrame (typ : Byte) (body : List Byte) : Frame :=
  sealFrame ⟨typ, 0, 9, 0, 5, 0, 0, 63, 0, 0, 0, body ++ List.replicate (20 - body.length) 0, 0⟩
def childMark : Marker := ⟨5, 0, 0, 3, true, true, 0, 0⟩

theorem witness_TideStates :
    let s := inPod portUp7 tideReset
    let f := tideFrame 0x10 []
    (alive s = true ∧ (portOf s 7).state = 2 ∧ (portOf s 7).pauseRx = false ∧ f.typ = 0x10 ∧ frameGood f = true ∧ s.tide.podId ≠ 0 ∧
      f.jobTag.toNat = s.tide.podId ∧ (port7 portUp7).tide.podId = 0) ∧
    (inPod portUp7 { tideReset with parent := 7, state := 2 }).tide.parent = 7 ∧
    (portOf (inPod { portUp7 with marker := some childMark } tideReset) 7).marker = some childMark ∧
    (childMark.child = true ∧ childMark.changedAt + 3000 < 3001 ∧ ¬ childMark.changedAt + 3000 < 3000) ∧
    (let t := inPod portUp7 { tideReset with state := 3, locked := true };
      t.tide.state ∈ [1, 2, 3] ∧ bestParent (atTide t 9) = none) ∧
    (let t := inPod portUp7 { tideReset with state := 4, locked := true, holdSince := 1 };
      t.tide.state = 4 ∧ t.tide.locked = true ∧ t.tide.holdSince + 100000000 ≤ max t.tide.now 100000001) ∧
    (let t := inPod { portUp7 with marker := some { childMark with child := false, changedAt := 999997000 } }
        { tideReset with state := 2, parent := 7, inBound := some 0 };
      t.tide.state = 2 ∧ (portOf t t.tide.parent).marker = some { childMark with child := false, changedAt := 999997000 } ∧
        max t.tide.now 1000000000 ≤ 999997000 + 3000 ∧ t.tide.inBound = some 0 ∧ 0 + 1000000000 ≤ max t.tide.now 1000000000) ∧
    (let t := inPod portUp7 { tideReset with rank := 4 };
      1 ≤ t.tide.rank ∧ t.tide.rank ≤ 4 ∧ t.tide.state ≠ 5 ∧ t.boot.clkMode ≠ 3 ∧
        lastLive t + 10000 + 40000 * (t.tide.rank - 1) ≤ max t.tide.now 130000) := by decide +kernel

/-- A package of pod 9 whose job runs in frame 5 at tempo 4,096. -/
def inFrame (k : Port) (t : Tide) : State :=
  withImage (inPod k { t with running := true, step := 5, start := 9000, curQ := 4096 }) [tideSection]

theorem witness_TempoScheduleAndFrames :
    let s := inFrame { portUp7 with marker := some childMark } { tideReset with state := 5, podQ := 5000 }
    let c := inFrame portUp7 { tideReset with state := 3, parent := 7 }
    (alive s = true ∧ (portOf s 7).state = 2 ∧ (portOf s 7).pauseRx = false ∧ (tideFrame 0x14 []).typ = 0x14 ∧
      frameGood (tideFrame 0x14 []) = true ∧ s.tide.podId = (tideFrame 0x14 []).jobTag.toNat ∧
      (portOf s 7).marker = some childMark) ∧ c.tide.parent < 8 ∧ portUp c c.tide.parent = true ∧
    (s.tide.state = 5 ∧ jobRuns s = true ∧ policyAuto s = true ∧ lastQ s < min s.tide.podQ (tempoMax s) ∧ s.tide.pending.length < 4) ∧
    (let f := tideFrame 0x11 ([1, 0, 0x88, 0x13, 7] ++ List.replicate 15 0);
      f.typ = 0x11 ∧ frameGood f = true ∧ bNat f.body 0 1 = 1 ∧ (⟨bNat f.body 4 8, bNat f.body 2 2⟩ : Announce) = ⟨7, 5000⟩ ∧ 
        (⟨7, 5000⟩ : Announce) ∉ c.tide.pending ∧ c.tide.step < 7 ∧ (⟨7, 5000⟩ : Announce) ∈ ({ c.tide with pending := [⟨7, 5000⟩] } : Tide).pending) ∧
    (let f := fun (n : Byte) => tideFrame 0x11 ([2, 0, 0, 0x10, n, 0, 0, 0, 0, 0, 0, 0, 0x28, 0x23] ++ List.replicate 6 0);
      let v := fun (f : Frame) => (bNat f.body 4 8, bNat f.body 12 8, bNat f.body 2 2);
      bNat (f 5).body 0 1 = 2 ∧ frameGood (f 5) = true ∧ c.tide.parent = 7 ∧ c.tide.running = true ∧ ownFrame c 5 = some (v (f 5)) ∧
        ownFrame c 6 ≠ some (v (f 6)) ∧
        (let n : State := { c with tide := { c.tide with running := false, due := some (6, 10000, 4096) } };
          n.tide.running = false ∧ ownFrame n 6 = some (6, 10000, 4096) ∧ (6, 10000, 4096) ≠ v (f 6))) ∧
    (let t := { c with tide := { c.tide with running := false, locked := true }, job := { c.job with state := 2, adopted := true } };
      t.tide.running = false ∧ t.job.state = 2 ∧ t.job.adopted = true ∧ t.tide.locked = true ∧ t.tide.due = none) ∧
    (nextStart c = 10000 ∧ c.tide.adopt = none) ∧
    ((frameTicks c * 4096 + 2048) / 4096 + 9500 > 10000 ∧ ({ c.tide with adopt := some (6, 9500, 4096) } : Tide).adopt = some (6, 9500, 4096)) ∧
    ({ c.tide with running := false, due := some (5, 9000, 4096) } : Tide).due = some (5, 9000, 4096) := by
  refine ⟨?_, ?_, ?_, ?_, ?_, ?_, ?_, ?_⟩ <;> decide +kernel

theorem witness_PodBarriers :
    let s := inFrame { portUp7 with marker := some childMark } { tideReset with state := 3, now := 100 }
    let arrive := tideFrame 0x12 [7, 0, 5, 0, 3, 0]
    let rel := fun (r : Byte) => tideFrame 0x13 [7, 0, 5, 0, r]
    let idle : State := { s with job := { s.job with state := 2 } }
    let held : State := { idle with tide := { idle.tide with uses := [⟨7, 5, 0, false, [], some (100, 50), false, true⟩] } }
    (alive s = true ∧ (portOf s 7).state = 2 ∧ (portOf s 7).pauseRx = false ∧ arrive.typ = 0x12 ∧ frameGood arrive = true ∧
      (portOf s 7).marker = some childMark ∧ s.tide.state ≠ 5 ∧ s.tide.noRoom = [] ∧ s.tide.step < 65536 ∧
      arrive.jobTag.toNat = s.tide.podId ∧ bNat arrive.body 2 2 = s.tide.step ∧ bNat arrive.body 0 1 % 8 = 7 ∧ (podUse s 7 5 0).closed = false) ∧
    ((rel 100).typ = 0x13 ∧ frameGood (rel 100) = true ∧ bNat (rel 100).body 2 2 = idle.tide.step ∧ (podUse idle 7 5 0).release = none ∧ jobRuns idle = false ∧
      100 ≤ bNat (rel 100).body 4 8 ∧ bNat (rel 99).body 4 8 < 100 ∧ (podUse held 7 5 0).release.isSome = true) ∧
    (held.tide.uses.find? (fun x => x.idx = 7 && x.addDue && (match x.release with | some r => decide (r.1 ≤ max held.tide.now 100) | none => false)))
      = some ⟨7, 5, 0, false, [], some (100, 50), false, true⟩ ∧ podRelSem held 7 = 47 ∧ (podMembers held 7).testBit 575 = true := by decide +kernel

/-- A reduction list of one use: controller 23, record 63, base 0, LENGTH 32, EXPECT 1. -/
def reductionSection : Nat × List Byte :=
  (secReduction, leBytes 2 0 ++ leBytes 2 1 ++ List.replicate 60 0 ++ [0, 0, 0, 23, 63, 0, 0, 0, 0, 0, 0, 0, 32, 0, 0, 0, 1, 0] ++ List.replicate 14 0)

def reducing : State :=
  withImage { up with tide := { tideReset with running := true, step := 5, start := 9000, curQ := 4096 }
                      commit := { commitReset with runFrom := 5 } } [tideSection, reductionSection]

theorem witness_ArenasOpen :
    let s := reducing
    let t : State := { s with reduction := { s.reduction with uses := [(useKey 5 0, .opening)], recUse := [(arenaKey 23 63, useKey 5 0 + 1)] } }
    memOn s = true ∧ nextOpen s 23 = some (5, 0) ∧ jobRuns s = true ∧ s.tide.running = true ∧ s.reduction.stopped = false ∧
      inReshard s = false ∧ openingOn s 23 = none ∧ rangeFree s 23 (useAt s 0) = true ∧ s.tide.start ≤ max s.tide.now 9000 ∧ CleanMemory s ∧
      (useAt s 0).record = 63 ∧ (memOn t = true ∧ openingOn t 23 = some (arenaKey 23 63) ∧ parkOf t 23 = []) := by
  refine ⟨by decide +kernel, by decide +kernel, by decide +kernel, by decide +kernel, by decide +kernel, by decide +kernel, by decide +kernel,
    by decide +kernel, by decide +kernel, clean_of rfl rfl, ?_⟩
  decide +kernel

theorem foldl_add_replicate (n b a : Nat) : (List.replicate n b).foldl (· + ·) a = a + n * b := by
  induction n generalizing a with
  | zero => simp
  | succ n ih => rw [List.replicate_succ, List.foldl_cons, ih, Nat.succ_mul]; omega

/-- Controller 23, record 63, from die 7: open with element 31 the last and one contribution expected; not open; the park buffer full to its
last byte. -/
theorem witness_ContributionsTaken :
    let f := fun (e : Nat) => flowFrame 1 2 0 (BitVec.ofNat 64 (23 * 2 ^ 32 + 63 * 2 ^ 24 + e)) [0x7F]
    let x : InFrame := ⟨16383, none, 5, f 31⟩
    let s : State := { up with memory := { up.memory with inq := [(7, [x])] } }
    let o : State := { s with memory := { s.memory with arenas := [(arenaKey 23 63, BitVec.ofNat 256 (32 * 2 ^ 32 + 2 ^ 64 + 2 ^ 136))] } }
    let p : InFrame := ⟨16382, none, 4, ⟨1, 2, 7, 16382, 0, 4096, 5, 63, 0, 0, 0, List.replicate 4096 0, 0⟩⟩
    let full : State := { s with memory := { s.memory with park := [(23, List.replicate 1024 p)] } }
    (memOn s = true ∧ headFor s 23 7 = some x ∧ (inqOf s 7).tail = [] ∧ s.reduction.stopped = false ∧
      ({ s with reduction := { s.reduction with stopped := true } } : State).reduction.stopped = true ∧
      recordOpen s (arenaKey 23 (dArena x.frame)) = false ∧ mustWait s 23 x = false) ∧
    (recordOpen o (arenaKey 23 (dArena x.frame)) = true ∧ aSparse (arenaAt o (arenaKey 23 63)) = false ∧ o.memory.accBad = [] ∧
      (begunOf o (arenaKey 23 63)).length < aExpect (arenaAt o (arenaKey 23 63)) ∧ payload x.frame = [0x7F] ∧
      dElement x.frame < aLength (arenaAt o (arenaKey 23 63))) ∧
    (let e : State := { o with memory := { o.memory with begun := [(arenaKey 23 63, [4])] } };
      ¬ ((begunOf e (arenaKey 23 63)).contains x.xfer = true ∨
        (begunOf e (arenaKey 23 63)).length < aExpect (arenaAt e (arenaKey 23 63)))) ∧
    ((List.range 584).findSome? fun src => (headFor s 23 src).bind fun x => if mustWait s 23 x then none else some (src, x)) = some (7, x) ∧
    mustWait full 23 x = true := by
  refine ⟨by decide +kernel, by decide +kernel, by decide +kernel, by decide +kernel, ?_⟩
  have h : ∀ (s : State) (p : InFrame), (payload p.frame).length = 4096 → parkOf s 23 = List.replicate 1024 p → parkBytes s 23 = 4194304 := by
    intro s p l e
    rw [parkBytes, e, List.map_replicate, foldl_add_replicate, l]
  rw [mustWait, h _ _ ?_ rfl] <;> decide +kernel

/-- Every stack trained. -/
def stacksUp (s : State) : State := { s with memory := { s.memory with stack := (List.range 24).map fun i => (i, { stackReset with state := 1 }) } }

theorem witness_MemoryMaintenance :
    let s := stacksUp up
    let w := fun (n : Nat) (done : Bool) => ({ s with memory := { s.memory with wipe := n, sramDone := done } } : State)
    let line : Nat := globalAddr 23 0xC00000
    (({ s.memory with writeBack := [(line, [1])] } : Memory).writeBack.find? fun p => stackIdx p.1 = 23) = some (line, [1]) ∧
    (memOn s = true ∧ s.memory.wipe = 0 ∧ s.memory.hours ≠ 0 ∧ stackUp s 23 = true ∧ jobRuns ({ s with job := { s.job with state := 4 } } : State) = true) ∧
    ((w 1 false).memory.wipe = 1 ∧ (w 1 false).memory.sramDone = false ∧ (w 1 true).memory.sramDone = true ∧ alive (w 1 true) = true) ∧
    ((w 2 true).memory.wipe = 2 ∧ stackUp (w 2 true) 23 = true ∧ (stackOf (w 2 true) 23).wroteAll = false) ∧
    ((w 3 true).memory.wipe = 3 ∧ (stackOf (w 3 true) 23).readAll = false) ∧
    (s.boot.held = 0 ∧ s.boot.clkMode ≠ 3 ∧ s.power.state < 2 ∧ s.power.vinFault = false ∧ s.power.refLost = false ∧
      feature s featDigest = true ∧ (digestOf ({ s with memory := { s.memory with digests := [(15, { digestReset with snap := true })] } } : State) 15).snap = true) := by
  decide +kernel

/-- Core 575 with a program, waiting as given, of a job in frame 5. -/
def stepping (v : SeqWait) (k : Core) : State :=
  { withImage (waits (word 0x38 0) v { k with program := true }) [tideSection] with
    tide := { tideReset with running := true, step := 5, start := 9000, curQ := 4096 } }

theorem witness_StepDoneAndNextFrame :
    let s := fun (r : RunKind) => stepping .stepEnd { coreReset with runs := r, frameStep := 5 }
    let h : State := { s .step with job := { (s .step).job with state := 4, haltAt := 5 } }
    let n := fun (d slot : Nat) => ({ stepping .stepRef { coreReset with doneUpTo := d } with
      job := { (stepping .stepRef coreReset).job with slotReady := slot } } : State)
    ([RunKind.step, .fold, .reshard, .diag].all fun r => seqWaits (s r) 575 .stepEnd && maskIdle (coreOf (s r) 575) 0x3F && jobRuns (s r) &&
      (coreOf (s r) 575).program && (coreOf (s r) 575).runs == r) = true ∧
    (¬ ((s .step).job.state = 4 ∧ (coreOf (s .step) 575).frameStep = (s .step).job.haltAt)) ∧
    (h.job.state = 4 ∧ (coreOf h 575).frameStep = h.job.haltAt ∧ seqWaits h 575 .stepEnd = true) ∧
    (seqWaits (n 5 4) 575 .stepRef = true ∧ jobRuns (n 5 4) = true ∧ frameRef (n 5 4) 5 = some (9000, 4096) ∧
      nextRun (n 5 4) (coreOf (n 5 4) 575) 5 = some (.at 0 .step) ∧ (n 5 4).job.slotReady < (coreOf (n 5 4) 575).doneUpTo ∧
      (coreOf (n 5 5) 575).doneUpTo ≤ (n 5 5).job.slotReady) ∧
    (frameRef (n 6 6) 6 = some (10000, 4096)) ∧
    (let plans : Nat × List Byte := (secReshard, [2] ++ List.replicate 63 0 ++ [0, 1, 0, 0xFF] ++ List.replicate 60 0 ++ [0, 1])
      let progs : Nat × List Byte := (secPrograms, [1] ++ List.replicate 63 0 ++ [0x8F, 3])
      let w := stepping .stepRef { coreReset with doneUpTo := 5 }
      let a := fun (p : Nat) => ({ withImage w [tideSection, plans, progs] with
        job := { (withImage w [tideSection, plans, progs]).job with slotReady := 5, rsPast := [(4, 5, p)] } } : State)
      frameRef (a 1) 5 = some (9000, 4096) ∧ nextRun (a 0) (coreOf (a 0) 575) 5 = some (.after 0) ∧ planVariant (a 0) 0 = none ∧
        nextRun (a 1) (coreOf (a 1) 575) 5 = some (.after 1) ∧ planVariant (a 1) 1 = some 0 ∧
        (programs (a 1) 0).any (fun x => x.core = 575) = true) := by decide +kernel

/-- A commit section: COMMIT_BAR 7, MIRROR, ledger in region 0, E_TICKS 100, C_TICKS 2,000, up to 3 poisoned, marks at 0x100000; a plan of one
region of two sub-shards. -/
def commitSection : Nat × List Byte :=
  (secCommit, [7, 1, 0, 0] ++ leBytes 4 100 ++ leBytes 4 2000 ++ List.replicate 12 0 ++ leBytes 8 3 ++ List.replicate 16 0 ++ leBytes 8 0x100000 ++
    List.replicate 72 0)
def planSection : Nat × List Byte :=
  (secPlan, leBytes 2 1 ++ List.replicate 62 0 ++ [9, 1, 0, 0, 0, 0, 0, 0] ++ leBytes 8 0x10000000 ++ leBytes 8 0x8000000 ++ List.replicate 8 0)

def committing (c : Commit) (uses : List PodUse) : State :=
  { withImage { up with commit := c } [tideSection, commitSection, planSection] with
    tide := { tideReset with running := true, step := 5, start := 9000, curQ := 4096, uses := uses } }

theorem witness_StepsAreEvaluatedAndDecided :
    let s := committing { commitReset with evalNext := 4 } []
    let e : Eval := ⟨4, 0, 3, [], 0, 0⟩
    let d := fun (poison : Nat) (us : List PodUse) => committing { commitReset with evals := [{ e with poison := poison }] } us
    let us : List PodUse := [⟨7, 4, 0, true, [], some (9000, 10000), false, false⟩]
    let led := fun (st : Nat) => committing { commitReset with ledState := st } []
    (alive s = true ∧ evaluable s 4 = true ∧ s.tide.running = true ∧ 4 < s.tide.step ∧ evalTide s ≤ max s.tide.now 9100 ∧ reshardAt s = none) ∧
    ((d 3 us).commit.evals.head? = some e ∧ jobRuns (d 3 us) = true ∧ e.step < (d 3 us).tide.step ∧
      ((decisionTide (d 3 us) 4).getD 9000) = 10000 ∧ commitRelease (d 3 us) 4 = some (9000, 10000) ∧ secNat (d 3 us) secCommit 24 8 = 3 ∧
      secNat (d 4 us) secCommit 24 8 < 4 ∧ commitRelease (d 3 []) 4 = none) ∧
    (memOn (led 1) = true ∧ subShards (led 1) = 2 ∧ polMirror (led 1) = true ∧ markDone (led 1) 1 (led 1).commit.ledStep = true ∧
      markDone (led 1) (2 + 1) (led 1).commit.ledStep = true ∧ (led 3).commit.ledState = 3) := by decide +kernel

theorem witness_HaltAndFold :
    let s := stepping .stepRef coreReset
    let h : State := { s with job := { s.job with state := 4, haltAt := 5 }, cores := [(575, { coreReset with program := true, mode := .halted })] }
    let plans : Nat × List Byte := (secReshard, [1] ++ List.replicate 63 0 ++ [0, 1, 15] ++ List.replicate 61 0)
    let f := fun (rel : List (Nat × Nat × Nat)) => ({ withImage up [tideSection, plans] with
      tide := s.tide, bars := { up.bars with releases := rel }
      job := { (withImage up [tideSection, plans]).job with rsState := 2, rsDrain := true, rsAt := 5 } } : State)
    (alive h = true ∧ h.job.state = 4 ∧ h.tide.running = true ∧ h.job.haltAt ≤ h.tide.step ∧ allHalted h = true ∧ ledgerSettled h = true) ∧
    (islesOn (f [(4, 15, 1)]) = true ∧ foldDue (f [(4, 15, 1)]) = true ∧ foldReleased (f [(4, 15, 1)]) = true) ∧
    (foldDue (f []) = true ∧ foldReleased (f []) = false ∧ nextStart (f []) ≤ max (f []).tide.now 10000) := by decide +kernel

def powered (f : Power → Power) : State := { up with power := f up.power }

theorem witness_PowerTransitionsWakesAndLosses :
    let box : Tbl Mailbox := [(15, { mailboxReset with state := 1, run := some ⟨0x50, false, none, []⟩ })]
    let s := fun (v : Nat) (h : Bool) => ({ powered fun p => { p with going := some v, wakeHeld := h, mailbox := some 15 } with
      control := { up.control with boxes := box } } : State)
    let x := fun (v : Nat) => powered fun p => { p with state := v, going := some 0 }
    ([1, 2, 3].all fun v => alive (s v false) && !(s v false).power.ballast && (s v false).power.going == some v && (s v false).power.state == 0 && !(s v false).power.wakeHeld &&
      (s v true).power.wakeHeld && (x v).power.state == v && (x v).power.going == some 0 && alive (x v)) = true ∧
    (boxOf (s 1 false) 15).run = some ⟨0x50, false, none, []⟩ ∧ (s 2 false).tide.state ≠ 5 ∧
    (let w := powered fun p => { p with state := 3, en := 8, pol := 8 };
      w.boot.held = 0 ∧ w.power.vinFault = false ∧ w.power.tripDry = false ∧ w.power.going = none ∧ w.power.state ≠ 0 ∧ w.power.en.testBit 3 = true ∧
        true = w.power.pol.testBit 3) ∧
    ((1050 : Int) ≤ tempOf (takeTemps up (List.replicate 37 0 ++ [1050])) 37 ∧ alive up = true) ∧
    (up.boot.isles = true ∧ up.boot.held ≠ 2 ∧ up.power.vinFault = false ∧ (powered fun p => { p with ballast := true, going := some 2 }).power.ballast = true) ∧
    (up.boot.clkMode ≠ 3 ∧ up.power.refLost = false ∧ up.boot.held = 0 ∧ ({ up with boot := { up.boot with held := 1 } } : State).boot.held = 1) := by
  decide +kernel

/-- A frame with MEAN 2,000,000 mW and its CRC; one without. -/
theorem witness_GovernorSteers :
    let b := leBytes 4 1 ++ leBytes 4 2000000 ++ leBytes 4 0
    let r : State := { up with job := { jobReset with state := 3 }, power := { up.power with rampAt := some 100 } }
    frameMean (b ++ leBytes 4 (crc32c b).toNat) = some 2000000 ∧ frameMean (b ++ leBytes 4 0) = none ∧
    (up.boot.held = 0 ∧ up.power.vinFault = false ∧ up.power.state = 0 ∧ (⟨0, 0, 0, [(575, 1650)]⟩ : PowerWork).points = [(575, 1650)]) ∧
    (alive r = true ∧ jobRuns r = true ∧ r.tide.running = false ∧ r.power.rampAt = some 100 ∧ 100 ≤ max r.tide.now 100) := by decide +kernel

theorem witness_MeterRecords :
    let s : State := { powered fun p => { p with notices := [⟨3, 5, 0, 1, 0⟩] } with
      straits := { up.straits with ptpLocked := true }, meter := { meterReset with interval := 60 } }
    let r : State := { s with power := { s.power with reads := [(15, 1)] },
                              control := { s.control with boxes := [(15, { mailboxReset with run := some ⟨0x60, false, none, []⟩ })] } }
    s.boot.held = 0 ∧ s.power.reads = [] ∧ r.power.reads = [(15, 1)] ∧ (boxOf r 15).run = some ⟨0x60, false, none, []⟩ ∧
    s.power.notices = ⟨3, 5, 0, 1, 0⟩ :: [] ∧ s.straits.ptpLocked = true ∧
    (0 < s.meter.interval ∧ max s.meter.rtc 3600000000000 / 60000000000 % s.meter.interval = 0 ∧
      s.meter.closedAt < max s.meter.rtc 3600000000000 / 60000000000) ∧ (1 ≤ 1 ∧ 1 ≠ s.meter.interval) ∧
    (sealRefused 0x41 0 = true ∧ sealRefused mtIntervalAddr 61 = true ∧ sealRefused mtIntervalAddr 60 = false) := by decide +kernel

/-- The harbour link is up; slot 7 holds a session of a kind, number 9, with one window of a line. -/
def harboured (kind : Nat) (f : Session → Session) : State :=
  { up with straits := { up.straits with
      linkUp := true, jobTag := 7, ip := 1
      sessions := [(7, f { sessionFree with state := 1, kind := kind, sid := 9, window := 4, limit := 4, ranges := [⟨4096, 64, 0⟩] })] } }

theorem witness_HarbourReceives :
    let s := harboured 1 id
    let m := bulk 1 4096 (List.replicate 64 1)
    let manifest := leBytes 4 0x50435844 ++ leBytes 2 1 ++ List.replicate 10 0 ++ leBytes 8 77
    (harbourOn s = true ∧ m.version = 1 ∧ netOk s m.net 17 = true ∧ m.dstPort.toNat = s.straits.udp ∧ m.jobTag.toNat = s.straits.jobTag ∧ ({ m with jobTag := 8 } : HMsg).jobTag.toNat ≠ s.straits.jobTag ∧
      findSession s false 9 = some 7 ∧ m.seq.toNat = (sessionOf s 7).recvSeq ∧ (sessionOf s 7).recvSeq < 2 ^ 32) ∧
    (inWindows (sessionOf s 7) 4096 64 = true ∧ inWindows (sessionOf s 7) 4097 64 = false ∧ s.memory.wipe = 0 ∧ CleanMemory s) ∧
    ((sessionOf s 7).kind ≠ 6 ∧ (sessionOf s 7).kind ≠ 4 ∧ (sessionOf (harboured 6 id) 7).kind = 6 ∧
      ((bulk 4 0 manifest).addr.toNat = (sessionOf (harboured 6 id) 7).accepted ∧ leNat (manifest.take 4) = 0x50435844 ∧
        leNat ((manifest.drop 4).take 2) = 1)) ∧
    ((sessionOf (harboured 4 id) 7).kind = 4 ∧ 8 < (bulk 5 0 (List.replicate 40 1)).payload.length) ∧
    (let t := harboured 2 fun x => { x with out := [⟨0, 1, 0, [5], 0, 0⟩], nextSeq := 1, ended := true };
      findSession t true 9 = some 7 ∧ (0 + 1 + 2 ^ 32 - 0) % 2 ^ 32 ≤ (sessionOf t 7).out.length ∧ (sessionOf t 7).todo = []) := by
  refine ⟨by decide +kernel, ⟨by decide +kernel, by decide +kernel, by decide +kernel, clean_of rfl rfl⟩, ?_⟩
  decide +kernel

theorem witness_HarbourKeepsGoing :
    let s := fun (n : Nat) => harboured 2 fun x => { x with out := [⟨0, 1, 0, [5], n, 0⟩], nextSeq := 1, ackOwed := true }
    ([15, 16].all fun n => harbourOn (s n) && (sessionOf (s n) 7).state == 1 && (sessionOf (s n) 7).out == [⟨0, 1, 0, [5], n, 0⟩]) = true ∧
    0 + 100000 ≤ max (s 15).tide.now 100000 ∧ 0 < (sessionOf (s 15) 7).limit ∧ (sessionOf (s 15) 7).ackOwed = true ∧ (s 15).straits.ip ≠ 0 ∧
    (sessionOf (s 15) 7).state ≠ 0 ∧ harbourPowered (s 15) = true ∧ feature (s 15) featPtp = true ∧ netOk (s 15) (carrier 17) 17 = true ∧
    netOk (s 15) (carrier 58) 58 = true ∧
    (let o : HarbourOut := .echoReply 2 []
     let w : State := { s 15 with straits := { (s 15).straits with unresolved := [(2, o)] } }
     (2, o) ∈ w.straits.unresolved) := by decide +kernel

/-! Mailboxes: a state whose mailbox m holds parameters, with the job in a state. -/

/-- `Accepts` for SEQ 0, as a test. -/
def acceptsB (s : State) (m op : Nat) : Bool :=
  boxServed s m && (boxOf s m).state != 1 && (boxOf s m).seq == 0xFF && servedIn op m && (unserved s m).isNone && (exclusiveBusy s op).isNone &&
    (stateGate s op).isNone

theorem accepts_of {s : State} {m op : Nat} (h : acceptsB s m op = true) : Accepts s m op 0 := by
  simp only [acceptsB, Bool.and_eq_true, Option.isNone_iff_eq_none, bne_iff_ne, beq_iff_eq] at h
  obtain ⟨⟨⟨⟨⟨⟨h1, h2⟩, h3⟩, h4⟩, h5⟩, h6⟩, h7⟩ := h
  exact ⟨h1, h2, by rw [h3]; rfl, h4, h5, h6, h7⟩

def boxed (m : Nat) (params : List Byte) (job : Job) : State :=
  { up with control := { up.control with boxes := [(m, { mailboxReset with params := memWrite [] 0 params })] }, job := job }
def inJob (n : Nat) : Job := { jobReset with state := n }

/-- Accepted in mailbox m: SEQ 0 in the states that a function of the opcode gives. -/
theorem witness_accepts :
    ([0x01, 0x02, 0x10, 0x18, 0x19, 0x30, 0x52, 0x51, 0x90, 0x40, 0x50, 0x60, 0x80, 0x81, 0x82, 0x83, 0x91, 0x92].all
      fun op => acceptsB (boxed 15 [] (inJob 0)) 15 op) = true ∧
    ([0x70, 0x71, 0x72, 0x73, 0x74, 0x75, 0x76].all fun op => acceptsB (boxed 0 [] (inJob 0)) 0 op) = true ∧
    ([0x30, 0x31, 0x32, 0x35, 0x36, 0x38, 0x93, 0x94].all fun op => acceptsB (boxed 15 [] (inJob 1)) 15 op) = true ∧
    acceptsB (boxed 15 [] (inJob 2)) 15 0x33 = true ∧
    ([0x34, 0x37, 0x41].all fun op => acceptsB (boxed 15 [] (inJob 3)) 15 op) = true := by decide +kernel

theorem witness_MailboxesTakeAndCompleteCommands :
    let s := boxed 15 [] (inJob 0)
    let b := fun (x : Mailbox) => ({ s with control := { s.control with boxes := [(15, x)] } } : State)
    (opcodes.all fun op => servedIn op 15 || servedIn op 0) = true ∧ (0x01 ∈ opcodes ∧ boxServed s 15 = true ∧ (boxOf s 15).state ≠ 1) ∧
    (boxOf (b { mailboxReset with state := 1 }) 15).state = 1 ∧
    ((5 : Byte).toNat ≠ (boxOf s 15).seq ∧ (5 : Byte).toNat ≠ ((boxOf s 15).seq + 1) % 256 ∧ (0xFF : Byte).toNat = (boxOf s 15).seq ∧
      (0 : Byte).toNat = ((boxOf s 15).seq + 1) % 256) ∧
    (servedIn 0x70 15 = false ∧ servedIn 0x01 15 = true) ∧
    unserved ({ s with boot := { s.boot with serving := false } } : State) 15 = some (.refuse 1 0) ∧ unserved s 15 = none ∧
    (exclusive 0x30 = true ∧ exclusiveRuns ({ s with control := { s.control with boxes :=
      [(14, { mailboxReset with state := 1, run := some ⟨0x31, false, none, []⟩ })] } } : State) = some 0x31) ∧
    (0xABCD ∉ opcodes ∧ (boxOf (b { mailboxReset with state := 1, run := some ⟨0x74, true, some ⟨0, 0, [1]⟩, []⟩ }) 15).run =
      some ⟨0x74, true, some ⟨0, 0, [1]⟩, []⟩ ∧ s.commit.resume ≠ some 15 ∧ s.control.masks.getLsbD 15 = true ∧
      (0 : Reg).getLsbD 15 = false) := by decide +kernel

theorem witness_ReadingCommands :
    Accepts (boxed 15 [] (inJob 0)) 15 0x01 0 ∧ Accepts (boxed 15 [] (inJob 0)) 15 0x02 0 ∧ Accepts (boxed 15 [] (inJob 0)) 15 0x60 0 ∧
    (parameter (boxed 15 [] (inJob 0)) 15 0 1 = 0 ∧ parameter (boxed 15 [] (inJob 0)) 15 1 1 = 0 ∧ (boxed 15 [] (inJob 0)).power.notices = []) ∧
    (let s := boxed 15 [1, 15] (inJob 0)
     let w : State := { s with power := { s.power with notices := [⟨3, 5, 0, 1, 0⟩] } }
     Accepts w 15 0x60 0 ∧ w.power.notices ≠ [] ∧ parameter w 15 0 1 ≤ 1 ∧ parameter w 15 1 1 ≤ 15) ∧
    (Accepts (boxed 0 [] (inJob 0)) 0 0x70 0 ∧ Accepts (boxed 0 [] (inJob 0)) 0 0x71 0 ∧ Accepts (boxed 0 [] (inJob 0)) 0 0x75 0 ∧
      Accepts (boxed 0 [] (inJob 0)) 0 0x74 0) ∧
    (Accepts (boxed 15 [3] (inJob 0)) 15 0x80 0 ∧ parameter (boxed 15 [3] (inJob 0)) 15 0 1 = 3) := by
  refine ⟨accepts_of (by decide +kernel), accepts_of (by decide +kernel), accepts_of (by decide +kernel), by decide +kernel,
    ⟨accepts_of (by decide +kernel), by decide +kernel⟩, ⟨accepts_of ?_, accepts_of ?_, accepts_of ?_, accepts_of ?_⟩, accepts_of ?_, ?_⟩ <;> decide +kernel

theorem witness_SettingCommands :
    let s := fun (ps : List Byte) => boxed 15 ps (inJob 0)
    let t := fun (ps : List Byte) (n : Nat) (tide : Tide) => ({ boxed 15 ps (inJob n) with tide := tide } : State)
    (Accepts (s (leBytes 2 1000)) 15 0x52 0 ∧ parameter (s (leBytes 2 1000)) 15 0 2 ≤ 1000 ∧ 1000 < parameter (s (leBytes 2 1001)) 15 0 2) ∧
    (Accepts (s [1, 0, 0xDC, 5]) 15 0x51 0 ∧ (s [1]).power.notices = [] ∧ parameter (s [1, 0, 0xDC, 5]) 15 0 1 = 1 ∧
      32 ≤ parameter (s [32]) 15 0 1) ∧
    (Accepts (boxed 0 [] (inJob 0)) 0 0x72 0 ∧ (boxed 0 [] (inJob 0)).power.notices.length < 256 ∧
      256 ≤ (List.replicate 256 (⟨3, 1, 0, 0, 0⟩ : Notice)).length) ∧
    (Accepts (s (List.replicate 16 0 ++ leBytes 2 4094)) 15 0x90 0 ∧ (∀ k < 8, (sessionOf (s []) k).state ≠ 1) ∧
      parameter (s (List.replicate 16 0 ++ leBytes 2 4094)) 15 16 2 = 4094) ∧
    (Accepts (boxed 0 [] (inJob 0)) 0 0x73 0 ∧ Accepts (boxed 0 [] (inJob 0)) 0 0x76 0) ∧
    (Accepts (s [3]) 15 0x50 0 ∧ parameter (s [3]) 15 0 1 = 3 ∧ (s [3]).power.going = none ∧ (s [3]).power.state = 0 ∧ armed (s [3]) = false ∧
      (s [3]).memory.wipe = 0 ∧ Accepts (boxed 15 [1] (inJob 2)) 15 0x50 0 ∧ armed (boxed 15 [1] (inJob 2)) = true) ∧
    (Accepts (s [1, 0, 0]) 15 0x40 0 ∧ parameter (s [1, 0, 0]) 15 0 2 ≠ 0 ∧ parameter (s [1, 0, 0]) 15 2 1 = 0 ∧ (s []).tide.state ≠ 5 ∧
      (s []).boot.clkMode ≠ 3 ∧ parameter (s [0, 0, 7]) 15 2 1 ∈ [0, 1, 2, 3, 4, 7] ∧ parameter (s [0, 0, 5]) 15 2 1 ∉ [0, 1, 2, 3, 4, 7]) ∧
    (Accepts (t (leBytes 2 16384) 3 { tideReset with state := 5 }) 15 0x41 0 ∧ parameter (s (leBytes 2 16384)) 15 0 2 = 16384 ∧
      tideReset.pending.length < 4 ∧ Accepts (t [] 3 tideReset) 15 0x41 0) := by
  refine ⟨⟨accepts_of (by decide +kernel), ?_⟩, ⟨accepts_of (by decide +kernel), ?_⟩, ⟨accepts_of (by decide +kernel), by decide +kernel, ?_⟩,
    ⟨accepts_of (by decide +kernel), ?_⟩, ⟨accepts_of (by decide +kernel), accepts_of (by decide +kernel)⟩,
    ⟨accepts_of (by decide +kernel), by decide +kernel, by decide +kernel, by decide +kernel, by decide +kernel, by decide +kernel,
      accepts_of (by decide +kernel), ?_⟩, ⟨accepts_of (by decide +kernel), ?_⟩, ⟨accepts_of (by decide +kernel), by decide +kernel, by decide +kernel,
      accepts_of (by decide +kernel)⟩⟩ <;> decide +kernel

/-- A firmware image of 65 bytes and its signature: only the signature check is left. -/
def fwMem : Mem := memWrite [] 0 (leBytes 4 0x57465844 ++ [1, 0, 0, 0, 65])

theorem fw_passes {b : List Byte} (h : (imgNat b 8 4, imgNat b 20 4, imgNat b 24 4, imgNat b 16 4, b.length) = (65, 0, 0, 0, 5670))
    (h' : (imgNat b 0 4, imgNat b 4 2, imgNat b 6 2, imgNat b 28 36) = (0x57465844, 1, 0, 0))
    (v : Config.xmssVerify (b.take 65) ((b.drop 65).take 5605) = true) : imageFault b = 0 := by
  simp only [Prod.mk.injEq] at h h'
  obtain ⟨h1, h2, h3, h4, h5⟩ := h
  obtain ⟨h6, h7, h8, h9⟩ := h'
  simp [imageFault, h1, h2, h3, h4, h5, h6, h7, h8, h9, v]

/-- FW_UPDATE of an image at 0: one without a magic number; one that passes where XMSS^MT verifies it (Config.xmssVerify is opaque). -/
theorem witness_IdentityCommands :
    let s := fun (ps : List Byte) => boxed 15 ps (inJob 0)
    let f := fun (n : Nat) => ({ s (leBytes 8 0 ++ leBytes 8 n) with memory := { up.memory with data := fwMem } } : State)
    let img := fun (u : State) (n : Nat) => (readRange (startBox (atTide u 0) ⟨15, 0x10, 0, false⟩) 0 n (supReader u)).2
    (Accepts (f 5670) 15 0x10 0 ∧ CleanMemory (f 5670) ∧ inMem 0 (parameter (f 5670) 15 8 8) = true ∧ parameter (f 5670) 15 8 8 = 5670 ∧
      imageFault (img (s []) 1) ≠ 0 ∧
      (Config.xmssVerify ((img (f 5670) 5670).take 65) (((img (f 5670) 5670).drop 65).take 5605) = true → imageFault (img (f 5670) 5670) = 0)) ∧
    (Accepts (s [2, 0xC5]) 15 0x18 0 ∧ lifeAllowed (lifecycle (s [2, 0xC5]).boot) (parameter (s [2, 0xC5]) 15 0 1) = true ∧
      parameter (s [2, 0xC5]) 15 1 1 = 0xC5 ∧ lifeAllowed (lifecycle (s [3, 0xDC]).boot) 3 = true ∧ parameter (s [3, 0xDC]) 15 1 1 = 0xDC ∧
      lifeAllowed (lifecycle ({ (s []).boot with lcState := 0 })) 1 = true ∧ (s []).boot.owners.length < 4 ∧
      lifeAllowed (lifecycle (s [1]).boot) (parameter (s [1]) 15 0 1) = false) ∧
    (Accepts (s []) 15 0x19 0 ∧ parameter (s []) 15 32 1 = 0 ∧ (s []).boot.sigNext < 2 ^ 40 ∧ (s []).boot.sigNext ≤ (s []).boot.sigRes ∧
      parameter (s (List.replicate 32 0 ++ [3])) 15 32 1 = 3 ∧
      Accepts ({ s [] with boot := { up.boot with sigNext := 2 ^ 40 } } : State) 15 0x19 0) := by
  refine ⟨⟨accepts_of ?_, clean_of rfl rfl, ?_, ?_, ?_, fun v => fw_passes ?_ ?_ v⟩, ⟨accepts_of ?_, ?_⟩, accepts_of ?_, ?_, ?_, ?_, ?_, accepts_of ?_⟩ <;>
  decide +kernel

/-- JOB_LOAD of what is no image; arming with and without linked ports, under a tide that is not LOCKED. An image that passes every check has
more than 11 KB, which the kernel takes minutes to read: that one was shown by running the model on it (NOTES.md). -/
theorem witness_JobLoadingCommands :
    let s := fun (ps : List Byte) (t : Tide) => ({ boxed 15 ps (inJob 1) with tide := t } : State)
    let locked := { tideReset with state := 3 }
    let l : State := { withImage (s [] locked) [roles7] with job := { (withImage (s [] locked) [roles7]).job with state := 1 } }
    ((s [] tideReset).power.notices = [] ∧ CleanMemory (s [] tideReset)) ∧
    (Accepts (s [] tideReset) 15 0x30 0 ∧ parameter (s [] tideReset) 15 0 8 % 4096 = 0 ∧ inMem 0 (parameter (s [] tideReset) 15 8 8) = true ∧
      parameter (s [] tideReset) 15 8 8 = peekNat (s [] tideReset) (0 + 16) 8 ∧
      imageDetail (s [] tideReset).boot.features (readRange (startBox (atTide (s [] tideReset) 0) ⟨15, 0x30, 0, false⟩) 0 0 .host).2 0 = some 0xFF000000) ∧
    (parameter (s [1] tideReset) 15 0 8 % 4096 ≠ 0 ∧ Accepts (s [] tideReset) 15 0x31 0) ∧
    (Accepts (s [] locked) 15 0x32 0 ∧ stateSession (s [] locked) = none ∧ (∀ f ∈ (s [] locked).straits.flows, badOutPort (s [] locked) f.2 = false) ∧
      (s [] locked).tide.state = 3 ∧ linkedPorts (s [] locked) = []) ∧
    (Accepts l 15 0x32 0 ∧ linkedPorts l = [7] ∧ stateSession l = none ∧ (∀ f ∈ l.straits.flows, badOutPort l f.2 = false)) ∧
    ((s [] tideReset).tide.state ≠ 3 ∧ (s [] tideReset).tide.state ≠ 5 ∧ Accepts (s [] tideReset) 15 0x32 0) ∧
    (Accepts (s [] locked) 15 0x36 0 ∧ parameter (s [] locked) 15 0 4 = (s [] locked).straits.pos ∧
      parameter (s [] locked) 15 4 2 = (s [] locked).straits.jobTag) ∧ Accepts (s [] tideReset) 15 0x35 0 := by
  refine ⟨⟨by decide +kernel, clean_of rfl rfl⟩, ⟨accepts_of ?_, ?_⟩, ⟨?_, accepts_of ?_⟩, ⟨accepts_of ?_, ?_⟩, ⟨accepts_of ?_, ?_⟩,
    ⟨?_, ?_, accepts_of ?_⟩, ⟨accepts_of ?_, ?_⟩, accepts_of ?_⟩ <;> decide +kernel

theorem witness_JobRunningCommands :
    let s := fun (n : Nat) (ps : List Byte) => boxed 15 ps (inJob n)
    let run := fun (ps : List Byte) => ({ s 3 ps with tide := { tideReset with running := true, step := 5 } } : State)
    let plans : Nat × List Byte := (secReshard, [1] ++ List.replicate 63 0 ++ [0, 2] ++ List.replicate 62 0)
    let r := fun (ps : List Byte) => withImage (run ps) [tideSection, plans]
    (Accepts (s 2 (leBytes 8 1 ++ leBytes 8 1000000 ++ leBytes 2 16384)) 15 0x33 0 ∧ stateSession (s 2 []) = none ∧
      max (s 2 []).tide.now 0 + 1000000 ≤ parameter (s 2 (leBytes 8 1 ++ leBytes 8 1000000)) 15 8 8 ∧
      parameter (s 2 (leBytes 8 1 ++ leBytes 8 1000000)) 15 16 2 = 0 ∧
      parameter (s 2 (leBytes 8 1 ++ leBytes 8 999999)) 15 8 8 < max (s 2 []).tide.now 0 + 1000000) ∧
    (Accepts (r (leBytes 8 7)) 15 0x34 0 ∧ reshardAt (r []) = none ∧ earliestBoundary (atTide (r (leBytes 8 8)) 0) ≤ parameter (r (leBytes 8 8)) 15 0 8 ∧
      (parameter (r (leBytes 8 6)) 15 0 8 : Int) < earliestBoundary (atTide (r (leBytes 8 6)) 0)) ∧
    (Accepts (r (leBytes 8 0 ++ leBytes 8 8)) 15 0x37 0 ∧ earliestBoundary (atTide (r (leBytes 8 0 ++ leBytes 8 8)) 0) ≤
      parameter (r (leBytes 8 0 ++ leBytes 8 8)) 15 8 8 ∧ parameter (r (leBytes 8 0 ++ leBytes 8 8)) 15 0 1 < secNat (r []) secReshard 0 1 ∧
      bucketOpen (r []) = false) ∧
    (Accepts (s 5 (leBytes 8 1)) 15 0x38 0 ∧ resumable (s 5 []).commit 1 = true ∧ parameter (s 5 (leBytes 8 1)) 15 0 8 = 1 ∧
      resumable (s 5 []).commit 0 = false) := by
  refine ⟨⟨accepts_of ?_, ?_⟩, ⟨accepts_of ?_, ?_⟩, ⟨accepts_of ?_, ?_⟩, accepts_of ?_, ?_⟩ <;> decide +kernel

/-- A program section of one program of length 0 for core 575. -/
theorem witness_DiagnosticCommands :
    let s := fun (ps : List Byte) => boxed 15 ps (inJob 0)
    let p := leBytes 8 0 ++ leBytes 8 80
    let d : State := { s p with memory := { up.memory with data := memWrite [] 0 ([1] ++ List.replicate 63 0 ++ [0x8F, 3]) } }
    let b := (readRange (startBox (atTide d 0) ⟨15, 0x82, 0, false⟩) 0 80 (supReader d)).2
    (Accepts (s []) 15 0x81 0 ∧ (s []).power.state < 2) ∧
    (Accepts d 15 0x82 0 ∧ CleanMemory d ∧ parameter d 15 8 8 = 80 ∧ 64 ≤ b.length ∧ layoutLen secPrograms b ≤ b.length ∧ programsFault b = none ∧
      (programsAt d 0).map (·.core) = [575] ∧ (coreOf d 575).mode ≠ .wiping) ∧
    (Accepts (s [3, 143]) 15 0x83 0 ∧ parameter (s [3, 143]) 15 0 1 ≤ 3 ∧ parameter (s [3, 143]) 15 1 2 < 144 ∧
      (coreOf (s [3, 143]) 575).mode ≠ .wiping ∧ 3 < parameter (s [4]) 15 0 1) := by
  refine ⟨⟨accepts_of ?_, ?_⟩, ⟨accepts_of ?_, clean_of rfl rfl, ?_⟩, accepts_of ?_, ?_⟩ <;> decide +kernel

theorem witness_SessionCommands :
    let ps := leBytes 4 9 ++ [4, 0, 0, 4] ++ List.replicate 18 0 ++ leBytes 2 1 ++ List.replicate 36 0 ++ leBytes 8 0 ++ leBytes 8 64
    let s := boxed 15 ps (inJob 0)
    let t := boxed 15 ps (inJob 1)
    let full := fun (u : State) => ({ u with straits := { u.straits with
      sessions := (List.range 8).map fun k => (k, { sessionFree with state := 1, kind := 1, sid := 9 + k }) } } : State)
    (Accepts s 15 0x91 0 ∧ freeSlot s = some 0 ∧ parameter s 15 4 1 ∈ [1, 2, 3, 4] ∧ sessionFault s 15 (parameter s 15 4 1) = none ∧
      rangesFault s 15 = none) ∧
    (Accepts (full s) 15 0x92 0 ∧
      ((List.range 8).find? fun k => (sessionOf (full s) k).state = 1 && (sessionOf (full s) k).sid = parameter (full s) 15 0 4) = some 0) ∧
    (Accepts t 15 0x93 0 ∧ Accepts t 15 0x94 0 ∧ ledgerSettled t = true ∧ sessionFault t 15 5 = none ∧ sessionFault t 15 6 = none ∧
      (stateRegions t).length ≤ 252 ∧ ledgerSettled ({ t with commit := { t.commit with ledState := 1 } } : State) = false) ∧
    (freeSlot (full s) = none ∧ Accepts (full s) 15 0x91 0 ∧ Accepts (full t) 15 0x93 0 ∧ Accepts (full t) 15 0x94 0) := by
  refine ⟨⟨accepts_of ?_, ?_⟩, ⟨accepts_of ?_, ?_⟩, ⟨accepts_of ?_, accepts_of ?_, ?_⟩, ?_, accepts_of ?_, accepts_of ?_, accepts_of ?_⟩ <;>
  decide +kernel

theorem witness_ReadingRegisters : pcieOn up = true ∧ up.power.state < 2 ∧
    ([2, 3].all fun v => pcieOn (powered fun p => { p with state := v }) && (powered fun p => { p with state := v }).power.state == v) = true := by
  decide +kernel

theorem witness_WritingRegisters :
    let s := fun (n : Nat) => ({ up with boot := { up.boot with stat := n, buffer := fwMem } } : State)
    let b := memRead fwMem 0 5670
    (pcieOn up = true ∧ up.power.state < 2 ∧ alive up = true ∧ up.power.notices = [] ∧
      256 ≤ (powered fun p => { p with notices := List.replicate 256 ⟨3, 1, 0, 0, 0⟩ }).power.notices.length ∧ up.control.period ≠ 0 ∧
      up.control.masks.getLsbD 31 = true) ∧ (0x01 ∈ opcodes ∧ (boxOf up 15).state ≠ 1) ∧
    ((s 6).boot.stat ≠ 3 ∧ (s 6).boot.stat ≠ 8 ∧ (s 3).boot.stat = 3 ∧ (s 8).boot.stat = 8 ∧ (s 3).boot.dbgCp = false ∧
      4194304 < (4194305 : BitVec 23).toNat ∧ imageFault (memRead (s 3).boot.buffer 0 (64 : BitVec 23).toNat) ≠ 0) ∧
    (Config.xmssVerify (b.take 65) ((b.drop 65).take 5605) = true → imageFault (memRead (s 3).boot.buffer 0 (5670 : BitVec 23).toNat) = 0) := by
  refine ⟨by decide +kernel, by decide +kernel, by decide +kernel, fun v => fw_passes ?_ ?_ v⟩ <;> decide +kernel

theorem witness_WindowAccesses :
    let s := fun (w : Nat) (k : Core) => ({ up with cores := [(575, k)], control := { up.control with memwin := w } } : State)
    let sram := 0x100000000000 + 0x800000 * 575
    (pcieOn up = true ∧ up.memory.merging = none ∧ memOn up = true ∧ up.memory.wipe = 0 ∧ CleanMemory up ∧
      winShape ((s 0x023FFFC00000 coreReset).control.memwin + 0x3FFFFC) 4 = true ∧ inMem (0x023FFFC00000 + 0x3FFFFC) 4 = true) ∧
    (winShape ((s sram coreReset).control.memwin + 0x63FFC0) 64 = true ∧ sram + 0x63FFC0 = 0x100000000000 + 0x800000 * 575 + 0x63FFC0 ∧
      (coreOf (s sram coreReset) 575).mode ≠ .wiping ∧ hitsDrainSlot drainCore 0x5F0000 64 = true ∧ hitsDrainSlot drainCore 0x5EFFC0 64 = false) ∧
    (winShape (sram + 0x7FFFC0) 64 = true) ∧
    (armed up = false ∧ armed ({ up with job := inJob 2 } : State) = true ∧ (0xFFFFF : Fin 0x100000).val % 64 + 1 ≤ 64) := by
  refine ⟨⟨by decide +kernel, by decide +kernel, by decide +kernel, by decide +kernel, up_clean, ?_⟩, ?_⟩ <;> decide +kernel

/-- A short window write with a gap: what an engine writes of the line in the gap is lost (R421). -/
theorem test_window_write_gap :
    let line := fun (s : State) => memRead s.memory.data 0 8
    let after := fun (s : State) => match exec (.windowWrite 0 ([1, 2, 3, 4], true) 0) s with
      | .next t => match step (writeLine t 0 (List.replicate 64 9) true) with | .next u => line u | _ => []
      | _ => []
    after up = [1, 2, 3, 4, 0, 0, 0, 0] := by decide +kernel

theorem witness_ResetsTakeEffect :
    let held := fun (n : Nat) => ({ up with boot := { up.boot with held := n } } : State)
    (up.boot.held = 0 ∧ alive up = true ∧ up.boot.serving = true ∧ up.power.state ≠ 3 ∧ up.boot.dbgCp = false) ∧
    ((held 1).boot.held ≠ 2 ∧ (held 1).boot.held ≠ 0 ∧ (held 2).boot.held = 2) ∧
    (({ up with boot := { up.boot with lifecycleDue := some 5 } } : State).boot.lifecycleDue = some 5) := by decide +kernel

theorem witness_BootProceeds :
    let s := fun (stat src : Nat) (flash : Mem) => ({ up with boot := { up.boot with stat := stat, bootSrc := src, pcieUp := true, flash := flash } } : State)
    let b := flashImage (s 2 0 fwMem)
    (State.reset.boot.held = 2 ∧ State.reset.power.vinFault = false ∧ State.reset.boot.dbgCp = false) ∧
    (alive (s 3 2 []) = true ∧ (s 3 2 []).boot.stat = 3 ∧ (s 3 2 []).boot.bootSrc = 2 ∧ (s 3 2 []).boot.pcieUp = true ∧ pcieOn (s 3 2 []) = true) ∧
    (let h : State := { s 1 0 [] with boot := { (s 1 0 []).boot with dbgCp := true } }
     h.boot.dbgCp = true ∧ alive h = true ∧ h.boot.stat = 1 ∧ h.boot.bootSrc = 0) ∧
    ((s 2 0 fwMem).boot.stat = 2 ∧ (s 2 0 fwMem).boot.dbgCp = false ∧ imageFault (flashImage (s 2 0 [(0, 1)])) ≠ 0) ∧
    (Config.xmssVerify (b.take 65) ((b.drop 65).take 5605) = true → imageFault (flashImage (s 2 0 fwMem)) = 0) := by
  refine ⟨by decide +kernel, by decide +kernel, by decide +kernel, by decide +kernel, fun v => fw_passes ?_ ?_ v⟩ <;> decide +kernel

theorem witness_NoCommandIsRefused :
    undefinedFor .mtEnergyLoRead = .never ∧ undefinedFor (.identify 15 0 false 0) = .inMailbox 15 ∧ (boxOf up 15).state ≠ 1 := by decide +kernel

theorem witness_StepKeepsMemoryWf : up.memory.wf = true ∧ (∃ t, step up = .next t) := ⟨by decide +kernel, ⟨up, rfl⟩⟩

/-- A SLOT_READY write answers a next state: `exec` of a command that holds. -/
theorem witness_ExecKeepsQueue : ∃ t, exec (.slotReadyWrite true 5) up = .next t ∧ t.pending = up.pending := ⟨_, rfl, rfl⟩

theorem witness_NothingRunsBackwards : ∃ t, exec (.rtcStore 100) up = .next t ∧ t.meter.rtc = 100 := ⟨_, rfl, by decide +kernel⟩

theorem witness_SignatureIndicesAreUsedOnce :
    State.reset.boot.held ≠ 0 ∧ Accepts (boxed 15 [] (inJob 0)) 15 0x19 0 ∧ parameter (boxed 15 [] (inJob 0)) 15 32 1 = 0 ∧
    (boxed 15 [] (inJob 0)).boot.sigNext < 2 ^ 40 ∧ (up.boot.sigNext ≤ up.boot.sigRes ∧ ∃ t, exec (.rtcStore 100) up = .next t) := by
  refine ⟨by decide +kernel, accepts_of (by decide +kernel), by decide +kernel, by decide +kernel, by decide +kernel, _, rfl⟩

end Sys2Proof.Tests
end

section
/-! SUPPORT. Barrier arrivals, the comparator and the adds of the inbound ferry (02, R61, R62, R72, R75, R76, R292). -/

namespace Sys2Proof.Machine

open Sys2Proof

/-! The BARRIER word (R75, R292). -/

/-- An arrival goes on its way beside what the sequencer does (R75). -/
theorem advance_bars (s : State) (b : Barriers) (c : Nat) (k : Core) :
    advance { s with bars := b } c k = { advance s c k with bars := b } := rfl

theorem barrier_runs {c : Fin 576} {s : State} (hr : seqRuns s c = true) (ho : opcodeOf (curWord (coreOf s c)) = 0x30)
    (hb : badWord (curWord (coreOf s c)) = false) :
    Runs (.barrier c) s (Stepped { s with bars := { s.bars with transit := s.bars.transit ++
      [⟨c, wfld (curWord (coreOf s c)) 54 2, wfld (curWord (coreOf s c)) 48 6, (coreOf s c).frameStep⟩] } } c (coreOf s c)) := by
  refine runs_of (show execBarrier c s = _ from seqRow_runs hr ho hb) ?_
  have stepped := fun b : Barriers => advance_stepped { s with bars := b } c (coreOf s c)
  simp only [advance_bars] at stepped
  exact stepped _

/-! A release of a package counter frees reduction uses (R316). -/

/-- A state that differs only by the reduction: its records and parked frames in memory, the credits of flows, faults of steps. -/
def ReductionOnly (s t : State) : Prop :=
  { t with memory := s.memory, reduction := s.reduction, straits := s.straits, commit := s.commit } = s

theorem ReductionOnly.refl (s : State) : ReductionOnly s s := rfl

theorem ReductionOnly.trans {a b c : State} (h1 : ReductionOnly a b) (h2 : ReductionOnly b c) : ReductionOnly a c := by
  unfold ReductionOnly at *
  refine Eq.trans ?_ h1
  rw [← h2]

theorem ReductionOnly.ite {c : Prop} [Decidable c] {s a b : State} (ha : ReductionOnly s a) (hb : ReductionOnly s b) :
    ReductionOnly s (if c then a else b) := by
  split
  · exact ha
  · exact hb

theorem ReductionOnly.foldl {α : Type} (f : State → α → State) (h : ∀ s x, ReductionOnly s (f s x)) :
    ∀ (l : List α) (s : State), ReductionOnly s (l.foldl f s)
  | [], s => .refl s
  | x :: l, s => (h s x).trans (ReductionOnly.foldl f h l _)

theorem ReductionOnly.fields {s t : State} (h : ReductionOnly s t) : t.bars = s.bars ∧ t.adds = s.adds ∧ t.cores = s.cores := by
  unfold ReductionOnly at h
  rw [← h]
  exact ⟨rfl, rfl, rfl⟩

theorem returnCredits_reductionOnly (s : State) (x : InFrame) : ReductionOnly s (returnCredits s x) := by
  unfold returnCredits
  split
  · exact .refl s
  · unfold ReductionOnly modRt cSet setFlow
    rfl

theorem dropParked_reductionOnly (s : State) (i k : Nat) : ReductionOnly s (dropParked s i k) :=
  .foldl _ (fun s x => .trans (b := setPark s i ((parkOf s i).erase x)) rfl (returnCredits_reductionOnly _ x)) _ s

theorem faultAt_reductionOnly (s : State) (n b : Nat) : ReductionOnly s (faultAt s n b) := by
  have mark : ∀ m, ReductionOnly s (markFault s m b) := fun _ => by
    unfold ReductionOnly markFault
    rfl
  unfold faultAt faultArmed
  exact .ite (mark _) (.ite rfl (.refl s))

theorem setUse_reductionOnly (s : State) (k : Nat) (v : UseState) : ReductionOnly s (setUse s k v) := by
  unfold ReductionOnly setUse
  rfl

theorem freeRecord_reductionOnly (s : State) (k : Nat) : ReductionOnly s (freeRecord s k) := by
  unfold ReductionOnly freeRecord setRecordUse setArena
  rfl

/-- EARLY_REL and its reduction fault (R316). -/
theorem earlyRelease_reductionOnly (s : State) (n : Nat) :
    ReductionOnly s (faultAt { s with reduction := { s.reduction with earlyRel := true } } n 3) :=
  .trans (b := { s with reduction := { s.reduction with earlyRel := true } }) rfl (faultAt_reductionOnly _ _ _)

theorem releaseUse_reductionOnly (s : State) (n u : Nat) : ReductionOnly s (releaseUse s n u) := by
  have freed : ∀ (p : Prop) [Decidable p] k, ReductionOnly s (if p then freeRecord s k else s) :=
    fun _ _ k => .ite (freeRecord_reductionOnly s k) (.refl s)
  have early : ∀ {t k v}, ReductionOnly s t → ReductionOnly s (faultAt { setUse t k v with
      reduction := { (setUse t k v).reduction with earlyRel := true } } n 3) :=
    fun h => (h.trans (setUse_reductionOnly _ _ _)).trans (earlyRelease_reductionOnly _ _)
  unfold releaseUse
  dsimp only
  cases useState s (useKey n u) with
  | complete => exact (freed _ _).trans (setUse_reductionOnly _ _ _)
  | opened => exact early (freed _ _)
  | opening => exact early ((freeRecord_reductionOnly _ _).trans (dropParked_reductionOnly _ _ _))
  | idle => exact early (dropParked_reductionOnly _ _ _)
  | freed => exact .refl s
  | early => exact .refl s

/-- The count of releases goes up, and the uses that wait for this one are set free. -/
theorem countRelease_reductionOnly (s : State) (n b : Nat) :
    ∃ r, ReductionOnly { s with bars := { s.bars with releases := r } } (countRelease s n b) := by
  unfold countRelease
  exact ⟨_, .ite (.foldl _ (fun s u => releaseUse_reductionOnly s n u) _ _) (.refl _)⟩

/-! Arrivals at the counters of isle and package (R75, R76). -/

/-- The counter that an arrival of isle or package scope reaches, and the state with that counter replaced. -/
def counterOf (s : State) (a : Arrival) : Bar :=
  if a.scope = 0 then isleBar s (64 * (a.core / 144) + a.index) else pkgBar s a.index

def putCounter (s : State) (a : Arrival) (x : Bar) : State :=
  if a.scope = 0 then setIsleBar s (64 * (a.core / 144) + a.index) x else setPkgBar s a.index x

/-- The members of the counter by core number. -/
def membersOf (a : Arrival) (b : Bar) : Nat := if a.scope = 0 then b.members <<< (144 * (a.core / 144)) else b.members

@[simp] theorem putCounter_adds (s : State) (a : Arrival) (x : Bar) : (putCounter s a x).adds = s.adds := by
  unfold putCounter
  split
  · rfl
  · rfl

theorem arrive_unconfigured {s : State} {a : Arrival} (h2 : a.scope ≠ 2) (h : (counterOf s a).expect = 0) :
    arrive s a = modCore s a.core fun k => coreErr k errBarCfg := by
  unfold counterOf at h
  simp only [arrive, if_neg h2, if_pos h]

theorem arrive_counts {s : State} {a : Arrival} (h2 : a.scope ≠ 2) (h : (counterOf s a).count + 1 < (counterOf s a).expect) :
    arrive s a = putCounter s a { counterOf s a with count := (counterOf s a).count + 1 } := by
  have h0 : ¬ (counterOf s a).expect = 0 := by omega
  have hle : ¬ (counterOf s a).expect ≤ (counterOf s a).count + 1 := by omega
  unfold counterOf at h0 hle
  simp only [arrive, if_neg h2, if_neg h0, if_neg hle]
  rfl

theorem arrive_releases {s : State} {a : Arrival} (h2 : a.scope ≠ 2) (h0 : 0 < (counterOf s a).expect)
    (hle : (counterOf s a).expect ≤ (counterOf s a).count + 1) :
    let t := queueAddAll (putCounter s a { counterOf s a with count := 0 }) (membersOf a (counterOf s a)) (counterOf s a).relSem
    arrive s a = if a.scope = 1 then countRelease t a.step a.index else t := by
  have h0 : ¬ (counterOf s a).expect = 0 := by omega
  unfold counterOf at h0 hle
  simp only [arrive, if_neg h2, if_neg h0, if_pos hle]
  rfl

/-- The adds of 1 that release a bitmap of members; a semaphore field that names no semaphore gives none (R62). -/
def releaseAdds (members sem : Nat) : List Add :=
  ((List.range 576).filter fun c => members.testBit c && decide (sem < 48)).map fun c => ⟨c, sem, 1⟩

theorem queueAddAll_adds (s : State) (m sem : Nat) : queueAddAll s m sem = { s with adds := s.adds ++ releaseAdds m sem } := by
  rw [queueAddAll_eq]
  by_cases h : sem < 48 <;> simp [releaseAdds, h]

/-- A counter at EXPECT of isle scope. -/
theorem arrive_releasesIsle {s : State} {a : Arrival} (h : a.scope = 0) (h0 : 0 < (counterOf s a).expect)
    (hle : (counterOf s a).expect ≤ (counterOf s a).count + 1) :
    { arrive s a with adds := s.adds } = putCounter s a { counterOf s a with count := 0 } ∧
      (arrive s a).adds = s.adds ++ releaseAdds (membersOf a (counterOf s a)) (counterOf s a).relSem := by
  have hr := arrive_releases (by omega) h0 hle
  simp only [if_neg (show ¬ a.scope = 1 by omega), queueAddAll_adds, putCounter_adds] at hr
  rw [hr]
  refine ⟨?_, rfl⟩
  rw [← putCounter_adds s a { counterOf s a with count := 0 }]

/-- A counter at EXPECT of package scope: its release may also set reduction uses free (R316). -/
theorem arrive_releasesPkg {s : State} {a : Arrival} (h : a.scope = 1) (h0 : 0 < (counterOf s a).expect)
    (hle : (counterOf s a).expect ≤ (counterOf s a).count + 1) :
    (arrive s a).bars.pkg = tblSet barReset s.bars.pkg a.index { counterOf s a with count := 0 } ∧
      (arrive s a).bars.isle = s.bars.isle ∧ (arrive s a).bars.transit = s.bars.transit ∧
      (arrive s a).adds = s.adds ++ releaseAdds (membersOf a (counterOf s a)) (counterOf s a).relSem ∧
      (arrive s a).cores = s.cores := by
  have hr := arrive_releases (by omega) h0 hle
  simp only [if_pos h, queueAddAll_adds, putCounter, if_neg (show ¬ a.scope = 0 by omega)] at hr
  rw [hr]
  obtain ⟨r, hc⟩ := countRelease_reductionOnly _ a.step a.index
  obtain ⟨hbars, hadds, hcores⟩ := hc.fields
  rw [hbars, hadds, hcores]
  exact ⟨rfl, rfl, rfl, rfl, rfl⟩

/-! Arrivals at a pod counter (R292). -/

theorem arrive_podUnconfigured {s : State} {a : Arrival} (h2 : a.scope = 2) (h : podExpect s a.index = 0) :
    arrive s a = modCore s a.core fun k => coreErr k errBarCfg := by
  simp only [arrive, if_pos h2, if_pos h]

theorem arrive_podCounts {s : State} {a : Arrival} (h2 : a.scope = 2) (h : podExpect s a.index ≠ 0)
    (hs : (podCount s a.index a.step).arrivals + 1 ≠ podShare s a.index) :
    arrive s a = putCount s { podCount s a.index a.step with arrivals := (podCount s a.index a.step).arrivals + 1 } := by
  simp only [arrive, if_pos h2, if_neg h, podArrive, if_neg hs]

/-! The oldest arrival of a core. -/

/-- The state at a tide, with an arrival off its way. -/
def takeArrival (s : State) (now : Nat) (a : Arrival) : State :=
  { atTide s now with bars := { s.bars with transit := s.bars.transit.erase a } }

theorem exec_barrierArrival {c : Fin 576} {now : Nat} {s : State} {a : Arrival} (hs : alive s = true)
    (ha : s.bars.transit.find? (fun a => a.core = c.val) = some a) :
    exec (.barrierArrival c now) s = .next (arrive (takeArrival s now a) a) := by
  change execBarrierArrival c now s = _
  simp only [execBarrierArrival, ha, hs, when_true]
  rfl

/-! The inbound ferry (R61, R464). -/

theorem exec_inboundAdd_on {c : Fin 576} {s : State} {a : Add} (ha : s.adds.find? (fun a => a.core = c.val) = some a)
    (hc : coreOn s c = true) :
    exec (.inboundAdd c) s = .next (modCore { s with adds := s.adds.erase a } c fun k => semAdd k a.sem a.n) := by
  change Host.Outcome.next (inboundEff s c) = _
  simp [inboundEff, ha, (coreOn_alive hc).1, hc]

theorem exec_inboundAdd_reset {c : Fin 576} {s : State} {a : Add} (ha : s.adds.find? (fun a => a.core = c.val) = some a)
    (hs : alive s = true) (hm : (coreOf s c).mode = .wiping) : exec (.inboundAdd c) s = .next { s with adds := s.adds.erase a } := by
  change Host.Outcome.next (inboundEff s c) = _
  simp [inboundEff, ha, hs, coreOn, coreResetting, hm]

/-! The comparator (R72). -/

theorem exec_tideTargetReached {c : Fin 576} {now g : Nat} {s : State} (hc : coreOn s c = true) (ha : (coreOf s c).armed = true)
    (ht : (coreOf s c).target = some g) (hg : g ≤ max s.tide.now now) :
    exec (.tideTargetReached c now) s = .next (setCore (atTide s now) c { flagPut (coreOf s c) 0 true with armed := false }) := by
  change execTideTargetReached c now s = _
  simp only [execTideTargetReached, hc, ha, ht, atTide_now, hg, decide_true, Bool.and_self, when_true]

/-- Settles O7: the rule of each row, read for an arrival at the state at the tide with the arrival off its way. -/
theorem barriersTargetsAndInboundAdds : Obligations.BarriersTargetsAndInboundAdds := by
  unfold Obligations.BarriersTargetsAndInboundAdds
  refine ⟨⟨fun c s hr => ?_, fun c now s a hs ha hsc => ?_, fun c now s a hs ha h2 => ?_⟩, fun c now g s hc ha ht hg => ?_,
    fun c s a ha => ?_⟩
  · exact barrier_runs hr
  · have hrun := exec_barrierArrival (now := now) hs ha
    have h2 : a.scope ≠ 2 := by omega
    refine ⟨fun h => runs_of hrun (arrive_unconfigured h2 h), fun h => runs_of hrun (arrive_counts h2 h),
      fun h0 hle h => runs_of hrun (arrive_releasesIsle h h0 hle), fun h0 hle h =>
      runs_of hrun (arrive_releasesPkg (s := takeArrival s now a) h h0 hle)⟩
  · have hrun := exec_barrierArrival (now := now) hs ha
    exact ⟨fun h => runs_of hrun (arrive_podUnconfigured h2 h), fun h hn => runs_of hrun (arrive_podCounts h2 h hn)⟩
  · exact runs_of (exec_tideTargetReached hc ha ht hg)
      ⟨rfl, fun x hx => coreOf_setCore_ne _ _ hx, coreOf_setCore_self _ _ _⟩
  · refine ⟨fun hc hm => runs_of (exec_inboundAdd_on ha hc) ⟨rfl, fun x hx => coreOf_modCore_ne _ _ hx, ?_⟩,
      fun hs hm => runs_of (exec_inboundAdd_reset ha hs hm) rfl⟩
    rw [coreOf_modCore_self, semAdd_eq _ _ _ hm]
    rfl

end Sys2Proof.Machine
end

section
/-! SUPPORT. Sequenced frames (08): what reads of the flow tables find after each update, the answers of a port, acceptance in order, and
the rule of DATA and SIGNAL (R249, R250, R252–R254, R257, R258, R314). -/

namespace Sys2Proof.Machine

open Sys2Proof

/-! Reads of one table after an update of another. -/

@[simp] theorem flowOf_modRt (s : State) (j : Nat) (g : FlowRt → FlowRt) (i : Nat) : flowOf (modRt s j g) i = flowOf s i := rfl
@[simp] theorem flowOf_setInq (s : State) (k : Nat) (l : List InFrame) (i : Nat) : flowOf (setInq s k l) i = flowOf s i := rfl
@[simp] theorem rtOf_cSet (s : State) (j byte n v i : Nat) : rtOf (cSet s j byte n v) i = rtOf s i := rfl
@[simp] theorem portOf_modRt (s : State) (i : Nat) (g : FlowRt → FlowRt) (p : Nat) : portOf (modRt s i g) p = portOf s p := rfl
@[simp] theorem inqOf_cSet (s : State) (j byte n v k : Nat) : inqOf (cSet s j byte n v) k = inqOf s k := rfl

@[simp] theorem inqOf_setInq_self (s : State) (k : Nat) (l : List InFrame) : inqOf (setInq s k l) k = l := by simp [inqOf, setInq]

@[simp] theorem flowOf_cSet_self (s : State) (i byte n v : Nat) : flowOf (cSet s i byte n v) i = cPut (flowOf s i) byte n v :=
  flowOf_setFlow_self s i _

@[simp] theorem cSet_adds (s : State) (i byte n v : Nat) : (cSet s i byte n v).adds = s.adds := rfl
@[simp] theorem cSet_cores (s : State) (i byte n v : Nat) : (cSet s i byte n v).cores = s.cores := rfl
@[simp] theorem cSet_memory (s : State) (i byte n v : Nat) : (cSet s i byte n v).memory = s.memory := rfl

/-! Fields of a context after RECV_SEQ or GRANTED has moved (Table 8-5). -/

@[simp] theorem cRecvSeq_putRecvSeq (d : Line) (v : Nat) : cRecvSeq (cPut d 16 32 v) = v % 2 ^ 32 := fldB_cPut_self d 16 4 v (by omega)
@[simp] theorem cGranted_putRecvSeq (d : Line) (v : Nat) : cGranted (cPut d 16 32 v) = cGranted d :=
  fldB_cPut_ne d 16 32 v 28 4 (by omega) (by omega)
@[simp] theorem cDestCore_putRecvSeq (d : Line) (v : Nat) : cDestCore (cPut d 16 32 v) = cDestCore d :=
  fldB_cPut_ne d 16 32 v 8 2 (by omega) (by omega)
@[simp] theorem cGranted_putGranted (d : Line) (v : Nat) : cGranted (cPut d 28 32 v) = v % 2 ^ 32 := fldB_cPut_self d 28 4 v (by omega)
@[simp] theorem cRecvSeq_putGranted (d : Line) (v : Nat) : cRecvSeq (cPut d 28 32 v) = cRecvSeq d :=
  fldB_cPut_ne d 28 32 v 16 4 (by omega) (by omega)

theorem fldB_lt (d : Line) (byte n : Nat) : fldB d byte n < 2 ^ (8 * n) := Nat.mod_lt _ (Nat.two_pow_pos _)

/-! RECV_SEQ moves on, and credits are granted (R252, R253). -/

theorem flowOf_advanceRecv (s : State) (i : Nat) : flowOf (advanceRecv s i) i = cPut (flowOf s i) 16 32 (cRecvSeq (flowOf s i) + 1) :=
  flowOf_cSet_self s i 16 32 _
theorem flowOf_grant (s : State) (i n : Nat) : flowOf (grant s i n) i = cPut (flowOf s i) 28 32 (cGranted (flowOf s i) + n) := by
  rw [grant, flowOf_modRt, flowOf_cSet_self]

@[simp] theorem rtOf_advanceRecv (s : State) (i j : Nat) : rtOf (advanceRecv s i) j = rtOf s j := rtOf_cSet s i 16 32 _ j
@[simp] theorem inqOf_advanceRecv (s : State) (i k : Nat) : inqOf (advanceRecv s i) k = inqOf s k := inqOf_cSet s i 16 32 _ k
@[simp] theorem advanceRecv_adds (s : State) (i : Nat) : (advanceRecv s i).adds = s.adds := cSet_adds s i 16 32 _
@[simp] theorem advanceRecv_cores (s : State) (i : Nat) : (advanceRecv s i).cores = s.cores := cSet_cores s i 16 32 _
@[simp] theorem advanceRecv_memory (s : State) (i : Nat) : (advanceRecv s i).memory = s.memory := cSet_memory s i 16 32 _

theorem rtOf_grant (s : State) (i n : Nat) : rtOf (grant s i n) i = { rtOf s i with ackOwed := true } := by
  rw [grant, rtOf_modRt_self, rtOf_cSet]
@[simp] theorem grant_adds (s : State) (i n : Nat) : (grant s i n).adds = s.adds := by
  rw [grant, modRt_adds, cSet_adds]
@[simp] theorem grant_cores (s : State) (i n : Nat) : (grant s i n).cores = s.cores := by
  rw [grant, modRt_cores, cSet_cores]

/-- A frame that came over a strait gives its credits back to its context. -/
theorem returnCredits_strait (s : State) {x : InFrame} (h : x.core = none) :
    returnCredits s x = grant s x.flow (frameCredits x.frame) := by
  simp only [returnCredits, h]
  rfl

/-! A frame leaves a port, or waits there (R238, R243). -/

theorem onlySends_refl (s : State) : OnlySends s s := ⟨rfl, fun _ => rfl⟩

theorem sendOut_onlySends (s : State) (p : Nat) (f : Frame) : OnlySends s (sendOut s p f) := by
  unfold sendOut
  split
  · refine ⟨rfl, fun q => ?_⟩
    by_cases h : q = p
    · rw [h, portOf_modPort_self]
    · rw [portOf_modPort_ne _ _ h]
  · exact ⟨rfl, fun _ => rfl⟩

theorem sendCtl_onlySends (s : State) (p typ flow seq : Nat) (body : List Byte) : OnlySends s (sendCtl s p typ flow seq body) := by
  unfold sendCtl
  split
  · exact sendOut_onlySends ..
  · exact onlySends_refl s

/-- What sending leaves: the contexts, what the dies keep for them, the waiting frames, adds and cores. -/
theorem reads_of_onlySends {s t : State} (h : OnlySends s t) :
    t.straits.flows = s.straits.flows ∧ t.straits.rt = s.straits.rt ∧ t.memory = s.memory ∧ t.adds = s.adds ∧ t.cores = s.cores := by
  rw [← h.1]
  exact ⟨rfl, rfl, rfl, rfl, rfl⟩

theorem sendOut_leaves (s : State) (p : Nat) (f : Frame) : Leaves s (sendOut s p f) p [f] := by
  unfold sendOut
  split
  next h => exact ⟨fun h' => absurd (h.symm.trans h') (by decide), fun _ => ⟨rfl, by rw [portOf_modPort_self]⟩⟩
  next h => exact ⟨fun _ => rfl, fun h' => absurd h' h⟩

/-- The control frame that a port which is up sends for a context: it goes to the far end's context, SEQ and the first four bytes of its
body are the numbers given (Table 8-4). -/
theorem sendCtl_leaves {s : State} {p : Nat} (hp : portUp s p = true) (typ flow seq value : Nat) (hs : seq < 2 ^ 32) (hv : value < 2 ^ 32) :
    ∃ a : Frame, Leaves s (sendCtl s p typ flow seq (leBytes 4 value)) p [a] ∧ a.typ = BitVec.ofNat 8 typ ∧
      a.flow.toNat = flow % 16384 ∧ a.seq.toNat = seq ∧ bNat a.body 0 4 = value := by
  refine ⟨_, by rw [sendCtl, if_pos hp]; exact sendOut_leaves .., rfl, ?_, ?_, ?_⟩
  · exact (BitVec.toNat_ofNat ..).trans (by omega)
  · exact (BitVec.toNat_ofNat ..).trans (Nat.mod_eq_of_lt hs)
  · have hbody : ((leBytes 4 value ++ List.replicate 20 0).take 20).take 4 = leBytes 4 value := by
      rw [List.take_take, List.take_append_of_le_length (by rw [leBytes_length]; omega), List.take_of_length_le (by rw [leBytes_length]; omega)]
    exact (congrArg leNat hbody).trans ((leNat_leBytes 4 value).trans (Nat.mod_eq_of_lt hv))

/-! The ACK and the NACK of a context (R253, R254). -/

/-- The state in which a context's ACK is on its way, and one in which its NACK is. -/
def ackTold (s : State) (i : Nat) : State := modRt s i fun r => { r with ackOwed := false, ackAt := s.tide.now }
def nackTold (s : State) (i : Nat) : State := modRt s i fun r => { r with nack := some (cRecvSeq (flowOf s i), s.tide.now) }

theorem sendAck_onlySends (s : State) (p i : Nat) : OnlySends (ackTold s i) (sendAck s p i) := sendCtl_onlySends ..

@[simp] theorem flowOf_sendAck (s : State) (p i j : Nat) : flowOf (sendAck s p i) j = flowOf s j := by
  obtain ⟨hflows, -⟩ := reads_of_onlySends (sendAck_onlySends s p i)
  unfold flowOf
  rw [hflows]
  rfl

@[simp] theorem rtOf_sendAck (s : State) (p i : Nat) :
    rtOf (sendAck s p i) i = { rtOf s i with ackOwed := false, ackAt := s.tide.now } := by
  obtain ⟨-, hrt, -⟩ := reads_of_onlySends (sendAck_onlySends s p i)
  unfold rtOf
  rw [hrt]
  exact rtOf_modRt_self s i _

@[simp] theorem inqOf_sendAck (s : State) (p i k : Nat) : inqOf (sendAck s p i) k = inqOf s k := by
  obtain ⟨-, -, hmem, -⟩ := reads_of_onlySends (sendAck_onlySends s p i)
  unfold inqOf
  rw [hmem]
  rfl

@[simp] theorem sendAck_adds (s : State) (p i : Nat) : (sendAck s p i).adds = s.adds := by
  obtain ⟨-, -, -, hadds, -⟩ := reads_of_onlySends (sendAck_onlySends s p i)
  exact hadds

@[simp] theorem sendAck_cores (s : State) (p i : Nat) : (sendAck s p i).cores = s.cores := by
  obtain ⟨-, -, -, -, hcores⟩ := reads_of_onlySends (sendAck_onlySends s p i)
  exact hcores

theorem sendAck_leaves {s : State} {p : Nat} (hp : portUp s p = true) (i : Nat) :
    ∃ a : Frame, Leaves (ackTold s i) (sendAck s p i) p [a] ∧ a.typ = 3 ∧ a.flow.toNat = cUpFlow (flowOf s i) % 16384 ∧
      a.seq.toNat = seqDist 1 (cRecvSeq (flowOf s i)) ∧ bNat a.body 0 4 = cGranted (flowOf s i) :=
  sendCtl_leaves (s := ackTold s i) hp 3 _ _ _ (Nat.mod_lt _ (by omega)) (fldB_lt _ 28 4)

/-- No NACK of the context has gone for its RECV_SEQ within the last 1 µs. -/
def NackDue (s : State) (i : Nat) : Prop :=
  ∀ q m, (rtOf s i).nack = some (q, m) → q ≠ cRecvSeq (flowOf s i) ∨ m + 1000 < s.tide.now

theorem sendNack_due {s : State} {i : Nat} (h : NackDue s i) (p reason : Nat) :
    sendNack s p i reason = sendCtl (nackTold s i) p 4 (cUpFlow (flowOf s i)) (cRecvSeq (flowOf s i)) (leBytes 4 reason) := by
  cases hn : (rtOf s i).nack with
  | none =>
    simp only [sendNack, hn]
    rfl
  | some last =>
    obtain ⟨q, m⟩ := last
    have old : (decide (q = cRecvSeq (flowOf s i)) && decide (s.tide.now ≤ m + 1000)) = false := by
      simpa [Nat.not_le, ← imp_iff_not_or] using h q m hn
    simp only [sendNack, hn, old]
    rfl

theorem sendNack_onlySends {s : State} {i : Nat} (h : NackDue s i) (p reason : Nat) :
    OnlySends (nackTold s i) (sendNack s p i reason) := by
  rw [sendNack_due h]
  exact sendCtl_onlySends ..

theorem flowOf_sendNack {s : State} {i : Nat} (h : NackDue s i) (p reason j : Nat) : flowOf (sendNack s p i reason) j = flowOf s j := by
  obtain ⟨hflows, -⟩ := reads_of_onlySends (sendNack_onlySends h p reason)
  unfold flowOf
  rw [hflows]
  rfl

theorem rtOf_sendNack {s : State} {i : Nat} (h : NackDue s i) (p reason : Nat) :
    rtOf (sendNack s p i reason) i = { rtOf s i with nack := some (cRecvSeq (flowOf s i), s.tide.now) } := by
  obtain ⟨-, hrt, -⟩ := reads_of_onlySends (sendNack_onlySends h p reason)
  unfold rtOf
  rw [hrt]
  exact rtOf_modRt_self s i _

theorem sendNack_leaves {s : State} {p i : Nat} (hp : portUp s p = true) (h : NackDue s i) {reason : Nat} (hr : reason < 2 ^ 32) :
    ∃ a : Frame, Leaves (nackTold s i) (sendNack s p i reason) p [a] ∧ a.typ = 4 ∧ a.flow.toNat = cUpFlow (flowOf s i) % 16384 ∧
      a.seq.toNat = cRecvSeq (flowOf s i) ∧ bNat a.body 0 4 = reason := by
  rw [sendNack_due h]
  exact sendCtl_leaves (s := nackTold s i) hp 4 _ _ _ (fldB_lt _ 16 4) hr

/-! Frames wait at a sink behind those of their die, or are delivered (R250, R314). -/

theorem drainSource_controller {t : State} {src : Nat} {x : InFrame} {rest : List InFrame} (hq : inqOf t src = x :: rest)
    (hx : forController x = true) : ∀ n, drainSource src n t = .ok t
  | 0 => rfl
  | n + 1 => by simp only [drainSource, hq, hx, if_true]

/-- A source whose head waits for a controller keeps the frame that comes. -/
theorem intoSource_waits {s : State} {x : InFrame} (hhead : ∀ y ∈ (inqOf s (sourceOf x)).head?, forController y = true)
    (hw : inqOf s (sourceOf x) ≠ [] ∨ forController x = true) :
    intoSource s x = .ok (setInq s (sourceOf x) (inqOf s (sourceOf x) ++ [x])) := by
  cases hq : inqOf s (sourceOf x) with
  | nil =>
    have hx : forController x = true := hw.resolve_left (not_not_intro hq)
    simp only [intoSource, hq]
    exact drainSource_controller (inqOf_setInq_self ..) hx _
  | cons y rest =>
    have hy : forController y = true := hhead y (by rw [hq]; rfl)
    simp only [intoSource, hq]
    exact drainSource_controller (inqOf_setInq_self ..) hy _

/-- A frame has gone through a source where nothing waits. -/
def throughSource (s : State) (src : Nat) (x : InFrame) : State := setInq (setInq s src [x]) src []

@[simp] theorem flowOf_throughSource (s : State) (src i : Nat) (x : InFrame) : flowOf (throughSource s src x) i = flowOf s i := rfl
@[simp] theorem throughSource_adds (s : State) (src : Nat) (x : InFrame) : (throughSource s src x).adds = s.adds := rfl
@[simp] theorem throughSource_cores (s : State) (src : Nat) (x : InFrame) : (throughSource s src x).cores = s.cores := rfl

/-- Nothing waits at the source: a frame for no controller is delivered at once. -/
theorem intoSource_delivers {s : State} {x : InFrame} (hq : inqOf s (sourceOf x) = []) (hx : forController x = false) :
    intoSource s x = deliverFrame (throughSource s (sourceOf x) x) x := by
  simp only [throughSource, intoSource, hq, List.nil_append, inqOf_setInq_self, List.length_singleton, drainSource, hx]
  cases deliverFrame (setInq (setInq s (sourceOf x) [x]) (sourceOf x) []) x with
  | error e => rfl
  | ok t => rfl

@[simp] theorem flowOf_landAdd (s : State) (core m n i : Nat) : flowOf (landAdd s core m n) i = flowOf s i := by
  rw [landAdd_eq]
  rfl

@[simp] theorem landAdd_cores (s : State) (core m n : Nat) : (landAdd s core m n).cores = s.cores := by rw [landAdd_eq]

/-- The last frame of a SIGNAL: its add goes to the context's core, and one credit is granted. -/
theorem deliverFrame_signal (s : State) {x : InFrame} (ht : x.frame.typ = 2) (hl : isLast x.frame = true) (hc : x.core = none) :
    deliverFrame s x = .ok (grant (landAdd s (cDestCore (flowOf s x.flow)) x.frame.destSem.toNat x.frame.destN.toNat) x.flow 1) := by
  have hland : landFrame s (cDestCore (flowOf s x.flow)) x.frame =
      .ok (landAdd s (cDestCore (flowOf s x.flow)) x.frame.destSem.toNat x.frame.destN.toNat) := by simp [landFrame, ht, hl]
  have hn : frameCredits x.frame = 1 := if_pos ht
  simp only [deliverFrame, hland, ht, Except.map, returnCredits_strait _ hc, hn]
  rfl

/-- The transfer that a frame belongs to at its sink (R249). -/
def xferOf (s : State) (i : Nat) (f : Frame) : Nat := if isFirst f then s.memory.nextXfer else (rtOf s i).xfer

/-- A frame of flow context i as it waits at its sink's die. -/
def sinkFrame (s : State) (i : Nat) (f : Frame) : InFrame := ⟨i, none, xferOf s i f, f⟩

/-- The state in which a frame goes to its source: an ACK is owed, and a first frame has taken its transfer's number. -/
def inXfer (s : State) (i : Nat) (f : Frame) : State :=
  let t := modRt s i fun r => { r with ackOwed := true }
  if isFirst f then modRt (newXfer t) i fun r => { r with xfer := s.memory.nextXfer } else t

theorem intoSink_eq (s : State) (i : Nat) (f : Frame) : intoSink s i f = intoSource (inXfer s i f) (sinkFrame s i f) := by
  unfold intoSink inXfer sinkFrame xferOf
  split
  · rfl
  · simp only [rtOf_modRt_self]

@[simp] theorem flowOf_inXfer (s : State) (i j : Nat) (f : Frame) : flowOf (inXfer s i f) j = flowOf s j := by
  unfold inXfer
  split <;> rfl

@[simp] theorem inqOf_inXfer (s : State) (i k : Nat) (f : Frame) : inqOf (inXfer s i f) k = inqOf s k := by
  unfold inXfer
  split <;> rfl

@[simp] theorem inXfer_adds (s : State) (i : Nat) (f : Frame) : (inXfer s i f).adds = s.adds := by
  unfold inXfer
  split <;> rfl

@[simp] theorem inXfer_cores (s : State) (i : Nat) (f : Frame) : (inXfer s i f).cores = s.cores := by
  unfold inXfer
  split <;> rfl

/-! A frame in order (R249, R250, R252, R256): the state of the context and its role decide what becomes of it. -/

/-- A faulted context drops the frame and grants its credits. -/
theorem acceptSeq_faulted {s : State} {i : Nat} (f : Frame) (h : cState (flowOf s i) = 3) :
    ∃ t, acceptSeq s i f = .ok t ∧ cRecvSeq (flowOf t i) = (cRecvSeq (flowOf s i) + 1) % 2 ^ 32 ∧
      cGranted (flowOf t i) = (cGranted (flowOf s i) + frameCredits f) % 2 ^ 32 ∧ t.adds = s.adds ∧
      rtOf t i = { rtOf s i with ackOwed := true } := by
  refine ⟨grant (advanceRecv s i) i (frameCredits f), by simp [acceptSeq, h, fFaulted], ?_, ?_, ?_, ?_⟩
  · rw [flowOf_grant, flowOf_advanceRecv, cRecvSeq_putGranted, cRecvSeq_putRecvSeq]
  · rw [flowOf_grant, flowOf_advanceRecv, cGranted_putGranted, cGranted_putRecvSeq]
  · rw [grant_adds, advanceRecv_adds]
  · rw [rtOf_grant, rtOf_advanceRecv]

/-- A transit context forwards the frame; its credits stay spent until it leaves. -/
theorem acceptSeq_transit {s : State} {i : Nat} (f : Frame) (h : cState (flowOf s i) = 2) (hr : cRole (flowOf s i) = 1) :
    ∃ t, acceptSeq s i f = .ok t ∧ cRecvSeq (flowOf t i) = (cRecvSeq (flowOf s i) + 1) % 2 ^ 32 ∧
      cGranted (flowOf t i) = cGranted (flowOf s i) ∧ t.adds = s.adds ∧
      rtOf t i = { rtOf s i with txq := (rtOf s i).txq ++ [⟨none, f⟩], ackOwed := true } := by
  refine ⟨modRt (advanceRecv s i) i fun r => { r with txq := r.txq ++ [⟨none, f⟩], ackOwed := true },
    by simp [acceptSeq, h, hr, fFaulted, roleTransit], ?_, ?_, ?_, ?_⟩
  · rw [flowOf_modRt, flowOf_advanceRecv, cRecvSeq_putRecvSeq]
  · rw [flowOf_modRt, flowOf_advanceRecv, cGranted_putRecvSeq]
  · rw [modRt_adds, advanceRecv_adds]
  · rw [rtOf_modRt_self, rtOf_advanceRecv]

theorem acceptSeq_sink {s : State} {i : Nat} (f : Frame) (h : cState (flowOf s i) = 2) (hr : cRole (flowOf s i) = 2) :
    acceptSeq s i f = intoSource (inXfer (advanceRecv s i) i f) (sinkFrame s i f) := by
  have hx : sinkFrame (advanceRecv s i) i f = sinkFrame s i f := by simp only [sinkFrame, xferOf, advanceRecv_memory, rtOf_advanceRecv]
  simp [acceptSeq, h, hr, fFaulted, roleTransit, intoSink_eq, hx]

/-- At a sink the frame waits behind those of its die that wait for a controller, or is the first to. -/
theorem acceptSeq_waits {s : State} {i : Nat} {f : Frame} (h : cState (flowOf s i) = 2) (hr : cRole (flowOf s i) = 2)
    (hhead : ∀ x ∈ (inqOf s (i / 2048)).head?, forController x = true)
    (hw : inqOf s (i / 2048) ≠ [] ∨ forController (sinkFrame s i f) = true) :
    ∃ t, acceptSeq s i f = .ok t ∧ cRecvSeq (flowOf t i) = (cRecvSeq (flowOf s i) + 1) % 2 ^ 32 ∧
      cGranted (flowOf t i) = cGranted (flowOf s i) ∧ t.adds = s.adds ∧ t.cores = s.cores ∧
      inqOf t (i / 2048) = inqOf s (i / 2048) ++ [sinkFrame s i f] := by
  have hq : inqOf (inXfer (advanceRecv s i) i f) (i / 2048) = inqOf s (i / 2048) := by rw [inqOf_inXfer, inqOf_advanceRecv]
  rw [← hq] at hhead hw
  refine ⟨_, (acceptSeq_sink f h hr).trans (intoSource_waits hhead hw), ?_, ?_, ?_, ?_, ?_⟩
  · rw [flowOf_setInq, flowOf_inXfer, flowOf_advanceRecv, cRecvSeq_putRecvSeq]
  · rw [flowOf_setInq, flowOf_inXfer, flowOf_advanceRecv, cGranted_putRecvSeq]
  · rw [setInq_adds, inXfer_adds, advanceRecv_adds]
  · rw [setInq_cores, inXfer_cores, advanceRecv_cores]
  · rw [← hq]
    exact inqOf_setInq_self ..

/-- The last frame of a SIGNAL at a sink where nothing waits: its add goes to the context's core, and one credit is granted. -/
theorem acceptSeq_signal {s : State} {i : Nat} {f : Frame} (h : cState (flowOf s i) = 2) (hr : cRole (flowOf s i) = 2)
    (ht : f.typ = 2) (hl : isLast f = true) (hq : inqOf s (i / 2048) = []) :
    ∃ t, acceptSeq s i f = .ok t ∧ cRecvSeq (flowOf t i) = (cRecvSeq (flowOf s i) + 1) % 2 ^ 32 ∧
      cGranted (flowOf t i) = (cGranted (flowOf s i) + 1) % 2 ^ 32 ∧ t.cores = s.cores ∧
      t.adds = s.adds ++ if coreFieldOk (cDestCore (flowOf s i)) = true ∧ f.destSem.toNat < 48 then
        [⟨coreField (cDestCore (flowOf s i)), f.destSem.toNat, f.destN.toNat⟩] else [] := by
  have hx : forController (sinkFrame s i f) = false := by simp [forController, sinkFrame, ht]
  have hq' : inqOf (inXfer (advanceRecv s i) i f) (i / 2048) = [] := by rw [inqOf_inXfer, inqOf_advanceRecv, hq]
  refine ⟨_, ((acceptSeq_sink f h hr).trans (intoSource_delivers hq' hx)).trans (deliverFrame_signal _ ht hl rfl), ?_, ?_, ?_, ?_⟩
  · simp only [sinkFrame, flowOf_grant, flowOf_landAdd, flowOf_throughSource, flowOf_inXfer, flowOf_advanceRecv, cRecvSeq_putGranted,
      cRecvSeq_putRecvSeq]
  · simp only [sinkFrame, flowOf_grant, flowOf_landAdd, flowOf_throughSource, flowOf_inXfer, flowOf_advanceRecv, cGranted_putGranted,
      cGranted_putRecvSeq]
  · simp only [grant_cores, landAdd_cores, throughSource_cores, inXfer_cores, advanceRecv_cores]
  · simp only [sinkFrame, grant_adds, landAdd_eq, throughSource_adds, inXfer_adds, advanceRecv_adds, flowOf_throughSource, flowOf_inXfer,
      flowOf_advanceRecv, cDestCore_putRecvSeq]

/-! The rule of a sequenced frame (R253, R257, R258). -/

theorem foreignTag_eq_false_iff (s : State) (f : Frame) :
    foreignTag s f = false ↔ s.straits.jobTag ≠ 0 ∧ f.jobTag.toNat = s.straits.jobTag := by simp [foreignTag]

theorem unknownTo_eq_false_iff (s : State) (p : Nat) (f : Frame) : unknownTo s p f = false ↔
    (cState (flowOf s (frameFlow f)) = 2 ∨ cState (flowOf s (frameFlow f)) = 3) ∧
      (cRole (flowOf s (frameFlow f)) = 1 ∨ cRole (flowOf s (frameFlow f)) = 2) ∧ roleLinked (portRole s p) = true := by
  simp only [unknownTo, receives, Bool.or_eq_false_iff, Bool.not_eq_false', Bool.or_eq_true, decide_eq_true_eq, and_assoc]
  rfl

/-- The state in which a frame that came on port p is taken for context i: the context's frames arrive there (R245). -/
def came (s : State) (p i : Nat) : State := modRt s i fun r => { r with via := some p }

section Taken

variable {s : State} {p : Nat} {f : Frame}

theorem sequenced_foreign (h : foreignTag s f = true) : sequenced s p f = .ok (countForeign s p) := by
  simp only [sequenced, h, if_true]

theorem sequenced_unknown (h : foreignTag s f = false) (hu : unknownTo s p f = true) : sequenced s p f = .ok (countUnknown s p) := by
  simp [sequenced, h, hu]

theorem sequenced_inOrder (h : foreignTag s f = false) (hu : unknownTo s p f = false) (hq : f.seq.toNat = cRecvSeq (flowOf s (frameFlow f)))
    {t : State} (ht : acceptSeq (came s p (frameFlow f)) (frameFlow f) f = .ok t) :
    sequenced s p f = .ok (sendAck t p (frameFlow f)) := by
  unfold came at ht
  simp [sequenced, h, hu, hq, ht, Except.map]

theorem sequenced_duplicate (h : foreignTag s f = false) (hu : unknownTo s p f = false)
    (hq : f.seq.toNat ≠ cRecvSeq (flowOf s (frameFlow f))) (ha : seqAfter f.seq.toNat (cRecvSeq (flowOf s (frameFlow f))) = true) :
    sequenced s p f = .ok (sendAck (came s p (frameFlow f)) p (frameFlow f)) := by
  simp [sequenced, h, hu, hq, ha, came]

theorem sequenced_gap (h : foreignTag s f = false) (hu : unknownTo s p f = false)
    (hq : f.seq.toNat ≠ cRecvSeq (flowOf s (frameFlow f))) (ha : seqAfter f.seq.toNat (cRecvSeq (flowOf s (frameFlow f))) = false) :
    sequenced s p f = .ok (sendNack (came s p (frameFlow f)) p (frameFlow f) 2) := by
  simp [sequenced, h, hu, hq, ha, came]

end Taken

/-! The rows DATA and SIGNAL. -/

/-- The state in which a frame that came on port p is read: its marker is found, and the tide has gone on. -/
def arrived (s : State) (p now : Nat) : State := atTide (marked s p) now

theorem exec_sequenced {p : Fin 8} {f : Frame} {now : Nat} {s : State} {c : Instr} (hs : alive s = true) (hup : (portOf s p).state = 2)
    (hrx : (portOf s p).pauseRx = false) (hg : frameGood f = true)
    (hc : (f.typ = 1 ∧ c = .data p f now) ∨ (f.typ = 2 ∧ c = .signal p f now)) :
    exec c s = ofLand (sequenced (arrived s p now) p f) := by
  rcases hc with ⟨ht, rfl⟩ | ⟨ht, rfl⟩
  · exact if_pos (by simp [arrives, portUp, hs, hup, hrx, hg, ht])
  · exact if_pos (by simp [arrives, portUp, hs, hup, hrx, hg, ht])

theorem portOf_arrived (s : State) (p now : Nat) : portOf (arrived s p now) p = { portOf s p with hunting := false } :=
  portOf_modPort_self s p fun k => { k with hunting := false }

/-- Counting a frame on its port changes that port alone. -/
theorem modPort_arrived_onlyPort (s : State) (p now : Nat) (g : Port → Port) :
    OnlyPort (atTide s now) (modPort (arrived s p now) p g) p ∧
      portOf (modPort (arrived s p now) p g) p = g { portOf s p with hunting := false } := by
  refine ⟨⟨rfl, fun q hq => ?_⟩, by rw [portOf_modPort_self, portOf_arrived]⟩
  rw [portOf_modPort_ne _ _ hq]
  exact portOf_modPort_ne _ _ hq

/-- Frames that leave a port as it stands after its marker, with one context's own records changed, leave it as it stood. -/
theorem leaves_of_arrived {s t : State} {p now i : Nat} {g : FlowRt → FlowRt} {fs : List Frame}
    (h : Leaves (modRt (came (arrived s p now) p i) i g) t p fs) : Leaves s t p fs := by
  unfold Leaves at h
  simp only [came, portOf_modRt, portOf_arrived] at h
  exact h

/-- Such a state is the state at the tide, but for the straits and what left the package. -/
theorem onlyStraits_of_arrived {s t : State} {p now i : Nat} {g : FlowRt → FlowRt}
    (h : OnlySends (modRt (came (arrived s p now) p i) i g) t) :
    { t with straits := s.straits, sent := s.sent } = atTide s now := by
  have e := congrArg (fun x : State => { x with straits := s.straits, sent := s.sent }) h.1
  refine Eq.trans ?_ (e.trans ?_)
  · rfl
  · unfold came arrived marked modRt modPort
    rfl

/-- Settles O23: each clause is one branch of the rule of sequenced frames, read at the state in which the frame arrives. -/
theorem sequencedFrames : Obligations.SequencedFrames := by
  unfold Obligations.SequencedFrames
  intro p f now s hs hup hrx hg i d n tag takes row next xfer c hc
  let u := came (arrived s p now) p i
  have run : ∀ {t}, sequenced (arrived s p now) p f = .ok t → exec c s = .next t := fun h =>
    (exec_sequenced hs hup hrx hg hc).trans (congrArg ofLand h)
  have known : tag ↔ foreignTag (arrived s p now) f = false := (foreignTag_eq_false_iff (arrived s p now) f).symm
  have taken : takes ↔ unknownTo (arrived s p now) p f = false := (unknownTo_eq_false_iff (arrived s p now) p f).symm
  have inOrder : ∀ {t}, tag → takes → f.seq.toNat = cRecvSeq d → acceptSeq u i f = .ok t → exec c s = .next (sendAck t p i) :=
    fun ht hk hq ha => run (sequenced_inOrder (known.1 ht) (taken.1 hk) hq ha)
  have moved : ∀ {t}, f.seq.toNat = cRecvSeq d → cRecvSeq (flowOf t i) = (cRecvSeq d + 1) % 2 ^ 32 →
      cRecvSeq (flowOf (sendAck t p i) i) = next := fun hq h => by rw [flowOf_sendAck, h, ← hq]
  have up : portUp u p = true := by simp only [u, portUp, came, portOf_modRt, portOf_arrived, hup, decide_true]
  have hrt : rtOf u i = { rtOf s i with via := some p.val } := rtOf_modRt_self ..
  have hx : sinkFrame u i f = ⟨i, none, xfer, f⟩ := by rw [sinkFrame, xferOf, hrt]; rfl
  refine ⟨fun ht => ?_, fun ht hk => ?_, fun ht hk hq h3 => ?_, fun ht hk hq h2 hr => ?_, fun ht hk hq h2 hr hsig he hok hsem hl => ?_,
    fun ht hk hq h2 hr hhead hwait => ?_, fun ht hk hq ha => ?_, fun ht hk hq ha hnack => ?_⟩
  · -- A frame of another job (R257).
    have hfor : foreignTag (arrived s p now) f = true := (Bool.not_eq_false _).mp (mt known.2 ht)
    exact runs_of (run (sequenced_foreign hfor)) (modPort_arrived_onlyPort s p now _)
  · -- A frame for a context that takes none (R258).
    have hunk : unknownTo (arrived s p now) p f = true := (Bool.not_eq_false _).mp (mt taken.2 hk)
    exact runs_of (run (sequenced_unknown (known.1 ht) hunk)) (modPort_arrived_onlyPort s p now _)
  · -- In order, for a faulted context (R256).
    obtain ⟨t, hacc, hrecv, hgrant, hadds, hrt'⟩ := acceptSeq_faulted (s := u) f h3
    refine runs_of (inOrder ht hk hq hacc) ⟨moved hq hrecv, ?_, ?_, ?_⟩
    · rw [flowOf_sendAck, hgrant]
      rfl
    · rw [sendAck_adds, hadds]
      rfl
    · rw [rtOf_sendAck, hrt', hrt]
  · -- In order, forwarded (R250).
    obtain ⟨t, hacc, hrecv, hgrant, hadds, hrt'⟩ := acceptSeq_transit (s := u) f h2 hr
    refine runs_of (inOrder ht hk hq hacc) ⟨moved hq hrecv, ?_, ?_, ?_, ?_⟩
    · rw [flowOf_sendAck, hgrant]
      rfl
    · rw [rtOf_sendAck, hrt', hrt]
    · rw [rtOf_sendAck, hrt', hrt]
    · rw [sendAck_adds, hadds]
      rfl
  · -- In order, a signal delivered (R250).
    obtain ⟨t, hacc, hrecv, hgrant, hcores, hadds⟩ := acceptSeq_signal (s := u) h2 hr hsig hl he
    rw [if_pos ⟨hok, hsem⟩] at hadds
    refine runs_of (inOrder ht hk hq hacc) ⟨moved hq hrecv, ?_, ?_, ?_⟩
    · rw [flowOf_sendAck, hgrant]
      rfl
    · rw [sendAck_adds, hadds]
      rfl
    · rw [sendAck_cores, hcores]
      rfl
  · -- In order, waiting at the sink (R314).
    have hw : inqOf s (i / 2048) ≠ [] ∨ forController (sinkFrame u i f) = true :=
      hwait.imp_right fun ⟨htyp, hop, hctrl⟩ => by simp [forController, sinkFrame, htyp, hop, hctrl]
    obtain ⟨t, hacc, hrecv, hgrant, hadds, hcores, hinq⟩ := acceptSeq_waits (s := u) h2 hr hhead hw
    refine runs_of (inOrder ht hk hq hacc) ⟨moved hq hrecv, ?_, ?_, ?_, ?_⟩
    · rw [flowOf_sendAck, hgrant]
      rfl
    · rw [sendAck_adds, hadds]
      rfl
    · rw [sendAck_cores, hcores]
      rfl
    · rw [inqOf_sendAck, hinq, hx]
      rfl
  · -- A duplicate (R253, R254).
    obtain ⟨a, hleaves, htells⟩ := sendAck_leaves up i
    refine runs_of (run (sequenced_duplicate (known.1 ht) (taken.1 hk) hq ha)) ⟨?_, ?_, ?_, ?_, a, leaves_of_arrived hleaves, htells⟩
    · exact flowOf_sendAck ..
    · rw [rtOf_sendAck]
    · rw [rtOf_sendAck]
      rfl
    · exact onlyStraits_of_arrived (sendAck_onlySends u p i)
  · -- A gap (R253).
    have hdue : NackDue u i := by
      unfold NackDue
      rw [hrt]
      exact hnack
    have hsends := sendNack_onlySends hdue p 2
    obtain ⟨a, hleaves, htells⟩ := sendNack_leaves up hdue (reason := 2) (by decide)
    refine runs_of (run (sequenced_gap (known.1 ht) (taken.1 hk) hq ha)) ⟨?_, ?_, ?_, a, leaves_of_arrived hleaves, htells⟩
    · exact flowOf_sendNack hdue ..
    · rw [rtOf_sendNack hdue]
      rfl
    · exact onlyStraits_of_arrived hsends

end Sys2Proof.Machine
end

section
/-! SUPPORT. Reads of registers through BAR0 and JTAG (R8, R216, R232, R268, R446, R481): what a read of a LO half, of a HI half and of a
counter returns and leaves. -/

namespace Sys2Proof.Machine

open Sys2Proof

/-! The counters of a memory stack (R216, R232). -/

/-- A stack after a read of its register at an offset: the counter that stands there is 0. -/
def stackCleared (o : Nat) (k : Stack) : Stack :=
  if o = 4 then { k with ce := 0 } else if o = 8 then { k with ue := 0 } else if o = 0x14 then { k with accUe := 0 } else k

/-- The stacks other than i, and all else but the bytes that a read returns, are as before. -/
def OnlyStackRead (s t : State) (i : Nat) : Prop :=
  { t with rdata := s.rdata, memory := { t.memory with stack := s.memory.stack } } = s ∧ ∀ j, j ≠ i → stackOf t j = stackOf s j

theorem readValue_stack {s : State} {off i o : Nat} (hi : i < 24) (ho : o < 64) (h : off = 0x50000 + 64 * i + o) :
    readValue s off = lit s (stackBlock (stackOf s i) o) := by
  have hstack : (off - 0x50000) / 64 = i := by omega
  have hreg : (off - 0x50000) % 64 = o := by omega
  simp (disch := omega) only [readValue, bar0Read, memoryBlock, ↓if_neg, ↓if_pos, hstack, hreg]

theorem afterRead_stack {s : State} {off i o : Nat} (hi : i < 24) (ho : o < 64) (h : off = 0x50000 + 64 * i + o) :
    afterRead s off = clearStack s i (stackCleared o) := by
  have hstack : (off - 0x50000) / 64 = i := by omega
  have hreg : off % 64 = o := by omega
  simp (disch := omega) only [afterRead, ↓if_neg, ↓if_pos, hstack, hreg]
  rfl

/-- Where the stacks are lit, a row that reads a register of one returns it and clears it if it is a counter. -/
theorem stackRead_runs {c : Instr} {s : State} {off i o : Nat} (hc : exec c s = readRow s off) (hon : pcieOn s = true)
    (hlit : islesDark s = false) (hi : i < 24) (ho : o < 64) (h : off = 0x50000 + 64 * i + o) :
    Runs c s fun t => t.rdata = leBytes 4 (stackBlock (stackOf s i) o) ∧ stackOf t i = stackCleared o (stackOf s i) ∧
      OnlyStackRead s t i := by
  refine runs_when hc hon ?_
  rw [readReg, readValue_stack hi ho h, afterRead_stack hi ho h, clearStack, lit, hlit]
  exact ⟨rfl, stackOf_modStack_self s i _, rfl, fun j hj => stackOf_modStack_ne s _ hj⟩

/-- In Ebb and Dry it returns zero and clears nothing (R232). -/
theorem stackRead_dark {c : Instr} {s : State} {off i o : Nat} (hc : exec c s = readRow s off) (hon : pcieOn s = true)
    (hdark : islesDark s = true) (hi : i < 24) (ho : o < 64) (h : off = 0x50000 + 64 * i + o) :
    Runs c s fun t => t = { s with rdata := [0, 0, 0, 0] } := by
  refine runs_when hc hon ?_
  rw [readReg, readValue_stack hi ho h, afterRead_stack hi ho h, clearStack, lit, if_pos hdark, if_pos hdark]
  rfl

/-! The counters of a strait port (R8). -/

/-- A port after a read of its register at an offset: the counter that stands there is 0. -/
def portCleared (o : Nat) (k : Port) : Port :=
  if o = 0xC then { k with retry := 0 } else if o = 0x10 then { k with foreign := 0 }
  else if o = 0x14 then { k with unknown := 0 } else if o = 0x18 then { k with fecUe := 0 } else k

/-- The ports other than p, and all else but the bytes that a read returns, are as before. -/
def OnlyPortRead (s t : State) (p : Nat) : Prop :=
  { t with rdata := s.rdata, straits := { t.straits with ports := s.straits.ports } } = s ∧ OtherPorts s t p

theorem readValue_port {s : State} {off p o : Nat} (hp : p < 8) (ho : o < 256) (h : off = 0x70000 + 256 * p + o) :
    readValue s off = portBlock (portOf s p) o := by
  have hport : (off - 0x70000) / 256 = p := by omega
  have hreg : (off - 0x70000) % 256 = o := by omega
  simp (disch := omega) only [readValue, bar0Read, straitBlock, ↓if_neg, ↓if_pos, hport, hreg]

theorem afterRead_port {s : State} {off p o : Nat} (hp : p < 8) (ho : o < 256) (h : off = 0x70000 + 256 * p + o) :
    afterRead s off = modPort s p (portCleared o) := by
  have hport : (off - 0x70000) / 256 = p := by omega
  have hreg : off % 256 = o := by omega
  simp (disch := omega) only [afterRead, ↓if_neg, ↓if_pos, hport, hreg]
  rfl

/-- A row that reads a register of a port returns it and clears it if it is a counter. -/
theorem portRead_runs {c : Instr} {s : State} {off p o : Nat} (hc : exec c s = readRow s off) (hon : pcieOn s = true)
    (hp : p < 8) (ho : o < 256) (h : off = 0x70000 + 256 * p + o) :
    Runs c s fun t => t.rdata = leBytes 4 (portBlock (portOf s p) o) ∧ portOf t p = portCleared o (portOf s p) ∧
      OnlyPortRead s t p := by
  refine runs_when hc hon ?_
  rw [readReg, readValue_port hp ho h, afterRead_port hp ho h]
  exact ⟨rfl, portOf_modPort_self s p _, rfl, fun q hq => portOf_modPort_ne s _ hq⟩

/-! Halves of pairs (R8, R268). -/

/-- A read of a session's BYTES_LO returns the low word and captures the whole count. -/
theorem readReg_sessionBytesLo {s : State} {off k : Nat} (hk : k < 8) (h : off = 0x21008 + 16 * k) :
    readReg s off = { s with
      rdata := leBytes 4 ((sessionOf s k).bytes % 2 ^ 32),
      control := { s.control with capSess := tblSet none s.control.capSess k (some (sessionOf s k).bytes) } } := by
  have hsess : (off - 0x21000) / 16 = k := by omega
  have hsess' : (off - 0x20000 - 0x1000) / 16 = k := by rw [Nat.sub_sub]; exact hsess
  have hreg : (off - 0x20000) % 16 = 8 := by omega
  simp (disch := omega) only [readReg, afterRead, readValue, bar0Read, telemetryBlock, ↓if_neg, ↓if_pos, hsess, hsess', hreg]
  rfl

/-- The low bytes of a number are those of its remainder (R4). -/
theorem leBytes_mod : ∀ n x : Nat, leBytes n (x % 2 ^ (8 * n)) = leBytes n x
  | 0, _ => rfl
  | n + 1, x => by
    have e : 2 ^ (8 * (n + 1)) = 2 ^ 8 * 2 ^ (8 * n) := by rw [Nat.mul_succ, Nat.add_comm, Nat.pow_add]
    have low : BitVec.ofNat 8 (x % (2 ^ 8 * 2 ^ (8 * n))) = BitVec.ofNat 8 x :=
      BitVec.eq_of_toNat_eq (by simp only [BitVec.toNat_ofNat, Nat.mod_mul_right_mod])
    have high : x % (2 ^ 8 * 2 ^ (8 * n)) / 256 = x / 256 % 2 ^ (8 * n) := Nat.mod_mul_right_div_self ..
    rw [e, leBytes, leBytes, low, high, leBytes_mod n]

/-- A read of TIDE_NOW_HI returns the captured high half, or the running one where nothing is captured, and ends the capture. -/
theorem readReg_tideNowHi (s : State) : readReg s 0x80004 = { s with
    rdata := leBytes 4 (s.control.capTide.getD s.tide.now / 2 ^ 32 % 2 ^ 32), control := { s.control with capTide := none } } := by
  rw [show (2 ^ 32 : Nat) = 2 ^ (8 * 4) from rfl, leBytes_mod 4]
  rfl

theorem held_of_pcieOn {s : State} (hon : pcieOn s = true) : s.boot.held = 0 := by
  simp only [pcieOn, Bool.and_eq_true, decide_eq_true_eq] at hon
  obtain ⟨⟨hheld, -⟩, -⟩ := hon
  exact hheld

/-- A JTAG read of a register of four bytes above the mailboxes, in a cycle without a write or a hardware update: BUSACC is selected,
and the register is read as through BAR0 (R481). -/
theorem exec_jtagRead {s : State} {off : Fin 0x1000000} (now : Nat) (hon : pcieOn s = true) (hbox : 0x10000 ≤ off.val)
    (hmap : off.val < 0xC00000) (hword : off.val % 4 = 0) :
    exec (.jtagBusacc false off 4 [] (none, [], now)) s = .next (readReg (selectBusacc (atTide s now)) off) := by
  have hheld : s.boot.held = 0 := held_of_pcieOn hon
  have hbox' : ¬ off.val < 0x10000 := by omega
  have write : ∀ t, mapWrite t .bar0 off [] none now = .next t := fun t => by
    have shape : regShape off 0 = false := by simp [regShape, hbox']
    simp [mapWrite, hmap, shape, hwUpdate]
  have read : ∀ t, mapRead t off 4 = readReg t off := fun t => by
    have shape : regShape off 4 = true := by simp [regShape, hbox', hword]
    simp [mapRead, hmap, shape, regRead, hbox']
  show execJtagBusacc false off 4 [] (none, [], now) s = _
  simp [execJtagBusacc, hheld, hon, write, read, thenDo]

/-- Settles O50: the read of each row is that of its register's place in the map of BAR0; where the place is fixed it is found by evaluation. -/
theorem readingRegisters : Obligations.ReadingRegisters := by
  unfold Obligations.ReadingRegisters
  intro s hon
  refine ⟨fun now => runs_when rfl hon rfl, fun now => ?_, runs_when rfl hon rfl, runs_when rfl hon rfl, runs_when rfl hon rfl,
    runs_when rfl hon rfl, runs_when rfl hon rfl, fun k => runs_when rfl hon (readReg_sessionBytesLo k.isLt rfl), fun i hp => ?_,
    fun i r hp hr => ?_, fun p => ?_, runs_when rfl hon rfl, runs_when rfl hon rfl, runs_when rfl hon rfl⟩
  · -- TIDE_NOW_HI through JTAG.
    exact runs_of (exec_jtagRead now hon (by decide) (by decide) (by decide)) (readReg_tideNowHi _)
  · -- The counters of a stack, while it is lit.
    have hlit : islesDark s = false := by simp only [islesDark, Bool.or_eq_false_iff, decide_eq_false_iff_not]; omega
    exact ⟨stackRead_runs rfl hon hlit i.isLt (o := 4) (by decide) (by omega),
      stackRead_runs rfl hon hlit i.isLt (o := 8) (by decide) (by omega),
      stackRead_runs rfl hon hlit i.isLt (o := 0x14) (by decide) (by omega)⟩
  · -- The counters of a stack in Ebb and Dry.
    have hdark : islesDark s = true := by simpa [islesDark] using hp
    rcases hr with rfl | rfl | rfl
    · exact stackRead_dark rfl hon hdark i.isLt (o := 4) (by decide) (by omega)
    · exact stackRead_dark rfl hon hdark i.isLt (o := 8) (by decide) (by omega)
    · exact stackRead_dark rfl hon hdark i.isLt (o := 0x14) (by decide) (by omega)
  · -- The counters of a port.
    exact ⟨portRead_runs rfl hon p.isLt (o := 0xC) (by decide) (by omega),
      portRead_runs rfl hon p.isLt (o := 0x10) (by decide) (by omega),
      portRead_runs rfl hon p.isLt (o := 0x14) (by decide) (by omega),
      portRead_runs rfl hon p.isLt (o := 0x18) (by decide) (by omega)⟩

end Sys2Proof.Machine
end

section
/-! SUPPORT. What leaves the boot block as it is or, where it writes the block, NEXT, RES_END and the last signature (R474). Proofs here
turn `implicitDefEqProofs` off: the kernel then follows each rewrite and does not compare whole states. -/

namespace Sys2Proof.Machine

open Sys2Proof

/-- NEXT, RES_END, and the last signature with its index (R474). -/
abbrev SigState := Nat × Nat × Option (Nat × List Byte)

/-- The signature state of the boot block. -/
def Boot.sigs (b : Boot) : SigState := (b.sigNext, b.sigRes, b.lastSig)

@[simp] theorem boot_ite (c : Prop) [Decidable c] (a b : State) : (if c then a else b).boot = if c then a.boot else b.boot := apply_ite ..

@[simp] theorem getD_ite (c : Prop) [Decidable c] (a b : Option State) (s : State) :
    (if c then a else b).getD s = if c then a.getD s else b.getD s := apply_ite (Option.getD · s) ..

@[simp] theorem sigs_ite (c : Prop) [Decidable c] (a b : Boot) : (if c then a else b).sigs = if c then a.sigs else b.sigs := apply_ite ..

@[simp] theorem foldl_boot {α : Type} (f : State → α → State) (h : ∀ s x, (f s x).boot = s.boot) :
    ∀ (l : List α) (s : State), (l.foldl f s).boot = s.boot
  | [], _ => rfl
  | x :: l, s => (foldl_boot f h l (f s x)).trans (h s x)

theorem boot_of_ite {c : Prop} [Decidable c] {a b : State} {x : Boot} (ha : a.boot = x) (hb : b.boot = x) : (if c then a else b).boot = x := by
  split
  · exact ha
  · exact hb

theorem foldl_fst_boot {α β : Type} (f : State × β → α → State × β) (h : ∀ x a, (f x a).1.boot = x.1.boot) :
    ∀ (l : List α) (x : State × β), (l.foldl f x).1.boot = x.1.boot
  | [], _ => rfl
  | a :: l, x => (foldl_fst_boot f h l (f x a)).trans (h x a)

/-! Events, step faults and queued adds. -/

@[simp] theorem fire_boot (s : State) (v : Nat) : (fire s v).boot = s.boot := by simp -implicitDefEqProofs [fire]

@[simp] theorem fireOnRise_boot (s : State) (v : Nat) (old new : Reg) : (fireOnRise s v old new).boot = s.boot := by
  simp -implicitDefEqProofs [fireOnRise]

@[simp] theorem setIsthEvent_boot (s : State) (b : Reg) : (setIsthEvent s b).boot = s.boot := by simp -implicitDefEqProofs [setIsthEvent]

@[simp] theorem setStraitEvent_boot (s : State) (b : Reg) : (setStraitEvent s b).boot = s.boot := by simp -implicitDefEqProofs [setStraitEvent]

@[simp] theorem setTideEvent_boot (s : State) (b : Nat) : (setTideEvent s b).boot = s.boot := by simp -implicitDefEqProofs [setTideEvent]

@[simp] theorem setGovStat_boot (s : State) (b : Nat) : (setGovStat s b).boot = s.boot := by simp -implicitDefEqProofs [setGovStat]

@[simp] theorem setSupEvent_boot (s : State) (b : Nat) : (setSupEvent s b).boot = s.boot := by simp -implicitDefEqProofs [setSupEvent]

@[simp] theorem faultArmed_boot (s : State) (b : Nat) : (faultArmed s b).boot = s.boot := by simp -implicitDefEqProofs [faultArmed]

@[simp] theorem faultAt_boot (s : State) (step b : Nat) : (faultAt s step b).boot = s.boot := by simp -implicitDefEqProofs [faultAt]

@[simp] theorem faultNow_boot (s : State) (b : Nat) : (faultNow s b).boot = s.boot := (ReadSame.of_report (faultNow_report s b)).boot

@[simp] theorem queueAdd_boot (s : State) (c sem n : Nat) : (queueAdd s c sem n).boot = s.boot := by simp -implicitDefEqProofs [queueAdd]

@[simp] theorem queueAddAll_boot (s : State) (members sem : Nat) : (queueAddAll s members sem).boot = s.boot := by
  simp -implicitDefEqProofs [queueAddAll]

@[simp] theorem rememberAll_boot (s : State) (c e : Nat) (ws : List Range) : (rememberAll s c e ws).boot = s.boot := by
  simp -implicitDefEqProofs [rememberAll, tellFerries]

@[simp] theorem addUpset_boot (s : State) (u : Upset) : (addUpset s u).boot = s.boot := by simp -implicitDefEqProofs [addUpset]

@[simp] theorem addUpsets_boot (s : State) (us : List Upset) : (addUpsets s us).boot = s.boot := by simp -implicitDefEqProofs [addUpsets]

/-! Package memory, the accumulation caches and the digests. -/

@[simp] theorem readLine_boot (s : State) (p : Nat) (r : Reader) : (readLine s p r).1.boot = s.boot := (readLine_read s p r).boot

@[simp] theorem readLines_boot (s : State) (p n : Nat) (r : Reader) : (readLines s p n r).1.boot = s.boot := (readLines_read r n s p).boot

@[simp] theorem readRange_boot (s : State) (p n : Nat) (r : Reader) : (readRange s p n r).1.boot = s.boot := (readRange_read s p n r).boot

@[simp] theorem writeLine_boot (s : State) (p : Nat) (bs : List Byte) (counted : Bool) : (writeLine s p bs counted).boot = s.boot := by
  simp -implicitDefEqProofs [writeLine]

@[simp] theorem writeLines_boot (s : State) (p : Nat) (bs : List Byte) (counted : Bool) : (writeLines s p bs counted).boot = s.boot := by
  simp -implicitDefEqProofs [writeLines]

@[simp] theorem mergeLine_boot (s : State) (p : Nat) (bs : List Byte) (counted : Bool) (r : Reader) : (mergeLine s p bs counted r).boot = s.boot := by
  simp -implicitDefEqProofs [mergeLine]

@[simp] theorem landMerge_boot (s : State) : (landMerge s).boot = s.boot := by
  unfold landMerge
  split <;> simp -implicitDefEqProofs

@[simp] theorem writeRange_boot (s : State) (p : Nat) (bs : List Byte) (counted : Bool) (r : Reader) :
    (writeRange s p bs counted r).boot = s.boot := by
  simp -implicitDefEqProofs [writeRange]

@[simp] theorem accTouch_boot (s : State) (k : Nat) (r : Reader) : (accTouch s k r).boot = s.boot := (accTouch_read s k r).boot

@[simp] theorem readAcc_boot (s : State) (p n : Nat) (r : Reader) : (readAcc s p n r).1.boot = s.boot := (readAcc_read s p n r).boot

@[simp] theorem writeAcc_boot (s : State) (p : Nat) (bs : List Byte) : (writeAcc s p bs).boot = s.boot := by simp -implicitDefEqProofs [writeAcc]

@[simp] theorem readSections_boot (s : State) (typs : List Nat) : (readSections s typs).boot = s.boot := by
  unfold readSections
  exact foldl_boot _ (fun t typ => by split <;> simp -implicitDefEqProofs) _ _

/-! The sequencer. -/

@[simp] theorem advance_boot (s : State) (c : Nat) (k : Core) : (advance s c k).boot = s.boot := by simp -implicitDefEqProofs [advance]

@[simp] theorem badCmdEff_boot (s : State) (c : Nat) : (badCmdEff s c).boot = s.boot := by simp -implicitDefEqProofs [badCmdEff]

@[simp] theorem flagWaitEff_boot (s : State) (c : Nat) (k : Core) (w : W64) (setToo : Bool) : (flagWaitEff s c k w setToo).boot = s.boot := by
  simp -implicitDefEqProofs [flagWaitEff]

@[simp] theorem issueEff_boot (s : State) (c : Nat) (k : Core) (w : W64) : (issueEff s c k w).boot = s.boot := by
  simp -implicitDefEqProofs [issueEff]

@[simp] theorem fenceEff_boot (s : State) (c : Nat) (k : Core) (w : W64) : (fenceEff s c k w).boot = s.boot := by
  simp -implicitDefEqProofs [fenceEff]

@[simp] theorem inboundEff_boot (s : State) (c : Nat) : (inboundEff s c).boot = s.boot := by
  unfold inboundEff
  split <;> simp -implicitDefEqProofs

/-! Contributions and arenas. -/

@[simp] theorem addElement_boot (s : State) (k e q : Nat) : (addElement s k e q).boot = s.boot := by simp -implicitDefEqProofs [addElement]

@[simp] theorem addCodes_boot (s : State) (k e : Nat) (qs : List (Option Nat)) : (addCodes s k e qs).boot = s.boot := by
  unfold addCodes
  exact foldl_boot _ (fun t q => by split <;> simp -implicitDefEqProofs) _ _

@[simp] theorem addFrame_boot (s : State) (k : Nat) (x : InFrame) : (addFrame s k x).boot = s.boot := by simp -implicitDefEqProofs [addFrame]

@[simp] theorem completeUse_boot (s : State) (k : Nat) : (completeUse s k).boot = s.boot := by
  unfold completeUse
  dsimp only
  (repeat' split) <;> simp -implicitDefEqProofs

@[simp] theorem cSet_boot (s : State) (f byte n v : Nat) : (cSet s f byte n v).boot = s.boot := by simp -implicitDefEqProofs [cSet]

@[simp] theorem returnCredits_boot (s : State) (x : InFrame) : (returnCredits s x).boot = s.boot := by
  unfold returnCredits
  split <;> simp -implicitDefEqProofs

@[simp] theorem takeFrameEff_boot (s : State) (k : Nat) (x : InFrame) : (takeFrameEff s k x).boot = s.boot := by
  simp -implicitDefEqProofs [takeFrameEff]

@[simp] theorem setBegun_boot (s : State) (k : Nat) (l : List Nat) : (setBegun s k l).boot = s.boot := by simp -implicitDefEqProofs [setBegun]

@[simp] theorem upsetAcc_boot (s : State) (i : Nat) (us : List Nat) : (upsetAcc s i us).boot = s.boot := by simp -implicitDefEqProofs [upsetAcc]

@[simp] theorem clearRange_boot (s : State) (i base len : Nat) : (clearRange s i base len).boot = s.boot := by
  simp -implicitDefEqProofs [clearRange]

@[simp] theorem readUse_boot (s : State) (u : Nat) : (readUse s u).boot = s.boot := by
  unfold readUse
  split <;> simp -implicitDefEqProofs

@[simp] theorem beginUse_boot (s : State) (i n u : Nat) : (beginUse s i n u).boot = s.boot := by simp -implicitDefEqProofs [beginUse]

@[simp] theorem releaseUse_boot (s : State) (n u : Nat) : (releaseUse s n u).boot = s.boot := by
  unfold releaseUse
  dsimp only
  (repeat' split) <;> simp -implicitDefEqProofs [dropParked, freeRecord]

@[simp] theorem countRelease_boot (s : State) (n b : Nat) : (countRelease s n b).boot = s.boot := by simp -implicitDefEqProofs [countRelease]

@[simp] theorem freeArenas_boot (s : State) : (freeArenas s).boot = s.boot := by simp -implicitDefEqProofs [freeArenas, emptyParks]

/-! Frames that leave, barriers of the pod. -/

@[simp] theorem sendOut_boot (s : State) (p : Nat) (f : Frame) : (sendOut s p f).boot = s.boot := by simp -implicitDefEqProofs [sendOut]

@[simp] theorem marked_boot (s : State) (p : Nat) : (marked s p).boot = s.boot := by simp -implicitDefEqProofs [marked]

@[simp] theorem sendTide_boot (s : State) (p typ seq : Nat) (body : List Byte) : (sendTide s p typ seq body).boot = s.boot := by
  simp -implicitDefEqProofs [sendTide]

@[simp] theorem flood_boot (s : State) (but : Nat) (typ : Nat) (body : List Byte) : (flood s but typ body).boot = s.boot := by
  simp -implicitDefEqProofs [flood]

@[simp] theorem countUnknown_boot (s : State) (p : Nat) : (countUnknown s p).boot = s.boot := by simp -implicitDefEqProofs [countUnknown]

@[simp] theorem sendTotal_boot (s : State) (x : PodUse) : (sendTotal s x).boot = s.boot := by simp -implicitDefEqProofs [sendTotal]

@[simp] theorem resendTotals_boot (s : State) : (resendTotals s).boot = s.boot := by simp -implicitDefEqProofs [resendTotals]

@[simp] theorem takeRelease_boot (s : State) (x : PodUse) (rel but : Nat) : (takeRelease s x rel but).boot = s.boot := by
  simp -implicitDefEqProofs [takeRelease]

@[simp] theorem tryRelease_boot (s : State) (x : PodUse) : (tryRelease s x).boot = s.boot := by simp -implicitDefEqProofs [tryRelease]

@[simp] theorem podChanged_boot (s : State) (x : PodUse) : (podChanged s x).boot = s.boot := by simp -implicitDefEqProofs [podChanged]

theorem admitOwn_boot : ∀ (k : Nat) (s : State), (admitOwn k s).boot = s.boot
  | 0, _ => rfl
  | k + 1, s => by
    unfold admitOwn
    split
    · rfl
    · simp -implicitDefEqProofs [admitOwn_boot k]

@[simp] theorem settlePods_boot (s : State) : (settlePods s).boot = s.boot := admitOwn_boot _ s

@[simp] theorem completeOwn_boot (s : State) (i n u : Nat) : (completeOwn s i n u).boot = s.boot := by simp -implicitDefEqProofs [completeOwn]

@[simp] theorem podArrive_boot (s : State) (i n : Nat) : (podArrive s i n).boot = s.boot := by simp -implicitDefEqProofs [podArrive]

@[simp] theorem arrive_boot (s : State) (a : Arrival) : (arrive s a).boot = s.boot := by simp -implicitDefEqProofs [arrive]

@[simp] theorem floodRelease_boot (s : State) (x : PodUse) (rel but : Nat) : (floodRelease s x rel but).boot = s.boot := by
  simp -implicitDefEqProofs [floodRelease]

@[simp] theorem childTotal_boot (s : State) (x : PodUse) (p total : Nat) : (childTotal s x p total).boot = s.boot := by
  unfold childTotal
  split <;> simp -implicitDefEqProofs

@[simp] theorem barArriveEff_boot (s : State) (p : Nat) (f : Frame) : (barArriveEff s p f).boot = s.boot := by
  simp -implicitDefEqProofs [barArriveEff]

@[simp] theorem barReleaseEff_boot (s : State) (p : Nat) (f : Frame) : (barReleaseEff s p f).boot = s.boot := by
  simp -implicitDefEqProofs [barReleaseEff]

@[simp] theorem showPodQ_boot (s : State) : (showPodQ s).boot = s.boot := by simp -implicitDefEqProofs [showPodQ]

/-! Tempo, schedule and the discipline of the tide. -/

@[simp] theorem aggregateChanged_boot (s : State) (old : Nat) : (aggregateChanged s old).boot = s.boot := by
  simp -implicitDefEqProofs [aggregateChanged]

@[simp] theorem recomputeTempo_boot (s : State) : (recomputeTempo s).boot = s.boot := by simp -implicitDefEqProofs [recomputeTempo]

@[simp] theorem loseChild_boot (s : State) (p : Nat) : (loseChild s p).boot = s.boot := by simp -implicitDefEqProofs [loseChild]

@[simp] theorem dropChild_boot (s : State) (p : Nat) : (dropChild s p).boot = s.boot := by simp -implicitDefEqProofs [dropChild]

@[simp] theorem announce_boot (s : State) (q : Nat) : (announce s q).boot = s.boot := by simp -implicitDefEqProofs [announce]

@[simp] theorem rejoin_boot (s : State) : (rejoin s).boot = s.boot := by
  unfold rejoin
  split <;> simp -implicitDefEqProofs

@[simp] theorem takeAnnounce_boot (s : State) (p : Nat) (a : Announce) : (takeAnnounce s p a).boot = s.boot := by
  simp -implicitDefEqProofs [takeAnnounce]

@[simp] theorem tryJoin_boot (s : State) : (tryJoin s).boot = s.boot := by
  unfold tryJoin
  split <;> simp -implicitDefEqProofs

@[simp] theorem frameState_boot (s : State) (p : Nat) (v : Nat × Nat × Nat) : (frameState s p v).boot = s.boot := by
  unfold frameState
  split
  · rfl
  · split
    · simp -implicitDefEqProofs
    · split
      · simp -implicitDefEqProofs
      · split <;> simp -implicitDefEqProofs

@[simp] theorem takeParent_boot (s : State) (p : Nat) (m : Marker) : (takeParent s p m).boot = s.boot := by
  simp -implicitDefEqProofs [takeParent]

@[simp] theorem chooseParent_boot (s : State) : (chooseParent s).boot = s.boot := by
  unfold chooseParent
  split
  · rfl
  · split
    · simp -implicitDefEqProofs
    · split <;> simp -implicitDefEqProofs

@[simp] theorem loseLock_boot (s : State) : (loseLock s).boot = s.boot := by simp -implicitDefEqProofs [loseLock]

@[simp] theorem moveTimes_sigs (s : State) (d : Int) : (moveTimes s d).boot.sigs = s.boot.sigs := rfl

@[simp] theorem applyOffset_sigs (s : State) (o : Int) : (applyOffset s o).boot.sigs = s.boot.sigs := by simp -implicitDefEqProofs [applyOffset]

@[simp] theorem markerEff_sigs (s : State) (p : Nat) (f : Frame) : (markerEff s p f).boot.sigs = s.boot.sigs := by
  simp -implicitDefEqProofs [markerEff]

@[simp] theorem dropLost_boot (s : State) : (dropLost s).boot = s.boot := by
  unfold dropLost
  exact foldl_boot _ (fun t p => by split <;> simp -implicitDefEqProofs) _ _

@[simp] theorem enterHoldover_boot (s : State) : (enterHoldover s).boot = s.boot := by simp -implicitDefEqProofs [enterHoldover]

@[simp] theorem enterSource_boot (s : State) : (enterSource s).boot = s.boot := by simp -implicitDefEqProofs [enterSource]

@[simp] theorem releaseKnown_boot (s : State) : (releaseKnown s).boot = s.boot := by
  unfold releaseKnown
  exact foldl_boot _ (fun t x => by split <;> simp -implicitDefEqProofs) _ _

/-! Flows of the straits. -/

@[simp] theorem landAdd_boot (s : State) (core sem n : Nat) : (landAdd s core sem n).boot = s.boot := by simp -implicitDefEqProofs [landAdd]

@[simp] theorem sendCtl_boot (s : State) (p typ flow seq : Nat) (body : List Byte) : (sendCtl s p typ flow seq body).boot = s.boot := by
  simp -implicitDefEqProofs [sendCtl]

@[simp] theorem sendAck_boot (s : State) (p i : Nat) : (sendAck s p i).boot = s.boot := by simp -implicitDefEqProofs [sendAck]

@[simp] theorem sendNack_boot (s : State) (p i reason : Nat) : (sendNack s p i reason).boot = s.boot := by simp -implicitDefEqProofs [sendNack]

@[simp] theorem grant_boot (s : State) (i n : Nat) : (grant s i n).boot = s.boot := by simp -implicitDefEqProofs [grant]

@[simp] theorem faultFlow_boot (s : State) (i cause : Nat) : (faultFlow s i cause).boot = s.boot := by simp -implicitDefEqProofs [faultFlow]

@[simp] theorem countForeign_boot (s : State) (p : Nat) : (countForeign s p).boot = s.boot := by simp -implicitDefEqProofs [countForeign]

@[simp] theorem newXfer_boot (s : State) : (newXfer s).boot = s.boot := by simp -implicitDefEqProofs [newXfer]

@[simp] theorem ackEff_boot (s : State) (p : Nat) (f : Frame) : (ackEff s p f).boot = s.boot := by simp -implicitDefEqProofs [ackEff]

@[simp] theorem resendFrom_boot (s : State) (p i q : Nat) : (resendFrom s p i q).boot = s.boot := by simp -implicitDefEqProofs [resendFrom]

@[simp] theorem retry_boot (s : State) (i q : Nat) : (retry s i q).boot = s.boot := by
  unfold retry
  split <;> simp -implicitDefEqProofs

@[simp] theorem nackEff_boot (s : State) (p : Nat) (f : Frame) : (nackEff s p f).boot = s.boot := by simp -implicitDefEqProofs [nackEff]

@[simp] theorem ackFirst_boot (s : State) (p : Nat) (f : Option Frame) : (ackFirst s p f).boot = s.boot := by
  unfold ackFirst
  split <;> simp -implicitDefEqProofs

@[simp] theorem sendFrame_boot (s : State) (p i : Nat) (x : TxFrame) : (sendFrame s p i x).boot = s.boot := by
  simp -implicitDefEqProofs [sendFrame]

@[simp] theorem countLate_boot (s : State) (c : Nat) : (countLate s c).boot = s.boot := by simp -implicitDefEqProofs [countLate]

/-! The engines. -/

@[simp] theorem completeEff_boot (s : State) (c e : Nat) : (completeEff s c e).boot = s.boot := by
  unfold completeEff
  split <;> simp -implicitDefEqProofs [endRun]

@[simp] theorem loadRow_boot (s : State) (d : Line) (r : Nat) : (loadRow s d r).1.boot = s.boot := by
  unfold loadRow
  dsimp only
  (repeat' split) <;> simp -implicitDefEqProofs

@[simp] theorem loadRows_boot (d : Line) : ∀ (n : Nat) (s : State) (ws : List (Nat × List Byte)), (loadRows d n s ws).1.boot = s.boot
  | 0, _, _ => rfl
  | n + 1, s, ws => by simp -implicitDefEqProofs [loadRows, loadRows_boot d n]

@[simp] theorem storeEff_boot (s : State) (c : Nat) (k : Core) (d : Line) : (storeEff s c k d).boot = s.boot := by
  simp -implicitDefEqProofs [storeEff, storeRow]

@[simp] theorem countSkip_boot (s : State) (c : Nat) : (countSkip s c).boot = s.boot := by simp -implicitDefEqProofs [countSkip]

/-! The harbour and its sessions. -/

@[simp] theorem sendTo_boot (s : State) (mac : BitVec 48) (o : HarbourOut) : (sendTo s mac o).boot = s.boot := by
  simp -implicitDefEqProofs [sendTo]

@[simp] theorem sendHarbour_boot (s : State) (dst : BitVec 128) (o : HarbourOut) : (sendHarbour s dst o).boot = s.boot := by
  unfold sendHarbour
  split <;> simp -implicitDefEqProofs

@[simp] theorem learn_boot (s : State) (ip : BitVec 128) (mac : BitVec 48) : (learn s ip mac).boot = s.boot := by
  simp -implicitDefEqProofs [learn]

@[simp] theorem endSession_boot (s : State) (k state cause : Nat) : (endSession s k state cause).boot = s.boot := by
  simp -implicitDefEqProofs [endSession]

@[simp] theorem transmit_boot (s : State) (k : Nat) (h : HOut) : (transmit s k h).boot = s.boot := by simp -implicitDefEqProofs [transmit]

@[simp] theorem number_boot (s : State) (k typ addr : Nat) (payload : List Byte) : (number s k typ addr payload).boot = s.boot := by
  simp -implicitDefEqProofs [number]

@[simp] theorem numberData_boot (s : State) (k : Nat) (r : SRange) (rest : List SRange) : (numberData s k r rest).boot = s.boot := by
  simp -implicitDefEqProofs [numberData]

theorem pump_boot (k : Nat) : ∀ (n : Nat) (s : State), (pump k n s).boot = s.boot
  | 0, _ => rfl
  | n + 1, s => by
    unfold pump
    dsimp only
    split
    · split <;> simp -implicitDefEqProofs [pump_boot k n]
    · rfl

@[simp] theorem pumpSession_boot (s : State) (k : Nat) : (pumpSession s k).boot = s.boot := pump_boot k _ s

@[simp] theorem answerNack_boot (s : State) (m : HMsg) (seq code : Nat) : (answerNack s m seq code).boot = s.boot := by
  simp -implicitDefEqProofs [answerNack]

@[simp] theorem oweAck_boot (s : State) (k : Nat) (m : HMsg) : (oweAck s k m).boot = s.boot := by simp -implicitDefEqProofs [oweAck]

/-- A message in a sequence leaves the boot state as its taking does. -/
theorem inOrder_boot (s : State) (m : HMsg) (take : Nat → State) (h : ∀ k, (take k).boot = s.boot) : (inOrder s m take).boot = s.boot := by
  unfold inOrder
  split
  · simp -implicitDefEqProofs
  · exact boot_of_ite (h _) (boot_of_ite (boot_of_ite rfl (by simp -implicitDefEqProofs)) (by simp -implicitDefEqProofs))

@[simp] theorem accepted_boot (s : State) (k n : Nat) (m : HMsg) :
    (accepted s k n m).boot = s.boot := (oweAck_boot ..).trans (modSession_boot ..)

@[simp] theorem dataEff_boot (s : State) (m : HMsg) : (dataEff s m).boot = s.boot := inOrder_boot s m _ fun k => by simp -implicitDefEqProofs

@[simp] theorem ackMessage_boot (s : State) (k : Nat) (m : HMsg) : (ackMessage s k m).boot = s.boot := by simp -implicitDefEqProofs [ackMessage]

@[simp] theorem endEff_boot (s : State) (m : HMsg) :
    (endEff s m).boot = s.boot := inOrder_boot s m _ fun k => by simp -implicitDefEqProofs [ledgerFrom]

@[simp] theorem compareDigests_boot (s : State) (n : Nat) : (compareDigests s n).boot = s.boot := by simp -implicitDefEqProofs [compareDigests]

@[simp] theorem digestEff_boot (s : State) (m : HMsg) : (digestEff s m).boot = s.boot := inOrder_boot s m _ fun k => by simp -implicitDefEqProofs

@[simp] theorem discoveryEff_boot (s : State) (mac : BitVec 48) (d : Discovery) : (discoveryEff s mac d).boot = s.boot := by
  unfold discoveryEff
  split <;> simp -implicitDefEqProofs

/-! Ports. -/

@[simp] theorem portDown_boot (s : State) (p cause : Nat) : (portDown s p cause).boot = s.boot := by simp -implicitDefEqProofs [portDown]

@[simp] theorem beginTraining_boot (s : State) (p : Nat) : (beginTraining s p).boot = s.boot := by simp -implicitDefEqProofs [beginTraining]

@[simp] theorem sendLane_boot (s : State) (p : Nat) : (sendLane s p).boot = s.boot := by simp -implicitDefEqProofs [sendLane]

@[simp] theorem declareLane_boot (s : State) (p n : Nat) : (declareLane s p n).boot = s.boot := by simp -implicitDefEqProofs [declareLane]

@[simp] theorem laneChange_boot (s : State) (p : Nat) (tx : Bool) : (laneChange s p tx).boot = s.boot := by
  simp -implicitDefEqProofs [laneChange]

/-! The job: programs, flows, frames, steps and the ledger. -/

@[simp] theorem storeProgram_boot (s : State) (p : Program) : (storeProgram s p).boot = s.boot := by simp -implicitDefEqProofs [storeProgram]

@[simp] theorem rewriteStore_boot (s : State) (c : Nat) : (rewriteStore s c).boot = s.boot := by
  unfold rewriteStore
  split <;> simp -implicitDefEqProofs

@[simp] theorem loadPrograms_boot (s : State) (variant : Nat) : (loadPrograms s variant).boot = s.boot := by
  simp -implicitDefEqProofs [loadPrograms]

@[simp] theorem dropOutbound_boot (s : State) (c : Nat) : (dropOutbound s c).boot = s.boot := by simp -implicitDefEqProofs [dropOutbound]

@[simp] theorem wipeCore_boot (s : State) (c : Nat) : (wipeCore s c).boot = s.boot := by simp -implicitDefEqProofs [wipeCore]

@[simp] theorem writeIsleBars_boot (s : State) (isle : Nat) : (writeIsleBars s isle).boot = s.boot := by
  simp -implicitDefEqProofs [writeIsleBars]

@[simp] theorem writeBars_boot (s : State) : (writeBars s).boot = s.boot := by simp -implicitDefEqProofs [writeBars]

@[simp] theorem freeFlows_boot (s : State) : (freeFlows s).boot = s.boot := by simp -implicitDefEqProofs [freeFlows]

@[simp] theorem writeFlows_boot (s : State) (variant state : Nat) : (writeFlows s variant state).boot = s.boot := by
  simp -implicitDefEqProofs [writeFlows]

@[simp] theorem armFlows_boot (s : State) : (armFlows s).boot = s.boot := by simp -implicitDefEqProofs [armFlows]

@[simp] theorem unarmFlows_boot (s : State) : (unarmFlows s).boot = s.boot := by simp -implicitDefEqProofs [unarmFlows]

@[simp] theorem haltJob_boot (s : State) (cause : Nat) : (haltJob s cause).boot = s.boot := by simp -implicitDefEqProofs [haltJob]

@[simp] theorem startCores_boot (s : State) (n : Nat) : (startCores s n).boot = s.boot := by simp -implicitDefEqProofs [startCores]

@[simp] theorem giveFrame_boot (s : State) (c n : Nat) (ref : Nat × Nat) (pc : Nat) (runs : RunKind) :
    (giveFrame s c n ref pc runs).boot = s.boot := by
  simp -implicitDefEqProofs [giveFrame]

@[simp] theorem switchCore_boot (s : State) (c v : Nat) : (switchCore s c v).boot = s.boot := by
  unfold switchCore
  split <;> simp -implicitDefEqProofs

@[simp] theorem giveAfter_boot (s : State) (c n : Nat) (ref : Nat × Nat) (plan : Nat) : (giveAfter s c n ref plan).boot = s.boot := by
  unfold giveAfter
  split <;> simp -implicitDefEqProofs

@[simp] theorem deliver_boot (s : State) (c : Nat) : (deliver s c).boot = s.boot := by
  unfold deliver
  dsimp only
  split
  · split
    · split <;> simp -implicitDefEqProofs
    · rfl
  · rfl

@[simp] theorem readStashes_boot (s : State) (n : Nat) : ((readStashes s n).1).boot = s.boot := by
  unfold readStashes
  refine foldl_fst_boot _ (fun x h => ?_) _ _
  dsimp only
  split <;> simp -implicitDefEqProofs

@[simp] theorem sendDigest_boot (s : State) (n poison : Nat) (dg : List Byte) : (sendDigest s n poison dg).boot = s.boot := by
  unfold sendDigest
  split
  · split <;> simp -implicitDefEqProofs
  · rfl

@[simp] theorem evaluate_boot (s : State) (n : Nat) : (evaluate s n).boot = s.boot := by simp -implicitDefEqProofs [evaluate]

@[simp] theorem evaluateReported_boot (s : State) : (evaluateReported s).boot = s.boot := by simp -implicitDefEqProofs [evaluateReported]

@[simp] theorem frameDone_boot (s : State) (n : Nat) : (frameDone s n).boot = s.boot := by
  unfold frameDone
  dsimp only
  (repeat' split) <;> simp -implicitDefEqProofs

@[simp] theorem reportDone_boot (s : State) (c : Nat) : (reportDone s c).boot = s.boot := by simp -implicitDefEqProofs [reportDone]

@[simp] theorem settleLedger_boot (s : State) : (settleLedger s).boot = s.boot := by simp -implicitDefEqProofs [settleLedger]

@[simp] theorem ledgerDecide_boot (s : State) (n outcome : Nat) : (ledgerDecide s n outcome).boot = s.boot := by
  simp -implicitDefEqProofs [ledgerDecide]

@[simp] theorem writeVerdict_boot (s : State) (n o : Nat) : (writeVerdict s n o).boot = s.boot := by simp -implicitDefEqProofs [writeVerdict]

@[simp] theorem writeReport_boot (s : State) (e : Eval) (o faults : Nat) : (writeReport s e o faults).boot = s.boot := by
  simp -implicitDefEqProofs [writeReport]

@[simp] theorem decideStep_boot (s : State) (e : Eval) (cs : Nat) : (decideStep s e cs).boot = s.boot := by
  simp -implicitDefEqProofs [decideStep, closeEntry]

@[simp] theorem foldCore_boot (s : State) (c : Nat) : (foldCore s c).boot = s.boot := by simp -implicitDefEqProofs [foldCore]

@[simp] theorem foldReshard_boot (s : State) : (foldReshard s).boot = s.boot := by simp -implicitDefEqProofs [foldReshard, abandonReduction]

@[simp] theorem joinJob_boot (s : State) (n : Nat) : (joinJob s n).boot = s.boot := by simp -implicitDefEqProofs [joinJob]

@[simp] theorem frameCounts_boot (s : State) (n : Nat) : (frameCounts s n).boot = s.boot := by simp -implicitDefEqProofs [frameCounts]

@[simp] theorem reshardFrame_boot (s : State) (n : Nat) : (reshardFrame s n).boot = s.boot := by
  unfold reshardFrame
  dsimp only
  (repeat' split) <;> simp -implicitDefEqProofs [joinCores]

@[simp] theorem beginFrame_boot (s : State) (f : Nat × Nat × Nat) : (beginFrame s f).boot = s.boot := by simp -implicitDefEqProofs [beginFrame]

@[simp] theorem slotWrite_boot (s : State) (hi : Bool) (v : Reg) : (slotWrite s hi v).boot = s.boot := by simp -implicitDefEqProofs [slotWrite]

/-! Isthmus links, stacks, reads that clear. -/

@[simp] theorem countParity_boot (s : State) (k m : Nat) : (countParity s k m).boot = s.boot := by simp -implicitDefEqProofs [countParity]

@[simp] theorem checkLink_boot (s : State) (k : Nat) : (checkLink s k).boot = s.boot := by simp -implicitDefEqProofs [checkLink]

@[simp] theorem trainLinks_boot (s : State) (failed : List LaneFail) : (trainLinks s failed).boot = s.boot := by
  simp -implicitDefEqProofs [trainLinks]

@[simp] theorem clearStack_boot (s : State) (i : Nat) (f : Stack → Stack) : (clearStack s i f).boot = s.boot := by
  simp -implicitDefEqProofs [clearStack]

@[simp] theorem afterRead_boot (s : State) (off : Nat) : (afterRead s off).boot = s.boot := by simp -implicitDefEqProofs [afterRead]

@[simp] theorem readReg_boot (s : State) (off : Nat) : (readReg s off).boot = s.boot := by simp -implicitDefEqProofs [readReg]

/-! The configuration, the meter and the governor. -/

@[simp] theorem cfgRise_boot (s : State) (c : Change) : (cfgRise s c).boot = s.boot := by simp -implicitDefEqProofs [cfgRise]

@[simp] theorem cfgWrite_boot (s : State) (jtag : Bool) (off old : Nat) : (cfgWrite s jtag off old).boot = s.boot := by
  simp -implicitDefEqProofs [cfgWrite]

@[simp] theorem meterAt_boot (s : State) (energy rtc : Nat) : (meterAt s energy rtc).boot = s.boot := by simp -implicitDefEqProofs [meterAt]

@[simp] theorem append_boot (s : State) (typ : Nat) (body : List Byte) : (append s typ body).boot = s.boot := by
  simp -implicitDefEqProofs [append]

@[simp] theorem closeInterval_boot (s : State) (peakW : Nat) : (closeInterval s peakW).boot = s.boot := by
  simp -implicitDefEqProofs [closeInterval]

@[simp] theorem sealRecord_boot (s : State) (cause addr : Nat) : (sealRecord s cause addr).boot = s.boot := by
  simp -implicitDefEqProofs [sealRecord]

@[simp] theorem notice_boot (s : State) (typ setting old new ahead : Nat) : (notice s typ setting old new ahead).boot = s.boot := by
  simp -implicitDefEqProofs [notice]

@[simp] theorem setTag_boot (s : State) (tag ahead : Nat) : (setTag s tag ahead).boot = s.boot := by simp -implicitDefEqProofs [setTag]

@[simp] theorem finishAs_boot (s : State) (m code detail : Nat) (resp : List Byte) (value : Nat) :
    (finishAs s m code detail resp value).boot = s.boot := by
  unfold finishAs
  split <;> simp -implicitDefEqProofs

@[simp] theorem finish_boot (s : State) (m code detail : Nat) (resp : List Byte) : (finish s m code detail resp).boot = s.boot := by
  simp -implicitDefEqProofs [finish]

@[simp] theorem govSetting_boot (s : State) (setting v ahead : Nat) : (govSetting s setting v ahead).boot = s.boot := by
  unfold govSetting
  split <;> simp -implicitDefEqProofs

@[simp] theorem govTake_boot (s : State) (r : GovReg) (v : Reg) : (govTake s r v).boot = s.boot := by
  unfold govTake
  split <;> simp -implicitDefEqProofs

@[simp] theorem govWrite_boot (s : State) (r : GovReg) (v : Reg) (jtag : Bool) : (govWrite s r v jtag).boot = s.boot := by
  simp -implicitDefEqProofs [govWrite]

@[simp] theorem steer_boot (s : State) (w : PowerWork) : (steer s w).boot = s.boot := by simp -implicitDefEqProofs [steer, movePoint]

@[simp] theorem takeMean_boot (s : State) (bytes : List Byte) : (takeMean s bytes).boot = s.boot := by
  unfold takeMean
  split <;> simp -implicitDefEqProofs

/-! Power states. -/

@[simp] theorem setState_boot (s : State) (v ahead : Nat) : (setState s v ahead).boot = s.boot := by simp -implicitDefEqProofs [setState]

@[simp] theorem darkTide_boot (s : State) : (darkTide s).boot = s.boot := by simp -implicitDefEqProofs [darkTide]

@[simp] theorem straitsDark_boot (s : State) : (straitsDark s).boot = s.boot := by simp -implicitDefEqProofs [straitsDark]

@[simp] theorem restoreReg_boot (s : State) (e : Nat × Reg) : (restoreReg s e).boot = s.boot := by simp -implicitDefEqProofs [restoreReg]

@[simp] theorem endPowerCommand_boot (s : State) (code : Nat) : (endPowerCommand s code).boot = s.boot := by
  unfold endPowerCommand
  split <;> simp -implicitDefEqProofs

@[simp] theorem enterState_boot (s : State) (v : Nat) : (enterState s v).boot = s.boot := by simp -implicitDefEqProofs [enterState]

@[simp] theorem coresAnew_boot (s : State) : (coresAnew s).boot = s.boot := by simp -implicitDefEqProofs [coresAnew]

@[simp] theorem writesAnew_boot (s : State) : (writesAnew s).boot = s.boot := by simp -implicitDefEqProofs [writesAnew]

@[simp] theorem memoryAnew_boot (s : State) : (memoryAnew s).boot = s.boot := by simp -implicitDefEqProofs [memoryAnew]

@[simp] theorem leaveDark_boot (s : State) (failed : List LaneFail) : (leaveDark s failed).boot = s.boot := by
  unfold leaveDark
  dsimp only
  (repeat' split) <;> simp -implicitDefEqProofs [portsAnew]

@[simp] theorem takeTemps_boot (s : State) (ts : List (BitVec 16)) : (takeTemps s ts).boot = s.boot := by simp -implicitDefEqProofs [takeTemps]

@[simp] theorem driveTrip_sigs (s : State) (low : Bool) : (driveTrip s low).boot.sigs = s.boot.sigs := by
  unfold driveTrip
  split <;> rfl

theorem tripReset_sigs (s : State) (r : Bool) : ({ s with boot := { s.boot with tripReset := r } } : State).boot.sigs = s.boot.sigs := rfl

@[simp] theorem releaseTrip_sigs (s : State) : (releaseTrip s).boot.sigs = s.boot.sigs := by
  unfold releaseTrip
  split
  · exact driveTrip_sigs _ _
  · rfl

@[simp] theorem wakeUp_sigs (s : State) (cause : Nat) : (wakeUp s cause).boot.sigs = s.boot.sigs := by
  unfold wakeUp
  dsimp only
  (repeat' split) <;> simp -implicitDefEqProofs

@[simp] theorem endWaiting_boot (s : State) : (endWaiting s).boot = s.boot := by
  unfold endWaiting
  refine (foldl_boot _ (fun t b => ?_) _ _).trans ?_
  · split
    · simp -implicitDefEqProofs
    · rfl
  · split
    · split <;> simp -implicitDefEqProofs
    · split <;> simp -implicitDefEqProofs

@[simp] theorem cutPower_boot (s : State) : (cutPower s).boot = s.boot := by simp -implicitDefEqProofs [cutPower]

@[simp] theorem loseVin48_boot (s : State) : (loseVin48 s).boot = s.boot := by simp -implicitDefEqProofs [loseVin48]

@[simp] theorem loseReference_boot (s : State) : (loseReference s).boot = s.boot := by simp -implicitDefEqProofs [loseReference]

/-! Resets, images and boot. -/

@[simp] theorem obtainImage_sigs (s : State) : (obtainImage s).boot.sigs = s.boot.sigs := rfl

@[simp] theorem tryImage_sigs (s : State) (img : List Byte) (fromHost recovered : Bool) :
    (tryImage s img fromHost recovered).boot.sigs = s.boot.sigs := by
  unfold tryImage
  split <;> rfl

@[simp] theorem bootCtrl_sigs (s : State) (len : Nat) (go : Bool) : (bootCtrl s len go).boot.sigs = s.boot.sigs := by
  unfold bootCtrl
  dsimp only
  split
  · split
    · rfl
    · exact tryImage_sigs _ _ _ _
  · rfl

@[simp] theorem noteCoreReset_sigs (s : State) (isle : Nat) (core : Option Nat) (wdog : Bool) :
    (noteCoreReset s isle core wdog).boot.sigs = s.boot.sigs := rfl

@[simp] theorem resetCores_sigs (s : State) (isle : Nat) (core : Option Nat) (wdog : Bool) :
    (resetCores s isle core wdog).boot.sigs = s.boot.sigs := by
  unfold resetCores
  split <;> simp -implicitDefEqProofs [clearIsleBars, takeCoreReset]

@[simp] theorem coreAnew_boot (s : State) (c : Nat) : (coreAnew s c).boot = s.boot := by simp -implicitDefEqProofs [coreAnew]

@[simp] theorem coreAwaited_boot (s : State) (c m : Nat) : (coreAwaited s c m).boot = s.boot := by
  unfold coreAwaited
  split <;> simp -implicitDefEqProofs

@[simp] theorem goOn_sigs (s : State) : (goOn s).boot.sigs = s.boot.sigs := by simp -implicitDefEqProofs [goOn]

/-! What the commands of the mailboxes do. -/

@[simp] theorem writeDone_boot (s : State) (m code : Nat) (detail : Reg) (resp : List Byte) (irq : Bool) :
    (writeDone s m code detail resp irq).boot = s.boot := by
  simp -implicitDefEqProofs [writeDone]

@[simp] theorem startBox_boot (s : State) (w : Word_) : (startBox s w).boot = s.boot := by simp -implicitDefEqProofs [startBox]

@[simp] theorem afterDone_sigs (s : State) (op code : Nat) : (afterDone s op code).boot.sigs = s.boot.sigs := by
  unfold afterDone
  split
  · rfl
  · split
    · rfl
    · split
      · rfl
      · split <;> rfl

@[simp] theorem refresh_boot (s : State) : (refresh s).boot = s.boot := by simp -implicitDefEqProofs [refresh]

@[simp] theorem govAll_boot (s : State) (vs : List (Nat × Nat)) (ahead : Nat) : (govAll s vs ahead).boot = s.boot := by
  simp -implicitDefEqProofs [govAll]

@[simp] theorem meterAnswer_boot (s : State) (m : Nat) : (meterAnswer s m).boot = s.boot := by
  unfold meterAnswer
  exact boot_of_ite (finish_boot ..) (finish_boot ..)

@[simp] theorem serveReads_boot (s : State) : (serveReads s).boot = s.boot := by
  unfold serveReads
  exact (foldl_boot _ (fun t (r : Nat × Nat) => meterAnswer_boot t r.1) _ _).trans (setPower_boot ..)

@[simp] theorem lifeWrite_sigs (s : State) (target : Nat) (owner : List Byte) : (lifeWrite s target owner).boot.sigs = s.boot.sigs := by
  unfold lifeWrite
  dsimp only
  split
  · rfl
  · split <;> rfl

@[simp] theorem enterJob_boot (s : State) (v : Nat) : (enterJob s v).boot = s.boot := by simp -implicitDefEqProofs [enterJob]

@[simp] theorem unarm_boot (s : State) : (unarm s).boot = s.boot := by simp -implicitDefEqProofs [unarm]

@[simp] theorem clearSchedule_boot (s : State) : (clearSchedule s).boot = s.boot := by simp -implicitDefEqProofs [clearSchedule]

@[simp] theorem acceptImage_boot (s : State) (a n : Nat) (b : List Byte) (reload : Bool) : (acceptImage s a n b reload).boot = s.boot := by
  simp -implicitDefEqProofs [acceptImage, planDigest]

@[simp] theorem armDone_boot (s : State) (a : Arming) : (armDone s a).boot = s.boot := by simp -implicitDefEqProofs [armDone]

@[simp] theorem tryArm_boot (s : State) : (tryArm s).boot = s.boot := by
  unfold tryArm
  split <;> simp -implicitDefEqProofs

@[simp] theorem beginArm_boot (s : State) (a : Arming) : (beginArm s a).boot = s.boot := by simp -implicitDefEqProofs [beginArm, trainRole]

@[simp] theorem recordPeer_boot (s : State) (p : Nat) (f : Frame) : (recordPeer s p f).boot = s.boot := by simp -implicitDefEqProofs [recordPeer]

@[simp] theorem startJob_boot (s : State) (s0 start q : Nat) : (startJob s s0 start q).boot = s.boot := by simp -implicitDefEqProofs [startJob]

@[simp] theorem releaseJob_boot (s : State) : (releaseJob s).boot = s.boot := by simp -implicitDefEqProofs [releaseJob]

@[simp] theorem resumeLedger_boot (s : State) (n outcome : Nat) : (resumeLedger s n outcome).boot = s.boot := by
  simp -implicitDefEqProofs [resumeLedger]

@[simp] theorem enterFree_boot (s : State) : (enterFree s).boot = s.boot := by simp -implicitDefEqProofs [enterFree]

@[simp] theorem takeRole_boot (s : State) (pod rank : Nat) : (takeRole s pod rank).boot = s.boot := by simp -implicitDefEqProofs [takeRole]

@[simp] theorem diagCore_boot (s : State) (p : Program) : (diagCore s p).boot = s.boot := by simp -implicitDefEqProofs [diagCore]

/-! Registers, the windows and an update cycle. -/

@[simp] theorem putSupEvent_boot (s : State) (new : Reg) : (putSupEvent s new).boot = s.boot := by simp -implicitDefEqProofs [putSupEvent]

@[simp] theorem unmask_boot (s : State) (v : Nat) : (unmask s v).boot = s.boot := by simp -implicitDefEqProofs [unmask]

@[simp] theorem msixWrite_boot (s : State) (o : Nat) (v : Reg) : (msixWrite s o v).boot = s.boot := by simp -implicitDefEqProofs [msixWrite]

@[simp] theorem regRead_boot (s : State) (off n : Nat) : (regRead s off n).boot = s.boot := by simp -implicitDefEqProofs [regRead]

@[simp] theorem physRead_boot (s : State) (p n : Nat) : (physRead s p n).1.boot = s.boot := by
  unfold physRead
  dsimp only
  (repeat' split) <;> simp -implicitDefEqProofs [useFree8]

@[simp] theorem flowPut_boot (s : State) (o : Nat) (bs : List Byte) : (flowPut s o bs).boot = s.boot := by simp -implicitDefEqProofs [flowPut]

@[simp] theorem supStore_sigs (s : State) (o : Nat) (bs : List Byte) : (supStore s o bs).boot.sigs = s.boot.sigs := by
  unfold supStore
  split
  · rfl
  · split
    · split <;> rfl
    · split <;> simp -implicitDefEqProofs

@[simp] theorem winRead_boot (s : State) (off n : Nat) : (winRead s off n).boot = s.boot := by simp -implicitDefEqProofs [winRead]

@[simp] theorem cycleAdds_boot (s : State) (a : SameCycle) : (cycleAdds s a).boot = s.boot := by simp -implicitDefEqProofs [cycleAdds]

@[simp] theorem semWaitSubEff_boot (s : State) (c : Nat) (w : W64) : (semWaitSubEff s c w).boot = s.boot := by
  simp -implicitDefEqProofs [semWaitSubEff]

end Sys2Proof.Machine
end

section
/-! SUPPORT. What the rows of every family, the frames that land and the commands of the mailboxes leave of the signature state (R474). -/

namespace Sys2Proof.Machine

open Sys2Proof

/-! What a row answers. -/

/-- Whatever state an outcome answers has the signature state x. -/
def SigsStay (x : SigState) : Host.Outcome State Fault Refusal → Prop
  | .next t => t.boot.sigs = x
  | .fault _ => True
  | .refused _ => True

section
variable {x : SigState}

@[simp] theorem sigsStay_next (t : State) : SigsStay x (.next t) ↔ t.boot.sigs = x := Iff.rfl

@[simp] theorem sigsStay_fault (f : Fault) : SigsStay x (.fault f) := trivial

@[simp] theorem sigsStay_undefinedCase (f : Kept → Fault) (s : State) : SigsStay x (undefinedCase f s) := trivial

@[simp] theorem sigsStay_when (g : Bool) (s t : State) : SigsStay x (when g s t) ↔ (if g then t else s).boot.sigs = x := Iff.rfl

theorem when_sigs {g : Bool} {s t : State} (ht : t.boot.sigs = s.boot.sigs) : SigsStay s.boot.sigs (when g s t) := by
  simp -implicitDefEqProofs [ht]

@[simp] theorem sigsStay_ite (c : Prop) [Decidable c] (a b : Host.Outcome State Fault Refusal) :
    SigsStay x (if c then a else b) ↔ if c then SigsStay x a else SigsStay x b := by
  split <;> rfl

theorem sigsStay_thenDo {o : Host.Outcome State Fault Refusal} {f : State → Host.Outcome State Fault Refusal} (ho : SigsStay x o)
    (hf : ∀ t, t.boot.sigs = x → SigsStay x (f t)) : SigsStay x (thenDo o f) := by
  cases o with
  | next t => exact hf t ho
  | fault e => trivial
  | refused r => trivial

@[simp] theorem ofLand_ok (t : State) : ofLand (.ok t) = .next t := rfl

@[simp] theorem ofLand_error (f : Fault) : ofLand (.error f) = .fault f := rfl

@[simp] theorem ofLand_ite (c : Prop) [Decidable c] (a b : Land) : ofLand (if c then a else b) = if c then ofLand a else ofLand b :=
  apply_ite ..

theorem sigsStay_bind {l : Land} {f : State → Land} (hl : SigsStay x (ofLand l)) (hf : ∀ t, t.boot.sigs = x → SigsStay x (ofLand (f t))) :
    SigsStay x (ofLand (l.bind f)) := by
  cases l with
  | ok t => exact hf t hl
  | error e => trivial

theorem sigs_of_ok {l : Land} {t : State} (e : l = .ok t) (h : SigsStay x (ofLand l)) : t.boot.sigs = x := by
  rw [e] at h
  exact h

theorem sigsStay_map {l : Land} {f : State → State} (hl : SigsStay x (ofLand l)) (hf : ∀ t, (f t).boot.sigs = t.boot.sigs) :
    SigsStay x (ofLand (l.map f)) := by
  cases l with
  | ok t => exact (hf t).trans hl
  | error e => trivial

/-! Rows of the engines and of the sequencer, frames that arrive. -/

@[simp] theorem engineRow_sigs {s : State} {c e : Nat} {p : Phase} {kind : Line → Bool} {f : Core → Run → Host.Outcome State Fault Refusal}
    (hs : s.boot.sigs = x) (hf : ∀ k r, SigsStay x (f k r)) : SigsStay x (engineRow s c e p kind f) := by
  unfold engineRow
  split <;> simp -implicitDefEqProofs [hs, hf]

@[simp] theorem seqRow_sigs {s : State} {c op : Nat} {f : Core → W64 → Host.Outcome State Fault Refusal}
    (hs : s.boot.sigs = x) (hf : ∀ k w, SigsStay x (f k w)) : SigsStay x (seqRow s c op f) := by
  simp -implicitDefEqProofs [seqRow, hs, hf]

@[simp] theorem wakeRow_sigs {s : State} {c : Nat} {wt : SeqWait} {f : Core → W64 → Host.Outcome State Fault Refusal}
    (hs : s.boot.sigs = x) (hf : ∀ k w, SigsStay x (f k w)) : SigsStay x (wakeRow s c wt f) := by
  simp -implicitDefEqProofs [wakeRow, hs, hf]

@[simp] theorem tideRow_sigs {s : State} {p typ : Nat} {f : Frame} {eff : State → State}
    (hf : ∀ t, (eff t).boot.sigs = t.boot.sigs) : SigsStay s.boot.sigs (tideRow s p typ f eff) := by
  simp -implicitDefEqProofs [tideRow, hf]

@[simp] theorem portRow_sigs {s : State} {p typ : Nat} {f : Frame} {eff : State → Host.Outcome State Fault Refusal}
    (hf : ∀ t, SigsStay t.boot.sigs (eff t)) : SigsStay s.boot.sigs (portRow s p typ f eff) := by
  have taken := hf (marked s p)
  rw [marked_boot] at taken
  simp -implicitDefEqProofs [portRow, taken]

@[simp] theorem harbourRow_sigs {s : State} {typ : Nat} {m : HMsg} {t : State} (ht : t.boot = s.boot) :
    SigsStay s.boot.sigs (harbourRow s typ m t) := by
  simp -implicitDefEqProofs [harbourRow, ht]

@[simp] theorem ferryRow_sigs {s : State} {c op : Nat} {here : Core → Line → Nat → Host.Outcome State Fault Refusal}
    (hf : ∀ k d n, SigsStay s.boot.sigs (here k d n)) : SigsStay s.boot.sigs (ferryRow s c op here) := by
  simp -implicitDefEqProofs [ferryRow, ferryStrait, hf]

@[simp] theorem readRow_sigs (s : State) (off : Nat) : SigsStay s.boot.sigs (readRow s off) := by
  simp -implicitDefEqProofs [readRow]

@[simp] theorem handoffEff_sigs (s : State) (c : Nat) (k : Core) (d : Line) : SigsStay s.boot.sigs (handoffEff s c k d) := by
  simp -implicitDefEqProofs [handoffEff]

@[simp] theorem landPass_sigs (s : State) (c : Nat) (k : Core) (r : Run) (p : Pass) : SigsStay s.boot.sigs (landPass s c k r p) := by
  simp -implicitDefEqProofs [landPass]

/-! Contributions and frames that land (R249, R250, R314, R331). -/

theorem takeFrame_sigs {s : State} (hs : s.boot.sigs = x) (k : Nat) (f : InFrame) : SigsStay x (ofLand (takeFrame s k f)) := by
  simp -implicitDefEqProofs [takeFrame, hs]

theorem acceptFrame_sigs {s : State} (hs : s.boot.sigs = x) (i : Nat) (f : InFrame) : SigsStay x (ofLand (acceptFrame s i f)) := by
  simp -implicitDefEqProofs [acceptFrame, takeFrame_sigs, hs]

theorem feedFrames_sigs (i k : Nat) : ∀ (fs : List InFrame) (l : Land), SigsStay x (ofLand l) → SigsStay x (ofLand (fs.foldl (fun l f =>
    l.bind fun s => if recordOpen s k then takeFrame (setPark s i ((parkOf s i).erase f)) k f else .ok s) l))
  | [], _, hl => hl
  | f :: fs, l, hl => feedFrames_sigs i k fs _ (sigsStay_bind hl fun t ht => by simp -implicitDefEqProofs [takeFrame_sigs, ht])

theorem feedParked_sigs {s : State} (hs : s.boot.sigs = x) (i k : Nat) : SigsStay x (ofLand (feedParked s i k)) :=
  feedFrames_sigs i k _ _ hs

theorem landBytes_sigs {s : State} (hs : s.boot.sigs = x) (c a : Nat) (bs : List Byte) : SigsStay x (ofLand (landBytes s c a bs)) := by
  simp -implicitDefEqProofs [landBytes, hs]

theorem landSram_sigs {s : State} (hs : s.boot.sigs = x) (c a : Nat) (bs : List Byte) : SigsStay x (ofLand (landSram s c a bs)) := by
  have put := sigsStay_map (f := fun s => rememberAll s c 7 [(a, bs.length)]) (landBytes_sigs hs c a bs) fun t => by simp -implicitDefEqProofs
  simp -implicitDefEqProofs [landSram, hs, put]

theorem landFrame_sigs {s : State} (hs : s.boot.sigs = x) (core : Nat) (f : Frame) : SigsStay x (ofLand (landFrame s core f)) := by
  unfold landFrame
  dsimp only
  split
  · trivial
  · next t put =>
    have ht : t.boot.sigs = x := sigs_of_ok put (by simp -implicitDefEqProofs [landSram_sigs, hs])
    simp -implicitDefEqProofs [ht]

theorem deliverFrame_sigs {s : State} (hs : s.boot.sigs = x) (f : InFrame) : SigsStay x (ofLand (deliverFrame s f)) := by
  have put := sigsStay_map (f := fun s => returnCredits s f) (landFrame_sigs hs (cDestCore (flowOf s f.flow)) f.frame)
    fun t => by simp -implicitDefEqProofs
  simp -implicitDefEqProofs [deliverFrame, hs, put]

theorem drainSource_sigs (src : Nat) : ∀ (n : Nat) {s : State}, s.boot.sigs = x → SigsStay x (ofLand (drainSource src n s))
  | 0, _, hs => hs
  | n + 1, s, hs => by
    unfold drainSource
    split
    · exact hs
    · split
      · exact hs
      · exact sigsStay_bind (deliverFrame_sigs (by simp -implicitDefEqProofs [hs]) _) fun t ht => drainSource_sigs src n ht

theorem takeHead_sigs {s : State} (hs : s.boot.sigs = x) (i src : Nat) (f : InFrame) : SigsStay x (takeHead s i src f) :=
  sigsStay_bind (acceptFrame_sigs (by simp -implicitDefEqProofs [hs]) i f) fun _ ht => drainSource_sigs src _ ht

theorem intoSource_sigs {s : State} (hs : s.boot.sigs = x) (f : InFrame) : SigsStay x (ofLand (intoSource s f)) :=
  drainSource_sigs _ _ (by simp -implicitDefEqProofs [hs])

theorem intoSink_sigs {s : State} (hs : s.boot.sigs = x) (i : Nat) (f : Frame) : SigsStay x (ofLand (intoSink s i f)) := by
  simp -implicitDefEqProofs [intoSink, intoSource_sigs, hs]

theorem acceptSeq_sigs {s : State} (hs : s.boot.sigs = x) (i : Nat) (f : Frame) : SigsStay x (ofLand (acceptSeq s i f)) := by
  simp -implicitDefEqProofs [acceptSeq, advanceRecv, intoSink_sigs, hs]

theorem sequenced_sigs {s : State} (hs : s.boot.sigs = x) (p : Nat) (f : Frame) : SigsStay x (ofLand (sequenced s p f)) := by
  have taken := sigsStay_map (x := x) (f := fun t => sendAck t p (frameFlow f))
    (acceptSeq_sigs (s := modRt s (frameFlow f) fun r => { r with via := some p }) (by simp -implicitDefEqProofs [hs]) (frameFlow f) f)
    fun t => by simp -implicitDefEqProofs
  simp -implicitDefEqProofs [sequenced, hs, taken]

/-! Starts of descriptors, update cycles of semaphores (R55, R65). -/

theorem startEff_sigs {s : State} (hs : s.boot.sigs = x) (c e : Nat) (q : QEntry) (rest : List QEntry) : SigsStay x (startEff s c e q rest) := by
  simp -implicitDefEqProofs [startEff, hs]

theorem startHead_sigs {s : State} (hs : s.boot.sigs = x) (c e : Nat) : SigsStay x (startHead s c e) := by
  unfold startHead
  dsimp only
  split <;> simp -implicitDefEqProofs [startEff_sigs, hs]

theorem startHeads_sigs (c : Nat) (es : List (Fin 6)) (consuming : Bool) :
    ∀ (n : Nat) {s : State}, s.boot.sigs = x → SigsStay x (startHeads c es consuming n s)
  | 0, _, hs => hs
  | n + 1, s, hs => by
    unfold startHeads
    dsimp only
    split
    · exact sigsStay_thenDo (startHead_sigs hs c _) fun t ht => startHeads_sigs c es consuming n ht
    · exact startHeads_sigs c es consuming n hs

@[simp] theorem cycleStarts_sigs {s : State} {c : Nat} {es : List (Fin 6)} {last : State → State} (hs : s.boot.sigs = x)
    (hl : ∀ t, (last t).boot.sigs = t.boot.sigs) : SigsStay x (cycleStarts s c es last) :=
  sigsStay_thenDo (startHeads_sigs c es true 6 hs) fun t ht => startHeads_sigs c es false 6 ((hl t).trans ht)

@[simp] theorem semSubEff_sigs {s : State} (hs : s.boot.sigs = x) (c : Nat) (w : W64) : SigsStay x (semSubEff s c w) := by
  simp -implicitDefEqProofs [semSubEff, hs]

end

/-! Commands of the mailboxes (R423, R433). -/

/-- Whatever state a command goes on from has the signature state x. -/
def Answer.SigsStay (x : SigState) : Answer → Prop
  | .refuse _ _ => True
  | .go t => t.boot.sigs = x

section
variable {x : SigState}

@[simp] theorem answer_refuse (code detail : Nat) : (Answer.refuse code detail).SigsStay x := trivial

@[simp] theorem answer_go (t : State) : (Answer.go t).SigsStay x ↔ t.boot.sigs = x := Iff.rfl

@[simp] theorem answer_badParam (o : Nat) : (badParam o).SigsStay x := trivial

@[simp] theorem answer_okAt (s : State) (m : Nat) (resp : List Byte) : (okAt s m resp).SigsStay x ↔ s.boot.sigs = x := by
  simp -implicitDefEqProofs [okAt]

@[simp] theorem answer_ite (c : Prop) [Decidable c] (a b : Answer) :
    (if c then a else b).SigsStay x ↔ if c then a.SigsStay x else b.SigsStay x := by
  split <;> rfl

theorem answer_of_ite {c : Prop} [Decidable c] {a b : Answer} (ha : a.SigsStay x) (hb : b.SigsStay x) : (if c then a else b).SigsStay x := by
  split
  · exact ha
  · exact hb

theorem applyAnswer_sigs {s : State} {m : Nat} {a : Answer} (hs : s.boot.sigs = x) (ha : a.SigsStay x) : (applyAnswer s m a).boot.sigs = x := by
  cases a with
  | refuse code detail => simp -implicitDefEqProofs [applyAnswer, hs]
  | go t => exact ha

/-! Refusals by state (R433, Table 14-8). -/

/-- An answer, where there is one, refuses. -/
def OnlyRefuses (o : Option Answer) : Prop := ∀ a ∈ o, ∃ code detail, a = .refuse code detail

@[simp] theorem onlyRefuses_none : OnlyRefuses none := fun _ h => nomatch h

@[simp] theorem onlyRefuses_refuse (code detail : Nat) : OnlyRefuses (some (.refuse code detail)) := fun _ h =>
  ⟨code, detail, (Option.mem_some.mp h).symm⟩

@[simp] theorem onlyRefuses_ite (c : Prop) [Decidable c] (a b : Option Answer) :
    OnlyRefuses (if c then a else b) ↔ if c then OnlyRefuses a else OnlyRefuses b := by
  split <;> rfl

theorem onlyRefuses_orElse {a b : Option Answer} (ha : OnlyRefuses a) (hb : OnlyRefuses b) : OnlyRefuses (a.orElse fun _ => b) := by
  cases a with
  | none => exact hb
  | some y => exact ha

theorem onlyRefuses_map (o : Option Nat) (code : Nat) (detail : Nat → Nat) : OnlyRefuses (o.map fun n => .refuse code (detail n)) := by
  cases o with
  | none => exact onlyRefuses_none
  | some n => exact onlyRefuses_refuse code (detail n)

@[simp] theorem unserved_refuses (s : State) (m : Nat) : OnlyRefuses (unserved s m) := by simp -implicitDefEqProofs [unserved]

@[simp] theorem exclusiveBusy_refuses (s : State) (op : Nat) : OnlyRefuses (exclusiveBusy s op) := by
  unfold exclusiveBusy
  split
  · exact onlyRefuses_map _ _ _
  · exact onlyRefuses_none

@[simp] theorem stateGate_refuses (s : State) (op : Nat) : OnlyRefuses (stateGate s op) := by simp -implicitDefEqProofs [stateGate]

@[simp] theorem queueFull_refuses (s : State) : OnlyRefuses (queueFull s) := by simp -implicitDefEqProofs [queueFull]

@[simp] theorem transitionBusy_refuses (s : State) : OnlyRefuses (transitionBusy s) := by simp -implicitDefEqProofs [transitionBusy]

@[simp] theorem tempoBusy_refuses (s : State) : OnlyRefuses (tempoBusy s) := by simp -implicitDefEqProofs [tempoBusy]

@[simp] theorem noSlot_refuses (s : State) : OnlyRefuses (noSlot s) := by simp -implicitDefEqProofs [noSlot]

@[simp] theorem releaseBusy_refuses (s : State) : OnlyRefuses (releaseBusy s) := by simp -implicitDefEqProofs [releaseBusy]

@[simp] theorem sessionBusy_refuses (s : State) : OnlyRefuses (sessionBusy s) := onlyRefuses_map _ _ _

@[simp] theorem anySession_refuses (s : State) : OnlyRefuses (anySession s) := onlyRefuses_map _ _ _

theorem applyAnswer_refused {o : Option Answer} (h : OnlyRefuses o) (s : State) (m : Nat) (a : Answer) :
    (applyAnswer s m (o.getD a)).boot = s.boot ∨ o.getD a = a := by
  cases o with
  | none => exact .inr rfl
  | some y =>
    obtain ⟨code, detail, rfl⟩ := h y rfl
    exact .inl (finish_boot ..)

/-- A command word that is taken leaves the boot state, or its body runs on the mailbox marked as running. -/
theorem takeWord_cases (s : State) (w : Word_) {busy : State → Option Answer} (body : State → Answer) (hb : ∀ t, OnlyRefuses (busy t)) :
    (takeWord s w busy body).boot = s.boot ∨
      takeWord s w busy body = applyAnswer (startBox s w) w.mb (body (startBox s w)) := by
  unfold takeWord
  dsimp only
  split
  · left; simp -implicitDefEqProofs
  · split
    · left; simp -implicitDefEqProofs
    · have refusals : OnlyRefuses ((unserved s w.mb).orElse fun _ => (exclusiveBusy s w.op).orElse fun _ =>
          (busy (startBox s w)).orElse fun _ => stateGate (startBox s w) w.op) :=
        onlyRefuses_orElse (unserved_refuses _ _) (onlyRefuses_orElse (exclusiveBusy_refuses _ _) (onlyRefuses_orElse (hb _) (stateGate_refuses _ _)))
      rcases applyAnswer_refused refusals (startBox s w) w.mb (body (startBox s w)) with e | e
      · exact .inl (e.trans (startBox_boot s w))
      · exact .inr (congrArg (applyAnswer _ _) e)

theorem commandRow_sigs {s : State} {w : Word_} {now : Nat} {busy : State → Option Answer} {body : State → Answer}
    (hb : ∀ t, OnlyRefuses (busy t)) (h : ∀ t, (body t).SigsStay t.boot.sigs) :
    SigsStay s.boot.sigs (commandRow s w now busy body) := by
  have taken : (takeWord (atTide s now) w busy body).boot.sigs = s.boot.sigs := by
    rcases takeWord_cases (atTide s now) w body hb with e | e
    · rw [e]; rfl
    · rw [e]; exact applyAnswer_sigs rfl (h _)
  simp -implicitDefEqProofs [commandRow, taken]

@[simp] theorem plainRow_sigs {op : Nat} {mb : Fin 16} {seq : Byte} {irq : Bool} {now : Nat} {s : State} {body : State → Answer}
    (h : ∀ t, (body t).SigsStay t.boot.sigs) : SigsStay s.boot.sigs (plainRow op mb seq irq now s body) :=
  commandRow_sigs (fun _ => onlyRefuses_none) h

@[simp] theorem busyRow_sigs {op : Nat} {mb : Fin 16} {seq : Byte} {irq : Bool} {now : Nat} {s : State} {busy : State → Option Answer}
    {body : State → Answer} (hb : ∀ t, OnlyRefuses (busy t)) (h : ∀ t, (body t).SigsStay t.boot.sigs) :
    SigsStay s.boot.sigs (busyRow op mb seq irq now s busy body) := commandRow_sigs hb h

/-! What the commands begin or answer. -/

@[simp] theorem telemetrySet_sigs (s : State) (m : Nat) : (telemetrySet s m).SigsStay s.boot.sigs := by simp -implicitDefEqProofs [telemetrySet]

@[simp] theorem govSet_sigs (s : State) (m : Nat) : (govSet s m).SigsStay s.boot.sigs := by simp -implicitDefEqProofs [govSet]

@[simp] theorem meterRead_sigs (s : State) (m : Nat) : (meterRead s m).SigsStay s.boot.sigs := by simp -implicitDefEqProofs [meterRead]

@[simp] theorem diagLanes_sigs (s : State) (m : Nat) : (diagLanes s m).SigsStay s.boot.sigs := by simp -implicitDefEqProofs [diagLanes]

@[simp] theorem coreResetCmd_sigs (s : State) (m : Nat) : (coreResetCmd s m).SigsStay s.boot.sigs := by simp -implicitDefEqProofs [coreResetCmd]

@[simp] theorem fwUpdate_sigs (s : State) (m : Nat) (flashOk : Bool) : (fwUpdate s m flashOk).SigsStay s.boot.sigs := by
  simp -implicitDefEqProofs [fwUpdate, Boot.sigs]

@[simp] theorem lifecycleSet_sigs (s : State) (m : Nat) : (lifecycleSet s m).SigsStay s.boot.sigs := by simp -implicitDefEqProofs [lifecycleSet]

@[simp] theorem powerStateCmd_sigs (s : State) (m : Nat) : (powerStateCmd s m).SigsStay s.boot.sigs := by
  simp -implicitDefEqProofs [powerStateCmd]

@[simp] theorem jobLoad_sigs (s : State) (m : Nat) (reload : Bool) : (jobLoad s m reload).SigsStay s.boot.sigs := by
  simp -implicitDefEqProofs [jobLoad]
  intros
  split <;> simp -implicitDefEqProofs

@[simp] theorem armCmd_sigs (s : State) (m : Nat) (spare : Bool) : (armCmd s m spare).SigsStay s.boot.sigs := by
  unfold armCmd
  split
  · trivial
  · split
    · trivial
    · split <;> simp -implicitDefEqProofs

@[simp] theorem jobStart_sigs (s : State) (m : Nat) : (jobStart s m).SigsStay s.boot.sigs := by simp -implicitDefEqProofs [jobStart]

@[simp] theorem jobHalt_sigs (s : State) (m : Nat) : (jobHalt s m).SigsStay s.boot.sigs := by simp -implicitDefEqProofs [jobHalt]

@[simp] theorem reshardCmd_sigs (s : State) (m : Nat) : (reshardCmd s m).SigsStay s.boot.sigs := by simp -implicitDefEqProofs [reshardCmd]

@[simp] theorem commitResume_sigs (s : State) (m : Nat) : (commitResume s m).SigsStay s.boot.sigs := by
  simp -implicitDefEqProofs [commitResume, resumeCores]

@[simp] theorem tideRole_sigs (s : State) (m : Nat) : (tideRole s m).SigsStay s.boot.sigs := by simp -implicitDefEqProofs [tideRole]

@[simp] theorem tempoSet_sigs (s : State) (m : Nat) : (tempoSet s m).SigsStay s.boot.sigs := by simp -implicitDefEqProofs [tempoSet]

@[simp] theorem diagProgram_sigs (s : State) (m : Nat) : (diagProgram s m).SigsStay s.boot.sigs := by
  simp -implicitDefEqProofs [diagProgram]
  intros
  split <;> simp -implicitDefEqProofs

@[simp] theorem harbourConfig_sigs (s : State) (m : Nat) : (harbourConfig s m).SigsStay s.boot.sigs := by
  simp -implicitDefEqProofs [harbourConfig]

theorem inSlot_sigs {s : State} (hs : s.boot.sigs = x) (m : Nat) (y : Session) : (inSlot s m y).SigsStay x := by
  unfold inSlot
  split
  · simp -implicitDefEqProofs [openSession, hs]
  · trivial

@[simp] theorem sessionOpen_sigs (s : State) (m : Nat) : (sessionOpen s m).SigsStay s.boot.sigs := by
  unfold sessionOpen
  dsimp only
  split
  · trivial
  · exact inSlot_sigs rfl _ _

@[simp] theorem sessionClose_sigs (s : State) (m : Nat) : (sessionClose s m).SigsStay s.boot.sigs := by
  unfold sessionClose
  dsimp only
  (repeat' split) <;> simp -implicitDefEqProofs

@[simp] theorem stateSessionCmd_sigs (s : State) (m kind : Nat) : (stateSessionCmd s m kind).SigsStay s.boot.sigs := by
  unfold stateSessionCmd
  split
  · trivial
  · split
    · trivial
    · exact answer_of_ite trivial (inSlot_sigs (by simp -implicitDefEqProofs) _ _)

end

end Sys2Proof.Machine
end

section
/-! SUPPORT. What the writes of registers and windows, the stash and each row leave of the signature state (R474). -/

namespace Sys2Proof.Machine

open Sys2Proof

theorem eventWrite_boot (s : State) (off : Nat) (v : Reg) (hw : Option Reg) : ((eventWrite s off v hw).getD s).boot = s.boot := by
  simp -implicitDefEqProofs [eventWrite]

theorem rwWrite_sigs (s : State) (off : Nat) (v : Reg) (hw : Option Reg) : ((rwWrite s off v hw).getD s).boot.sigs = s.boot.sigs := by
  unfold rwWrite
  dsimp only
  split_ifs <;> rfl

@[simp] theorem writeWord_sigs (s : State) (w : Writer) (off : Nat) (v : Reg) (hw : Option Reg) :
    (writeWord s w off v hw).boot.sigs = s.boot.sigs := by
  have event := eventWrite_boot s off v hw
  have plain := rwWrite_sigs s off v hw
  unfold writeWord
  dsimp only
  split
  · next t e =>
    rw [e] at event
    exact congrArg Boot.sigs (boot_of_ite rfl event)
  · split
    · next t e =>
      rw [e] at plain
      simp -implicitDefEqProofs [show t.boot.sigs = s.boot.sigs from plain]
    · simp -implicitDefEqProofs

section
variable {x : SigState} {s : State}

theorem supWrite_sigs (hs : s.boot.sigs = x) (o : Nat) (bs : List Byte) : SigsStay x (supWrite s o bs) := by
  simp -implicitDefEqProofs [supWrite, hs]

theorem physWrite_sigs (hs : s.boot.sigs = x) (p : Nat) (bs : List Byte) (gap : Bool) : SigsStay x (physWrite s p bs gap) := by
  simp -implicitDefEqProofs [physWrite, sramPut, mergeRead, supWrite_sigs, hs]

theorem winWrite_sigs (hs : s.boot.sigs = x) (off : Nat) (bs : List Byte) (gap : Bool) : SigsStay x (winWrite s off bs gap) :=
  physWrite_sigs (by simp -implicitDefEqProofs [hs]) _ _ _

end

@[simp] theorem hwUpdate_boot (s : State) (off : Nat) (hw : Option Reg) : (hwUpdate s off hw).boot = s.boot := by
  unfold hwUpdate
  split
  · rfl
  · simp -implicitDefEqProofs [eventWrite_boot]

@[simp] theorem mapRead_boot (s : State) (off n : Nat) : (mapRead s off n).boot = s.boot := by
  simp -implicitDefEqProofs [mapRead]

/-! A stash write (R193–R196). -/

@[simp] theorem stashRead_boot (x : StashAcc) (a n : Nat) : (stashRead x a n).1.st.boot = x.st.boot := by
  unfold stashRead
  split
  · exact readRange_boot _ _ _ _
  · rfl

@[simp] theorem stashPut_boot (x : StashAcc) (a : Nat) (bs : List Byte) : (stashPut x a bs).st.boot = x.st.boot := by
  unfold stashPut
  split
  · exact writeLines_boot _ _ _ _
  · rfl

@[simp] theorem stashAllocate_boot (x : StashAcc) (hdr len : Nat) : (stashAllocate x hdr len).1.st.boot = x.st.boot := by
  unfold stashAllocate
  dsimp only
  split <;> simp -implicitDefEqProofs

@[simp] theorem stashDepth_boot (x : StashAcc) (prev : Nat) : (stashDepth x prev).1.st.boot = x.st.boot := by
  unfold stashDepth
  split
  · rfl
  · dsimp only
    split
    · simp -implicitDefEqProofs
    · split
      · split <;> simp -implicitDefEqProofs
      · simp -implicitDefEqProofs

@[simp] theorem stashSkipHeader_boot (x : StashAcc) (hdr : Nat) (lost : Bool) : (stashSkipHeader x hdr lost).st.boot = x.st.boot := by
  simp -implicitDefEqProofs [stashSkipHeader]

@[simp] theorem stashWrite_boot (s : State) (recA : Nat) (data : List Byte) : (stashWrite s recA data).1.st.boot = s.boot := by
  unfold stashWrite
  dsimp only
  split
  · split <;> simp -implicitDefEqProofs
  · have allocated := stashAllocate_boot (stashRead ⟨s, false⟩ recA 128).1
      (bNat (stashRead ⟨s, false⟩ recA 128).2 32 8 / 64 * 64) data.length
    split
    · next e => rw [e] at allocated; simpa -implicitDefEqProofs using allocated
    · next e => rw [e] at allocated; simpa -implicitDefEqProofs using allocated

/-! The rows whose proof has a case of its own; the others are unfolded in `exec_sigSteps`. -/

@[simp] theorem execKStepUpdate_sigs (c : Fin 576) (s : State) : SigsStay s.boot.sigs (execKStepUpdate c s) := by
  unfold execKStepUpdate
  dsimp only
  (repeat' split) <;> simp -implicitDefEqProofs

@[simp] theorem execDrainEnd_sigs (c : Fin 576) (s : State) : SigsStay s.boot.sigs (execDrainEnd c s) := by
  unfold execDrainEnd
  split <;> simp -implicitDefEqProofs [drainEndEff]

@[simp] theorem execEccWriteBack_sigs (i : Fin 24) (s : State) : SigsStay s.boot.sigs (execEccWriteBack i s) := by
  unfold execEccWriteBack
  split <;> simp -implicitDefEqProofs

@[simp] theorem execArenaOpen_sigs (i : Fin 24) (now : Nat) (s : State) : SigsStay s.boot.sigs (execArenaOpen i now s) := by
  unfold execArenaOpen
  split <;> simp -implicitDefEqProofs

@[simp] theorem execArenaOpened_sigs (i : Fin 24) (s : State) : SigsStay s.boot.sigs (execArenaOpened i s) := by
  unfold execArenaOpened
  split
  · rfl
  · dsimp only
    split
    · exact feedParked_sigs (by split <;> simp -implicitDefEqProofs) _ _
    · rfl

@[simp] theorem execBarrierArrival_sigs (c : Fin 576) (now : Nat) (s : State) : SigsStay s.boot.sigs (execBarrierArrival c now s) := by
  unfold execBarrierArrival
  split <;> simp -implicitDefEqProofs

@[simp] theorem execPodReleaseAdd_sigs (i : Fin 8) (now : Nat) (s : State) : SigsStay s.boot.sigs (execPodReleaseAdd i now s) := by
  unfold execPodReleaseAdd
  dsimp only
  (repeat' split) <;> simp -implicitDefEqProofs

@[simp] theorem execContributionAccept_sigs (i : Fin 24) (src : Nat) (accUpsets : List Nat) (s : State) :
    SigsStay s.boot.sigs (execContributionAccept i src accUpsets s) := by
  unfold execContributionAccept
  split
  · rfl
  · simp -implicitDefEqProofs [takeHead_sigs]

@[simp] theorem execParkWaitRelease_sigs (i : Fin 24) (s : State) : SigsStay s.boot.sigs (execParkWaitRelease i s) := by
  unfold execParkWaitRelease
  split
  · rfl
  · simp -implicitDefEqProofs [takeHead_sigs]

@[simp] theorem execData_sigs (p : Fin 8) (f : Frame) (now : Nat) (s : State) : SigsStay s.boot.sigs (execData p f now s) :=
  portRow_sigs fun t => sequenced_sigs (congrArg Boot.sigs (atTide_boot t now)) _ _

@[simp] theorem execSignal_sigs (p : Fin 8) (f : Frame) (now : Nat) (s : State) : SigsStay s.boot.sigs (execSignal p f now s) :=
  portRow_sigs fun t => sequenced_sigs (congrArg Boot.sigs (atTide_boot t now)) _ _

@[simp] theorem execAckTimeout_sigs (f : Fin 16384 × Option Frame) (now : Nat) (s : State) : SigsStay s.boot.sigs (execAckTimeout f now s) := by
  unfold execAckTimeout
  dsimp only
  (repeat' split) <;> simp -implicitDefEqProofs

@[simp] theorem execAckPeriodic_sigs (f : Fin 16384) (now : Nat) (s : State) : SigsStay s.boot.sigs (execAckPeriodic f now s) := by
  unfold execAckPeriodic
  split <;> simp -implicitDefEqProofs

@[simp] theorem execFrameSend_sigs (p : Fin 8) (now : Nat) (s : State) : SigsStay s.boot.sigs (execFrameSend p now s) := by
  unfold execFrameSend
  dsimp only
  (repeat' split) <;> simp -implicitDefEqProofs

@[simp] theorem execFerryWriteSram_sigs (c : Fin 576) (s : State) : SigsStay s.boot.sigs (execFerryWriteSram c s) := by
  refine ferryRow_sigs fun k d dest => ?_
  dsimp only
  split
  · split
    · trivial
    · next t e =>
      have landed := sigs_of_ok e (landBytes_sigs (congrArg Boot.sigs (setCore_boot ..)) _ _ _)
      simp -implicitDefEqProofs [landed]
  · simp -implicitDefEqProofs

@[simp] theorem execHarbourAck_sigs (m : HMsg) (s : State) : SigsStay s.boot.sigs (execHarbourAck m s) := by
  unfold execHarbourAck
  split <;> simp -implicitDefEqProofs

@[simp] theorem execHarbourResend_sigs (k : Fin 8) (now : Nat) (s : State) : SigsStay s.boot.sigs (execHarbourResend k now s) := by
  unfold execHarbourResend
  dsimp only
  (repeat' split) <;> simp -implicitDefEqProofs

@[simp] theorem execStepDone_sigs (c : Fin 576) (now : Nat) (s : State) : SigsStay s.boot.sigs (execStepDone c now s) := by
  unfold execStepDone
  dsimp only
  (repeat' split) <;> simp -implicitDefEqProofs

@[simp] theorem execStepDecision_sigs (now : Nat) (s : State) : SigsStay s.boot.sigs (execStepDecision now s) := by
  unfold execStepDecision
  split <;> simp -implicitDefEqProofs

@[simp] theorem execFrameStart_sigs (now : Nat) (s : State) : SigsStay s.boot.sigs (execFrameStart now s) := by
  unfold execFrameStart
  dsimp only
  (repeat' split) <;> simp -implicitDefEqProofs

@[simp] theorem execIsthmusModuleChangeEnd_sigs (k : Fin 4) (m : Fin 16) (now : Nat) (s : State) :
    SigsStay s.boot.sigs (execIsthmusModuleChangeEnd k m now s) := by
  unfold execIsthmusModuleChangeEnd
  dsimp only
  (repeat' split) <;> simp -implicitDefEqProofs

@[simp] theorem execRampStart_sigs (now : Nat) (s : State) : SigsStay s.boot.sigs (execRampStart now s) := by
  unfold execRampStart
  split <;> simp -implicitDefEqProofs

@[simp] theorem execPowerEntryDone_sigs (now : Nat) (s : State) : SigsStay s.boot.sigs (execPowerEntryDone now s) := by
  unfold execPowerEntryDone
  split <;> simp -implicitDefEqProofs

@[simp] theorem execThermalTrip_sigs (temps : List (BitVec 16)) (now : Nat) (s : State) :
    SigsStay s.boot.sigs (execThermalTrip temps now s) := by
  refine when_sigs ((driveTrip_sigs _ _).trans ((tripReset_sigs _ _).trans ?_))
  simp -implicitDefEqProofs

@[simp] theorem execFlashReadDone_sigs (readOk : Bool) (s : State) : SigsStay s.boot.sigs (execFlashReadDone readOk s) := by
  refine when_sigs ?_
  split
  · exact tryImage_sigs _ _ _ _
  · rfl

@[simp] theorem execAwaitHostTimeout_sigs (s : State) : SigsStay s.boot.sigs (execAwaitHostTimeout s) := when_sigs rfl

@[simp] theorem execPcieLinkUp_sigs (s : State) : SigsStay s.boot.sigs (execPcieLinkUp s) := when_sigs rfl

@[simp] theorem execDebugHalt_sigs (op : DebugOp) (core : Option (Fin 576)) (s : State) : SigsStay s.boot.sigs (execDebugHalt op core s) := by
  unfold execDebugHalt
  split
  case h_6 => simp -implicitDefEqProofs
  case h_7 =>
    refine (sigsStay_next _).mpr ?_
    dsimp only
    split
    · exact goOn_sigs _
    · rfl
  all_goals rfl

@[simp] theorem execUnknownCommand_sigs (mb : Fin 16) (op : BitVec 16) (seq : Byte) (irq : Bool) (now : Nat) (s : State) :
    SigsStay s.boot.sigs (execUnknownCommand mb op seq irq now s) := by
  simp -implicitDefEqProofs [execUnknownCommand, commandRow_sigs]

@[simp] theorem execCommandComplete_sigs (mb : Fin 16) (now : Nat) (s : State) : SigsStay s.boot.sigs (execCommandComplete mb now s) := by
  unfold execCommandComplete
  dsimp only
  (repeat' split) <;> simp -implicitDefEqProofs

@[simp] theorem execSettingNotice_sigs (energy rtc : Nat) (s : State) : SigsStay s.boot.sigs (execSettingNotice energy rtc s) := by
  unfold execSettingNotice
  split <;> simp -implicitDefEqProofs [takeNotice]

@[simp] theorem execPowerState_sigs (mb : Fin 16) (seq : Byte) (irq : Bool) (now : Nat) (s : State) :
    SigsStay s.boot.sigs (execPowerState mb seq irq now s) :=
  busyRow_sigs (fun t => onlyRefuses_orElse (transitionBusy_refuses t) (queueFull_refuses t)) fun t => powerStateCmd_sigs t _

@[simp] theorem execIdentCheckTimeout_sigs (now : Nat) (s : State) : SigsStay s.boot.sigs (execIdentCheckTimeout now s) := by
  unfold execIdentCheckTimeout
  split <;> simp -implicitDefEqProofs

@[simp] theorem execWindowWrite_sigs (off : Fin 0x400000) (bytes : List Byte × Bool) (now : Nat) (s : State) :
    SigsStay s.boot.sigs (execWindowWrite off bytes now s) := by
  simp -implicitDefEqProofs [execWindowWrite, winWrite_sigs]

@[simp] theorem execFlowContextWrite_sigs (off : Fin 0x100000) (bytes : List Byte) (now : Nat) (s : State) :
    SigsStay s.boot.sigs (execFlowContextWrite off bytes now s) := by
  simp -implicitDefEqProofs [execFlowContextWrite, supWrite_sigs]

@[simp] theorem execSemSub_sigs (a : SameCycle) (s : State) : SigsStay s.boot.sigs (execSemSub a s) := by
  refine seqRow_sigs rfl fun k w => sigsStay_thenDo (semSubEff_sigs ?_ _ _) fun t ht => ?_
  · simp -implicitDefEqProofs
  · simp -implicitDefEqProofs [ht]

@[simp] theorem execSemWaitWake_sigs (a : SameCycle) (s : State) : SigsStay s.boot.sigs (execSemWaitWake a s) := by
  refine wakeRow_sigs rfl fun k w => ?_
  split
  · simp -implicitDefEqProofs [semWakeEff]
  · refine sigsStay_thenDo ?_ fun t ht => ?_
    · simp -implicitDefEqProofs
    · simp -implicitDefEqProofs [semWakeEff, ht]

/-! The commands of the mailboxes whose answer is that of their body. -/

section
variable (mb : Fin 16) (seq : Byte) (irq : Bool) (now : Nat) (s : State)

@[simp] theorem execIdentify_sigs : SigsStay s.boot.sigs (execIdentify mb seq irq now s) := by simp -implicitDefEqProofs [execIdentify]

@[simp] theorem execStatus_sigs : SigsStay s.boot.sigs (execStatus mb seq irq now s) := by simp -implicitDefEqProofs [execStatus]

@[simp] theorem execTelemetry_sigs : SigsStay s.boot.sigs (execTelemetry mb seq irq now s) := by simp -implicitDefEqProofs [execTelemetry]

@[simp] theorem execTelemetrySet_sigs : SigsStay s.boot.sigs (execTelemetrySet mb seq irq now s) := by
  simp -implicitDefEqProofs [execTelemetrySet]

@[simp] theorem execGovSet_sigs : SigsStay s.boot.sigs (execGovSet mb seq irq now s) := by simp -implicitDefEqProofs [execGovSet]

@[simp] theorem execRampToFloor_sigs : SigsStay s.boot.sigs (execRampToFloor mb seq irq now s) := by simp -implicitDefEqProofs [execRampToFloor]

@[simp] theorem execMeterRead_sigs : SigsStay s.boot.sigs (execMeterRead mb seq irq now s) := by simp -implicitDefEqProofs [execMeterRead]

@[simp] theorem execResetCause_sigs : SigsStay s.boot.sigs (execResetCause mb seq irq now s) := by simp -implicitDefEqProofs [execResetCause]

@[simp] theorem execThermalStatus_sigs : SigsStay s.boot.sigs (execThermalStatus mb seq irq now s) := by
  simp -implicitDefEqProofs [execThermalStatus]

@[simp] theorem execIsolateStraits_sigs : SigsStay s.boot.sigs (execIsolateStraits mb seq irq now s) := by
  simp -implicitDefEqProofs [execIsolateStraits, isolatePort]

@[simp] theorem execSystemReset_sigs : SigsStay s.boot.sigs (execSystemReset mb seq irq now s) := by simp -implicitDefEqProofs [execSystemReset]

@[simp] theorem execWake_sigs : SigsStay s.boot.sigs (execWake mb seq irq now s) := by simp -implicitDefEqProofs [execWake]

@[simp] theorem execDiagLanes_sigs : SigsStay s.boot.sigs (execDiagLanes mb seq irq now s) := by simp -implicitDefEqProofs [execDiagLanes]

@[simp] theorem execDiagEcc_sigs : SigsStay s.boot.sigs (execDiagEcc mb seq irq now s) := by simp -implicitDefEqProofs [execDiagEcc, clearEcc]

@[simp] theorem execCoreReset_sigs : SigsStay s.boot.sigs (execCoreReset mb seq irq now s) := by simp -implicitDefEqProofs [execCoreReset]

@[simp] theorem execFwUpdate_sigs (flashOk : Bool) : SigsStay s.boot.sigs (execFwUpdate mb seq irq now flashOk s) := by
  simp -implicitDefEqProofs [execFwUpdate]

@[simp] theorem execLifecycleSet_sigs : SigsStay s.boot.sigs (execLifecycleSet mb seq irq now s) := by
  simp -implicitDefEqProofs [execLifecycleSet]

@[simp] theorem execJobLoad_sigs : SigsStay s.boot.sigs (execJobLoad mb seq irq now s) := by simp -implicitDefEqProofs [execJobLoad]

@[simp] theorem execJobReload_sigs : SigsStay s.boot.sigs (execJobReload mb seq irq now s) := by simp -implicitDefEqProofs [execJobReload]

@[simp] theorem execJobArm_sigs : SigsStay s.boot.sigs (execJobArm mb seq irq now s) := by simp -implicitDefEqProofs [execJobArm]

@[simp] theorem execSpareAdopt_sigs : SigsStay s.boot.sigs (execSpareAdopt mb seq irq now s) := by simp -implicitDefEqProofs [execSpareAdopt]

@[simp] theorem execJobStart_sigs : SigsStay s.boot.sigs (execJobStart mb seq irq now s) := by simp -implicitDefEqProofs [execJobStart]

@[simp] theorem execJobHalt_sigs : SigsStay s.boot.sigs (execJobHalt mb seq irq now s) := by simp -implicitDefEqProofs [execJobHalt]

@[simp] theorem execJobRelease_sigs : SigsStay s.boot.sigs (execJobRelease mb seq irq now s) := by simp -implicitDefEqProofs [execJobRelease]

@[simp] theorem execReshard_sigs : SigsStay s.boot.sigs (execReshard mb seq irq now s) := by simp -implicitDefEqProofs [execReshard]

@[simp] theorem execCommitResume_sigs : SigsStay s.boot.sigs (execCommitResume mb seq irq now s) := by
  simp -implicitDefEqProofs [execCommitResume]

@[simp] theorem execTideRole_sigs : SigsStay s.boot.sigs (execTideRole mb seq irq now s) := by simp -implicitDefEqProofs [execTideRole]

@[simp] theorem execTempoSet_sigs : SigsStay s.boot.sigs (execTempoSet mb seq irq now s) := by simp -implicitDefEqProofs [execTempoSet]

@[simp] theorem execDiagProgram_sigs : SigsStay s.boot.sigs (execDiagProgram mb seq irq now s) := by simp -implicitDefEqProofs [execDiagProgram]

@[simp] theorem execHarbourConfig_sigs : SigsStay s.boot.sigs (execHarbourConfig mb seq irq now s) := by
  simp -implicitDefEqProofs [execHarbourConfig]

@[simp] theorem execSessionOpen_sigs : SigsStay s.boot.sigs (execSessionOpen mb seq irq now s) := by simp -implicitDefEqProofs [execSessionOpen]

@[simp] theorem execSessionClose_sigs : SigsStay s.boot.sigs (execSessionClose mb seq irq now s) := by
  simp -implicitDefEqProofs [execSessionClose]

@[simp] theorem execCheckpoint_sigs : SigsStay s.boot.sigs (execCheckpoint mb seq irq now s) := by simp -implicitDefEqProofs [execCheckpoint]

@[simp] theorem execRestore_sigs : SigsStay s.boot.sigs (execRestore mb seq irq now s) := by simp -implicitDefEqProofs [execRestore]

end

end Sys2Proof.Machine
end

section
/-! SUPPORT. The steps of the signature state: signatures by a command word or by a write of a mailbox, resets, releases (R425, R474, R481). -/

namespace Sys2Proof.Machine

open Sys2Proof

/-! A signature is made (R474). -/

/-- The boot state after the signature `sig` was made with the index NEXT. -/
def signWith (b : Boot) (sig : List Byte) : Boot := { takeIndex b with lastSig := some (b.sigNext, sig) }

theorem signWith_sigs_congr {a b : Boot} (h : a.sigs = b.sigs) (sig : List Byte) : (signWith a sig).sigs = (signWith b sig).sigs := by
  simp only [Boot.sigs, Prod.mk.injEq] at h
  obtain ⟨hnext, hres, -⟩ := h
  simp only [signWith, takeIndex, Boot.sigs, hnext, hres]

/-- Of the states that an outcome answers, one whose signature state is not that of b has one signature more, and its mailbox m runs. -/
def MaySign (b : Boot) (m : Nat) (o : Host.Outcome State Fault Refusal) : Prop :=
  ∀ t, o = .next t → t.boot.sigs = b.sigs ∨ ((∃ sig, t.boot.sigs = (signWith b sig).sigs) ∧ (boxOf t m).state = 1)

theorem SigsStay.of_next {x : SigState} {o : Host.Outcome State Fault Refusal} {t : State} (h : SigsStay x o)
    (e : o = .next t) : t.boot.sigs = x := by
  rw [e] at h
  exact h

theorem SigsStay.maySign {b : Boot} {m : Nat} {o : Host.Outcome State Fault Refusal} (h : SigsStay b.sigs o) : MaySign b m o :=
  fun _ e => .inl (h.of_next e)

theorem finish_state (s : State) (m code detail : Nat) (resp : List Byte) :
    (boxOf (finish s m code detail resp) m).state = (boxOf s m).state := by
  have result (r) : (boxOf (modBox s m fun b => { b with run := r }) m).state = (boxOf s m).state := by
    rw [boxOf_modBox_self]
  unfold finish finishAs
  split
  · rfl
  · dsimp only
    split
    · exact result _
    · exact result _

theorem startBox_state (s : State) (w : Word_) : (boxOf (startBox s w) w.mb).state = 1 := congrArg Mailbox.state (boxOf_modBox_self ..)

/-- ATTEST signs with the index NEXT, or leaves the signature state. -/
theorem attest_cases (s : State) (m : Nat) (ok : Bool) : (attest s m ok).SigsStay s.boot.sigs ∨
    ∃ sig resp, attest s m ok = okAt { s with boot := signWith s.boot sig } m resp := by
  unfold attest
  dsimp only
  split
  · split
    · exact .inl trivial
    · exact .inr ⟨_, _, rfl⟩
  · exact .inl ((answer_okAt _ _ _).mpr rfl)
  · exact .inl ((answer_okAt _ _ _).mpr rfl)
  · exact .inl ((answer_okAt _ _ _).mpr rfl)
  · exact .inl trivial

theorem execAttest_maySign (mb : Fin 16) (seq : Byte) (irq : Bool) (now : Nat) (ok : Bool) (s : State) :
    MaySign s.boot mb (execAttest mb seq irq now ok s) := by
  unfold execAttest plainRow commandRow
  split
  · exact SigsStay.maySign rfl
  · split
    · exact SigsStay.maySign trivial
    · split
      · exact SigsStay.maySign rfl
      · rintro _ ⟨⟩
        rcases takeWord_cases (atTide s now) ⟨mb, 0x19, seq.toNat, irq⟩ (fun t => attest t mb ok) (fun _ => onlyRefuses_none) with e | e
        · exact .inl (congrArg Boot.sigs e)
        · rw [e]
          rcases attest_cases (startBox (atTide s now) ⟨mb, 0x19, seq.toNat, irq⟩) mb ok with h | ⟨sig, resp, h⟩
          · exact .inl (applyAnswer_sigs rfl h)
          · right
            rw [h]
            exact ⟨⟨sig, congrArg Boot.sigs (finish_boot ..)⟩, (finish_state ..).trans (startBox_state _ _)⟩

/-- A command word signs only where it holds ATTEST. -/
theorem issue_maySign (s : State) (mb : Fin 16) (word now : Nat) : MaySign s.boot mb (issue s mb word now) := by
  unfold issue
  dsimp only
  split
  case h_5 => exact execAttest_maySign mb _ _ _ _ (useFree s)
  case h_3 => exact SigsStay.maySign (execFwUpdate_sigs mb _ _ _ (useFree s) _)
  all_goals exact SigsStay.maySign (by simp)

/-! Writes of the BAR0 map (R425, R481). -/

theorem boxWrite_running {s : State} {m : Nat} (h : (boxOf s m).state = 1) (o : Nat) (bs : List Byte) (now : Nat) :
    boxWrite s m o bs now = undefinedCase .mailboxWrite s := if_pos h

theorem boxWrite_maySign (s : State) {m : Nat} (hm : m < 16) (o : Nat) (bs : List Byte) (now : Nat) :
    MaySign s.boot m (boxWrite s m o bs now) := by
  have box : (Fin.ofNat 16 m).val = m := Nat.mod_eq_of_lt hm
  have stored (c : Prop) [Decidable c] : (if c then s else modBox s m fun b => boxParams b o bs).boot = s.boot := boot_of_ite rfl rfl
  unfold boxWrite
  dsimp only
  split
  · exact SigsStay.maySign trivial
  · split
    · have issued := issue_maySign (if o + bs.length ≤ 0x40 ∨ 0x800 ≤ o then s else modBox s m fun b => boxParams b o bs)
        (Fin.ofNat 16 m) (mergedWord (boxOf s m) o bs) now
      rwa [stored, box] at issued
    · exact SigsStay.maySign (congrArg Boot.sigs (stored _))

/-- A write of the BAR0 map leaves the signature state, or is a write of a mailbox. -/
theorem mapWrite_cases (s : State) (w : Writer) (off : Nat) (bs : List Byte) (hw : Option Reg) (now : Nat) :
    SigsStay s.boot.sigs (mapWrite s w off bs hw now) ∨
      off / 0x1000 < 16 ∧ mapWrite s w off bs hw now = boxWrite s (off / 0x1000) (off % 0x1000) bs now := by
  unfold mapWrite
  split
  · split
    · unfold regWrite
      split
      · next h => exact .inr ⟨by omega, rfl⟩
      · refine .inl ?_
        dsimp only
        split <;> simp -implicitDefEqProofs
    · exact .inl (congrArg Boot.sigs (hwUpdate_boot ..))
  · split
    · exact .inl (winWrite_sigs rfl _ _ _)
    · exact .inl rfl

theorem mapWrite_maySign (s : State) (w : Writer) (off : Nat) (bs : List Byte) (hw : Option Reg) (now : Nat) :
    MaySign s.boot (off / 0x1000) (mapWrite s w off bs hw now) := by
  rcases mapWrite_cases s w off bs hw now with h | ⟨hm, e⟩
  · exact h.maySign
  · rw [e]
    exact boxWrite_maySign s hm _ _ _

/-- A write to a mailbox whose command runs does not sign (R425). -/
theorem mapWrite_running {s : State} {off : Nat} (h : (boxOf s (off / 0x1000)).state = 1) (w : Writer) (bs : List Byte) (hw : Option Reg)
    (now : Nat) : SigsStay s.boot.sigs (mapWrite s w off bs hw now) := by
  rcases mapWrite_cases s w off bs hw now with stay | ⟨-, e⟩
  · exact stay
  · rw [e, boxWrite_running h]
    trivial

/-- Of the states that an outcome answers, one whose signature state is not that of b has one signature more. -/
def SignsOnce (b : Boot) (o : Host.Outcome State Fault Refusal) : Prop :=
  ∀ t, o = .next t → t.boot.sigs = b.sigs ∨ ∃ sig, t.boot.sigs = (signWith b sig).sigs

theorem MaySign.signsOnce {b : Boot} {m : Nat} {o : Host.Outcome State Fault Refusal} (h : MaySign b m o) : SignsOnce b o :=
  fun t e => (h t e).imp_right And.left

theorem execRegisterWrite_signsOnce (off : Fin 0xC00000) (bytes : List Byte) (hw : Option Reg) (now : Nat) (s : State) :
    SignsOnce s.boot (execRegisterWrite off bytes hw now s) := by
  unfold execRegisterWrite
  split
  · next h =>
    have written := mapWrite_maySign (atTide s now) .bar0 off bytes hw now
    rw [mapWrite, if_pos off.isLt, if_pos (Bool.and_eq_true_iff.mp h).2] at written
    exact written.signsOnce
  · exact fun _ e => .inl (by cases e; rfl)

/-- A cycle of JTAG signs at most once: a second write of the mailbox meets a command that runs. -/
theorem jtagCycle_signsOnce {s : State} {off : Nat} {first : Host.Outcome State Fault Refusal} (hfirst : MaySign s.boot (off / 0x1000) first)
    (write : Bool) (len : Nat) (bytes : List Byte) (hw : Option Reg) (now : Nat) :
    SignsOnce s.boot (thenDo first fun u => if write then mapWrite u .jtag off bytes hw now else .next (mapRead u off len)) := by
  intro t e
  cases first with
  | next u =>
    cases write with
    | false =>
      obtain rfl : mapRead u off len = t := by simpa only [thenDo, Bool.false_eq_true, if_false, Host.Outcome.next.injEq] using e
      rw [mapRead_boot]
      exact (hfirst u rfl).imp_right And.left
    | true =>
      replace e : mapWrite u .jtag off bytes hw now = .next t := by simpa only [thenDo, if_true] using e
      rcases hfirst u rfl with kept | ⟨signed, running⟩
      · rw [← kept]
        rcases mapWrite_maySign u .jtag off bytes hw now t e with h | ⟨⟨sig, h⟩, -⟩
        · exact .inl h
        · exact .inr ⟨sig, h.trans (signWith_sigs_congr kept sig)⟩
      · rw [(mapWrite_running running _ _ _ _).of_next e]
        exact .inr signed
  | fault f => cases e
  | refused r => cases e

theorem execJtagBusacc_signsOnce (write : Bool) (off : Fin 0x1000000) (len : Nat) (bytes : List Byte) (cycle : Option Reg × List Byte × Nat)
    (s : State) : SignsOnce s.boot (execJtagBusacc write off len bytes cycle s) := by
  unfold execJtagBusacc
  dsimp only
  split
  · exact fun _ e => .inl (by cases e; rfl)
  · refine jtagCycle_signsOnce (s := selectBusacc (atTide s cycle.2.2)) ?_ _ _ _ _ _
    split
    · exact mapWrite_maySign _ _ _ _ _ _
    · exact SigsStay.maySign (congrArg Boot.sigs (hwUpdate_boot ..))

/-! Resets (R451, R474, R485). -/

/-- The signature state of b after a reset: the last signature is lost. -/
def Boot.sigsReset (b : Boot) : SigState := (b.sigNext, b.sigRes, none)

theorem powerOnReset_sigs (s : State) (source : Nat) : (powerOnReset s source).boot.sigs = s.boot.sigsReset := rfl

theorem systemReset_sigs (s : State) (source : Nat) : (systemReset s source).boot.sigs = s.boot.sigsReset := rfl

/-- What a command makes of the signature state (R474): it is kept, a signature is made, a reset begins, or the release of one takes
RES_END for NEXT. -/
def SigStep (b : Boot) (x : SigState) : Prop :=
  x = b.sigs ∨ (∃ sig, x = (signWith b sig).sigs) ∨ x = b.sigsReset ∨ x = (b.sigRes, b.sigRes, b.lastSig)

/-- The states that an outcome answers come by a step of the signature state. -/
def SigSteps (b : Boot) (o : Host.Outcome State Fault Refusal) : Prop := ∀ t, o = .next t → SigStep b t.boot.sigs

theorem SigsStay.sigSteps {b : Boot} {o : Host.Outcome State Fault Refusal} (h : SigsStay b.sigs o) : SigSteps b o :=
  fun _ e => .inl (h.of_next e)

theorem SignsOnce.sigSteps {b : Boot} {o : Host.Outcome State Fault Refusal} (h : SignsOnce b o) : SigSteps b o :=
  fun t e => (h t e).imp_right .inl

/-- A condition decides between no effect and a reset. -/
theorem when_sigSteps {s t : State} {g : Bool} (ht : SigStep s.boot t.boot.sigs) : SigSteps s.boot (when g s t) := by
  rintro _ ⟨⟩
  cases g with
  | false => exact .inl rfl
  | true => exact ht

theorem execPwrgoodLow_sigSteps (lowNs now : Nat) (s : State) : SigSteps s.boot (execPwrgoodLow lowNs now s) := by
  rintro _ ⟨⟩
  split
  · exact .inr (.inr (.inl (powerOnReset_sigs ..)))
  · exact .inl (congrArg Boot.sigs (useFree_boot s))

theorem execSysResetNLow_sigSteps (lowNs now : Nat) (s : State) : SigSteps s.boot (execSysResetNLow lowNs now s) := by
  rintro _ ⟨⟩
  split
  · exact .inr (.inr (.inl (systemReset_sigs ..)))
  · exact .inl (congrArg Boot.sigs (useFree_boot s))

theorem execLifecycleChangeReset_sigSteps (now : Nat) (s : State) : SigSteps s.boot (execLifecycleChangeReset now s) := by
  unfold execLifecycleChangeReset
  split
  · exact SigsStay.sigSteps rfl
  · exact when_sigSteps (.inr (.inr (.inl (systemReset_sigs ..))))

/-- Whichever way boot goes on after a release (R460, R461, R485), the signature state is that of the release. -/
theorem afterRelease_sigs (t : State) (fail stop : Bool) (g : Power → Power) :
    (if fail then setPower (notice t 3 5 t.power.state 3 0) g else if stop then t else obtainImage t).boot.sigs = t.boot.sigs := by
  split
  · exact congrArg Boot.sigs ((setPower_boot ..).trans (notice_boot ..))
  · split
    · rfl
    · exact obtainImage_sigs t

theorem execResetRelease_held {s : State} (h : s.boot.held ≠ 0) (ok : Bool) (src clk : BitVec 2) :
    ∃ t, execResetRelease ok src clk s = .next t ∧ t.boot.sigs = (s.boot.sigRes, s.boot.sigRes, s.boot.lastSig) := by
  refine ⟨_, congrArg Host.Outcome.next (if_pos (bne_iff_ne.mpr h)), (afterRelease_sigs _ _ _ _).trans ?_⟩
  unfold Boot.sigs
  dsimp only
  split <;> rfl

theorem execResetRelease_sigSteps (ok : Bool) (src clk : BitVec 2) (s : State) : SigSteps s.boot (execResetRelease ok src clk s) := by
  intro t e
  by_cases h : s.boot.held = 0
  · have kept : execResetRelease ok src clk s = .next s := congrArg Host.Outcome.next (if_neg (by simp [h]))
    obtain rfl : s = t := by simpa only [kept, Host.Outcome.next.injEq] using e
    exact .inl rfl
  · obtain ⟨u, hu, released⟩ := execResetRelease_held h ok src clk
    obtain rfl : u = t := by simpa only [hu, Host.Outcome.next.injEq] using e
    exact .inr (.inr (.inr released))

/-- Whatever the command, the signature state moves by one of its steps: ten commands may move it, the others leave it. -/
theorem exec_sigSteps (c : Instr) (s : State) : SigSteps s.boot (exec c s) := by
  cases c
  case pwrgoodLow => exact execPwrgoodLow_sigSteps _ _ s
  case standbyLoss => exact when_sigSteps (.inr (.inr (.inl (powerOnReset_sigs ..))))
  case sysResetNLow => exact execSysResetNLow_sigSteps _ _ s
  case perstNAssert => exact when_sigSteps (.inr (.inr (.inl (systemReset_sigs ..))))
  case supervisorWatchdog => exact when_sigSteps (.inr (.inr (.inl (systemReset_sigs ..))))
  case lifecycleChangeReset => exact execLifecycleChangeReset_sigSteps _ s
  case resetRelease => exact execResetRelease_sigSteps _ _ _ s
  case attest mb seq irq now ok => exact (execAttest_maySign mb seq irq now ok s).signsOnce.sigSteps
  case registerWrite => exact (execRegisterWrite_signsOnce _ _ _ _ s).sigSteps
  case jtagBusacc => exact (execJtagBusacc_signsOnce _ _ _ _ _ s).sigSteps
  all_goals exact SigsStay.sigSteps (by
    simp -implicitDefEqProofs [
      exec, execMultiplyAccumulate, execMatrixDrain, execHandoff, execLayout, execMatrixTableLoad, execClause, execClauseTableLoad,
      execMerge, execPatrolScrub, execStackFailure, execWipeSramDone, execStackTrainingDone, execWipeWritePassDone,
      execWipeVerifyDone, execDigestSnapDone, execNop, execSemWait, execFlagSet, execFlagClear, execFlagWait, execFlagWaitWake,
      execIssue, execIssueQueueAccept, execTideArm, execJump, execLoopSet, execLoopBack, execFence, execFenceRelease, execBarrier,
      execStepEnd, execHalt, execBadCmd, execTideTargetReached, execInboundAdd, execBarArrive, execBarArriveResend, execBarRelease,
      execTempoReq, execTempoReqSend, execTempoAnnounce, execScheduleRepeat, execScheduleTempoChange, execScheduleFrameState,
      execMarker, execMarkerSend, execHoldover, execLockedLoss, execLockAcquired, execBackupTakeover, execAck, execNack,
      execFrameCrcFail, execUnknownFrame, execDescriptorComplete, execLoad, execStore, execStashWrite, execPull, execFerryWriteMemory,
      execRemoteAccumulate, execFerrySignal, execHarbourData, execHarbourNack, execHarbourEnd, execHarbourDigest,
      execHarbourAckPeriodic, execHarbourLinkChange, execPtpMessage, execNeighborSolicitation, execIcmpv6Echo, execPortTraining,
      execPortTrainingRetry, execLaserModuleFault, execPortTrainingDone, windowFrom, execFarEndDark, execStraitLaneFail, execLane,
      execStraitLaneChange, execLaneChangePauseEnd, releaseHeld, execUncorrectableCodeword, execBadBlockBoundary,
      execFrameReferenceDelivery, execEvalDeadline, execLedgerDoneMark, execHaltTakesEffect, execReshardFold, execReshardFail,
      execSlotReadyWrite, execIsthmusLaneFail, execIsthmusTrainingDone, execIsthmusFlitReplay, execTideNowLoRead, execMtEnergyLoRead,
      execCfgGenLoRead, execSlotEndedLoRead, execSigNextLoRead, execHarbSessBytesLoRead, execMemCeCntRead, execMemUeCntRead,
      execAccUeCntRead, execPortRetryCntRead, execPortForeignCntRead, execPortUnknownCntRead, execPortFecUeCntRead,
      execHarbDropCntRead, execTideOverrunCntRead, execTideLateRelCntRead, execTimeNotice, execMeterIntervalRecord,
      execMtIntervalWrite, execSealEvent, execMeterStart, execRtcStore, execMtEnergyCopy, execGovRegisterWrite, execFastPowerFrame,
      execPowerExitDone, execWakePin, execVin48OutOfRange, execRefclkLoss, execBootGo, execCoreResetDone, execCoreWatchdogExpiry,
      execTelemetryRefresh, execIdent, execIdentSend, execWindowRead, execCoreFlagsSet, execCoreFlagsClear, execDigestClear,
      execDigestSnap, execMsixUnmask, execDescriptorStart, execSemAdd, execSemWaitSub])

theorem SigStep.indices {a b : Boot} (h : SigStep a b.sigs) (ha : a.sigNext ≤ a.sigRes) :
    a.sigNext ≤ b.sigNext ∧ a.sigRes ≤ b.sigRes ∧ b.sigNext ≤ b.sigRes ∧
      (b.lastSig = a.lastSig ∨ b.lastSig = none ∨ ∃ sig, b.lastSig = some (a.sigNext, sig) ∧ b.sigNext = a.sigNext + 1) := by
  unfold SigStep at h
  simp only [Boot.sigs, Boot.sigsReset, signWith, takeIndex, Prod.mk.injEq] at h
  rcases h with ⟨hnext, hres, hlast⟩ | ⟨sig, hnext, hres, hlast⟩ | ⟨hnext, hres, hlast⟩ | ⟨hnext, hres, hlast⟩
  · exact ⟨by omega, by omega, by omega, .inl hlast⟩
  · exact ⟨by omega, by split at hres <;> omega, by split at hres <;> omega, .inr (.inr ⟨sig, hlast, hnext⟩)⟩
  · exact ⟨by omega, by omega, by omega, .inr (.inl hlast)⟩
  · exact ⟨by omega, by omega, by omega, .inl hlast⟩

/-! A command word that is accepted (R423, R433). -/

theorem takeWord_accepted {s : State} {w : Word_} (hop : opcodes.contains w.op = true) (hbox : servedIn w.op w.mb = true)
    (hseq : w.seq = ((boxOf s w.mb).seq + 1) % 256) (hserved : unserved s w.mb = none) (hfree : exclusiveBusy s w.op = none)
    (hgate : stateGate (startBox s w) w.op = none) (body : State → Answer) :
    takeWord s w (fun _ => none) body = applyAnswer (startBox s w) w.mb (body (startBox s w)) := by
  have next : (w.seq != ((boxOf s w.mb).seq + 1) % 256) = false := bne_eq_false_iff_eq.mpr hseq
  simp only [takeWord, next, hop, hbox, hserved, hfree, hgate, Bool.not_true, Bool.false_eq_true, if_false, Option.orElse_none, Option.getD_none]

/-- A command that a mailbox accepts begins in the state that its word leaves. -/
theorem plainRow_accepted {s : State} {mb : Fin 16} {op : Nat} {seq : Byte} (h : Accepts s mb op seq) (hop : opcodes.contains op = true)
    (irq : Bool) (now : Nat) (body : State → Answer) : plainRow op mb seq irq now s body =
      .next (applyAnswer (startBox (atTide s now) ⟨mb, op, seq.toNat, irq⟩) mb
        (body (startBox (atTide s now) ⟨mb, op, seq.toNat, irq⟩))) := by
  obtain ⟨hboxed, hidle, hseq, hbox, hserved, hfree, hgate⟩ := h
  have fresh : seq.toNat ≠ (boxOf s mb).seq := by omega
  have taken := takeWord_accepted (s := atTide s now) (w := ⟨mb, op, seq.toNat, irq⟩) hop hbox hseq hserved hfree hgate body
  simp only [plainRow, commandRow, hboxed, hidle, fresh, taken, Bool.not_true, Bool.false_eq_true, if_false]

theorem param_startBox (s : State) (w : Word_) (o n : Nat) : param (startBox s w) w.mb o n = param s w.mb o n := by
  unfold param startBox
  rw [boxOf_modBox_self]

theorem attest_signs {s : State} {m : Nat} (hpart : param s m 32 1 = 0) (hnext : s.boot.sigNext < 2 ^ 40) (ok : Bool) :
    ∃ sig resp, attest s m ok = okAt { s with boot := signWith s.boot sig } m resp := by
  have left : ¬ 2 ^ 40 ≤ s.boot.sigNext := by omega
  unfold attest
  dsimp only
  rw [hpart, if_neg left]
  exact ⟨_, _, rfl⟩

/-- ATTEST of part 0 signs with NEXT (R474, R475). -/
theorem execAttest_signs {mb : Fin 16} {seq : Byte} {s : State} (h : Accepts s mb 0x19 seq) (hpart : parameter s mb 32 1 = 0)
    (hnext : s.boot.sigNext < 2 ^ 40) (irq : Bool) (now : Nat) (ok : Bool) :
    ∃ t sig, execAttest mb seq irq now ok s = .next t ∧ t.boot = signWith s.boot sig := by
  obtain ⟨sig, resp, signed⟩ := attest_signs (s := startBox (atTide s now) ⟨mb, 0x19, seq.toNat, irq⟩)
    ((param_startBox _ ⟨mb, 0x19, seq.toNat, irq⟩ 32 1).trans hpart) hnext ok
  refine ⟨_, sig, plainRow_accepted h rfl irq now _, ?_⟩
  rw [signed]
  exact finish_boot ..

/-- Settles O60: NEXT, RES_END and the last signature move as `SigStep` says, whatever the command. -/
theorem signatureIndicesAreUsedOnce : Obligations.SignatureIndicesAreUsedOnce := by
  refine ⟨fun s ok src clk held => ?_, fun mb seq irq ok now s accepted part next => ?_, fun c s t run bounded => ?_⟩
  · obtain ⟨t, run, released⟩ := execResetRelease_held held ok src clk
    simp only [Boot.sigs, Prod.mk.injEq] at released
    obtain ⟨hnext, hres, -⟩ := released
    exact ⟨t, run, hnext, hres⟩
  · obtain ⟨t, sig, run, signed⟩ := execAttest_signs accepted part next irq now ok
    refine ⟨t, run, ?_⟩
    beta_reduce
    rw [signed]
    exact ⟨rfl, rfl, sig, rfl⟩
  · exact (exec_sigSteps c s t run).indices bounded

end Sys2Proof.Machine
end

section
/-! SUPPORT. What every command keeps: the waiting commands, the canonical form of package memory and of the accumulators (log 28), and that
neither MT_ENERGY nor SEQ nor the RTC falls (R407, R411, R415). Each operation either leaves all of them as they are, which is an equation,
or is one of the few that write package memory or the meter, which is a step of `Lasting.Lasts`. Proofs here turn `implicitDefEqProofs` off,
as those about the boot block do. -/

namespace Sys2Proof.Machine

open Sys2Proof

/-- The waiting commands, MT_ENERGY, the next SEQ, the RTC, and whether memory is in its canonical form. -/
structure Lasting where
  pending : List Instr
  energy : Nat
  seqNext : Nat
  rtc : Nat
  wf : Bool

/-- What lasts, in a state. -/
def State.lasting (s : State) : Lasting := ⟨s.pending, s.meter.energy, s.meter.seqNext, s.meter.rtc, s.memory.wf⟩

/-- From x to y the waiting commands stay, no number of the meter falls, and the canonical form is kept. -/
structure Lasting.Lasts (x y : Lasting) : Prop where
  pending : y.pending = x.pending
  energy : x.energy ≤ y.energy
  seqNext : x.seqNext ≤ y.seqNext
  rtc : x.rtc ≤ y.rtc
  wf : x.wf = true → y.wf = true

@[simp] theorem Lasting.Lasts.refl (x : Lasting) : x.Lasts x := ⟨rfl, le_rfl, le_rfl, le_rfl, id⟩

theorem Lasting.Lasts.trans {x y z : Lasting} (h : x.Lasts y) (g : y.Lasts z) : x.Lasts z :=
  ⟨g.pending.trans h.pending, h.energy.trans g.energy, h.seqNext.trans g.seqNext, h.rtc.trans g.rtc, g.wf ∘ h.wf⟩

/-- An update of other parts of the state. -/
@[simp] theorem lasting_with (t : State) (c a b i me r st ti j co p ct bo tp se rd fc) (h : me.wf = t.memory.wf) :
    (State.mk t.pending c a b i me r st ti j co p t.meter ct bo tp se rd fc).lasting = t.lasting := by
  simp -implicitDefEqProofs [State.lasting, h]

/-- An update of other parts of memory than data and accumulators. -/
@[simp] theorem wf_with (m : Memory) (up wb mg st ho wi sd ue dg ab ar iq pk pf sm bg nx) :
    (Memory.mk m.data up wb mg st ho wi sd ue dg m.acc ab ar iq pk pf sm bg nx).wf = m.wf := rfl

@[simp] theorem lasting_ite (c : Prop) [Decidable c] (a b : State) : (if c then a else b).lasting = if c then a.lasting else b.lasting :=
  apply_ite ..

@[simp] theorem foldl_lasting {α : Type} (f : State → α → State) (h : ∀ s x, (f s x).lasting = s.lasting) :
    ∀ (l : List α) (s : State), (l.foldl f s).lasting = s.lasting
  | [], _ => rfl
  | x :: l, s => (foldl_lasting f h l (f s x)).trans (h s x)

theorem foldl_fst_lasting {α β : Type} (f : State × β → α → State × β) (h : ∀ x a, (f x a).1.lasting = x.1.lasting) :
    ∀ (l : List α) (x : State × β), (l.foldl f x).1.lasting = x.1.lasting
  | [], _ => rfl
  | a :: l, x => (foldl_fst_lasting f h l (f x a)).trans (h x a)

@[simp] theorem lasts_ite (x : Lasting) (c : Prop) [Decidable c] (a b : Lasting) :
    x.Lasts (if c then a else b) ↔ if c then x.Lasts a else x.Lasts b := by
  split <;> rfl

/-- A write that touches neither the queue nor the meter and keeps the canonical form. -/
theorem lasts_of_write {x : Lasting} {s t : State} (h : x.Lasts s.lasting) (hp : t.pending = s.pending) (hm : t.meter = s.meter)
    (hw : s.memory.wf = true → t.memory.wf = true) : x.Lasts t.lasting := by
  refine h.trans ⟨hp, ?_, ?_, ?_, hw⟩
  · exact (congrArg Meter.energy hm).ge
  · exact (congrArg Meter.seqNext hm).ge
  · exact (congrArg Meter.rtc hm).ge

theorem lasts_of_ite {x : Lasting} {c : Prop} [Decidable c] {a b : State} (ha : x.Lasts a.lasting) (hb : x.Lasts b.lasting) :
    x.Lasts (if c then a else b).lasting := by
  split
  · exact ha
  · exact hb

theorem foldl_lasts {α : Type} {x : Lasting} (f : State → α → State) (h : ∀ s a, x.Lasts s.lasting → x.Lasts (f s a).lasting) :
    ∀ (l : List α) (s : State), x.Lasts s.lasting → x.Lasts (l.foldl f s).lasting
  | [], _, hs => hs
  | a :: l, s, hs => foldl_lasts f h l (f s a) (h s a hs)

/-! Updates of one part, events, step faults and queued adds. -/

@[simp] theorem setCore_lasting (s : State) (c : Nat) (k : Core) : (setCore s c k).lasting = s.lasting := rfl

@[simp] theorem modCore_lasting (s : State) (c : Nat) (f : Core → Core) : (modCore s c f).lasting = s.lasting := rfl

@[simp] theorem modStack_lasting (s : State) (i : Nat) (f : Stack → Stack) : (modStack s i f).lasting = s.lasting := rfl

@[simp] theorem modPort_lasting (s : State) (p : Nat) (f : Port → Port) : (modPort s p f).lasting = s.lasting := rfl

@[simp] theorem setFlow_lasting (s : State) (f : Nat) (d : Line) : (setFlow s f d).lasting = s.lasting := rfl

@[simp] theorem modRt_lasting (s : State) (f : Nat) (g : FlowRt → FlowRt) : (modRt s f g).lasting = s.lasting := rfl

@[simp] theorem modSession_lasting (s : State) (k : Nat) (g : Session → Session) : (modSession s k g).lasting = s.lasting := rfl

@[simp] theorem modBox_lasting (s : State) (m : Nat) (g : Mailbox → Mailbox) : (modBox s m g).lasting = s.lasting := rfl

@[simp] theorem useFree_lasting (s : State) : (useFree s).lasting = s.lasting := rfl

@[simp] theorem emit_lasting (s : State) (o : Out) : (emit s o).lasting = s.lasting := rfl

@[simp] theorem atTide_lasting (s : State) (now : Nat) : (atTide s now).lasting = s.lasting := rfl

@[simp] theorem fire_lasting (s : State) (v : Nat) : (fire s v).lasting = s.lasting := by simp -implicitDefEqProofs [fire]

@[simp] theorem fireOnRise_lasting (s : State) (v : Nat) (old new : Reg) : (fireOnRise s v old new).lasting = s.lasting := by
  simp -implicitDefEqProofs [fireOnRise]

@[simp] theorem setIsthEvent_lasting (s : State) (b : Reg) : (setIsthEvent s b).lasting = s.lasting := by
  simp -implicitDefEqProofs [setIsthEvent]

@[simp] theorem setStraitEvent_lasting (s : State) (b : Reg) : (setStraitEvent s b).lasting = s.lasting := by
  simp -implicitDefEqProofs [setStraitEvent]

@[simp] theorem setTideEvent_lasting (s : State) (b : Nat) : (setTideEvent s b).lasting = s.lasting := by
  simp -implicitDefEqProofs [setTideEvent]

@[simp] theorem setGovStat_lasting (s : State) (b : Nat) : (setGovStat s b).lasting = s.lasting := by simp -implicitDefEqProofs [setGovStat]

@[simp] theorem setSupEvent_lasting (s : State) (b : Nat) : (setSupEvent s b).lasting = s.lasting := by
  simp -implicitDefEqProofs [setSupEvent]

@[simp] theorem markFault_lasting (s : State) (step b : Nat) : (markFault s step b).lasting = s.lasting := rfl

@[simp] theorem faultArmed_lasting (s : State) (b : Nat) : (faultArmed s b).lasting = s.lasting := by simp -implicitDefEqProofs [faultArmed]

@[simp] theorem faultAt_lasting (s : State) (step b : Nat) : (faultAt s step b).lasting = s.lasting := by
  simp -implicitDefEqProofs [faultAt]

@[simp] theorem faultNow_lasting (s : State) (b : Nat) : (faultNow s b).lasting = s.lasting := by simp -implicitDefEqProofs [faultNow]

@[simp] theorem queueAdd_lasting (s : State) (c sem n : Nat) : (queueAdd s c sem n).lasting = s.lasting := by
  simp -implicitDefEqProofs [queueAdd]

@[simp] theorem queueAddAll_lasting (s : State) (members sem : Nat) : (queueAddAll s members sem).lasting = s.lasting := by
  simp -implicitDefEqProofs [queueAddAll]

/-! Descriptors in flight and drains. -/

@[simp] theorem tellFerries_lasting (s : State) (c : Nat) (ws : List Range) : (tellFerries s c ws).lasting = s.lasting := by
  simp -implicitDefEqProofs [tellFerries]

@[simp] theorem rememberAll_lasting (s : State) (c e : Nat) (ws : List Range) : (rememberAll s c e ws).lasting = s.lasting := by
  simp -implicitDefEqProofs [rememberAll]

@[simp] theorem drainEndEff_lasting (s : State) (c : Nat) (dr : Drain) : (drainEndEff s c dr).lasting = s.lasting := by
  simp -implicitDefEqProofs [drainEndEff]

/-! Package memory, the accumulation caches and the digests. -/

/-- Reports and reads leave what lasts. -/
theorem ReadSame.lasting {s t : State} (h : ReadSame s t) : t.lasting = s.lasting := by
  have meter : t.meter = s.meter := by rw [← h.1]
  unfold State.lasting
  rw [h.pending, meter, h.wf]

@[simp] theorem addUpset_lasting (s : State) (u : Upset) : (addUpset s u).lasting = s.lasting := by simp -implicitDefEqProofs [addUpset]

@[simp] theorem addUpsets_lasting (s : State) (us : List Upset) : (addUpsets s us).lasting = s.lasting := by
  simp -implicitDefEqProofs [addUpsets]

@[simp] theorem memFault_lasting (s : State) (x : Reader) : (memFault s x).lasting = s.lasting := by
  unfold memFault
  split <;> simp -implicitDefEqProofs

@[simp] theorem countUe_lasting (s : State) (p : Nat) (r : Reader) : (countUe s p r).lasting = s.lasting := by
  simp -implicitDefEqProofs [countUe]

@[simp] theorem readLine_lasting (s : State) (p : Nat) (r : Reader) : (readLine s p r).1.lasting = s.lasting := (readLine_read s p r).lasting

@[simp] theorem readLines_lasting (s : State) (p n : Nat) (r : Reader) : (readLines s p n r).1.lasting = s.lasting :=
  (readLines_read r n s p).lasting

@[simp] theorem readRange_lasting (s : State) (p n : Nat) (r : Reader) : (readRange s p n r).1.lasting = s.lasting :=
  (readRange_read s p n r).lasting

@[simp] theorem writeLine_lasts {x : Lasting} {s : State} (h : x.Lasts s.lasting) (p : Nat) (bs : List Byte) (counted : Bool) :
    x.Lasts (writeLine s p bs counted).lasting := lasts_of_write h rfl rfl (wf_writeLine s p bs counted)

@[simp] theorem writeLines_lasts {x : Lasting} {s : State} (h : x.Lasts s.lasting) (p : Nat) (bs : List Byte) (counted : Bool) :
    x.Lasts (writeLines s p bs counted).lasting :=
  foldl_lasts _ (fun _ _ hs => writeLine_lasts hs _ _ _) _ _ h

@[simp] theorem mergeLine_lasts {x : Lasting} {s : State} (h : x.Lasts s.lasting) (p : Nat) (bs : List Byte) (counted : Bool) (r : Reader) :
    x.Lasts (mergeLine s p bs counted r).lasting := by
  simp -implicitDefEqProofs [mergeLine, h]

@[simp] theorem mergeRead_lasting (s : State) (p : Nat) (bs : List Byte) : (mergeRead s p bs).lasting = s.lasting := by
  simp -implicitDefEqProofs [mergeRead]

@[simp] theorem landMerge_lasts {x : Lasting} {s : State} (h : x.Lasts s.lasting) : x.Lasts (landMerge s).lasting := by
  unfold landMerge
  split <;> simp -implicitDefEqProofs [h]

@[simp] theorem writeRange_lasts {x : Lasting} {s : State} (h : x.Lasts s.lasting) (p : Nat) (bs : List Byte) (counted : Bool) (r : Reader) :
    x.Lasts (writeRange s p bs counted r).lasting := by
  simp -implicitDefEqProofs [writeRange, h]

@[simp] theorem accSet_lasts {x : Lasting} {s : State} (h : x.Lasts s.lasting) (k : Nat) (v : Reg) : x.Lasts (accSet s k v).lasting :=
  lasts_of_write h rfl rfl (wf_accSet s k v)

theorem setAccBad_lasts {x : Lasting} {s : State} (h : x.Lasts s.lasting) (b : Tbl Bool) :
    x.Lasts { s with memory := { s.memory with accBad := b } }.lasting := h

@[simp] theorem accTouch_lasting (s : State) (k : Nat) (r : Reader) : (accTouch s k r).lasting = s.lasting := (accTouch_read s k r).lasting

@[simp] theorem readAcc_lasting (s : State) (p n : Nat) (r : Reader) : (readAcc s p n r).1.lasting = s.lasting := (readAcc_read s p n r).lasting

@[simp] theorem writeAcc_lasts {x : Lasting} {s : State} (h : x.Lasts s.lasting) (p : Nat) (bs : List Byte) : x.Lasts (writeAcc s p bs).lasting := by
  unfold writeAcc
  refine foldl_lasts _ (fun t a ht => ?_) _ _ h
  exact accSet_lasts ht _ _

@[simp] theorem modDigest_lasting (s : State) (r : Nat) (f : Digest → Digest) : (modDigest s r f).lasting = s.lasting := rfl

@[simp] theorem digestCtrl_lasting (s : State) (r : Nat) (v : Reg) : (digestCtrl s r v).lasting = s.lasting := rfl

@[simp] theorem readSections_lasting (s : State) (typs : List Nat) : (readSections s typs).lasting = s.lasting := by
  unfold readSections
  exact foldl_lasting _ (fun t typ => by split <;> simp -implicitDefEqProofs) _ _

/-! The sequencer. -/

@[simp] theorem advance_lasting (s : State) (c : Nat) (k : Core) : (advance s c k).lasting = s.lasting := rfl

@[simp] theorem badCmdEff_lasting (s : State) (c : Nat) : (badCmdEff s c).lasting = s.lasting := rfl

@[simp] theorem flagWaitEff_lasting (s : State) (c : Nat) (k : Core) (w : W64) (setToo : Bool) :
    (flagWaitEff s c k w setToo).lasting = s.lasting := by
  simp -implicitDefEqProofs [flagWaitEff]

@[simp] theorem issueEff_lasting (s : State) (c : Nat) (k : Core) (w : W64) : (issueEff s c k w).lasting = s.lasting := by
  simp -implicitDefEqProofs [issueEff]

@[simp] theorem fenceEff_lasting (s : State) (c : Nat) (k : Core) (w : W64) : (fenceEff s c k w).lasting = s.lasting := by
  simp -implicitDefEqProofs [fenceEff]

@[simp] theorem inboundEff_lasting (s : State) (c : Nat) : (inboundEff s c).lasting = s.lasting := by
  unfold inboundEff
  split <;> simp -implicitDefEqProofs

/-! Contributions and arenas. -/

@[simp] theorem setArena_lasting (s : State) (k : Nat) (r : Arena) : (setArena s k r).lasting = s.lasting := rfl

@[simp] theorem setUse_lasting (s : State) (k : Nat) (v : UseState) : (setUse s k v).lasting = s.lasting := rfl

@[simp] theorem setRecordUse_lasting (s : State) (k v : Nat) : (setRecordUse s k v).lasting = s.lasting := rfl

@[simp] theorem addElement_lasts {x : Lasting} {s : State} (h : x.Lasts s.lasting) (k e q : Nat) : x.Lasts (addElement s k e q).lasting := by
  have touched (i : Nat) : x.Lasts (accTouch s i .package).lasting := by rwa [accTouch_lasting]
  refine lasts_of_ite h (lasts_of_ite ?_ (setAccBad_lasts (accSet_lasts (touched _) _ _) _))
  rw [setArena_lasting]
  exact setAccBad_lasts (accSet_lasts (touched _) _ _) _

@[simp] theorem addCodes_lasts {x : Lasting} {s : State} (h : x.Lasts s.lasting) (k e : Nat) (qs : List (Option Nat)) :
    x.Lasts (addCodes s k e qs).lasting := by
  unfold addCodes
  exact foldl_lasts _ (fun t q ht => by split <;> simp -implicitDefEqProofs [ht]) _ _ h

@[simp] theorem addFrame_lasts {x : Lasting} {s : State} (h : x.Lasts s.lasting) (k : Nat) (f : InFrame) :
    x.Lasts (addFrame s k f).lasting := by
  simp -implicitDefEqProofs [addFrame, h]

@[simp] theorem completeUse_lasting (s : State) (k : Nat) : (completeUse s k).lasting = s.lasting := by
  unfold completeUse
  dsimp only
  (repeat' split) <;> simp -implicitDefEqProofs

@[simp] theorem cSet_lasting (s : State) (f byte n v : Nat) : (cSet s f byte n v).lasting = s.lasting := rfl

@[simp] theorem returnCredits_lasting (s : State) (x : InFrame) : (returnCredits s x).lasting = s.lasting := by
  unfold returnCredits
  split <;> simp -implicitDefEqProofs

@[simp] theorem takeFrameEff_lasts {x : Lasting} {s : State} (h : x.Lasts s.lasting) (k : Nat) (f : InFrame) :
    x.Lasts (takeFrameEff s k f).lasting := by
  simp -implicitDefEqProofs [takeFrameEff, h]

@[simp] theorem setBegun_lasting (s : State) (k : Nat) (l : List Nat) : (setBegun s k l).lasting = s.lasting := rfl

@[simp] theorem setPark_lasting (s : State) (i : Nat) (l : List InFrame) : (setPark s i l).lasting = s.lasting := rfl

@[simp] theorem setInq_lasting (s : State) (i : Nat) (l : List InFrame) : (setInq s i l).lasting = s.lasting := rfl

@[simp] theorem upsetAcc_lasts {x : Lasting} {s : State} (h : x.Lasts s.lasting) (i : Nat) (us : List Nat) :
    x.Lasts (upsetAcc s i us).lasting := by
  unfold upsetAcc
  refine foldl_lasts _ (fun t u ht => lasts_of_ite ?_ ht) _ _ h
  exact setAccBad_lasts (accSet_lasts ht _ _) _

@[simp] theorem clearRange_lasts {x : Lasting} {s : State} (h : x.Lasts s.lasting) (i base len : Nat) :
    x.Lasts (clearRange s i base len).lasting := by
  refine lasts_of_write h rfl rfl fun wf => ?_
  obtain ⟨data, acc⟩ := Bool.and_eq_true_iff.mp wf
  exact Bool.and_eq_true_iff.mpr ⟨data, tblWf_filter _ _ _ acc⟩

@[simp] theorem readUse_lasting (s : State) (u : Nat) : (readUse s u).lasting = s.lasting := by
  unfold readUse
  split
  · exact readRange_lasting _ _ _ _
  · rfl

@[simp] theorem beginUse_lasts {x : Lasting} {s : State} (h : x.Lasts s.lasting) (i n u : Nat) : x.Lasts (beginUse s i n u).lasting := by
  simp -implicitDefEqProofs [beginUse, h]

@[simp] theorem dropParked_lasting (s : State) (i k : Nat) : (dropParked s i k).lasting = s.lasting := by
  simp -implicitDefEqProofs [dropParked]

@[simp] theorem freeRecord_lasting (s : State) (k : Nat) : (freeRecord s k).lasting = s.lasting := by simp -implicitDefEqProofs [freeRecord]

@[simp] theorem releaseUse_lasting (s : State) (n u : Nat) : (releaseUse s n u).lasting = s.lasting := by
  unfold releaseUse
  dsimp only
  (repeat' split) <;> simp -implicitDefEqProofs

@[simp] theorem countRelease_lasting (s : State) (n b : Nat) : (countRelease s n b).lasting = s.lasting := by
  simp -implicitDefEqProofs [countRelease]

@[simp] theorem emptyParks_lasting (s : State) : (emptyParks s).lasting = s.lasting := by simp -implicitDefEqProofs [emptyParks]

@[simp] theorem freeArenas_lasting (s : State) : (freeArenas s).lasting = s.lasting := by simp -implicitDefEqProofs [freeArenas]

@[simp] theorem abandonReduction_lasting (s : State) : (abandonReduction s).lasting = s.lasting := by
  simp -implicitDefEqProofs [abandonReduction]

/-! Frames that leave, barriers of the pod. -/

@[simp] theorem setTide_lasting (s : State) (f : Tide → Tide) : (setTide s f).lasting = s.lasting := rfl

@[simp] theorem sendOut_lasting (s : State) (p : Nat) (f : Frame) : (sendOut s p f).lasting = s.lasting := by
  simp -implicitDefEqProofs [sendOut]

@[simp] theorem marked_lasting (s : State) (p : Nat) : (marked s p).lasting = s.lasting := rfl

@[simp] theorem sendTide_lasting (s : State) (p typ seq : Nat) (body : List Byte) : (sendTide s p typ seq body).lasting = s.lasting := by
  simp -implicitDefEqProofs [sendTide]

@[simp] theorem flood_lasting (s : State) (but typ : Nat) (body : List Byte) : (flood s but typ body).lasting = s.lasting := by
  simp -implicitDefEqProofs [flood]

@[simp] theorem countUnknown_lasting (s : State) (p : Nat) : (countUnknown s p).lasting = s.lasting := rfl

@[simp] theorem putUse_lasting (s : State) (x : PodUse) : (putUse s x).lasting = s.lasting := rfl

@[simp] theorem sendTotal_lasting (s : State) (x : PodUse) : (sendTotal s x).lasting = s.lasting := by simp -implicitDefEqProofs [sendTotal]

@[simp] theorem resendTotals_lasting (s : State) : (resendTotals s).lasting = s.lasting := by simp -implicitDefEqProofs [resendTotals]

@[simp] theorem takeRelease_lasting (s : State) (x : PodUse) (rel but : Nat) : (takeRelease s x rel but).lasting = s.lasting := by
  simp -implicitDefEqProofs [takeRelease]

@[simp] theorem tryRelease_lasting (s : State) (x : PodUse) : (tryRelease s x).lasting = s.lasting := by
  simp -implicitDefEqProofs [tryRelease]

@[simp] theorem podChanged_lasting (s : State) (x : PodUse) : (podChanged s x).lasting = s.lasting := by
  simp -implicitDefEqProofs [podChanged]

theorem admitOwn_lasting : ∀ (k : Nat) (s : State), (admitOwn k s).lasting = s.lasting
  | 0, _ => rfl
  | k + 1, s => by
    unfold admitOwn
    split
    · rfl
    · simp -implicitDefEqProofs [admitOwn_lasting k]

@[simp] theorem settlePods_lasting (s : State) : (settlePods s).lasting = s.lasting := admitOwn_lasting _ s

@[simp] theorem completeOwn_lasting (s : State) (i n u : Nat) : (completeOwn s i n u).lasting = s.lasting := by
  simp -implicitDefEqProofs [completeOwn]

@[simp] theorem putCount_lasting (s : State) (c : PodCount) : (putCount s c).lasting = s.lasting := rfl

@[simp] theorem podArrive_lasting (s : State) (i n : Nat) : (podArrive s i n).lasting = s.lasting := by
  simp -implicitDefEqProofs [podArrive]

@[simp] theorem setPkgBar_lasting (s : State) (b : Nat) (x : Bar) : (setPkgBar s b x).lasting = s.lasting := rfl

@[simp] theorem setIsleBar_lasting (s : State) (k : Nat) (x : Bar) : (setIsleBar s k x).lasting = s.lasting := rfl

@[simp] theorem arrive_lasting (s : State) (a : Arrival) : (arrive s a).lasting = s.lasting := by simp -implicitDefEqProofs [arrive]

@[simp] theorem floodRelease_lasting (s : State) (x : PodUse) (rel but : Nat) : (floodRelease s x rel but).lasting = s.lasting := by
  simp -implicitDefEqProofs [floodRelease]

@[simp] theorem childTotal_lasting (s : State) (x : PodUse) (p total : Nat) : (childTotal s x p total).lasting = s.lasting := by
  unfold childTotal
  split <;> simp -implicitDefEqProofs

@[simp] theorem barArriveEff_lasting (s : State) (p : Nat) (f : Frame) : (barArriveEff s p f).lasting = s.lasting := by
  simp -implicitDefEqProofs [barArriveEff]

@[simp] theorem barReleaseEff_lasting (s : State) (p : Nat) (f : Frame) : (barReleaseEff s p f).lasting = s.lasting := by
  simp -implicitDefEqProofs [barReleaseEff]

/-! Tempo, schedule and the discipline of the tide. -/

@[simp] theorem showPodQ_lasting (s : State) : (showPodQ s).lasting = s.lasting := by simp -implicitDefEqProofs [showPodQ]

@[simp] theorem aggregateChanged_lasting (s : State) (old : Nat) : (aggregateChanged s old).lasting = s.lasting := by
  simp -implicitDefEqProofs [aggregateChanged]

@[simp] theorem recomputeTempo_lasting (s : State) : (recomputeTempo s).lasting = s.lasting := by simp -implicitDefEqProofs [recomputeTempo]

@[simp] theorem loseChild_lasting (s : State) (p : Nat) : (loseChild s p).lasting = s.lasting := by simp -implicitDefEqProofs [loseChild]

@[simp] theorem dropChild_lasting (s : State) (p : Nat) : (dropChild s p).lasting = s.lasting := by simp -implicitDefEqProofs [dropChild]

@[simp] theorem announce_lasting (s : State) (q : Nat) : (announce s q).lasting = s.lasting := by simp -implicitDefEqProofs [announce]

@[simp] theorem rejoin_lasting (s : State) : (rejoin s).lasting = s.lasting := by
  unfold rejoin
  split <;> simp -implicitDefEqProofs

@[simp] theorem takeAnnounce_lasting (s : State) (p : Nat) (a : Announce) : (takeAnnounce s p a).lasting = s.lasting := by
  simp -implicitDefEqProofs [takeAnnounce]

@[simp] theorem tryJoin_lasting (s : State) : (tryJoin s).lasting = s.lasting := by
  unfold tryJoin
  split <;> simp -implicitDefEqProofs

@[simp] theorem frameState_lasting (s : State) (p : Nat) (v : Nat × Nat × Nat) : (frameState s p v).lasting = s.lasting := by
  unfold frameState
  split
  · rfl
  · split
    · simp -implicitDefEqProofs
    · split
      · simp -implicitDefEqProofs
      · split <;> simp -implicitDefEqProofs

@[simp] theorem takeParent_lasting (s : State) (p : Nat) (m : Marker) : (takeParent s p m).lasting = s.lasting := by
  simp -implicitDefEqProofs [takeParent]

@[simp] theorem chooseParent_lasting (s : State) : (chooseParent s).lasting = s.lasting := by
  unfold chooseParent
  split
  · rfl
  · split
    · simp -implicitDefEqProofs
    · split <;> simp -implicitDefEqProofs

@[simp] theorem loseLock_lasting (s : State) : (loseLock s).lasting = s.lasting := by simp -implicitDefEqProofs [loseLock]

@[simp] theorem moveTimes_lasting (s : State) (d : Int) : (moveTimes s d).lasting = s.lasting := rfl

@[simp] theorem applyOffset_lasting (s : State) (o : Int) : (applyOffset s o).lasting = s.lasting := by
  simp -implicitDefEqProofs [applyOffset]

@[simp] theorem markerEff_lasting (s : State) (p : Nat) (f : Frame) : (markerEff s p f).lasting = s.lasting := by
  simp -implicitDefEqProofs [markerEff]

@[simp] theorem dropLost_lasting (s : State) : (dropLost s).lasting = s.lasting := by
  unfold dropLost
  exact foldl_lasting _ (fun t p => by split <;> simp -implicitDefEqProofs) _ _

@[simp] theorem enterHoldover_lasting (s : State) : (enterHoldover s).lasting = s.lasting := by simp -implicitDefEqProofs [enterHoldover]

@[simp] theorem enterSource_lasting (s : State) : (enterSource s).lasting = s.lasting := by simp -implicitDefEqProofs [enterSource]

@[simp] theorem releaseKnown_lasting (s : State) : (releaseKnown s).lasting = s.lasting := by
  unfold releaseKnown
  exact foldl_lasting _ (fun t x => by split <;> simp -implicitDefEqProofs) _ _

/-! Flows of the straits. -/

@[simp] theorem landAdd_lasting (s : State) (core sem n : Nat) : (landAdd s core sem n).lasting = s.lasting := by
  simp -implicitDefEqProofs [landAdd]

@[simp] theorem sendCtl_lasting (s : State) (p typ flow seq : Nat) (body : List Byte) :
    (sendCtl s p typ flow seq body).lasting = s.lasting := by
  simp -implicitDefEqProofs [sendCtl]

@[simp] theorem sendAck_lasting (s : State) (p i : Nat) : (sendAck s p i).lasting = s.lasting := by simp -implicitDefEqProofs [sendAck]

@[simp] theorem sendNack_lasting (s : State) (p i reason : Nat) : (sendNack s p i reason).lasting = s.lasting := by
  simp -implicitDefEqProofs [sendNack]

@[simp] theorem grant_lasting (s : State) (i n : Nat) : (grant s i n).lasting = s.lasting := by simp -implicitDefEqProofs [grant]

@[simp] theorem faultFlow_lasting (s : State) (i cause : Nat) : (faultFlow s i cause).lasting = s.lasting := by
  simp -implicitDefEqProofs [faultFlow]

@[simp] theorem countForeign_lasting (s : State) (p : Nat) : (countForeign s p).lasting = s.lasting := rfl

@[simp] theorem advanceRecv_lasting (s : State) (i : Nat) : (advanceRecv s i).lasting = s.lasting := by
  simp -implicitDefEqProofs [advanceRecv]

@[simp] theorem newXfer_lasting (s : State) : (newXfer s).lasting = s.lasting := rfl

@[simp] theorem ackEff_lasting (s : State) (p : Nat) (f : Frame) : (ackEff s p f).lasting = s.lasting := by
  simp -implicitDefEqProofs [ackEff]

@[simp] theorem resendFrom_lasting (s : State) (p i q : Nat) : (resendFrom s p i q).lasting = s.lasting := by
  simp -implicitDefEqProofs [resendFrom]

@[simp] theorem retry_lasting (s : State) (i q : Nat) : (retry s i q).lasting = s.lasting := by
  unfold retry
  split <;> simp -implicitDefEqProofs

@[simp] theorem nackEff_lasting (s : State) (p : Nat) (f : Frame) : (nackEff s p f).lasting = s.lasting := by
  simp -implicitDefEqProofs [nackEff]

@[simp] theorem ackFirst_lasting (s : State) (p : Nat) (x : Option Frame) : (ackFirst s p x).lasting = s.lasting := by
  unfold ackFirst
  split <;> simp -implicitDefEqProofs

@[simp] theorem sendFrame_lasting (s : State) (p i : Nat) (x : TxFrame) : (sendFrame s p i x).lasting = s.lasting := by
  simp -implicitDefEqProofs [sendFrame]

/-! The engines. -/

@[simp] theorem countLate_lasting (s : State) (c : Nat) : (countLate s c).lasting = s.lasting := by simp -implicitDefEqProofs [countLate]

@[simp] theorem endRun_lasting (s : State) (c e : Nat) (r : Run) : (endRun s c e r).lasting = s.lasting := by
  simp -implicitDefEqProofs [endRun]

@[simp] theorem completeEff_lasting (s : State) (c e : Nat) : (completeEff s c e).lasting = s.lasting := by
  unfold completeEff
  split <;> simp -implicitDefEqProofs

@[simp] theorem loadRow_lasting (s : State) (d : Line) (r : Nat) : (loadRow s d r).1.lasting = s.lasting := by
  unfold loadRow
  dsimp only
  (repeat' split) <;> simp -implicitDefEqProofs

@[simp] theorem loadRows_lasting (d : Line) : ∀ (n : Nat) (s : State) (ws : List (Nat × List Byte)), (loadRows d n s ws).1.lasting = s.lasting
  | 0, _, _ => rfl
  | n + 1, s, ws => by simp -implicitDefEqProofs [loadRows, loadRows_lasting d n]

@[simp] theorem storeRow_lasts {x : Lasting} {s : State} (h : x.Lasts s.lasting) (d : Line) (r : Nat) (bs : List Byte) :
    x.Lasts (storeRow s d r bs).lasting := by
  simp -implicitDefEqProofs [storeRow, h]

@[simp] theorem storeEff_lasts {x : Lasting} {s : State} (h : x.Lasts s.lasting) (c : Nat) (k : Core) (d : Line) :
    x.Lasts (storeEff s c k d).lasting :=
  foldl_lasts _ (fun _ _ hs => storeRow_lasts hs _ _ _) _ _ (by simp -implicitDefEqProofs [h])

@[simp] theorem countSkip_lasting (s : State) (c : Nat) : (countSkip s c).lasting = s.lasting := by simp -implicitDefEqProofs [countSkip]

@[simp] theorem ferryStrait_lasting (s : State) (c : Nat) (k : Core) (d : Line) : (ferryStrait s c k d).lasting = s.lasting := rfl

/-! The harbour and its sessions. -/

@[simp] theorem sendTo_lasting (s : State) (mac : BitVec 48) (o : HarbourOut) : (sendTo s mac o).lasting = s.lasting := rfl

@[simp] theorem sendHarbour_lasting (s : State) (dst : BitVec 128) (o : HarbourOut) : (sendHarbour s dst o).lasting = s.lasting := by
  unfold sendHarbour
  split <;> simp -implicitDefEqProofs

@[simp] theorem learn_lasting (s : State) (ip : BitVec 128) (mac : BitVec 48) : (learn s ip mac).lasting = s.lasting := by
  simp -implicitDefEqProofs [learn]

@[simp] theorem endSession_lasting (s : State) (k state cause : Nat) : (endSession s k state cause).lasting = s.lasting := by
  simp -implicitDefEqProofs [endSession]

@[simp] theorem transmit_lasting (s : State) (k : Nat) (h : HOut) : (transmit s k h).lasting = s.lasting := by
  simp -implicitDefEqProofs [transmit]

@[simp] theorem number_lasting (s : State) (k typ addr : Nat) (payload : List Byte) :
    (number s k typ addr payload).lasting = s.lasting := by
  simp -implicitDefEqProofs [number]

@[simp] theorem numberData_lasting (s : State) (k : Nat) (r : SRange) (rest : List SRange) :
    (numberData s k r rest).lasting = s.lasting := by
  simp -implicitDefEqProofs [numberData]

theorem pump_lasting (k : Nat) : ∀ (n : Nat) (s : State), (pump k n s).lasting = s.lasting
  | 0, _ => rfl
  | n + 1, s => by
    unfold pump
    dsimp only
    split
    · split <;> simp -implicitDefEqProofs [pump_lasting k n]
    · rfl

@[simp] theorem pumpSession_lasting (s : State) (k : Nat) : (pumpSession s k).lasting = s.lasting := pump_lasting k _ s

@[simp] theorem answerNack_lasting (s : State) (m : HMsg) (seq code : Nat) : (answerNack s m seq code).lasting = s.lasting := by
  simp -implicitDefEqProofs [answerNack]

@[simp] theorem oweAck_lasting (s : State) (k : Nat) (m : HMsg) : (oweAck s k m).lasting = s.lasting := rfl

/-- A message in a sequence keeps what its taking keeps. -/
theorem inOrder_lasts {x : Lasting} {s : State} (hs : x.Lasts s.lasting) (m : HMsg) (take : Nat → State)
    (h : ∀ k, x.Lasts (take k).lasting) : x.Lasts (inOrder s m take).lasting := by
  unfold inOrder
  split
  · simp -implicitDefEqProofs [hs]
  · exact lasts_of_ite (h _) (lasts_of_ite (lasts_of_ite hs (by simp -implicitDefEqProofs [hs])) (by simp -implicitDefEqProofs [hs]))

@[simp] theorem accepted_lasting (s : State) (k n : Nat) (m : HMsg) : (accepted s k n m).lasting = s.lasting := rfl

@[simp] theorem dataEff_lasts {x : Lasting} {s : State} (h : x.Lasts s.lasting) (m : HMsg) : x.Lasts (dataEff s m).lasting :=
  inOrder_lasts h m _ fun k => by simp -implicitDefEqProofs [h]

@[simp] theorem ackMessage_lasting (s : State) (k : Nat) (m : HMsg) : (ackMessage s k m).lasting = s.lasting := by
  simp -implicitDefEqProofs [ackMessage]

@[simp] theorem ledgerFrom_lasting (s : State) (b : List Byte) : (ledgerFrom s b).lasting = s.lasting := rfl

@[simp] theorem endEff_lasts {x : Lasting} {s : State} (h : x.Lasts s.lasting) (m : HMsg) : x.Lasts (endEff s m).lasting :=
  inOrder_lasts h m _ fun k => by simp -implicitDefEqProofs [h]

@[simp] theorem compareDigests_lasting (s : State) (n : Nat) : (compareDigests s n).lasting = s.lasting := by
  simp -implicitDefEqProofs [compareDigests]

@[simp] theorem digestEff_lasts {x : Lasting} {s : State} (h : x.Lasts s.lasting) (m : HMsg) : x.Lasts (digestEff s m).lasting :=
  inOrder_lasts h m _ fun k => by simp -implicitDefEqProofs [h]

@[simp] theorem discoveryEff_lasting (s : State) (mac : BitVec 48) (x : Discovery) : (discoveryEff s mac x).lasting = s.lasting := by
  unfold discoveryEff
  split <;> simp -implicitDefEqProofs

/-! Ports. -/

@[simp] theorem portDown_lasting (s : State) (p cause : Nat) : (portDown s p cause).lasting = s.lasting := by
  simp -implicitDefEqProofs [portDown]

@[simp] theorem beginTraining_lasting (s : State) (p : Nat) : (beginTraining s p).lasting = s.lasting := rfl

@[simp] theorem sendLane_lasting (s : State) (p : Nat) : (sendLane s p).lasting = s.lasting := by simp -implicitDefEqProofs [sendLane]

@[simp] theorem windowFrom_lasting (s : State) : (windowFrom s).lasting = s.lasting := rfl

@[simp] theorem declareLane_lasting (s : State) (p n : Nat) : (declareLane s p n).lasting = s.lasting := by
  simp -implicitDefEqProofs [declareLane]

@[simp] theorem laneChange_lasting (s : State) (p : Nat) (tx : Bool) : (laneChange s p tx).lasting = s.lasting := by
  simp -implicitDefEqProofs [laneChange]

@[simp] theorem releaseHeld_lasting (s : State) (p : Nat) : (releaseHeld s p).lasting = s.lasting := by
  simp -implicitDefEqProofs [releaseHeld]

/-! The job: programs, flows, frames, steps and the ledger. -/

@[simp] theorem setJob_lasting (s : State) (f : Job → Job) : (setJob s f).lasting = s.lasting := rfl

@[simp] theorem storeProgram_lasting (s : State) (p : Program) : (storeProgram s p).lasting = s.lasting := rfl

@[simp] theorem rewriteStore_lasting (s : State) (c : Nat) : (rewriteStore s c).lasting = s.lasting := by
  unfold rewriteStore
  split <;> simp -implicitDefEqProofs

@[simp] theorem loadPrograms_lasting (s : State) (variant : Nat) : (loadPrograms s variant).lasting = s.lasting := by
  simp -implicitDefEqProofs [loadPrograms]

@[simp] theorem dropOutbound_lasting (s : State) (c : Nat) : (dropOutbound s c).lasting = s.lasting := rfl

@[simp] theorem wipeCore_lasting (s : State) (c : Nat) : (wipeCore s c).lasting = s.lasting := rfl

@[simp] theorem clearIsleBars_lasting (s : State) (isle : Nat) : (clearIsleBars s isle).lasting = s.lasting := rfl

@[simp] theorem writeIsleBars_lasting (s : State) (isle : Nat) : (writeIsleBars s isle).lasting = s.lasting := by
  simp -implicitDefEqProofs [writeIsleBars]

@[simp] theorem writeBars_lasting (s : State) : (writeBars s).lasting = s.lasting := by simp -implicitDefEqProofs [writeBars]

@[simp] theorem freeFlows_lasting (s : State) : (freeFlows s).lasting = s.lasting := rfl

@[simp] theorem writeFlows_lasting (s : State) (variant state : Nat) : (writeFlows s variant state).lasting = s.lasting := by
  simp -implicitDefEqProofs [writeFlows]

@[simp] theorem armFlows_lasting (s : State) : (armFlows s).lasting = s.lasting := by simp -implicitDefEqProofs [armFlows]

@[simp] theorem unarmFlows_lasting (s : State) : (unarmFlows s).lasting = s.lasting := rfl

@[simp] theorem haltJob_lasting (s : State) (cause : Nat) : (haltJob s cause).lasting = s.lasting := by simp -implicitDefEqProofs [haltJob]

@[simp] theorem startCores_lasting (s : State) (n : Nat) : (startCores s n).lasting = s.lasting := rfl

@[simp] theorem giveFrame_lasting (s : State) (c n : Nat) (ref : Nat × Nat) (pc : Nat) (runs : RunKind) :
    (giveFrame s c n ref pc runs).lasting = s.lasting :=
  rfl

@[simp] theorem switchCore_lasting (s : State) (c v : Nat) : (switchCore s c v).lasting = s.lasting := by
  unfold switchCore
  split <;> simp -implicitDefEqProofs

@[simp] theorem giveAfter_lasting (s : State) (c n : Nat) (ref : Nat × Nat) (plan : Nat) :
    (giveAfter s c n ref plan).lasting = s.lasting := by
  unfold giveAfter
  split <;> simp -implicitDefEqProofs

@[simp] theorem deliver_lasting (s : State) (c : Nat) : (deliver s c).lasting = s.lasting := by
  unfold deliver
  dsimp only
  (repeat' split) <;> simp -implicitDefEqProofs

@[simp] theorem joinCores_lasting (s : State) (v n : Nat) : (joinCores s v n).lasting = s.lasting := by
  simp -implicitDefEqProofs [joinCores]

@[simp] theorem readStashes_lasting (s : State) (n : Nat) : (readStashes s n).1.lasting = s.lasting := by
  unfold readStashes
  refine foldl_fst_lasting _ (fun x h => ?_) _ _
  dsimp only
  split <;> simp -implicitDefEqProofs

@[simp] theorem sendDigest_lasting (s : State) (n poison : Nat) (dg : List Byte) : (sendDigest s n poison dg).lasting = s.lasting := by
  unfold sendDigest
  split
  · split <;> simp -implicitDefEqProofs
  · rfl

@[simp] theorem evaluate_lasting (s : State) (n : Nat) : (evaluate s n).lasting = s.lasting := by simp -implicitDefEqProofs [evaluate]

@[simp] theorem evaluateReported_lasting (s : State) : (evaluateReported s).lasting = s.lasting := by
  simp -implicitDefEqProofs [evaluateReported]

@[simp] theorem frameDone_lasting (s : State) (n : Nat) : (frameDone s n).lasting = s.lasting := by
  unfold frameDone
  dsimp only
  (repeat' split) <;> simp -implicitDefEqProofs

@[simp] theorem reportDone_lasting (s : State) (c : Nat) : (reportDone s c).lasting = s.lasting := by simp -implicitDefEqProofs [reportDone]

@[simp] theorem settleLedger_lasting (s : State) : (settleLedger s).lasting = s.lasting := rfl

@[simp] theorem ledgerDecide_lasting (s : State) (n outcome : Nat) : (ledgerDecide s n outcome).lasting = s.lasting := by
  simp -implicitDefEqProofs [ledgerDecide]

@[simp] theorem writeVerdict_lasts {x : Lasting} {s : State} (h : x.Lasts s.lasting) (n o : Nat) :
    x.Lasts (writeVerdict s n o).lasting := writeLines_lasts h _ _ _

@[simp] theorem writeReport_lasts {x : Lasting} {s : State} (h : x.Lasts s.lasting) (e : Eval) (o faults : Nat) :
    x.Lasts (writeReport s e o faults).lasting := by
  simp -implicitDefEqProofs [writeReport, h]

@[simp] theorem closeEntry_lasting (s : State) (n : Nat) : (closeEntry s n).lasting = s.lasting := by simp -implicitDefEqProofs [closeEntry]

@[simp] theorem decideStep_lasts {x : Lasting} {s : State} (h : x.Lasts s.lasting) (e : Eval) (cs : Nat) :
    x.Lasts (decideStep s e cs).lasting := by
  simp -implicitDefEqProofs [decideStep, h]

@[simp] theorem foldCore_lasting (s : State) (c : Nat) : (foldCore s c).lasting = s.lasting := by simp -implicitDefEqProofs [foldCore]

@[simp] theorem foldReshard_lasting (s : State) : (foldReshard s).lasting = s.lasting := by simp -implicitDefEqProofs [foldReshard]

@[simp] theorem joinJob_lasting (s : State) (n : Nat) : (joinJob s n).lasting = s.lasting := by simp -implicitDefEqProofs [joinJob]

@[simp] theorem frameCounts_lasting (s : State) (n : Nat) : (frameCounts s n).lasting = s.lasting := rfl

@[simp] theorem reshardFrame_lasting (s : State) (n : Nat) : (reshardFrame s n).lasting = s.lasting := by
  unfold reshardFrame
  dsimp only
  (repeat' split) <;> simp -implicitDefEqProofs

@[simp] theorem beginFrame_lasting (s : State) (f : Nat × Nat × Nat) : (beginFrame s f).lasting = s.lasting := by
  simp -implicitDefEqProofs [beginFrame]

@[simp] theorem slotWrite_lasting (s : State) (hi : Bool) (v : Reg) : (slotWrite s hi v).lasting = s.lasting := by
  simp -implicitDefEqProofs [slotWrite]

/-! Isthmus links, reads that clear, the configuration. -/

@[simp] theorem setIsthMod_lasting (s : State) (k m : Nat) (x : IsthModule) : (setIsthMod s k m x).lasting = s.lasting := rfl

@[simp] theorem setLink_lasting (s : State) (k v : Nat) : (setLink s k v).lasting = s.lasting := rfl

@[simp] theorem countParity_lasting (s : State) (k m : Nat) : (countParity s k m).lasting = s.lasting := rfl

@[simp] theorem checkLink_lasting (s : State) (k : Nat) : (checkLink s k).lasting = s.lasting := by simp -implicitDefEqProofs [checkLink]

@[simp] theorem trainLinks_lasting (s : State) (failed : List LaneFail) : (trainLinks s failed).lasting = s.lasting := by
  simp -implicitDefEqProofs [trainLinks]

@[simp] theorem clearStack_lasting (s : State) (i : Nat) (f : Stack → Stack) : (clearStack s i f).lasting = s.lasting := by
  simp -implicitDefEqProofs [clearStack]

@[simp] theorem afterRead_lasting (s : State) (off : Nat) : (afterRead s off).lasting = s.lasting := by
  simp -implicitDefEqProofs [afterRead]

@[simp] theorem readReg_lasting (s : State) (off : Nat) : (readReg s off).lasting = s.lasting := by simp -implicitDefEqProofs [readReg]

@[simp] theorem cfgRise_lasting (s : State) (c : Change) : (cfgRise s c).lasting = s.lasting := rfl

@[simp] theorem cfgWrite_lasting (s : State) (jtag : Bool) (off old : Nat) : (cfgWrite s jtag off old).lasting = s.lasting := rfl

/-! The meter and its notices (R407, R411, R415). -/

@[simp] theorem setMeter_lasting (s : State) (f : Meter → Meter) (energy : ∀ m, (f m).energy = m.energy)
    (seqNext : ∀ m, (f m).seqNext = m.seqNext) (rtc : ∀ m, (f m).rtc = m.rtc) : (setMeter s f).lasting = s.lasting := by
  simp -implicitDefEqProofs [setMeter, State.lasting, energy, seqNext, rtc]

/-- The meter's numbers do not fall. -/
def MeterRises (f : Meter → Meter) : Prop := ∀ m, m.energy ≤ (f m).energy ∧ m.seqNext ≤ (f m).seqNext ∧ m.rtc ≤ (f m).rtc

theorem setMeter_lasts {x : Lasting} {s : State} (h : x.Lasts s.lasting) {f : Meter → Meter} (hf : MeterRises f) :
    x.Lasts (setMeter s f).lasting := by
  obtain ⟨energy, seqNext, rtc⟩ := hf s.meter
  exact h.trans ⟨rfl, energy, seqNext, rtc, id⟩

@[simp] theorem meterAt_lasts {x : Lasting} {s : State} (h : x.Lasts s.lasting) (energy rtc : Nat) : x.Lasts (meterAt s energy rtc).lasting :=
  setMeter_lasts h fun _ => ⟨le_max_left _ _, le_rfl, le_max_left _ _⟩

@[simp] theorem append_lasts {x : Lasting} {s : State} (h : x.Lasts s.lasting) (typ : Nat) (body : List Byte) :
    x.Lasts (append s typ body).lasting :=
  setMeter_lasts h fun _ => ⟨le_rfl, Nat.le_succ _, le_rfl⟩

@[simp] theorem takeNotice_lasts {x : Lasting} {s : State} (h : x.Lasts s.lasting) (n : Notice) : x.Lasts (takeNotice s n).lasting := by
  unfold takeNotice
  split
  · refine append_lasts ?_ _ _
    exact setMeter_lasts h fun _ => ⟨le_rfl, le_rfl, le_rfl⟩
  · exact append_lasts h _ _

@[simp] theorem closeInterval_lasts {x : Lasting} {s : State} (h : x.Lasts s.lasting) (peakW : Nat) :
    x.Lasts (closeInterval s peakW).lasting := by
  refine setMeter_lasts ?_ fun _ => ⟨le_rfl, le_rfl, le_rfl⟩
  exact append_lasts h _ _

@[simp] theorem sealRecord_lasts {x : Lasting} {s : State} (h : x.Lasts s.lasting) (cause addr : Nat) :
    x.Lasts (sealRecord s cause addr).lasting := by
  refine append_lasts ?_ _ _
  exact setMeter_lasts h fun _ => ⟨le_rfl, le_rfl, le_rfl⟩

@[simp] theorem notice_lasting (s : State) (typ setting old new ahead : Nat) :
    (notice s typ setting old new ahead).lasting = s.lasting := by
  simp -implicitDefEqProofs [notice]

@[simp] theorem setTag_lasting (s : State) (tag ahead : Nat) : (setTag s tag ahead).lasting = s.lasting := by
  simp -implicitDefEqProofs [setTag]

/-! Power states and the governor. -/

@[simp] theorem setPower_lasting (s : State) (f : Power → Power) : (setPower s f).lasting = s.lasting := rfl

@[simp] theorem finishAs_lasting (s : State) (m code detail : Nat) (resp : List Byte) (value : Nat) :
    (finishAs s m code detail resp value).lasting = s.lasting := by
  unfold finishAs
  split <;> simp -implicitDefEqProofs

@[simp] theorem finish_lasting (s : State) (m code detail : Nat) (resp : List Byte) :
    (finish s m code detail resp).lasting = s.lasting := by
  simp -implicitDefEqProofs [finish]

@[simp] theorem govSetting_lasting (s : State) (setting v ahead : Nat) : (govSetting s setting v ahead).lasting = s.lasting := by
  unfold govSetting
  split <;> simp -implicitDefEqProofs

@[simp] theorem govTake_lasting (s : State) (r : GovReg) (v : Reg) : (govTake s r v).lasting = s.lasting := by
  unfold govTake
  split <;> simp -implicitDefEqProofs

@[simp] theorem govWrite_lasting (s : State) (r : GovReg) (v : Reg) (jtag : Bool) : (govWrite s r v jtag).lasting = s.lasting := by
  simp -implicitDefEqProofs [govWrite]

@[simp] theorem movePoint_lasting (s : State) (p : Fin 576 × Nat) : (movePoint s p).lasting = s.lasting := rfl

@[simp] theorem steer_lasting (s : State) (w : PowerWork) : (steer s w).lasting = s.lasting := by simp -implicitDefEqProofs [steer]

@[simp] theorem takeMean_lasting (s : State) (bytes : List Byte) : (takeMean s bytes).lasting = s.lasting := by
  unfold takeMean
  split <;> simp -implicitDefEqProofs

@[simp] theorem setState_lasting (s : State) (v ahead : Nat) : (setState s v ahead).lasting = s.lasting := by
  simp -implicitDefEqProofs [setState]

@[simp] theorem darkTide_lasting (s : State) : (darkTide s).lasting = s.lasting := by simp -implicitDefEqProofs [darkTide]

@[simp] theorem straitsDark_lasting (s : State) : (straitsDark s).lasting = s.lasting := by simp -implicitDefEqProofs [straitsDark]

@[simp] theorem restoreReg_lasting (s : State) (e : Nat × Reg) : (restoreReg s e).lasting = s.lasting := by
  simp -implicitDefEqProofs [restoreReg]

@[simp] theorem endPowerCommand_lasting (s : State) (code : Nat) : (endPowerCommand s code).lasting = s.lasting := by
  unfold endPowerCommand
  split <;> simp -implicitDefEqProofs

@[simp] theorem enterState_lasting (s : State) (v : Nat) : (enterState s v).lasting = s.lasting := by simp -implicitDefEqProofs [enterState]

@[simp] theorem coresAnew_lasting (s : State) : (coresAnew s).lasting = s.lasting := by simp -implicitDefEqProofs [coresAnew]

@[simp] theorem writesAnew_lasting (s : State) : (writesAnew s).lasting = s.lasting := by simp -implicitDefEqProofs [writesAnew]

@[simp] theorem memoryAnew_lasts {x : Lasting} {s : State} (h : x.Lasts s.lasting) : x.Lasts (memoryAnew s).lasting :=
  lasts_of_write h rfl rfl fun wf => Bool.and_eq_true_iff.mpr ⟨(Bool.and_eq_true_iff.mp wf).1, rfl⟩

@[simp] theorem portsAnew_lasting (s : State) : (portsAnew s).lasting = s.lasting := rfl

@[simp] theorem leaveDark_lasts {x : Lasting} {s : State} (h : x.Lasts s.lasting) (failed : List LaneFail) :
    x.Lasts (leaveDark s failed).lasting := by
  simp -implicitDefEqProofs [leaveDark, h]

@[simp] theorem takeTemps_lasting (s : State) (ts : List (BitVec 16)) : (takeTemps s ts).lasting = s.lasting := rfl

@[simp] theorem driveTrip_lasting (s : State) (low : Bool) : (driveTrip s low).lasting = s.lasting := by
  simp -implicitDefEqProofs [driveTrip]

@[simp] theorem releaseTrip_lasting (s : State) : (releaseTrip s).lasting = s.lasting := by simp -implicitDefEqProofs [releaseTrip]

@[simp] theorem wakeUp_lasting (s : State) (cause : Nat) : (wakeUp s cause).lasting = s.lasting := by
  unfold wakeUp
  dsimp only
  (repeat' split) <;> simp -implicitDefEqProofs

@[simp] theorem endWaiting_lasting (s : State) : (endWaiting s).lasting = s.lasting := by
  unfold endWaiting
  refine (foldl_lasting _ (fun t b => ?_) _ _).trans ?_
  · split
    · simp -implicitDefEqProofs
    · rfl
  · split
    · split <;> simp -implicitDefEqProofs
    · split <;> simp -implicitDefEqProofs

@[simp] theorem cutPower_lasting (s : State) : (cutPower s).lasting = s.lasting := by simp -implicitDefEqProofs [cutPower]

@[simp] theorem loseVin48_lasts {x : Lasting} {s : State} (h : x.Lasts s.lasting) : x.Lasts (loseVin48 s).lasting := by
  have lost : x.Lasts { s with memory := { s.memory with data := [], upset := [], writeBack := [], merging := none } }.lasting :=
    lasts_of_write h rfl rfl fun wf => (Bool.and_eq_true_iff.mp wf).2
  refine setMeter_lasts ?_ fun _ => ⟨le_rfl, le_rfl, le_rfl⟩
  simp -implicitDefEqProofs [lost]

@[simp] theorem loseReference_lasting (s : State) : (loseReference s).lasting = s.lasting := by simp -implicitDefEqProofs [loseReference]

/-! Resets, images and boot. -/

@[simp] theorem settingsReset_lasting (s : State) (state : Nat) : (settingsReset s state).lasting = s.lasting := by
  simp -implicitDefEqProofs [settingsReset]

@[simp] theorem powerOnReset_lasts {x : Lasting} {s : State} (h : x.Lasts s.lasting) (source : Nat) :
    x.Lasts (powerOnReset s source).lasting := lasts_of_write h rfl rfl fun _ => rfl

@[simp] theorem resetPower_lasting (s : State) : (resetPower s).lasting = s.lasting := by simp -implicitDefEqProofs [resetPower]

@[simp] theorem systemReset_lasts {x : Lasting} {s : State} (h : x.Lasts s.lasting) (source : Nat) :
    x.Lasts (systemReset s source).lasting := lasts_of_write h rfl rfl fun _ => rfl

@[simp] theorem idle_lasts {x : Lasting} {s : State} (h : x.Lasts s.lasting) : x.Lasts (idle s).lasting := by
  unfold idle
  dsimp only
  split <;> simp -implicitDefEqProofs [h]

@[simp] theorem obtainImage_lasting (s : State) : (obtainImage s).lasting = s.lasting := rfl

@[simp] theorem runImage_lasting (s : State) (img : List Byte) (fromHost recovered : Bool) :
    (runImage s img fromHost recovered).lasting = s.lasting :=
  rfl

@[simp] theorem tryImage_lasting (s : State) (img : List Byte) (fromHost recovered : Bool) :
    (tryImage s img fromHost recovered).lasting = s.lasting := by
  unfold tryImage
  split <;> simp -implicitDefEqProofs

@[simp] theorem bootCtrl_lasting (s : State) (len : Nat) (go : Bool) : (bootCtrl s len go).lasting = s.lasting := by
  simp -implicitDefEqProofs [bootCtrl]

@[simp] theorem takeCoreReset_lasting (s : State) (wdog : Bool) (c : Nat) : (takeCoreReset s wdog c).lasting = s.lasting := by
  simp -implicitDefEqProofs [takeCoreReset]

@[simp] theorem noteCoreReset_lasting (s : State) (isle : Nat) (core : Option Nat) (wdog : Bool) :
    (noteCoreReset s isle core wdog).lasting = s.lasting :=
  rfl

@[simp] theorem resetCores_lasting (s : State) (isle : Nat) (core : Option Nat) (wdog : Bool) :
    (resetCores s isle core wdog).lasting = s.lasting := by
  unfold resetCores
  split <;> simp -implicitDefEqProofs

@[simp] theorem coreAnew_lasting (s : State) (c : Nat) : (coreAnew s c).lasting = s.lasting := by simp -implicitDefEqProofs [coreAnew]

@[simp] theorem coreAwaited_lasting (s : State) (c m : Nat) : (coreAwaited s c m).lasting = s.lasting := by
  unfold coreAwaited
  split <;> simp -implicitDefEqProofs

@[simp] theorem goOn_lasting (s : State) : (goOn s).lasting = s.lasting := by simp -implicitDefEqProofs [goOn]

/-! What the commands of the mailboxes do. -/

@[simp] theorem writeDone_lasting (s : State) (m code : Nat) (detail : Reg) (resp : List Byte) (irq : Bool) :
    (writeDone s m code detail resp irq).lasting = s.lasting := by
  simp -implicitDefEqProofs [writeDone]

@[simp] theorem startBox_lasting (s : State) (w : Word_) : (startBox s w).lasting = s.lasting := by simp -implicitDefEqProofs [startBox]

@[simp] theorem afterDone_lasting (s : State) (op code : Nat) : (afterDone s op code).lasting = s.lasting := by
  simp -implicitDefEqProofs [afterDone]

@[simp] theorem refresh_lasting (s : State) : (refresh s).lasting = s.lasting := rfl

@[simp] theorem govAll_lasting (s : State) (vs : List (Nat × Nat)) (ahead : Nat) : (govAll s vs ahead).lasting = s.lasting := by
  simp -implicitDefEqProofs [govAll]

@[simp] theorem meterAnswer_lasting (s : State) (m : Nat) : (meterAnswer s m).lasting = s.lasting := by
  unfold meterAnswer
  split
  · exact finish_lasting ..
  · exact finish_lasting ..

@[simp] theorem serveReads_lasting (s : State) : (serveReads s).lasting = s.lasting := by simp -implicitDefEqProofs [serveReads]

@[simp] theorem isolatePort_lasting (s : State) (p : Nat) : (isolatePort s p).lasting = s.lasting := by
  simp -implicitDefEqProofs [isolatePort]

@[simp] theorem clearEcc_lasting (s : State) (i : Nat) : (clearEcc s i).lasting = s.lasting := by simp -implicitDefEqProofs [clearEcc]

@[simp] theorem lifeWrite_lasting (s : State) (target : Nat) (owner : List Byte) : (lifeWrite s target owner).lasting = s.lasting := rfl

@[simp] theorem enterJob_lasting (s : State) (v : Nat) : (enterJob s v).lasting = s.lasting := rfl

@[simp] theorem unarm_lasting (s : State) : (unarm s).lasting = s.lasting := by simp -implicitDefEqProofs [unarm]

@[simp] theorem planDigest_lasting (s : State) (g : Region) : (planDigest s g).lasting = s.lasting := by
  simp -implicitDefEqProofs [planDigest]

@[simp] theorem clearSchedule_lasting (s : State) : (clearSchedule s).lasting = s.lasting := rfl

@[simp] theorem acceptImage_lasting (s : State) (a n : Nat) (b : List Byte) (reload : Bool) :
    (acceptImage s a n b reload).lasting = s.lasting := by
  simp -implicitDefEqProofs [acceptImage]

@[simp] theorem armDone_lasting (s : State) (a : Arming) : (armDone s a).lasting = s.lasting := by simp -implicitDefEqProofs [armDone]

@[simp] theorem tryArm_lasting (s : State) : (tryArm s).lasting = s.lasting := by
  unfold tryArm
  split <;> simp -implicitDefEqProofs

@[simp] theorem trainRole_lasting (s : State) (p : Nat) : (trainRole s p).lasting = s.lasting := by simp -implicitDefEqProofs [trainRole]

@[simp] theorem beginArm_lasting (s : State) (a : Arming) : (beginArm s a).lasting = s.lasting := by simp -implicitDefEqProofs [beginArm]

@[simp] theorem recordPeer_lasting (s : State) (p : Nat) (f : Frame) : (recordPeer s p f).lasting = s.lasting := rfl

@[simp] theorem startJob_lasting (s : State) (s0 start q : Nat) : (startJob s s0 start q).lasting = s.lasting := rfl

@[simp] theorem releaseJob_lasting (s : State) : (releaseJob s).lasting = s.lasting := by simp -implicitDefEqProofs [releaseJob]

@[simp] theorem resumeLedger_lasting (s : State) (n outcome : Nat) : (resumeLedger s n outcome).lasting = s.lasting := rfl

@[simp] theorem resumeCores_lasting (s : State) : (resumeCores s).lasting = s.lasting := rfl

@[simp] theorem enterFree_lasting (s : State) : (enterFree s).lasting = s.lasting := by simp -implicitDefEqProofs [enterFree]

@[simp] theorem takeRole_lasting (s : State) (pod rank : Nat) : (takeRole s pod rank).lasting = s.lasting := by
  simp -implicitDefEqProofs [takeRole]

@[simp] theorem diagCore_lasting (s : State) (p : Program) : (diagCore s p).lasting = s.lasting := by simp -implicitDefEqProofs [diagCore]

/-! Registers, the windows and an update cycle. -/

@[simp] theorem selectBusacc_lasting (s : State) : (selectBusacc s).lasting = s.lasting := by simp -implicitDefEqProofs [selectBusacc]

@[simp] theorem useFree8_lasting (s : State) : (useFree8 s).lasting = s.lasting := rfl

@[simp] theorem putSupEvent_lasting (s : State) (new : Reg) : (putSupEvent s new).lasting = s.lasting := by
  simp -implicitDefEqProofs [putSupEvent]

theorem eventWrite_lasting (s : State) (off : Nat) (v : Reg) (hw : Option Reg) : ((eventWrite s off v hw).getD s).lasting = s.lasting := by
  simp -implicitDefEqProofs [eventWrite]

theorem rwWrite_lasting (s : State) (off : Nat) (v : Reg) (hw : Option Reg) : ((rwWrite s off v hw).getD s).lasting = s.lasting := by
  simp -implicitDefEqProofs [rwWrite]

@[simp] theorem unmask_lasting (s : State) (v : Nat) : (unmask s v).lasting = s.lasting := by simp -implicitDefEqProofs [unmask]

@[simp] theorem msixWrite_lasting (s : State) (o : Nat) (v : Reg) : (msixWrite s o v).lasting = s.lasting := by
  simp -implicitDefEqProofs [msixWrite]

@[simp] theorem writeWord_lasting (s : State) (w : Writer) (off : Nat) (v : Reg) (hw : Option Reg) :
    (writeWord s w off v hw).lasting = s.lasting := by
  have event := eventWrite_lasting s off v hw
  have plain := rwWrite_lasting s off v hw
  unfold writeWord
  dsimp only
  split
  · next t e =>
    rw [e] at event
    simp -implicitDefEqProofs [show t.lasting = s.lasting from event]
  · split
    · next t e =>
      rw [e] at plain
      simp -implicitDefEqProofs [show t.lasting = s.lasting from plain]
    · simp -implicitDefEqProofs

@[simp] theorem regRead_lasting (s : State) (off n : Nat) : (regRead s off n).lasting = s.lasting := by simp -implicitDefEqProofs [regRead]

@[simp] theorem physRead_lasting (s : State) (p n : Nat) : (physRead s p n).1.lasting = s.lasting := by
  unfold physRead
  dsimp only
  (repeat' split) <;> simp -implicitDefEqProofs

@[simp] theorem flowPut_lasting (s : State) (o : Nat) (bs : List Byte) : (flowPut s o bs).lasting = s.lasting := by
  simp -implicitDefEqProofs [flowPut]

@[simp] theorem supStore_lasting (s : State) (o : Nat) (bs : List Byte) : (supStore s o bs).lasting = s.lasting := by
  simp -implicitDefEqProofs [supStore]

@[simp] theorem winRead_lasts {x : Lasting} {s : State} (h : x.Lasts s.lasting) (off n : Nat) : x.Lasts (winRead s off n).lasting := by
  simp -implicitDefEqProofs [winRead, h]

@[simp] theorem hwUpdate_lasting (s : State) (off : Nat) (hw : Option Reg) : (hwUpdate s off hw).lasting = s.lasting := by
  unfold hwUpdate
  split
  · rfl
  · simp -implicitDefEqProofs [eventWrite_lasting]

@[simp] theorem mapRead_lasts {x : Lasting} {s : State} (h : x.Lasts s.lasting) (off n : Nat) : x.Lasts (mapRead s off n).lasting := by
  simp -implicitDefEqProofs [mapRead, h]

@[simp] theorem cycleAdds_lasting (s : State) (a : SameCycle) : (cycleAdds s a).lasting = s.lasting := by
  simp -implicitDefEqProofs [cycleAdds]

@[simp] theorem semWaitSubEff_lasting (s : State) (c : Nat) (w : W64) : (semWaitSubEff s c w).lasting = s.lasting := by
  simp -implicitDefEqProofs [semWaitSubEff]

@[simp] theorem semWakeEff_lasting (s : State) (c : Nat) (w : W64) : (semWakeEff s c w).lasting = s.lasting := by
  simp -implicitDefEqProofs [semWakeEff]

@[simp] theorem State_withFetchWord_lasting (s : State) (nbits w : Nat) : (State.withFetchWord s nbits w).lasting = s.lasting := rfl

end Sys2Proof.Machine
end

section
/-! SUPPORT. What the rows of every family, the frames that land and the commands of the mailboxes answer: never a refusal, a fault only
where one is allowed, and else a state in which what lasts is kept. -/

namespace Sys2Proof.Machine

open Sys2Proof

/-! What a row answers. -/

/-- No refusal, a fault only where p holds, and a state that keeps what lasts from x. -/
def Steady (p : Prop) (x : Lasting) : Host.Outcome State Fault Refusal → Prop
  | .next t => x.Lasts t.lasting
  | .fault _ => p
  | .refused _ => False

/-- A landing steps as its outcome. -/
def LandSteady (p : Prop) (x : Lasting) (l : Land) : Prop := Steady p x (ofLand l)

section
variable {p : Prop} {x : Lasting}

@[simp] theorem steady_next (t : State) : Steady p x (.next t) ↔ x.Lasts t.lasting := Iff.rfl

@[simp] theorem steady_fault (f : Fault) : Steady p x (.fault f) ↔ p := Iff.rfl

@[simp] theorem steady_undefinedCase (f : Kept → Fault) (s : State) : Steady p x (undefinedCase f s) ↔ p := Iff.rfl

@[simp] theorem steady_when (g : Bool) (s t : State) : Steady p x (when g s t) ↔ x.Lasts (if g then t else s).lasting := Iff.rfl

@[simp] theorem steady_ite (c : Prop) [Decidable c] (a b : Host.Outcome State Fault Refusal) :
    Steady p x (if c then a else b) ↔ if c then Steady p x a else Steady p x b := by
  split <;> rfl

theorem Steady.mono {q : Prop} {o : Host.Outcome State Fault Refusal} (h : Steady p x o) (hpq : p → q) : Steady q x o := by
  cases o with
  | next t => exact h
  | fault e => exact hpq h
  | refused r => exact h

theorem Steady.of_next {o : Host.Outcome State Fault Refusal} {t : State} (h : Steady p x o) (e : o = .next t) : x.Lasts t.lasting := by
  rw [e] at h
  exact h

theorem Steady.since {y : Lasting} {o : Host.Outcome State Fault Refusal} (h : Steady p y o) (g : x.Lasts y) : Steady p x o := by
  cases o with
  | next t => exact g.trans h
  | fault e => exact h
  | refused r => exact h

theorem steady_when_of {g : Bool} {s t : State} (hs : x.Lasts s.lasting) (ht : x.Lasts t.lasting) : Steady p x (when g s t) :=
  lasts_of_ite ht hs

theorem steady_thenDo {o : Host.Outcome State Fault Refusal} {f : State → Host.Outcome State Fault Refusal} (ho : Steady p x o)
    (hf : ∀ t, x.Lasts t.lasting → Steady p x (f t)) : Steady p x (thenDo o f) := by
  cases o with
  | next t => exact hf t ho
  | fault e => exact ho
  | refused r => exact ho

@[simp] theorem landSteady_ok (t : State) : LandSteady p x (.ok t) ↔ x.Lasts t.lasting := Iff.rfl

@[simp] theorem landSteady_error (e : Fault) : LandSteady p x (.error e) ↔ p := Iff.rfl

@[simp] theorem landSteady_ite (c : Prop) [Decidable c] (a b : Land) :
    LandSteady p x (if c then a else b) ↔ if c then LandSteady p x a else LandSteady p x b := by
  split <;> rfl

theorem landSteady_bind {l : Land} {f : State → Land} (hl : LandSteady p x l) (hf : ∀ t, x.Lasts t.lasting → LandSteady p x (f t)) :
    LandSteady p x (l.bind f) := by
  cases l with
  | ok t => exact hf t hl
  | error e => exact hl

theorem lasts_of_ok {l : Land} {t : State} (e : l = .ok t) (h : LandSteady p x l) : x.Lasts t.lasting := by
  rw [e] at h
  exact h

theorem landSteady_map {l : Land} {f : State → State} (hl : LandSteady p x l) (hf : ∀ t, (f t).lasting = t.lasting) :
    LandSteady p x (l.map f) := by
  cases l with
  | ok t => exact (congrArg x.Lasts (hf t)).mpr hl
  | error e => exact hl

/-! Rows of the engines and of the sequencer, frames that arrive. -/

@[simp] theorem engineRow_steady {s : State} {c e : Nat} {ph : Phase} {kind : Line → Bool} {f : Core → Run → Host.Outcome State Fault Refusal}
    (hs : x.Lasts s.lasting) (hf : ∀ k r, Steady p x (f k r)) : Steady p x (engineRow s c e ph kind f) := by
  unfold engineRow
  split <;> simp -implicitDefEqProofs [hs, hf]

@[simp] theorem seqRow_steady {s : State} {c op : Nat} {f : Core → W64 → Host.Outcome State Fault Refusal}
    (hs : x.Lasts s.lasting) (hf : ∀ k w, Steady p x (f k w)) : Steady p x (seqRow s c op f) := by
  simp -implicitDefEqProofs [seqRow, hs, hf]

@[simp] theorem wakeRow_steady {s : State} {c : Nat} {wt : SeqWait} {f : Core → W64 → Host.Outcome State Fault Refusal}
    (hs : x.Lasts s.lasting) (hf : ∀ k w, Steady p x (f k w)) : Steady p x (wakeRow s c wt f) := by
  simp -implicitDefEqProofs [wakeRow, hs, hf]

@[simp] theorem tideRow_steady {s : State} {port typ : Nat} {f : Frame} {eff : State → State}
    (hf : ∀ t, (eff t).lasting = t.lasting) : Steady p s.lasting (tideRow s port typ f eff) := by
  simp -implicitDefEqProofs [tideRow, hf]

@[simp] theorem portRow_steady {s : State} {port typ : Nat} {f : Frame} {eff : State → Host.Outcome State Fault Refusal}
    (hf : ∀ t, Steady p t.lasting (eff t)) : Steady p s.lasting (portRow s port typ f eff) := by
  have taken := hf (marked s port)
  rw [marked_lasting] at taken
  simp -implicitDefEqProofs [portRow, taken]

@[simp] theorem harbourRow_steady {s : State} {typ : Nat} {m : HMsg} {t : State} (ht : s.lasting.Lasts t.lasting) :
    Steady p s.lasting (harbourRow s typ m t) := by
  simp -implicitDefEqProofs [harbourRow, ht]

@[simp] theorem ferryRow_steady {s : State} {c op : Nat} {here : Core → Line → Nat → Host.Outcome State Fault Refusal}
    (hf : ∀ k d n, Steady p s.lasting (here k d n)) : Steady p s.lasting (ferryRow s c op here) := by
  simp -implicitDefEqProofs [ferryRow, hf]

@[simp] theorem readRow_steady (s : State) (off : Nat) : Steady p s.lasting (readRow s off) := by
  simp -implicitDefEqProofs [readRow]

theorem handoffEff_steady (hp : p) (s : State) (c : Nat) (k : Core) (d : Line) : Steady p s.lasting (handoffEff s c k d) := by
  simp -implicitDefEqProofs [handoffEff, hp]

theorem landPass_steady (hp : p) (s : State) (c : Nat) (k : Core) (r : Run) (w : Pass) : Steady p s.lasting (landPass s c k r w) := by
  simp -implicitDefEqProofs [landPass, hp]

/-! Contributions and frames that land (R249, R250, R314, R331). -/

theorem takeFrame_steady (hp : p) {s : State} (hs : x.Lasts s.lasting) (k : Nat) (f : InFrame) : LandSteady p x (takeFrame s k f) := by
  simp -implicitDefEqProofs [takeFrame, hs, hp]

theorem acceptFrame_steady (hp : p) {s : State} (hs : x.Lasts s.lasting) (i : Nat) (f : InFrame) : LandSteady p x (acceptFrame s i f) := by
  simp -implicitDefEqProofs [acceptFrame, takeFrame_steady hp, hs]

theorem feedFrames_steady (hp : p) (i k : Nat) : ∀ (fs : List InFrame) (l : Land), LandSteady p x l → LandSteady p x (fs.foldl (fun l f =>
    l.bind fun s => if recordOpen s k then takeFrame (setPark s i ((parkOf s i).erase f)) k f else .ok s) l)
  | [], _, hl => hl
  | f :: fs, l, hl => feedFrames_steady hp i k fs _ (landSteady_bind hl fun t ht => by simp -implicitDefEqProofs [takeFrame_steady hp, ht])

theorem feedParked_steady (hp : p) {s : State} (hs : x.Lasts s.lasting) (i k : Nat) : LandSteady p x (feedParked s i k) :=
  feedFrames_steady hp i k _ _ hs

theorem landBytes_steady (hp : p) {s : State} (hs : x.Lasts s.lasting) (c a : Nat) (bs : List Byte) : LandSteady p x (landBytes s c a bs) := by
  simp -implicitDefEqProofs [landBytes, hs, hp]

theorem landSram_steady (hp : p) {s : State} (hs : x.Lasts s.lasting) (c a : Nat) (bs : List Byte) : LandSteady p x (landSram s c a bs) := by
  unfold landSram
  split
  · exact hs
  · split
    · exact hp
    · exact landSteady_map (landBytes_steady hp hs c a bs) fun t => by simp -implicitDefEqProofs

theorem landFrame_steady (hp : p) {s : State} (hs : x.Lasts s.lasting) (core : Nat) (f : Frame) : LandSteady p x (landFrame s core f) := by
  unfold landFrame
  dsimp only
  split
  · exact hp
  · next t put =>
    have ht : x.Lasts t.lasting := lasts_of_ok (p := p) put (by simp -implicitDefEqProofs [landSram_steady, hs, hp])
    simp -implicitDefEqProofs [ht]

theorem deliverFrame_steady (hp : p) {s : State} (hs : x.Lasts s.lasting) (f : InFrame) : LandSteady p x (deliverFrame s f) := by
  have put := landSteady_map (f := fun s => returnCredits s f) (landFrame_steady hp hs (cDestCore (flowOf s f.flow)) f.frame)
    fun t => by simp -implicitDefEqProofs
  simp -implicitDefEqProofs [deliverFrame, hs, put]

theorem drainSource_steady (hp : p) (src : Nat) : ∀ (n : Nat) {s : State}, x.Lasts s.lasting → LandSteady p x (drainSource src n s)
  | 0, _, hs => hs
  | n + 1, s, hs => by
    unfold drainSource
    split
    · exact hs
    · split
      · exact hs
      · exact landSteady_bind (deliverFrame_steady hp (by simp -implicitDefEqProofs [hs]) _) fun t ht => drainSource_steady hp src n ht

theorem takeHead_steady (hp : p) {s : State} (hs : x.Lasts s.lasting) (i src : Nat) (f : InFrame) : Steady p x (takeHead s i src f) :=
  landSteady_bind (acceptFrame_steady hp (by simp -implicitDefEqProofs [hs]) i f) fun _ ht => drainSource_steady hp src _ ht

theorem intoSource_steady (hp : p) {s : State} (hs : x.Lasts s.lasting) (f : InFrame) : LandSteady p x (intoSource s f) :=
  drainSource_steady hp _ _ (by simp -implicitDefEqProofs [hs])

theorem intoSink_steady (hp : p) {s : State} (hs : x.Lasts s.lasting) (i : Nat) (f : Frame) : LandSteady p x (intoSink s i f) := by
  simp -implicitDefEqProofs [intoSink, intoSource_steady hp, hs]

theorem acceptSeq_steady (hp : p) {s : State} (hs : x.Lasts s.lasting) (i : Nat) (f : Frame) : LandSteady p x (acceptSeq s i f) := by
  simp -implicitDefEqProofs [acceptSeq, intoSink_steady hp, hs]

theorem sequenced_steady (hp : p) {s : State} (hs : x.Lasts s.lasting) (port : Nat) (f : Frame) : LandSteady p x (sequenced s port f) := by
  have taken := landSteady_map (x := x) (f := fun t => sendAck t port (frameFlow f))
    (acceptSeq_steady hp (s := modRt s (frameFlow f) fun r => { r with via := some port }) (by simp -implicitDefEqProofs [hs]) (frameFlow f) f)
    fun t => by simp -implicitDefEqProofs
  simp -implicitDefEqProofs [sequenced, hs, taken]

/-! Starts of descriptors, update cycles of semaphores (R55, R65). -/

theorem startEff_steady (hp : p) {s : State} (hs : x.Lasts s.lasting) (c e : Nat) (q : QEntry) (rest : List QEntry) :
    Steady p x (startEff s c e q rest) := by
  simp -implicitDefEqProofs [startEff, hs, hp]

theorem startHead_steady (hp : p) {s : State} (hs : x.Lasts s.lasting) (c e : Nat) : Steady p x (startHead s c e) := by
  unfold startHead
  dsimp only
  split <;> simp -implicitDefEqProofs [startEff_steady hp, hs]

theorem startHeads_steady (hp : p) (c : Nat) (es : List (Fin 6)) (consuming : Bool) :
    ∀ (n : Nat) {s : State}, x.Lasts s.lasting → Steady p x (startHeads c es consuming n s)
  | 0, _, hs => hs
  | n + 1, s, hs => by
    unfold startHeads
    dsimp only
    split
    · exact steady_thenDo (startHead_steady hp hs c _) fun t ht => startHeads_steady hp c es consuming n ht
    · exact startHeads_steady hp c es consuming n hs

theorem cycleStarts_steady (hp : p) {s : State} {c : Nat} {es : List (Fin 6)} {last : State → State} (hs : x.Lasts s.lasting)
    (hl : ∀ t, (last t).lasting = t.lasting) : Steady p x (cycleStarts s c es last) :=
  steady_thenDo (startHeads_steady hp c es true 6 hs) fun t ht => startHeads_steady hp c es false 6 (by rwa [hl])

theorem semSubEff_steady (hp : p) {s : State} (hs : x.Lasts s.lasting) (c : Nat) (w : W64) : Steady p x (semSubEff s c w) := by
  simp -implicitDefEqProofs [semSubEff, hs, hp]

end

/-! Commands of the mailboxes (R423, R433). -/

/-- Whatever state a command goes on from keeps what lasts from x. -/
def Answer.Lasts (x : Lasting) : Answer → Prop
  | .refuse _ _ => True
  | .go t => x.Lasts t.lasting

section
variable {p : Prop} {x : Lasting}

@[simp] theorem answerLasts_refuse (code detail : Nat) : (Answer.refuse code detail).Lasts x := trivial

@[simp] theorem answerLasts_go (t : State) : (Answer.go t).Lasts x ↔ x.Lasts t.lasting := Iff.rfl

@[simp] theorem answerLasts_badParam (o : Nat) : (badParam o).Lasts x := trivial

@[simp] theorem answerLasts_okAt (s : State) (m : Nat) (resp : List Byte) : (okAt s m resp).Lasts x ↔ x.Lasts s.lasting := by
  simp -implicitDefEqProofs [okAt]

@[simp] theorem answerLasts_ite (c : Prop) [Decidable c] (a b : Answer) :
    (if c then a else b).Lasts x ↔ if c then a.Lasts x else b.Lasts x := by
  split <;> rfl

theorem applyAnswer_lasts {s : State} {m : Nat} {a : Answer} (hs : x.Lasts s.lasting) (ha : a.Lasts x) :
    x.Lasts (applyAnswer s m a).lasting := by
  cases a with
  | refuse code detail => simp -implicitDefEqProofs [applyAnswer, hs]
  | go t => exact ha

theorem answerLasts_refusal {o : Option Answer} (h : OnlyRefuses o) {a : Answer} (ha : a.Lasts x) : (o.getD a).Lasts x := by
  cases o with
  | none => exact ha
  | some y =>
    obtain ⟨code, detail, rfl⟩ := h y rfl
    trivial

theorem takeWord_lasts {s : State} (hs : x.Lasts s.lasting) (w : Word_) {busy : State → Option Answer} {body : State → Answer}
    (hb : ∀ t, OnlyRefuses (busy t)) (h : (body (startBox s w)).Lasts x) : x.Lasts (takeWord s w busy body).lasting := by
  unfold takeWord
  dsimp only
  split
  · simp -implicitDefEqProofs [hs]
  · have begun : x.Lasts (startBox s w).lasting := by rwa [startBox_lasting]
    split
    · rwa [finish_lasting]
    · exact applyAnswer_lasts begun (answerLasts_refusal (onlyRefuses_orElse (unserved_refuses _ _)
        (onlyRefuses_orElse (exclusiveBusy_refuses _ _) (onlyRefuses_orElse (hb _) (stateGate_refuses _ _)))) h)

theorem commandRow_steady {s : State} {w : Word_} {now : Nat} {busy : State → Option Answer} {body : State → Answer}
    (hp : (boxOf s w.mb).state = 1 → p) (hb : ∀ t, OnlyRefuses (busy t)) (h : ∀ t, (body t).Lasts t.lasting) :
    Steady p s.lasting (commandRow s w now busy body) := by
  unfold commandRow
  split
  · exact .refl _
  · split
    · next running => exact hp running
    · split
      · exact .refl _
      · refine takeWord_lasts ?_ w hb ?_
        · simp -implicitDefEqProofs
        · simpa -implicitDefEqProofs using h (startBox (atTide s now) w)

theorem plainRow_steady {op : Nat} {mb : Fin 16} {seq : Byte} {irq : Bool} {now : Nat} {s : State} {body : State → Answer}
    (hp : (boxOf s mb).state = 1 → p) (h : ∀ t, (body t).Lasts t.lasting) : Steady p s.lasting (plainRow op mb seq irq now s body) :=
  commandRow_steady hp (fun _ => onlyRefuses_none) h

theorem powerBusy_refuses (t : State) : OnlyRefuses ((transitionBusy t).orElse fun _ => queueFull t) :=
  onlyRefuses_orElse (transitionBusy_refuses t) (queueFull_refuses t)

theorem busyRow_steady {op : Nat} {mb : Fin 16} {seq : Byte} {irq : Bool} {now : Nat} {s : State} {busy : State → Option Answer}
    {body : State → Answer} (hp : (boxOf s mb).state = 1 → p) (hb : ∀ t, OnlyRefuses (busy t)) (h : ∀ t, (body t).Lasts t.lasting) :
    Steady p s.lasting (busyRow op mb seq irq now s busy body) := commandRow_steady hp hb h

/-! What the commands begin or answer. -/

@[simp] theorem telemetrySet_lasts (s : State) (m : Nat) : (telemetrySet s m).Lasts s.lasting := by simp -implicitDefEqProofs [telemetrySet]

@[simp] theorem govSet_lasts (s : State) (m : Nat) : (govSet s m).Lasts s.lasting := by
  simp -implicitDefEqProofs [govSet]

@[simp] theorem meterRead_lasts (s : State) (m : Nat) : (meterRead s m).Lasts s.lasting := by simp -implicitDefEqProofs [meterRead]

@[simp] theorem diagLanes_lasts (s : State) (m : Nat) : (diagLanes s m).Lasts s.lasting := by simp -implicitDefEqProofs [diagLanes]

@[simp] theorem coreResetCmd_lasts (s : State) (m : Nat) : (coreResetCmd s m).Lasts s.lasting := by simp -implicitDefEqProofs [coreResetCmd]

@[simp] theorem fwUpdate_lasts (s : State) (m : Nat) (flashOk : Bool) : (fwUpdate s m flashOk).Lasts s.lasting := by
  simp -implicitDefEqProofs [fwUpdate]

@[simp] theorem lifecycleSet_lasts (s : State) (m : Nat) : (lifecycleSet s m).Lasts s.lasting := by simp -implicitDefEqProofs [lifecycleSet]

@[simp] theorem attest_lasts (s : State) (m : Nat) (ok : Bool) : (attest s m ok).Lasts s.lasting := by
  unfold attest
  dsimp only
  split
  · split
    · trivial
    · exact (answerLasts_okAt _ _ _).mpr (.refl _)
  · exact (answerLasts_okAt _ _ _).mpr (.refl _)
  · exact (answerLasts_okAt _ _ _).mpr (.refl _)
  · exact (answerLasts_okAt _ _ _).mpr (.refl _)
  · trivial

@[simp] theorem powerStateCmd_lasts (s : State) (m : Nat) : (powerStateCmd s m).Lasts s.lasting := by
  simp -implicitDefEqProofs [powerStateCmd]

@[simp] theorem jobLoad_lasts (s : State) (m : Nat) (reload : Bool) : (jobLoad s m reload).Lasts s.lasting := by
  simp -implicitDefEqProofs [jobLoad]
  intros
  split <;> simp -implicitDefEqProofs

@[simp] theorem armCmd_lasts (s : State) (m : Nat) (spare : Bool) : (armCmd s m spare).Lasts s.lasting := by
  unfold armCmd
  split
  · trivial
  · split
    · trivial
    · split <;> simp -implicitDefEqProofs

@[simp] theorem jobStart_lasts (s : State) (m : Nat) : (jobStart s m).Lasts s.lasting := by simp -implicitDefEqProofs [jobStart]

@[simp] theorem jobHalt_lasts (s : State) (m : Nat) : (jobHalt s m).Lasts s.lasting := by simp -implicitDefEqProofs [jobHalt]

@[simp] theorem reshardCmd_lasts (s : State) (m : Nat) : (reshardCmd s m).Lasts s.lasting := by simp -implicitDefEqProofs [reshardCmd]

@[simp] theorem commitResume_lasts (s : State) (m : Nat) : (commitResume s m).Lasts s.lasting := by
  simp -implicitDefEqProofs [commitResume]

@[simp] theorem tideRole_lasts (s : State) (m : Nat) : (tideRole s m).Lasts s.lasting := by simp -implicitDefEqProofs [tideRole]

@[simp] theorem tempoSet_lasts (s : State) (m : Nat) : (tempoSet s m).Lasts s.lasting := by simp -implicitDefEqProofs [tempoSet]

@[simp] theorem diagProgram_lasts (s : State) (m : Nat) : (diagProgram s m).Lasts s.lasting := by
  simp -implicitDefEqProofs [diagProgram]
  intros
  split <;> simp -implicitDefEqProofs

@[simp] theorem harbourConfig_lasts (s : State) (m : Nat) : (harbourConfig s m).Lasts s.lasting := by
  simp -implicitDefEqProofs [harbourConfig]

theorem inSlot_lasts {s : State} (hs : x.Lasts s.lasting) (m : Nat) (y : Session) : (inSlot s m y).Lasts x := by
  unfold inSlot
  split
  · simp -implicitDefEqProofs [openSession, hs]
  · trivial

@[simp] theorem sessionOpen_lasts (s : State) (m : Nat) : (sessionOpen s m).Lasts s.lasting := by
  unfold sessionOpen
  dsimp only
  split
  · trivial
  · exact inSlot_lasts (.refl _) _ _

@[simp] theorem sessionClose_lasts (s : State) (m : Nat) : (sessionClose s m).Lasts s.lasting := by
  unfold sessionClose
  dsimp only
  (repeat' split) <;> simp -implicitDefEqProofs

@[simp] theorem stateSessionCmd_lasts (s : State) (m kind : Nat) : (stateSessionCmd s m kind).Lasts s.lasting := by
  unfold stateSessionCmd
  split
  · trivial
  · split
    · trivial
    · rw [answerLasts_ite]
      split
      · trivial
      · exact inSlot_lasts (by simp -implicitDefEqProofs) _ _

end

end Sys2Proof.Machine
end

section
/-! SUPPORT. The stash, the writes of registers and windows, and each command: what lasts is kept. -/

namespace Sys2Proof.Machine

open Sys2Proof

/-! A stash write (R193–R196). -/

section
variable {x : Lasting}

@[simp] theorem stashRead_lasting (a : StashAcc) (p n : Nat) : (stashRead a p n).1.st.lasting = a.st.lasting := by
  unfold stashRead
  split
  · exact readRange_lasting _ _ _ _
  · rfl

@[simp] theorem stashPut_lasts {a : StashAcc} (h : x.Lasts a.st.lasting) (p : Nat) (bs : List Byte) : x.Lasts (stashPut a p bs).st.lasting := by
  unfold stashPut
  split
  · exact writeLines_lasts h _ _ _
  · exact h

@[simp] theorem stashAllocate_lasts {a : StashAcc} (h : x.Lasts a.st.lasting) (hdr len : Nat) :
    x.Lasts (stashAllocate a hdr len).1.st.lasting := by
  unfold stashAllocate
  dsimp only
  split <;> simp -implicitDefEqProofs [h]

@[simp] theorem stashDepth_lasting (a : StashAcc) (prev : Nat) : (stashDepth a prev).1.st.lasting = a.st.lasting := by
  unfold stashDepth
  split
  · rfl
  · dsimp only
    split
    · simp -implicitDefEqProofs
    · split
      · split <;> simp -implicitDefEqProofs
      · simp -implicitDefEqProofs

@[simp] theorem stashSkipHeader_lasts {a : StashAcc} (h : x.Lasts a.st.lasting) (hdr : Nat) (lost : Bool) :
    x.Lasts (stashSkipHeader a hdr lost).st.lasting := by
  simp -implicitDefEqProofs [stashSkipHeader, h]

@[simp] theorem stashWrite_lasts {s : State} (h : x.Lasts s.lasting) (recA : Nat) (data : List Byte) :
    x.Lasts (stashWrite s recA data).1.st.lasting := by
  unfold stashWrite
  dsimp only
  split
  · split <;> simp -implicitDefEqProofs [h]
  · have allocated := stashAllocate_lasts (x := x) (a := (stashRead ⟨s, false⟩ recA 128).1)
      (by simp -implicitDefEqProofs [h]) (bNat (stashRead ⟨s, false⟩ recA 128).2 32 8 / 64 * 64) data.length
    split
    · next e => rw [e] at allocated; simp -implicitDefEqProofs [show x.Lasts _ from allocated]
    · next e => rw [e] at allocated; simp -implicitDefEqProofs [show x.Lasts _ from allocated]

end

/-! Writes of registers and windows. -/

section
variable {p : Prop} {x : Lasting} {s : State}

theorem supWrite_steady (hp : p) (hs : x.Lasts s.lasting) (o : Nat) (bs : List Byte) : Steady p x (supWrite s o bs) := by
  simp -implicitDefEqProofs [supWrite, hs, hp]

theorem physWrite_steady (hp : p) (hs : x.Lasts s.lasting) (a : Nat) (bs : List Byte) (gap : Bool) : Steady p x (physWrite s a bs gap) := by
  simp -implicitDefEqProofs [physWrite, sramPut, supWrite_steady, hs, hp]

theorem winWrite_steady (hp : p) (hs : x.Lasts s.lasting) (off : Nat) (bs : List Byte) (gap : Bool) : Steady p x (winWrite s off bs gap) :=
  physWrite_steady hp (by simp -implicitDefEqProofs [hs]) _ _ _

end

/-! The commands of the mailboxes: their answer is that of their body. -/

section
variable {p : Prop} {mb : Fin 16} {s : State} (hp : (boxOf s mb).state = 1 → p) (seq : Byte) (irq : Bool) (now : Nat)

include hp

@[simp] theorem execIdentify_steady : Steady p s.lasting (execIdentify mb seq irq now s) := by
  simp -implicitDefEqProofs [execIdentify, plainRow_steady hp]

@[simp] theorem execStatus_steady : Steady p s.lasting (execStatus mb seq irq now s) := by
  simp -implicitDefEqProofs [execStatus, plainRow_steady hp]

@[simp] theorem execTelemetry_steady : Steady p s.lasting (execTelemetry mb seq irq now s) := by
  simp -implicitDefEqProofs [execTelemetry, plainRow_steady hp]

@[simp] theorem execTelemetrySet_steady : Steady p s.lasting (execTelemetrySet mb seq irq now s) := by
  simp -implicitDefEqProofs [execTelemetrySet, plainRow_steady hp]

@[simp] theorem execGovSet_steady : Steady p s.lasting (execGovSet mb seq irq now s) := by
  simp -implicitDefEqProofs [execGovSet, busyRow_steady hp]

@[simp] theorem execRampToFloor_steady : Steady p s.lasting (execRampToFloor mb seq irq now s) := by
  simp -implicitDefEqProofs [execRampToFloor, busyRow_steady hp]

@[simp] theorem execMeterRead_steady : Steady p s.lasting (execMeterRead mb seq irq now s) := by
  simp -implicitDefEqProofs [execMeterRead, plainRow_steady hp]

@[simp] theorem execResetCause_steady : Steady p s.lasting (execResetCause mb seq irq now s) := by
  simp -implicitDefEqProofs [execResetCause, plainRow_steady hp]

@[simp] theorem execThermalStatus_steady : Steady p s.lasting (execThermalStatus mb seq irq now s) := by
  simp -implicitDefEqProofs [execThermalStatus, plainRow_steady hp]

@[simp] theorem execIsolateStraits_steady : Steady p s.lasting (execIsolateStraits mb seq irq now s) := by
  simp -implicitDefEqProofs [execIsolateStraits, plainRow_steady hp]

@[simp] theorem execSystemReset_steady : Steady p s.lasting (execSystemReset mb seq irq now s) := by
  simp -implicitDefEqProofs [execSystemReset, plainRow_steady hp]

@[simp] theorem execWake_steady : Steady p s.lasting (execWake mb seq irq now s) := by
  simp -implicitDefEqProofs [execWake, plainRow_steady hp]

@[simp] theorem execDiagLanes_steady : Steady p s.lasting (execDiagLanes mb seq irq now s) := by
  simp -implicitDefEqProofs [execDiagLanes, plainRow_steady hp]

@[simp] theorem execDiagEcc_steady : Steady p s.lasting (execDiagEcc mb seq irq now s) := by
  simp -implicitDefEqProofs [execDiagEcc, plainRow_steady hp]

@[simp] theorem execCoreReset_steady : Steady p s.lasting (execCoreReset mb seq irq now s) := by
  simp -implicitDefEqProofs [execCoreReset, plainRow_steady hp]

@[simp] theorem execFwUpdate_steady (flashOk : Bool) : Steady p s.lasting (execFwUpdate mb seq irq now flashOk s) := by
  simp -implicitDefEqProofs [execFwUpdate, plainRow_steady hp]

@[simp] theorem execLifecycleSet_steady : Steady p s.lasting (execLifecycleSet mb seq irq now s) := by
  simp -implicitDefEqProofs [execLifecycleSet, plainRow_steady hp]

@[simp] theorem execAttest_steady (meterOk : Bool) : Steady p s.lasting (execAttest mb seq irq now meterOk s) := by
  simp -implicitDefEqProofs [execAttest, plainRow_steady hp]

@[simp] theorem execJobLoad_steady : Steady p s.lasting (execJobLoad mb seq irq now s) := by
  simp -implicitDefEqProofs [execJobLoad, busyRow_steady hp]

@[simp] theorem execJobReload_steady : Steady p s.lasting (execJobReload mb seq irq now s) := by
  simp -implicitDefEqProofs [execJobReload, busyRow_steady hp]

@[simp] theorem execJobArm_steady : Steady p s.lasting (execJobArm mb seq irq now s) := by
  simp -implicitDefEqProofs [execJobArm, busyRow_steady hp]

@[simp] theorem execSpareAdopt_steady : Steady p s.lasting (execSpareAdopt mb seq irq now s) := by
  simp -implicitDefEqProofs [execSpareAdopt, busyRow_steady hp]

@[simp] theorem execJobStart_steady : Steady p s.lasting (execJobStart mb seq irq now s) := by
  simp -implicitDefEqProofs [execJobStart, busyRow_steady hp]

@[simp] theorem execJobHalt_steady : Steady p s.lasting (execJobHalt mb seq irq now s) := by
  simp -implicitDefEqProofs [execJobHalt, plainRow_steady hp]

@[simp] theorem execJobRelease_steady : Steady p s.lasting (execJobRelease mb seq irq now s) := by
  simp -implicitDefEqProofs [execJobRelease, busyRow_steady hp]

@[simp] theorem execReshard_steady : Steady p s.lasting (execReshard mb seq irq now s) := by
  simp -implicitDefEqProofs [execReshard, plainRow_steady hp]

@[simp] theorem execCommitResume_steady : Steady p s.lasting (execCommitResume mb seq irq now s) := by
  simp -implicitDefEqProofs [execCommitResume, plainRow_steady hp]

@[simp] theorem execTideRole_steady : Steady p s.lasting (execTideRole mb seq irq now s) := by
  simp -implicitDefEqProofs [execTideRole, plainRow_steady hp]

@[simp] theorem execTempoSet_steady : Steady p s.lasting (execTempoSet mb seq irq now s) := by
  simp -implicitDefEqProofs [execTempoSet, busyRow_steady hp]

@[simp] theorem execPowerState_steady : Steady p s.lasting (execPowerState mb seq irq now s) :=
  busyRow_steady hp powerBusy_refuses fun t => powerStateCmd_lasts t mb

@[simp] theorem execDiagProgram_steady : Steady p s.lasting (execDiagProgram mb seq irq now s) := by
  simp -implicitDefEqProofs [execDiagProgram, plainRow_steady hp]

@[simp] theorem execHarbourConfig_steady : Steady p s.lasting (execHarbourConfig mb seq irq now s) := by
  simp -implicitDefEqProofs [execHarbourConfig, busyRow_steady hp]

@[simp] theorem execSessionOpen_steady : Steady p s.lasting (execSessionOpen mb seq irq now s) := by
  simp -implicitDefEqProofs [execSessionOpen, busyRow_steady hp]

@[simp] theorem execSessionClose_steady : Steady p s.lasting (execSessionClose mb seq irq now s) := by
  simp -implicitDefEqProofs [execSessionClose, plainRow_steady hp]

@[simp] theorem execCheckpoint_steady : Steady p s.lasting (execCheckpoint mb seq irq now s) := by
  simp -implicitDefEqProofs [execCheckpoint, busyRow_steady hp]

@[simp] theorem execRestore_steady : Steady p s.lasting (execRestore mb seq irq now s) := by
  simp -implicitDefEqProofs [execRestore, busyRow_steady hp]

end

/-! The rows whose proof has a case of its own; the others are unfolded in `exec_steady`. -/

section
variable {p : Prop}

@[simp] theorem execKStepUpdate_steady (c : Fin 576) (s : State) : Steady p s.lasting (execKStepUpdate c s) := by
  unfold execKStepUpdate
  dsimp only
  (repeat' split) <;> simp -implicitDefEqProofs

@[simp] theorem execDrainEnd_steady (c : Fin 576) (s : State) : Steady p s.lasting (execDrainEnd c s) := by
  unfold execDrainEnd
  split <;> simp -implicitDefEqProofs

theorem wf_putLine {m : Memory} (h : m.wf = true) (a : Nat) (bs : List Byte) : (putLine m a bs).wf = true := by
  obtain ⟨data, acc⟩ := Bool.and_eq_true_iff.mp h
  exact Bool.and_eq_true_iff.mpr ⟨memWf_memWrite _ _ _ data, acc⟩

@[simp] theorem execEccWriteBack_steady (i : Fin 24) (s : State) : Steady p s.lasting (execEccWriteBack i s) := by
  unfold execEccWriteBack
  split
  · exact .refl _
  · exact steady_when_of (.refl _) (lasts_of_write (.refl _) rfl rfl fun wf => wf_putLine wf _ _)

@[simp] theorem execArenaOpen_steady (i : Fin 24) (now : Nat) (s : State) : Steady p s.lasting (execArenaOpen i now s) := by
  unfold execArenaOpen
  split <;> simp -implicitDefEqProofs

theorem execArenaOpened_steady (hp : p) (i : Fin 24) (s : State) : Steady p s.lasting (execArenaOpened i s) := by
  unfold execArenaOpened
  split
  · exact .refl _
  · dsimp only
    split
    · exact feedParked_steady hp (by split <;> simp -implicitDefEqProofs) _ _
    · exact .refl _

@[simp] theorem execBarrierArrival_steady (c : Fin 576) (now : Nat) (s : State) : Steady p s.lasting (execBarrierArrival c now s) := by
  unfold execBarrierArrival
  split <;> simp -implicitDefEqProofs

@[simp] theorem execPodReleaseAdd_steady (i : Fin 8) (now : Nat) (s : State) : Steady p s.lasting (execPodReleaseAdd i now s) := by
  unfold execPodReleaseAdd
  dsimp only
  (repeat' split) <;> simp -implicitDefEqProofs

theorem execContributionAccept_steady (hp : p) (i : Fin 24) (src : Nat) (accUpsets : List Nat) (s : State) :
    Steady p s.lasting (execContributionAccept i src accUpsets s) := by
  unfold execContributionAccept
  split
  · exact .refl _
  · simp -implicitDefEqProofs [takeHead_steady hp]

theorem execParkWaitRelease_steady (hp : p) (i : Fin 24) (s : State) : Steady p s.lasting (execParkWaitRelease i s) := by
  unfold execParkWaitRelease
  split
  · exact .refl _
  · simp -implicitDefEqProofs [takeHead_steady hp]

theorem execData_steady (hp : p) (port : Fin 8) (f : Frame) (now : Nat) (s : State) : Steady p s.lasting (execData port f now s) :=
  portRow_steady fun t => sequenced_steady hp (by simp -implicitDefEqProofs) _ _

theorem execSignal_steady (hp : p) (port : Fin 8) (f : Frame) (now : Nat) (s : State) : Steady p s.lasting (execSignal port f now s) :=
  portRow_steady fun t => sequenced_steady hp (by simp -implicitDefEqProofs) _ _

@[simp] theorem execAckTimeout_steady (f : Fin 16384 × Option Frame) (now : Nat) (s : State) : Steady p s.lasting (execAckTimeout f now s) := by
  unfold execAckTimeout
  dsimp only
  (repeat' split) <;> simp -implicitDefEqProofs

@[simp] theorem execAckPeriodic_steady (f : Fin 16384) (now : Nat) (s : State) : Steady p s.lasting (execAckPeriodic f now s) := by
  unfold execAckPeriodic
  split <;> simp -implicitDefEqProofs

@[simp] theorem execFrameSend_steady (port : Fin 8) (now : Nat) (s : State) : Steady p s.lasting (execFrameSend port now s) := by
  unfold execFrameSend
  dsimp only
  (repeat' split) <;> simp -implicitDefEqProofs

theorem execFerryWriteSram_steady (hp : p) (c : Fin 576) (s : State) : Steady p s.lasting (execFerryWriteSram c s) := by
  refine ferryRow_steady fun k d dest => ?_
  dsimp only
  split
  · split
    · exact hp
    · next t e =>
      have landed := lasts_of_ok e (landBytes_steady hp (x := s.lasting) (by simp -implicitDefEqProofs) _ _ _)
      simp -implicitDefEqProofs [landed]
  · simp -implicitDefEqProofs

@[simp] theorem execHarbourAck_steady (m : HMsg) (s : State) : Steady p s.lasting (execHarbourAck m s) := by
  unfold execHarbourAck
  split <;> simp -implicitDefEqProofs

@[simp] theorem execHarbourResend_steady (k : Fin 8) (now : Nat) (s : State) : Steady p s.lasting (execHarbourResend k now s) := by
  unfold execHarbourResend
  dsimp only
  (repeat' split) <;> simp -implicitDefEqProofs

@[simp] theorem execStepDone_steady (c : Fin 576) (now : Nat) (s : State) : Steady p s.lasting (execStepDone c now s) := by
  unfold execStepDone
  dsimp only
  (repeat' split) <;> simp -implicitDefEqProofs

@[simp] theorem execStepDecision_steady (now : Nat) (s : State) : Steady p s.lasting (execStepDecision now s) := by
  unfold execStepDecision
  split <;> simp -implicitDefEqProofs

@[simp] theorem execFrameStart_steady (now : Nat) (s : State) : Steady p s.lasting (execFrameStart now s) := by
  unfold execFrameStart
  dsimp only
  (repeat' split) <;> simp -implicitDefEqProofs

@[simp] theorem execIsthmusModuleChangeEnd_steady (k : Fin 4) (m : Fin 16) (now : Nat) (s : State) :
    Steady p s.lasting (execIsthmusModuleChangeEnd k m now s) := by
  unfold execIsthmusModuleChangeEnd
  dsimp only
  (repeat' split) <;> simp -implicitDefEqProofs

@[simp] theorem execRampStart_steady (now : Nat) (s : State) : Steady p s.lasting (execRampStart now s) := by
  unfold execRampStart
  split <;> simp -implicitDefEqProofs

@[simp] theorem execPowerEntryDone_steady (now : Nat) (s : State) : Steady p s.lasting (execPowerEntryDone now s) := by
  unfold execPowerEntryDone
  split <;> simp -implicitDefEqProofs

@[simp] theorem execThermalTrip_steady (temps : List (BitVec 16)) (now : Nat) (s : State) :
    Steady p s.lasting (execThermalTrip temps now s) := by
  simp -implicitDefEqProofs [execThermalTrip]

@[simp] theorem execFlashReadDone_steady (readOk : Bool) (s : State) : Steady p s.lasting (execFlashReadDone readOk s) := by
  refine steady_when_of (.refl _) ?_
  split <;> simp -implicitDefEqProofs

@[simp] theorem execAwaitHostTimeout_steady (s : State) : Steady p s.lasting (execAwaitHostTimeout s) :=
  steady_when_of (.refl _) (.refl _)

@[simp] theorem execPcieLinkUp_steady (s : State) : Steady p s.lasting (execPcieLinkUp s) :=
  steady_when_of (.refl _) (.refl _)

@[simp] theorem execDebugHalt_steady (op : DebugOp) (core : Option (Fin 576)) (s : State) : Steady p s.lasting (execDebugHalt op core s) := by
  unfold execDebugHalt
  split <;> simp -implicitDefEqProofs

theorem execUnknownCommand_steady {mb : Fin 16} {s : State} (hp : (boxOf s mb).state = 1 → p) (op : BitVec 16) (seq : Byte) (irq : Bool)
    (now : Nat) : Steady p s.lasting (execUnknownCommand mb op seq irq now s) := by
  unfold execUnknownCommand
  split
  · exact .refl _
  · exact commandRow_steady hp (fun _ => onlyRefuses_none) fun _ => .refl _

@[simp] theorem execCommandComplete_steady (mb : Fin 16) (now : Nat) (s : State) : Steady p s.lasting (execCommandComplete mb now s) := by
  unfold execCommandComplete
  dsimp only
  (repeat' split) <;> simp -implicitDefEqProofs

@[simp] theorem execSettingNotice_steady (energy rtc : Nat) (s : State) : Steady p s.lasting (execSettingNotice energy rtc s) := by
  unfold execSettingNotice
  split <;> simp -implicitDefEqProofs

@[simp] theorem execIdentCheckTimeout_steady (now : Nat) (s : State) : Steady p s.lasting (execIdentCheckTimeout now s) := by
  unfold execIdentCheckTimeout
  split <;> simp -implicitDefEqProofs

theorem execWindowWrite_steady (hp : p) (off : Fin 0x400000) (bytes : List Byte × Bool) (now : Nat) (s : State) :
    Steady p s.lasting (execWindowWrite off bytes now s) := by
  simp -implicitDefEqProofs [execWindowWrite, winWrite_steady hp]

theorem execFlowContextWrite_steady (hp : p) (off : Fin 0x100000) (bytes : List Byte) (now : Nat) (s : State) :
    Steady p s.lasting (execFlowContextWrite off bytes now s) := by
  simp -implicitDefEqProofs [execFlowContextWrite, supWrite_steady hp]

theorem execSemSub_steady (hp : p) (a : SameCycle) (s : State) : Steady p s.lasting (execSemSub a s) :=
  seqRow_steady (.refl _) fun k w => steady_thenDo (semSubEff_steady hp (by simp -implicitDefEqProofs) _ _) fun t ht =>
    cycleStarts_steady hp ht fun _ => rfl

theorem execSemWaitWake_steady (hp : p) (a : SameCycle) (s : State) : Steady p s.lasting (execSemWaitWake a s) := by
  refine wakeRow_steady (.refl _) fun k w => ?_
  split
  · exact cycleStarts_steady hp (by simp -implicitDefEqProofs) fun t => by simp -implicitDefEqProofs
  · exact steady_thenDo (cycleStarts_steady hp (by simp -implicitDefEqProofs) fun _ => rfl) fun t ht => by simp -implicitDefEqProofs [ht]

/-! The commands of the mailboxes whose answer is that of their body. -/

@[simp] theorem execWipeWritePassDone_steady (i : Fin 24) (s : State) : Steady p s.lasting (execWipeWritePassDone i s) := by
  have zeroed : s.memory.wf = true → _ := wf_filter s.memory fun c => stackIdx c.1 != i.val
  refine steady_when_of (.refl _) (lasts_of_ite ?_ ?_)
  · exact lasts_of_write (.refl _) rfl rfl zeroed
  · exact lasts_of_write (.refl _) rfl rfl zeroed

@[simp] theorem execWipeVerifyDone_steady (i : Fin 24) (upsets : List Upset) (s : State) :
    Steady p s.lasting (execWipeVerifyDone i upsets s) := by
  have checked (lines : List Nat) : (modStack (lines.foldl (fun t a =>
      let ue := (decodeLine (memRead t.memory.data a 64) (tblGet [] t.memory.upset a)).2.2
      let u := (readLine t a .host).1
      if ue then { u with memory := { u.memory with ueSeen := true } } else u)
      (addUpsets s (upsets.filter fun u => stackIdx u.addr = i.val))) i fun k => { k with readAll := true }).lasting = s.lasting := by
    rw [modStack_lasting, foldl_lasting, addUpsets_lasting]
    intro t a
    dsimp only
    split <;> simp -implicitDefEqProofs
  refine steady_when_of (.refl _) (lasts_of_ite ?_ ?_)
  · exact (congrArg _ (checked _)).mpr (.refl _)
  · exact (congrArg _ (checked _)).mpr (.refl _)

/-! The meter's own rows. -/

@[simp] theorem execTimeNotice_steady (ptp rtc : Nat) (s : State) : Steady p s.lasting (execTimeNotice ptp rtc s) :=
  steady_when_of (.refl _) (setMeter_lasts (.refl _) fun _ => ⟨le_rfl, le_rfl, le_max_left _ _⟩)

@[simp] theorem execMtIntervalWrite_steady (minutes energy rtc peakW : Nat) (s : State) :
    Steady p s.lasting (execMtIntervalWrite minutes energy rtc peakW s) := by
  simp -implicitDefEqProofs [execMtIntervalWrite]

@[simp] theorem execSealEvent_steady (selfCheck : Bool) (addr value energy rtc : Nat) (s : State) :
    Steady p s.lasting (execSealEvent selfCheck addr value energy rtc s) := by
  simp -implicitDefEqProofs [execSealEvent]

@[simp] theorem execRtcStore_steady (rtc : Nat) (s : State) : Steady p s.lasting (execRtcStore rtc s) :=
  setMeter_lasts (.refl _) fun _ => ⟨le_rfl, le_rfl, le_max_left _ _⟩

@[simp] theorem execMtEnergyCopy_steady (energy : BitVec 64) (s : State) : Steady p s.lasting (execMtEnergyCopy energy s) :=
  steady_when_of (.refl _) ⟨rfl, le_max_left _ _, le_rfl, le_rfl, id⟩

@[simp] theorem execFastPowerFrame_steady (frame : List Byte × Bool × Bool) (work : PowerWork) (s : State) :
    Steady p s.lasting (execFastPowerFrame frame work s) := by
  simp -implicitDefEqProofs [execFastPowerFrame]

@[simp] theorem execLifecycleChangeReset_steady (now : Nat) (s : State) : Steady p s.lasting (execLifecycleChangeReset now s) := by
  unfold execLifecycleChangeReset
  split <;> simp -implicitDefEqProofs

/-! A word of MB_CMD, and the writes of the BAR0 map. -/

theorem issue_steady (s : State) (mb : Fin 16) (word now : Nat) : Steady True s.lasting (issue s mb word now) := by
  have freed : (useFree s).lasting = s.lasting := useFree_lasting s
  unfold issue
  dsimp only
  split
  case h_3 => rw [← freed]; exact execFwUpdate_steady (fun _ => trivial) _ _ _ _
  case h_5 => rw [← freed]; exact execAttest_steady (fun _ => trivial) _ _ _ _
  all_goals simp -implicitDefEqProofs [execUnknownCommand_steady]

theorem boxWrite_steady (s : State) (m o : Nat) (bs : List Byte) (now : Nat) : Steady True s.lasting (boxWrite s m o bs now) := by
  have stored (c : Prop) [Decidable c] : (if c then s else modBox s m fun b => boxParams b o bs).lasting = s.lasting := by
    split
    · rfl
    · exact modBox_lasting ..
  unfold boxWrite
  dsimp only
  split
  · trivial
  · split
    · have issued := issue_steady (if o + bs.length ≤ 0x40 ∨ 0x800 ≤ o then s else modBox s m fun b => boxParams b o bs)
        (Fin.ofNat 16 m) (mergedWord (boxOf s m) o bs) now
      rwa [stored] at issued
    · rw [steady_next, stored]
      exact .refl _

theorem regWrite_steady (s : State) (w : Writer) (off : Nat) (bs : List Byte) (hw : Option Reg) (now : Nat) :
    Steady True s.lasting (regWrite s w off bs hw now) := by
  simp -implicitDefEqProofs [regWrite, boxWrite_steady]

theorem mapWrite_steady (s : State) (w : Writer) (off : Nat) (bs : List Byte) (hw : Option Reg) (now : Nat) :
    Steady True s.lasting (mapWrite s w off bs hw now) := by
  simp -implicitDefEqProofs [mapWrite, regWrite_steady, winWrite_steady]

theorem execRegisterWrite_steady (off : Fin 0xC00000) (bytes : List Byte) (hw : Option Reg) (now : Nat) (s : State) :
    Steady True s.lasting (execRegisterWrite off bytes hw now s) := by
  have written := regWrite_steady (atTide s now) .bar0 off bytes hw now
  rw [atTide_lasting] at written
  simp -implicitDefEqProofs [execRegisterWrite, written]

theorem execJtagBusacc_steady (write : Bool) (off : Fin 0x1000000) (len : Nat) (bytes : List Byte) (cycle : Option Reg × List Byte × Nat)
    (s : State) : Steady True s.lasting (execJtagBusacc write off len bytes cycle s) := by
  have selected : (selectBusacc (atTide s cycle.2.2)).lasting = s.lasting := by simp -implicitDefEqProofs
  unfold execJtagBusacc
  dsimp only
  rw [← selected]
  split
  · exact .refl _
  · refine steady_thenDo ?_ fun u hu => ?_
    · split
      · exact mapWrite_steady _ _ _ _ _ _
      · simp -implicitDefEqProofs
    · split
      · exact (mapWrite_steady u _ _ _ _ _).since hu
      · exact mapRead_lasts hu _ _

end

/-! Every command. -/

/-- Where a command can fault: at a write of a mailbox whose command runs, or in one of the other undefined cases (Table 0-5). -/
def MayFault (c : Instr) (s : State) : Prop :=
  match undefinedFor c with
  | .never => False
  | .inMailbox m => (boxOf s m).state = 1
  | .possible => True

/-- What lasts from before a command: all of it, but that the RTC of a meter that starts goes on from its stored value (R415). -/
def lastingBefore (c : Instr) (s : State) : Lasting :=
  match c with
  | .meterStart _ _ => { s.lasting with rtc := 0 }
  | _ => s.lasting

theorem execMeterStart_steady {p : Prop} (gapS energy : Nat) (s : State) :
    Steady p { s.lasting with rtc := 0 } (execMeterStart gapS energy s) := by
  refine append_lasts ?_ _ _
  exact ⟨rfl, le_max_left _ _, le_rfl, Nat.zero_le _, id⟩

/-- Whatever the command, what lasts is kept, and it faults only where it may. -/
theorem exec_steady (c : Instr) (s : State) : Steady (MayFault c s) (lastingBefore c s) (exec c s) := by
  cases c
  case meterStart gapS energy => exact execMeterStart_steady gapS energy s
  case registerWrite => exact execRegisterWrite_steady _ _ _ _ s
  case jtagBusacc => exact execJtagBusacc_steady _ _ _ _ _ s
  all_goals
    simp -implicitDefEqProofs [exec, MayFault, lastingBefore, undefinedFor, execMultiplyAccumulate, execMatrixDrain, execHandoff,
      execLayout, execMatrixTableLoad, execClause, execClauseTableLoad, execMerge,
      execPatrolScrub, execStackFailure, execWipeSramDone, execStackTrainingDone, execDigestSnapDone, execNop, execSemWait,
      execFlagSet, execFlagClear, execFlagWait, execFlagWaitWake, execIssue, execIssueQueueAccept,
      execTideArm, execJump, execLoopSet, execLoopBack, execFence, execFenceRelease, execBarrier, execStepEnd, execHalt, execBadCmd,
      execTideTargetReached, execInboundAdd, execBarArrive, execBarArriveResend, execBarRelease, execTempoReq, execTempoReqSend,
      execTempoAnnounce, execScheduleRepeat, execScheduleTempoChange, execScheduleFrameState, execMarker, execMarkerSend, execHoldover,
      execLockedLoss, execLockAcquired, execBackupTakeover, execAck, execNack, execFrameCrcFail, execUnknownFrame, execDescriptorComplete,
      execLoad, execStore, execStashWrite, execPull, execFerryWriteMemory, execRemoteAccumulate, execFerrySignal, execHarbourData,
      execHarbourNack, execHarbourEnd, execHarbourDigest, execHarbourAckPeriodic, execHarbourLinkChange, execPtpMessage,
      execNeighborSolicitation, execIcmpv6Echo, execPortTraining, execPortTrainingRetry, execLaserModuleFault, execPortTrainingDone,
      execFarEndDark, execStraitLaneFail, execLane, execStraitLaneChange, execLaneChangePauseEnd, execUncorrectableCodeword,
      execBadBlockBoundary, execFrameReferenceDelivery, execEvalDeadline, execLedgerDoneMark, execHaltTakesEffect, execReshardFold,
      execReshardFail, execSlotReadyWrite, execIsthmusLaneFail, execIsthmusTrainingDone, execIsthmusFlitReplay, execTideNowLoRead,
      execMtEnergyLoRead, execCfgGenLoRead, execSlotEndedLoRead, execSigNextLoRead, execHarbSessBytesLoRead, execMemCeCntRead,
      execMemUeCntRead, execAccUeCntRead, execPortRetryCntRead, execPortForeignCntRead, execPortUnknownCntRead, execPortFecUeCntRead,
      execHarbDropCntRead, execTideOverrunCntRead, execTideLateRelCntRead, execGovRegisterWrite, execPowerExitDone,
      execWakePin, execVin48OutOfRange, execRefclkLoss, execBootGo, execCoreResetDone, execCoreWatchdogExpiry, execTelemetryRefresh,
      execIdent, execIdentSend, execWindowRead, execCoreFlagsSet, execCoreFlagsClear, execDigestClear, execDigestSnap, execMsixUnmask,
      execDescriptorStart, execSemAdd, execSemWaitSub, execPwrgoodLow, execStandbyLoss, execSysResetNLow, execPerstNAssert,
      execSupervisorWatchdog, execResetRelease, execMeterIntervalRecord, execArenaOpened_steady,
      execContributionAccept_steady, execParkWaitRelease_steady, execData_steady, execSignal_steady, execFerryWriteSram_steady,
      execWindowWrite_steady, execFlowContextWrite_steady, execSemSub_steady, execSemWaitWake_steady, execUnknownCommand_steady,
      handoffEff_steady, landPass_steady, cycleStarts_steady]

/-- What lasts before a command, without what a meter's start may lower. -/
theorem exec_lasts {c : Instr} {s t : State} (run : exec c s = .next t) : (lastingBefore c s).Lasts t.lasting :=
  (exec_steady c s).of_next run

theorem lastingBefore_eq {c : Instr} (s : State) (h : ∀ gap e, c ≠ .meterStart gap e) : lastingBefore c s = s.lasting := by
  unfold lastingBefore
  split
  · exact absurd rfl (h _ _)
  · rfl

theorem lastingBefore_pending (c : Instr) (s : State) : (lastingBefore c s).pending = s.pending := by
  unfold lastingBefore
  split <;> rfl

theorem lastingBefore_wf (c : Instr) (s : State) : (lastingBefore c s).wf = s.memory.wf := by
  unfold lastingBefore
  split <;> rfl

theorem lastingBefore_meter (c : Instr) (s : State) :
    (lastingBefore c s).energy = s.meter.energy ∧ (lastingBefore c s).seqNext = s.meter.seqNext := by
  unfold lastingBefore
  split <;> exact ⟨rfl, rfl⟩

/-- Settles O58: what lasts holds the waiting commands. -/
theorem execKeepsQueue : Obligations.ExecKeepsQueue := fun c s _ run =>
  (exec_lasts run).pending.trans (lastingBefore_pending c s)

/-- Settles O59: what lasts holds MT_ENERGY, SEQ and the RTC. -/
theorem nothingRunsBackwards : Obligations.NothingRunsBackwards := fun c s t run => by
  have kept := exec_lasts run
  obtain ⟨energy, seqNext⟩ := lastingBefore_meter c s
  refine ⟨energy ▸ kept.energy, seqNext ▸ kept.seqNext, fun h => ?_⟩
  rw [lastingBefore_eq s h] at kept
  exact kept.rtc

/-- A step that answers a state keeps the canonical form, whether it runs a command or idles. -/
theorem step_keeps_wf {s t : State} (wf : s.memory.wf = true) (run : step s = .next t) : t.memory.wf = true := by
  unfold step at run
  split at run
  · obtain rfl : idle s = t := by simpa only [Host.Outcome.next.injEq] using run
    exact (idle_lasts (.refl _)).wf wf
  · exact (exec_lasts run).wf ((lastingBefore_wf _ _).trans wf)

/-- Settles O56: what lasts holds the canonical form, and `idle` keeps it too. -/
theorem stepKeepsMemoryWf : Obligations.StepKeepsMemoryWf := fun _ _ wf run => step_keeps_wf wf run

theorem Steady.not_refused {p : Prop} {x : Lasting} {o : Host.Outcome State Fault Refusal} (h : Steady p x o) (r : Refusal) :
    o ≠ .refused r := by
  rintro rfl
  exact h

theorem Steady.answers {p : Prop} {x : Lasting} {o : Host.Outcome State Fault Refusal} (h : Steady p x o) (hp : ¬ p) : ∃ t, o = .next t := by
  cases o with
  | next t => exact ⟨t, rfl⟩
  | fault e => exact absurd h hp
  | refused r => exact absurd h id

/-- Settles O57: no command is refused, and a command faults only where it may. -/
theorem noCommandIsRefused : Obligations.NoCommandIsRefused := by
  refine ⟨fun c s r => (exec_steady c s).not_refused r, fun c s never => (exec_steady c s).answers ?_,
    fun c s m inMailbox idle => (exec_steady c s).answers ?_⟩
  · unfold MayFault
    rw [never]
    exact id
  · unfold MayFault
    rw [inMailbox]
    exact idle

end Sys2Proof.Machine
end

section
/-! SUPPORT. The sequencer's words (02): each row in the cases that Table 2-5 tells apart. -/

namespace Sys2Proof.Machine

open Sys2Proof

/-! What a row that advances, waits or jumps runs to. -/

section
variable {i : Instr} {s : State} {c : Nat} {k : Core}

theorem runs_stepped (h : exec i s = .next (advance s c k)) : Runs i s (Stepped s c k) := runs_of h (advance_stepped s c k)

theorem runs_waiting {w : SeqWait} (h : exec i s = .next (setCore s c (waitCore (coreOf s c) w))) : Runs i s (Waiting s c w) :=
  runs_of h (wait_waiting s c w)

theorem runs_jumped {p : Nat} (h : exec i s = .next (setCore s c (jumpCore s k p))) : Runs i s (Jumped s c k p) :=
  runs_of h (jump_jumped s c k p)

end

theorem seqRuns_on {s : State} {c : Nat} (h : seqRuns s c = true) : coreOn s c = true := by
  unfold seqRuns at h
  simp only [Bool.and_eq_true] at h
  exact h.1.1.1

/-! Flags, loops, the comparator, jumps (R45, R48, R66–R71). -/

/-- Settles O2: each row advances or jumps with the core that its word leaves. -/
theorem sequencerWordsComplete : Obligations.SequencerWordsComplete := by
  refine ⟨fun c s hr hb => ⟨fun ho => ?_, fun ho => ?_, fun ho => ⟨?_, ?_⟩, fun ho => ?_, fun ho => ⟨?_, fun armed => ?_, fun armed => ?_⟩⟩,
    fun c s hr hb => ⟨fun ho => ?_, fun ho more => ?_, fun ho last => ?_⟩⟩
  · exact runs_stepped (show execNop c s = _ from seqRow_runs hr ho hb)
  · exact runs_stepped (show execFlagSet c s = _ from seqRow_runs hr ho hb)
  · exact runs_stepped (show execFlagClear c false s = _ from seqRow_runs hr ho hb)
  · exact runs_stepped (show execFlagClear c true s = _ from seqRow_runs hr ho hb)
  · exact runs_stepped (show execLoopSet c s = _ from seqRow_runs hr ho hb)
  · exact runs_stepped (show execTideArm (c, false) s = _ from seqRow_runs hr ho hb)
  · refine runs_stepped ((show execTideArm (c, true) s = _ from seqRow_runs hr ho hb).trans ?_)
    rw [armed]
    rfl
  · refine runs_stepped ((show execTideArm (c, true) s = _ from seqRow_runs hr ho hb).trans ?_)
    rw [armed]
    rfl
  · exact runs_jumped (show execJump c s = _ from seqRow_runs hr ho hb)
  · exact runs_jumped ((show execLoopBack c s = _ from seqRow_runs hr ho hb).trans (if_pos more))
  · exact runs_stepped ((show execLoopBack c s = _ from seqRow_runs hr ho hb).trans (if_neg (Nat.not_lt.mpr last)))

/-! Semaphores (R62–R65, R82). -/

theorem wfld_lt (w : W64) (lo n : Nat) : wfld w lo n < 2 ^ n := Nat.mod_lt _ (Nat.two_pow_pos n)

/-- A semaphore word that is not bad names one of 48 semaphores, or none (R47). -/
theorem semField_of_good {w : W64} {op : Nat} (ho : opcodeOf w = op) (h1 : 1 ≤ op) (h4 : op ≤ 4) (hb : badWord w = false)
    (h63 : wfld w 50 6 ≠ 63) : wfld w 50 6 < 48 := by
  have field : semFieldOk (wfld w 50 6) = true := by
    unfold badWord at hb
    simp only [ho] at hb
    rw [if_neg (by omega), if_pos ⟨h1, h4⟩] at hb
    simpa using hb
  simpa [semFieldOk, h63] using field

/-- A cycle that starts no descriptor ends with what comes last in it. -/
theorem cycleStarts_none (s : State) (c : Nat) (last : State → State) : cycleStarts s c [] last = .next (last s) := rfl

theorem semAdd_word {k : Core} {m n : Nat} (h : m ≠ 63 → m < 48) : semAdd k m n = if m = 63 then k else
    { k with
      sems := tblSet 0 k.sems m (min 65535 (tblGet 0 k.sems m + n))
      err := if 65535 < tblGet 0 k.sems m + n then k.err ||| 1 else k.err
      flags := if 65535 < tblGet 0 k.sems m + n then k.flags ||| 2 else k.flags } := by
  split
  · next e => exact semAdd_none k m n (by omega)
  · next e => exact semAdd_eq k m n (h e)

/-- SEM_SUB of no more than the semaphore holds. -/
theorem semSubEff_enough {s : State} {c : Nat} {w : W64}
    (h : wfld w 50 6 = 63 ∨ wfld w 0 16 ≤ tblGet 0 (coreOf s c).sems (wfld w 50 6)) :
    semSubEff s c w = .next (advance s c (if wfld w 50 6 = 63 then coreOf s c else { coreOf s c with
      sems := tblSet 0 (coreOf s c).sems (wfld w 50 6) (min 65535 (tblGet 0 (coreOf s c).sems (wfld w 50 6)) - wfld w 0 16) })) := by
  have hn := wfld_lt w 0 16
  unfold semSubEff
  dsimp only
  split
  · rfl
  · next e =>
    have enough : ¬ min 65535 (tblGet 0 (coreOf s c).sems (wfld w 50 6)) < wfld w 0 16 := by omega
    simp only [semCycle_sub, semGet, decide_eq_true_eq, enough, if_false]
    rfl

theorem semSubEff_under {s : State} {c : Nat} {w : W64} (h63 : wfld w 50 6 ≠ 63)
    (h : tblGet 0 (coreOf s c).sems (wfld w 50 6) < wfld w 0 16) : semSubEff s c w = .fault (.semUnderflow (keptOf s)) := by
  have under : min 65535 (tblGet 0 (coreOf s c).sems (wfld w 50 6)) < wfld w 0 16 := by omega
  simp only [semSubEff, h63, semCycle_sub, semGet, decide_eq_true_eq, under, if_true, if_false]
  rfl

/-- SEM_WAIT_SUB of no more than the semaphore holds, and of more. -/
theorem semWaitSubEff_enough {s : State} {c : Nat} {w : W64}
    (h : wfld w 50 6 = 63 ∨ wfld w 0 16 ≤ tblGet 0 (coreOf s c).sems (wfld w 50 6)) :
    semWaitSubEff s c w = advance s c (if wfld w 50 6 = 63 then coreOf s c else { coreOf s c with
      sems := tblSet 0 (coreOf s c).sems (wfld w 50 6) (min 65535 (tblGet 0 (coreOf s c).sems (wfld w 50 6)) - wfld w 0 16) }) := by
  have hn := wfld_lt w 0 16
  unfold semWaitSubEff
  dsimp only
  split
  · rfl
  · next e =>
    have enough : wfld w 0 16 ≤ min 65535 (tblGet 0 (coreOf s c).sems (wfld w 50 6)) := by omega
    simp only [semCycle_waitSub, semGet, decide_eq_true_eq, enough, if_true]
    rfl

theorem semWaitSubEff_short {s : State} {c : Nat} {w : W64} (h63 : wfld w 50 6 ≠ 63)
    (h : tblGet 0 (coreOf s c).sems (wfld w 50 6) < wfld w 0 16) : semWaitSubEff s c w = setCore s c (waitCore (coreOf s c) .sem) := by
  have short : ¬ wfld w 0 16 ≤ min 65535 (tblGet 0 (coreOf s c).sems (wfld w 50 6)) := by omega
  simp only [semWaitSubEff, h63, semCycle_waitSub, semGet, decide_eq_true_eq, short, if_false]

section
variable {s : State} {c : Fin 576}

/-- A SEM_SUB that nothing else shares its cycle with. -/
theorem exec_semSub_alone (hr : seqRuns s c = true) (hb : badWord (curWord (coreOf s c)) = false) (ho : opcodeOf (curWord (coreOf s c)) = 0x02) :
    exec (.semSub (alone c)) s = thenDo (semSubEff s c (curWord (coreOf s c))) .next :=
  (show execSemSub (alone c) s = _ from seqRow_runs hr ho hb)

/-- A SEM_SUB with an add of the inbound ferry, which comes first (R65). -/
theorem exec_semSub_inbound (hr : seqRuns s c = true) (hb : badWord (curWord (coreOf s c)) = false) (ho : opcodeOf (curWord (coreOf s c)) = 0x02) :
    exec (.semSub ⟨c, 1, [], []⟩) s = thenDo (semSubEff (inboundEff s c) c (curWord (coreOf s c))) .next :=
  (show execSemSub ⟨c, 1, [], []⟩ s = _ from seqRow_runs hr ho hb)

theorem inboundEff_on {a : Add} (ha : s.adds.find? (fun a => a.core = c.val) = some a) (hc : coreOn s c = true) :
    inboundEff s c = modCore { s with adds := s.adds.erase a } c fun k => semAdd k a.sem a.n :=
  Host.Outcome.next.inj (exec_inboundAdd_on ha hc)

end

theorem Stepped.sems {s t : State} {c : Nat} {k : Core} (h : Stepped s c k t) : (coreOf t c).sems = k.sems := by
  obtain ⟨-, data, -⟩ := h
  unfold SameData at data
  rw [← data]

theorem advance_sems (s : State) (c : Nat) (k : Core) : (coreOf (advance s c k) c).sems = k.sems := Stepped.sems (advance_stepped s c k)

/-- Settles O3: the words of semaphores, by what `semCycle` makes of one operation. -/
theorem semaphoreWordsComplete : Obligations.SemaphoreWordsComplete := by
  refine ⟨fun c s hb => ⟨fun hr ho => ?_, fun hr ho enough => ?_, fun hr ho enough => ?_, fun hr ho enough => ?_, fun hw ho enough => ?_,
    fun hw ho h63 enough => ?_⟩, fun c s hr ho hb h63 => ⟨fun under => ?_, fun a ha hm h48 enough => ?_⟩⟩
  · refine runs_stepped ((show execSemAdd (alone c) s = _ from seqRow_runs hr ho hb).trans ?_)
    exact congrArg (fun k => Host.Outcome.next (advance s c k)) (semAdd_word (semField_of_good ho (by decide) (by decide) hb))
  · refine runs_stepped ((exec_semSub_alone hr hb ho).trans ?_)
    rw [semSubEff_enough enough]
    rfl
  · refine runs_stepped ((show execSemWait c s = _ from seqRow_runs hr ho hb).trans (if_pos ?_))
    exact (Bool.or_eq_true _ _).mpr (enough.imp decide_eq_true decide_eq_true)
  · refine runs_stepped ((show execSemWaitSub (alone c) s = _ from seqRow_runs hr ho hb).trans ?_)
    exact congrArg Host.Outcome.next (semWaitSubEff_enough enough)
  · refine runs_stepped ((show execSemWaitWake (alone c) s = _ from wakeRow_runs hw).trans ?_)
    have other : ¬ opcodeOf (curWord (coreOf s c)) = 0x04 := by omega
    exact (if_neg other).trans (congrArg Host.Outcome.next ((if_neg other).trans (if_pos enough)))
  · have served := semWaitSubEff_enough (s := s) (c := c) (.inr enough)
    rw [if_neg h63] at served
    refine runs_stepped ((show execSemWaitWake (alone c) s = _ from wakeRow_runs hw).trans ?_)
    exact (if_pos ho).trans (congrArg Host.Outcome.next ((if_pos ho).trans served))
  · rw [exec_semSub_alone hr hb ho, semSubEff_under h63 under]
    rfl
  · have arrived := inboundEff_on ha (seqRuns_on hr)
    have core : coreOf (inboundEff s c) c = semAdd (coreOf s c) a.sem a.n := by
      rw [arrived]
      exact coreOf_modCore_self _ _ _
    have value : tblGet 0 (coreOf (inboundEff s c) c).sems (wfld (curWord (coreOf s c)) 50 6) =
        min 65535 (tblGet 0 (coreOf s c).sems (wfld (curWord (coreOf s c)) 50 6) + a.n) := by
      rw [core, hm, semAdd_eq _ _ _ h48]
      exact tblGet_set_self _ _ _ _
    have subtracted := semSubEff_enough (s := inboundEff s c) (c := c) (.inr (enough.trans_eq value.symm))
    rw [if_neg h63] at subtracted
    refine runs_of ((exec_semSub_inbound hr hb ho).trans ((congrArg (thenDo · .next) subtracted))) ⟨?_, ?_⟩
    · rw [arrived]
      rfl
    · rw [advance_sems, tblGet_set_self, value]
      omega

/-! Flags and fences (R66–R68, R54). -/

/-- A FLAG_WAIT with a set of its flag in the same cycle. -/
theorem flagWaitEff_setToo {s : State} {c : Nat} {k : Core} {w : W64}
    (h : k.flags.getLsbD (wfld w 53 3) = decide (wfld w 51 1 = 1) ∨ wfld w 51 1 = 1) :
    flagWaitEff s c k w true = advance s c (if wfld w 52 1 = 1 then { k with flags := k.flags &&& ~~~(1#8 <<< wfld w 53 3) }
      else { k with flags := k.flags ||| (1#8 <<< wfld w 53 3) }) := by
  have go : flagGet k (wfld w 53 3) = (wfld w 51 1 = 1 : Prop) ∨ true = true ∧ wfld w 51 1 = 1 := by
    rcases h with met | set
    · exact .inl (by rw [eq_iff_iff, flagGet, met, decide_eq_true_eq])
    · exact .inr ⟨rfl, set⟩
  exact if_pos go

theorem fenceEff_idle {s : State} {c : Nat} {k : Core} {w : W64} (h : maskIdle k (wfld w 50 6) = true) : fenceEff s c k w = advance s c k :=
  if_pos h

/-- Settles O4: a row whose condition holds advances, another one waits. -/
theorem waitingWordsWaitAndWake : Obligations.WaitingWordsWaitAndWake := by
  refine ⟨fun c s hb => ⟨fun hr ho => ⟨fun met => ?_, fun metToo => ?_⟩, fun hw => ⟨fun met => ?_, fun metToo => ?_⟩, fun hr ho idle => ?_,
    fun hw idle => ?_⟩, fun c s hr hb => ⟨fun ho h63 short => ?_, fun ho h63 short => ?_, fun ho differs => ?_, fun ho busy => ?_,
    fun ho full => ?_⟩⟩
  · exact runs_stepped ((show execFlagWait (c, false) s = _ from seqRow_runs hr ho hb).trans (congrArg _ (flagWaitEff_met met)))
  · exact runs_stepped ((show execFlagWait (c, true) s = _ from seqRow_runs hr ho hb).trans (congrArg _ (flagWaitEff_setToo metToo)))
  · exact runs_stepped ((show execFlagWaitWake (c, false) s = _ from wakeRow_runs hw).trans (congrArg _ (flagWaitEff_met met)))
  · exact runs_stepped ((show execFlagWaitWake (c, true) s = _ from wakeRow_runs hw).trans (congrArg _ (flagWaitEff_setToo metToo)))
  · exact runs_stepped ((show execFence c s = _ from seqRow_runs hr ho hb).trans (congrArg _ (fenceEff_idle idle)))
  · exact runs_stepped ((show execFenceRelease c s = _ from wakeRow_runs hw).trans (congrArg _ (fenceEff_idle idle)))
  · refine runs_waiting ((show execSemWait c s = _ from seqRow_runs hr ho hb).trans (if_neg ?_))
    exact fun go => ((Bool.or_eq_true _ _).mp go).elim (fun e => h63 (of_decide_eq_true e)) fun e => Nat.not_le.mpr short (of_decide_eq_true e)
  · exact runs_waiting ((show execSemWaitSub (alone c) s = _ from seqRow_runs hr ho hb).trans (congrArg _ (semWaitSubEff_short h63 short)))
  · exact runs_waiting ((show execFlagWait (c, false) s = _ from seqRow_runs hr ho hb).trans (congrArg _ (flagWaitEff_wait differs)))
  · refine runs_waiting ((show execFence c s = _ from seqRow_runs hr ho hb).trans (congrArg _ (if_neg ?_)))
    exact Bool.not_eq_true _ ▸ busy
  · exact runs_waiting ((show execIssue c s = _ from seqRow_runs hr ho hb).trans (congrArg _ (if_neg (Nat.not_lt.mpr full))))

/-! ISSUE (R53–R55). -/

theorem Fetched_touch {k k' : Core} {a n : Nat} (h : Fetched (sramTouch k a n) k') : Fetched k k' := by
  rcases sramTouch_cases k a n with same | ⟨bad, touched⟩
  · rwa [same] at h
  · rw [touched] at h
    refine .inr ⟨bad, ?_⟩
    rcases h with ⟨herr, hflags⟩ | ⟨-, herr, hflags⟩
    · exact ⟨herr, hflags⟩
    · refine ⟨herr.trans ?_, hflags.trans ?_⟩
      · exact congrArg Core.err (coreErr_idem k errSram)
      · exact congrArg Core.flags (coreErr_idem k errSram)

/-- What the core holds once the descriptor of a word is in its engine's queue. -/
def issued (k : Core) (w : W64) : Core :=
  setEngine k (wfld w 53 3) { engineOf k (wfld w 53 3) with queue := (engineOf k (wfld w 53 3)).queue ++ [issueEntry k w] }

theorem issueEff_room {s : State} {c : Nat} {w : W64} (room : (engineOf (coreOf s c) (wfld w 53 3)).queue.length < 8) :
    issueEff s c (coreOf s c) w = advance s c { issued (sramTouch (coreOf s c) (0x600000 + 64 * wfld w 0 12) 64) w with changed := s.tide.now } := by
  refine (if_pos room).trans ?_
  rcases sramTouch_cases (coreOf s c) (0x600000 + 64 * wfld w 0 12) 64 with same | ⟨-, touched⟩
  · rw [same]
    rfl
  · rw [touched]
    rfl

theorem sramTouch_issued (k : Core) (w : W64) (a n now : Nat) :
    SameData (issued k w) { issued (sramTouch k a n) w with changed := now } := by
  rcases sramTouch_cases k a n with same | ⟨-, touched⟩
  · rw [same]
    rfl
  · rw [touched]
    rfl

theorem sramTouch_seq (k : Core) (a n : Nat) : (sramTouch k a n).mode = k.mode ∧ (sramTouch k a n).pc = k.pc := by
  unfold sramTouch
  split <;> exact ⟨rfl, rfl⟩

/-- Settles O5: the queue takes the entry, and the sequencer goes on. -/
theorem issueFillsQueue : Obligations.IssueFillsQueue := by
  intro c s hb k w e g q done room
  have served : done (issueEff s c k w) := by
    rw [issueEff_room room]
    obtain ⟨only, data, fetched, mode, wait, pc⟩ :=
      advance_stepped s c { issued (sramTouch k (0x600000 + 64 * wfld w 0 12) 64) w with changed := s.tide.now }
    obtain ⟨sameMode, samePc⟩ := sramTouch_seq k (0x600000 + 64 * wfld w 0 12) 64
    refine ⟨only, ?_, wait, ?_, fun inner => ?_, mode.trans sameMode⟩
    · exact Fetched_touch fetched
    · exact SameData_trans (sramTouch_issued k w _ _ _) data
    · exact ((if_neg (samePc.trans_lt inner).ne).mp pc).trans (congrArg (· + 1) samePc)
  exact ⟨fun hr ho => runs_of (show execIssue c s = _ from seqRow_runs hr ho hb) served,
    fun hw => runs_of (show execIssueQueueAccept c s = _ from wakeRow_runs hw) served⟩

/-! The last words of a program (R47, R50, R52). -/

theorem coreErr_err_bit (k : Core) (b n : Nat) : (coreErr k b).err.getLsbD n = (k.err.getLsbD n || (decide (n < 32) && decide (n = b))) := by
  have one : (1#32 <<< b).getLsbD n = (decide (n < 32) && decide (n = b)) := by
    by_cases h : n < b
    · simp [h, h.ne]
    · simp [h, show n - b = 0 ↔ n = b by omega]
  rw [← one]
  exact BitVec.getLsbD_or

/-- Settles O6. -/
theorem endingWordsComplete : Obligations.EndingWordsComplete := by
  intro c s hr k w
  refine ⟨fun ho hb => ?_, fun ho hb => ?_, fun bad => ?_⟩
  · exact runs_waiting (show execStepEnd c s = _ from seqRow_runs hr ho hb)
  · obtain ⟨data, fetched, mode, pc⟩ := haltCore_data k
    refine runs_of (show execHalt c s = _ from seqRow_runs hr ho hb) ⟨setCore_onlyCore s c _, ?_⟩
    rw [coreOf_setCore_self]
    exact ⟨data, fetched, mode, pc⟩
  · refine runs_when (show execBadCmd c s = when _ s (badCmdEff s c) from rfl) ((Bool.and_eq_true _ _).mpr ⟨hr, bad⟩)
      ⟨setCore_onlyCore s c _, ?_⟩
    rw [badCmdEff, coreOf_setCore_self]
    rcases fetchTouch_cases k 0 with same | ⟨-, touched⟩
    · rw [same]
      refine ⟨rfl, rfl, rfl, ?_, rfl, fun b h1 h4 => ?_⟩
      · exact (coreErr_err_bit k 1 1).trans (by simp)
      · exact (coreErr_err_bit k 1 b).trans (by simp [h1])
    · rw [touched]
      refine ⟨rfl, rfl, rfl, ?_, ?_, fun b h1 h4 => ?_⟩
      · exact (coreErr_err_bit _ 1 1).trans (by simp)
      · simp [coreErr, BitVec.or_assoc]
      · exact (coreErr_err_bit _ 1 b).trans ((congrArg (· || _) (coreErr_err_bit k 4 b)).trans (by simp [h1, h4]))

end Sys2Proof.Machine
end

section
/-! SUPPORT. Descriptors start and complete (02, R53–R57, R74, R83, R84). -/

namespace Sys2Proof.Machine

open Sys2Proof

/-! One start in a cycle (R65): the two passes over the heads come to the start of the one engine. -/

/-- The engines from number 6 - n on, where engine e is not among them. -/
theorem startHeads_past (c : Nat) (e : Fin 6) (b : Bool) : ∀ (n : Nat) (s : State), e.val < 6 - n → startHeads c [e] b n s = .next s
  | 0, _, _ => rfl
  | n + 1, s, h => by
    have other : ([e].any fun x => x.val = 6 - (n + 1)) = false := by
      simp
      omega
    unfold startHeads
    simp only [other, Bool.false_and, Bool.false_eq_true, if_false]
    exact startHeads_past c e b n s (by omega)

theorem startHeads_one (c : Nat) (e : Fin 6) (b : Bool) : ∀ (n : Nat) (s : State), n ≤ 6 → 6 - n ≤ e.val →
    startHeads c [e] b n s = if headConsumes s c e = b then startHead s c e else .next s
  | 0, s, _, h => by omega
  | n + 1, s, hn, h => by
    unfold startHeads
    by_cases here : e.val = 6 - (n + 1)
    · have rest : ∀ t, startHeads c [e] b n t = .next t := fun t => startHeads_past c e b n t (by omega)
      simp only [List.any_cons, List.any_nil, ← here, decide_true, Bool.true_or, Bool.true_and, decide_eq_true_eq, rest]
      split
      · cases startHead s c e <;> simp [thenDo, rest]
      · rfl
    · have other : ([e].any fun x => x.val = 6 - (n + 1)) = false := by simpa using here
      simp only [other, Bool.false_and, Bool.false_eq_true, if_false]
      exact startHeads_one c e b n s (by omega) (by omega)

/-- An engine that runs a descriptor starts none. -/
theorem startHead_runs {s : State} {c e : Nat} (h : (engineOf (coreOf s c) e).run.isSome = true) : startHead s c e = .next s := by
  unfold startHead
  dsimp only
  split
  · next none => rw [none] at h; exact absurd h (by decide)
  · rfl

/-- A start once a late launch is counted. -/
def startFrom (s : State) (c e : Nat) (q : QEntry) (rest : List QEntry) : Host.Outcome State Fault Refusal :=
  let k := consumeWait (coreOf s c) q
  let x := startCheck s k e q.desc
  let k := sramTouches k x.touch
  if x.bad then .next (setCore s c (coreErr (beginRun k e rest ⟨q, .ready, [], [], []⟩) errDescBad))
  else if !x.inside then undefinedCase .sramRange s
  else if writesClash s c e q.seen x.writes || landsClash s q.seenAbroad x.lands then undefinedCase .writeOverlap s
  else .next (setCore s c (beginRun k e rest ⟨q, if x.idle then .ready else .work, x.writes, x.lands, x.recs⟩))

theorem startEff_eq (s : State) (c e : Nat) (q : QEntry) (rest : List QEntry) :
    startEff s c e q rest = startFrom (if lateLaunch (coreOf s c) q s.tide.now then countLate s c else s) c e q rest := rfl

/-- What a start puts in the core when it does not stop. -/
theorem startFrom_next {s t : State} {c e : Nat} {q : QEntry} {rest : List QEntry} (h : startFrom s c e q rest = .next t) :
    ∃ k, t = setCore s c k ∧ (engineOf k e).queue = rest ∧ (engineOf k e).run.isSome = true ∧ k.lateCnt = (coreOf s c).lateCnt := by
  have late : ∀ rs, (sramTouches (consumeWait (coreOf s c) q) rs).lateCnt = (coreOf s c).lateCnt := by
    intro rs
    have consumed : (consumeWait (coreOf s c) q).lateCnt = (coreOf s c).lateCnt := by
      unfold consumeWait
      split <;> rfl
    rcases sramTouches_cases (consumeWait (coreOf s c) q) rs with same | ⟨-, touched⟩
    · rw [same, consumed]
    · rw [touched]
      exact consumed
  unfold startFrom at h
  dsimp only at h
  split at h
  · refine ⟨_, (Host.Outcome.next.inj h).symm, ?_, ?_, late _⟩ <;> simp [engineOf_coreErr, beginRun]
  · split at h
    · exact absurd h (by simp [undefinedCase])
    · split at h
      · exact absurd h (by simp [undefinedCase])
      · refine ⟨_, (Host.Outcome.next.inj h).symm, ?_, ?_, late _⟩ <;> simp [beginRun]

/-- A start answers the same state, or one in which its engine runs a descriptor. -/
theorem startHead_next {s t : State} {c e : Nat} (h : startHead s c e = .next t) : t = s ∨ (engineOf (coreOf t c) e).run.isSome = true := by
  unfold startHead at h
  dsimp only at h
  split at h
  · split at h
    · obtain ⟨k, rfl, -, runs, -⟩ := startFrom_next (startEff_eq .. ▸ h)
      exact .inr (by rw [coreOf_setCore_self]; exact runs)
    · exact .inl (Host.Outcome.next.inj h).symm
  · exact .inl (Host.Outcome.next.inj h).symm

theorem cycleStarts_one (s : State) (c : Nat) (e : Fin 6) : cycleStarts s c [e] id = startHead s c e := by
  have pass : ∀ b t, startHeads c [e] b 6 t = if headConsumes t c e = b then startHead t c e else .next t :=
    fun b t => startHeads_one c e b 6 t (by omega) (by omega)
  unfold cycleStarts
  rw [pass]
  by_cases consumes : headConsumes s c e = true
  · rw [if_pos consumes]
    match h : startHead s c e with
    | .fault _ => rfl
    | .refused _ => rfl
    | .next t =>
      refine (pass false t).trans ?_
      rcases startHead_next h with rfl | runs
      · rw [if_neg (by simp [consumes])]
      · rw [startHead_runs runs, ite_self]
  · rw [if_neg consumes]
    exact (pass false s).trans (if_pos (Bool.not_eq_true _ ▸ consumes))

theorem exec_descriptorStart (c : Fin 576) (e : Fin 6) (now : Nat) (s : State) :
    exec (.descriptorStart (alone c) e now) s = startHead (atTide s now) c e := cycleStarts_one _ _ _

/-! What a start finds does not depend on the count of late launches. -/

theorem startCheck_congr {s t : State} (k : Core) (e : Nat) (d : Line) (flows : ∀ f, flowOf t f = flowOf s f)
    (features : t.boot.features = s.boot.features) (resetting : ∀ x, coreResetting t x = coreResetting s x) :
    startCheck t k e d = startCheck s k e d := by
  simp only [startCheck, matrixAbsent, drainAbsent, clauseAbsent, ferryBad, ferryLands, feature, flows, features, resetting]

theorem ReportSame.cores {s t : State} (h : ReportSame s t) : t.cores = s.cores := by
  unfold ReportSame at h
  have same := congrArg State.cores h
  exact same

theorem countLate_report (s : State) (c : Nat) :
    ReportSame (modCore s c fun k => { k with lateCnt := (k.lateCnt + 1) % 2 ^ 48 }) (countLate s c) := by
  unfold countLate
  dsimp only
  split
  · exact setSupEvent_report _ _
  · exact .refl _

theorem coreOf_countLate_self (s : State) (c : Nat) : coreOf (countLate s c) c = { coreOf s c with lateCnt := ((coreOf s c).lateCnt + 1) % 2 ^ 48 } :=
  (congrArg (tblGet coreReset · c) (countLate_report s c).cores).trans (coreOf_modCore_self _ _ _)

theorem coreOf_countLate_ne (s : State) {c x : Nat} (h : x ≠ c) : coreOf (countLate s c) x = coreOf s x :=
  (congrArg (tblGet coreReset · x) (countLate_report s c).cores).trans (coreOf_modCore_ne _ _ h)

/-- Every entry of a table that took a value is the value or an entry of the table. -/
theorem mem_tblSet {α : Type} [DecidableEq α] {d : α} {t : Tbl α} {i : Nat} {v : α} {p : Nat × α} (h : p ∈ tblSet d t i v) :
    p = (i, v) ∨ p ∈ t := by
  have ins : ∀ u : Tbl α, p ∈ tblIns u i v → p = (i, v) ∨ p ∈ u := by
    intro u
    induction u with
    | nil => exact fun h => .inl (List.mem_singleton.mp h)
    | cons q u ih =>
      intro h
      unfold tblIns at h
      split at h
      · exact List.mem_cons.mp h
      · rcases List.mem_cons.mp h with rfl | h
        · exact .inr List.mem_cons_self
        · exact (ih h).imp_right (List.mem_cons_of_mem _)
  unfold tblSet at h
  split at h
  · exact .inr (List.mem_of_mem_filter h)
  · exact (ins _ h).imp_right List.mem_of_mem_filter

/-- A value that is not the default is an entry. -/
theorem tblGet_mem {α : Type} {d : α} {i : Nat} : ∀ {t : Tbl α}, tblGet d t i ≠ d → (i, tblGet d t i) ∈ t
  | [], h => absurd rfl h
  | (k, v) :: t, h => by
    rw [tblGet_cons] at h ⊢
    split at h
    · next e => rw [if_pos e, e]; exact List.mem_cons_self
    · next e => rw [if_neg e]; exact List.mem_cons_of_mem _ (tblGet_mem h)

theorem mem_landing {s : State} {c : Nat} {r : Range} : r ∈ landing s c ↔
    ∃ x ∈ s.cores, ∃ run, (engineOf x.2 5).run = some run ∧ (c, r) ∈ run.lands := by
  unfold landing
  rw [List.mem_flatMap]
  refine exists_congr fun x => and_congr_right fun _ => ?_
  cases (engineOf x.2 5).run with
  | none => simp
  | some run => simp

theorem landing_countLate {s : State} {c x : Nat} {r : Range} (h : r ∈ landing (countLate s c) x) : r ∈ landing s x := by
  obtain ⟨y, hy, run, hrun, hr⟩ := mem_landing.mp h
  rw [(countLate_report s c).cores] at hy
  rcases mem_tblSet hy with rfl | hy
  · refine mem_landing.mpr ⟨(c, coreOf s c), tblGet_mem (fun unlisted => ?_), run, hrun, hr⟩
    have idle : (engineOf (coreOf s c) 5).run = none := congrArg (fun k => (engineOf k 5).run) unlisted
    exact absurd (idle.symm.trans hrun) nofun
  · exact mem_landing.mpr ⟨y, hy, run, hrun, hr⟩

theorem clash_iff {ws vs : List Range} : clash ws vs = true ↔ ∃ w ∈ ws, ∃ v ∈ vs, overlap w.1 w.2 v.1 v.2 = true := by simp [clash]

theorem clash_mono {ws vs vs' : List Range} (h : ∀ r, r ∈ vs' → r ∈ vs) (free : clash ws vs = false) : clash ws vs' = false := by
  rw [Bool.eq_false_iff] at *
  intro hit
  obtain ⟨w, hw, v, hv, both⟩ := clash_iff.mp hit
  exact free (clash_iff.mpr ⟨w, hw, v, h v hv, both⟩)

theorem inFlight_countLate (s : State) (c x e : Nat) : inFlight (coreOf (countLate s c) x) e = inFlight (coreOf s x) e := by
  by_cases h : x = c
  · subst h
    rw [coreOf_countLate_self]
    rfl
  · rw [coreOf_countLate_ne s h]

theorem coreResetting_countLate (s : State) (c x : Nat) : coreResetting (countLate s c) x = coreResetting s x := by
  unfold coreResetting
  by_cases h : x = c
  · subst h
    rw [coreOf_countLate_self]
  · rw [coreOf_countLate_ne s h]

theorem writesClash_countLate {s : State} {c x e : Nat} {seen ws : List Range} (free : writesClash s x e seen ws = false) :
    writesClash (countLate s c) x e seen ws = false := by
  unfold writesClash overlapsInFlight at *
  obtain ⟨flight, land⟩ := (Bool.or_eq_false_iff).mp free
  rw [inFlight_countLate, flight, clash_mono (fun _ => landing_countLate) land]
  rfl

theorem landsClash_countLate {s : State} {c : Nat} {seen ls : List (Nat × Nat × Nat)} (free : landsClash s seen ls = false) :
    landsClash (countLate s c) seen ls = false := by
  unfold landsClash at *
  rw [List.any_eq_false] at *
  intro l hl
  rw [writesClash_countLate (Bool.eq_false_iff.mpr (free l hl))]
  exact Bool.false_ne_true

theorem startCheck_countLate (s : State) (c : Nat) (k : Core) (e : Nat) (d : Line) : startCheck (countLate s c) k e d = startCheck s k e d := by
  refine startCheck_congr k e d (fun f => ?_) ?_ (coreResetting_countLate s c)
  · have same := countLate_report s c
    unfold ReportSame at same
    have flow := congrArg (fun t : State => flowOf t f) same
    exact flow
  · exact congrArg (·.features) (countLate_boot s c)

theorem consumeWait_late (k : Core) (q : QEntry) (n : Nat) :
    consumeWait { k with lateCnt := n } q = { consumeWait k q with lateCnt := n } := by
  unfold consumeWait
  split <;> rfl

theorem consumeWait_eq {k : Core} {q : QEntry} (h : q.waitSem = 63 ∨ q.waitN ≤ min 65535 (tblGet 0 k.sems q.waitSem)) :
    consumeWait k q = if q.consume = true ∧ q.waitSem ≠ 63 then
      { k with sems := tblSet 0 k.sems q.waitSem (min 65535 (tblGet 0 k.sems q.waitSem) - q.waitN) } else k := by
  unfold consumeWait
  simp only [Bool.and_eq_true, bne_iff_ne]
  split
  · next c =>
    unfold semPut
    rw [semCycle_wait]
    exact congrArg (fun v => { k with sems := tblSet 0 k.sems q.waitSem v }) (if_pos (h.resolve_left c.2))
  · rfl

theorem startCheck_late (s : State) (k : Core) (n e : Nat) (d : Line) : startCheck s { k with lateCnt := n } e d = startCheck s k e d := rfl

/-- A head whose conditions hold starts, and one whose conditions fail does not (R55). -/
theorem startHead_ready {s : State} {c e : Nat} {q : QEntry} {rest : List QEntry} (hc : coreOn s c = true)
    (hq : engineOf (coreOf s c) e = ⟨q :: rest, none⟩) (ready : startReady (coreOf s c) q s.tide.now = true) :
    startHead s c e = startEff s c e q rest := by
  unfold startHead
  dsimp only
  rw [hq]
  exact if_pos ((Bool.and_eq_true _ _).mpr ⟨hc, ready⟩)

theorem startHead_unready {s : State} {c e : Nat} {q : QEntry} {rest : List QEntry}
    (hq : engineOf (coreOf s c) e = ⟨q :: rest, none⟩) (unready : startReady (coreOf s c) q s.tide.now = false) :
    startHead s c e = .next s := by
  unfold startHead
  dsimp only
  rw [hq]
  exact if_neg (by simp [unready])

section
variable {s : State} {c e : Nat} {q : QEntry} {rest : List QEntry} {k1 : Core} {x : StartCheck}
variable (hk : consumeWait (coreOf s c) q = k1) (hx : startCheck s k1 e q.desc = x)
include hk hx

theorem startFrom_bad (bad : x.bad = true) : startFrom s c e q rest =
    .next (setCore s c (coreErr (setEngine (sramTouches k1 x.touch) e ⟨rest, some ⟨q, .ready, [], [], []⟩⟩) errDescBad)) := by
  subst hk hx
  exact if_pos bad

theorem startFrom_outside (good : x.bad = false) (outside : x.inside = false) : startFrom s c e q rest = .fault (.sramRange (keptOf s)) := by
  subst hk hx
  exact (if_neg (by simp [good])).trans (if_pos (by simp [outside]))

theorem startFrom_clash (good : x.bad = false) (inside : x.inside = true)
    (clashes : (writesClash s c e q.seen x.writes || landsClash s q.seenAbroad x.lands) = true) :
    startFrom s c e q rest = .fault (.writeOverlap (keptOf s)) := by
  subst hk hx
  exact (if_neg (by simp [good])).trans ((if_neg (by simp [inside])).trans (if_pos clashes))

theorem startFrom_go (good : x.bad = false) (inside : x.inside = true)
    (free : (writesClash s c e q.seen x.writes || landsClash s q.seenAbroad x.lands) = false) : startFrom s c e q rest =
    .next (setCore s c (setEngine (sramTouches k1 x.touch) e
      ⟨rest, some ⟨q, if x.idle then .ready else .work, x.writes, x.lands, x.recs⟩⟩)) := by
  subst hk hx
  exact (if_neg (by simp [good])).trans ((if_neg (by simp [inside])).trans (if_neg (by simp [free])))

/-- A start that does not stop. -/
theorem startFrom_runs (go : x.bad = true ∨ (x.inside = true ∧ (writesClash s c e q.seen x.writes || landsClash s q.seenAbroad x.lands) = false)) :
    ∃ t, startFrom s c e q rest = .next t := by
  rcases Bool.eq_false_or_eq_true x.bad with bad | good
  · exact ⟨_, startFrom_bad hk hx bad⟩
  · obtain ⟨inside, free⟩ := go.resolve_left (by simp [good])
    exact ⟨_, startFrom_go hk hx good inside free⟩

end

/-- A late launch stops no descriptor that would start. -/
theorem startFrom_late {s : State} {c e : Nat} {q : QEntry} {rest : List QEntry} {k1 : Core} {x : StartCheck}
    (hk : consumeWait (coreOf s c) q = k1) (hx : startCheck s k1 e q.desc = x)
    (go : x.bad = true ∨ (x.inside = true ∧ (writesClash s c e q.seen x.writes || landsClash s q.seenAbroad x.lands) = false)) :
    ∃ t, startFrom (countLate s c) c e q rest = .next t := by
  refine startFrom_runs (k1 := { k1 with lateCnt := ((coreOf s c).lateCnt + 1) % 2 ^ 48 }) (x := x) ?_ ?_ (go.imp_right fun h => ⟨h.1, ?_⟩)
  · rw [coreOf_countLate_self, consumeWait_late, hk]
  · rw [startCheck_countLate, startCheck_late, hx]
  · obtain ⟨writes, lands⟩ := Bool.or_eq_false_iff.mp h.2
    rw [writesClash_countLate writes, landsClash_countLate lands]
    rfl

/-- Settles O8: the start of the head, by what `startCheck` finds; a late launch changes its count alone. -/
theorem descriptorsStart : Obligations.DescriptorsStart := by
  intro c e now s q rest hc hq
  dsimp only
  have unready : startReady (coreOf s c) q (max s.tide.now now) = false → exec (.descriptorStart (alone c) e now) s = .next (atTide s now) :=
    fun h => (exec_descriptorStart c e now s).trans (startHead_unready hq h)
  refine ⟨fun h63 short => unready ?_, fun g held target early => unready ?_, fun enough reached => ?_⟩
  · rw [Bool.eq_false_iff, ne_eq, startReady_iff]
    exact fun ready => (ready.1.resolve_left h63).not_gt short
  · rw [Bool.eq_false_iff, ne_eq, startReady_iff]
    exact fun ready => (ready.2 g held target).not_gt early
  · have ready : startReady (coreOf s c) q (max s.tide.now now) = true :=
      (startReady_iff _ _ _).mpr ⟨enough.imp_right fun h => h.trans (Nat.min_le_right _ _), reached⟩
    have started : exec (.descriptorStart (alone c) e now) s = startEff (atTide s now) c e q rest :=
      (exec_descriptorStart c e now s).trans (startHead_ready hc hq ready)
    have hk := consumeWait_eq (k := coreOf s c) enough
    refine ⟨fun prompt => ?_, fun late go => ?_⟩
    · have begins : exec (.descriptorStart (alone c) e now) s = startFrom (atTide s now) c e q rest := by
        rw [started, startEff_eq]
        exact congrArg (startFrom · c e q rest) (if_neg (Bool.eq_false_iff.mp prompt))
      refine ⟨fun bad => ?_, fun good outside => ?_, fun good inside clashes => ?_, fun good inside free => ?_⟩
      · exact runs_of (begins.trans (startFrom_bad hk rfl bad)) ⟨setCore_onlyCore _ _ _, coreOf_setCore_self _ _ _⟩
      · exact begins.trans (startFrom_outside hk rfl good outside)
      · exact begins.trans (startFrom_clash hk rfl good inside clashes)
      · exact runs_of (begins.trans (startFrom_go hk rfl good inside free)) ⟨setCore_onlyCore _ _ _, coreOf_setCore_self _ _ _⟩
    · obtain ⟨t, ht⟩ := startFrom_late (s := atTide s now) (rest := rest) hk rfl go
      obtain ⟨k, rfl, queue, runs, count⟩ := startFrom_next ht
      have begins : exec (.descriptorStart (alone c) e now) s = startFrom (countLate (atTide s now) c) c e q rest := by
        rw [started, startEff_eq]
        exact congrArg (startFrom · c e q rest) (if_pos late)
      refine runs_of (begins.trans ht) ?_
      rw [coreOf_setCore_self]
      refine ⟨?_, queue, runs, fun x hx => ?_⟩
      · rw [count, coreOf_countLate_self]
        rfl
      · exact (coreOf_setCore_ne _ _ hx).trans (coreOf_countLate_ne _ hx)

end Sys2Proof.Machine
end

section
/-! SUPPORT. Descriptors complete (02, R56, R62), and what those in flight remember (R83). -/

namespace Sys2Proof.Machine

open Sys2Proof

/-! Cores that agree but for what descriptors in flight remember. -/

theorem coreAgrees_refl (k : Core) : CoreAgrees k k := ⟨rfl, fun _ => rfl⟩

theorem coreAgrees_trans {a b c : Core} (h1 : CoreAgrees a b) (h2 : CoreAgrees b c) : CoreAgrees a c := by
  refine ⟨Eq.trans ?_ h1.1, fun e => (h2.2 e).trans (h1.2 e)⟩
  rw [← h2.1]

/-- A change of what the descriptors of one engine remember. -/
theorem setEngine_agrees {k : Core} {e : Nat} {g : Engine} (h : bareEngine g = bareEngine (engineOf k e)) : CoreAgrees k (setEngine k e g) := by
  refine ⟨rfl, fun x => ?_⟩
  by_cases hx : x = e
  · rw [hx, engineOf_setEngine_self, h]
  · rw [engineOf_setEngine_ne _ _ hx]

theorem bareEngine_see {g : Engine} {f : QEntry → QEntry} (h : ∀ q, { f q with seen := [], seenAbroad := [] } = { q with seen := [], seenAbroad := [] }) :
    bareEngine { g with queue := g.queue.map f, run := g.run.map fun r => { r with entry := f r.entry } } = bareEngine g := by
  unfold bareEngine
  simp only [List.map_map, Option.map_map, Function.comp_def, h]

theorem remember_agrees (e : Nat) (ws : List Range) (k : Core) : CoreAgrees k (remember k e ws) := by
  unfold remember
  generalize List.range 6 = l
  induction l generalizing k with
  | nil => exact coreAgrees_refl k
  | cons g l ih =>
    rw [List.foldl_cons]
    refine coreAgrees_trans ?_ (ih _)
    split
    · exact coreAgrees_refl k
    · exact setEngine_agrees (bareEngine_see fun _ => rfl)

theorem ferrySees_agrees (c : Nat) (ws : List Range) (k : Core) : CoreAgrees k (ferrySees c ws k) :=
  setEngine_agrees (bareEngine_see fun _ => rfl)

/-- A state but for what descriptors in flight remember. -/
def SeenOnly (s t : State) : Prop := { t with cores := s.cores } = s ∧ ∀ x, CoreAgrees (coreOf s x) (coreOf t x)

theorem SeenOnly.refl (s : State) : SeenOnly s s := ⟨rfl, fun _ => coreAgrees_refl _⟩

theorem SeenOnly.trans {a b c : State} (h1 : SeenOnly a b) (h2 : SeenOnly b c) : SeenOnly a c := by
  refine ⟨Eq.trans ?_ h1.1, fun x => coreAgrees_trans (h1.2 x) (h2.2 x)⟩
  rw [← h2.1]

theorem modCore_seen {s : State} {c : Nat} {f : Core → Core} (h : ∀ k, CoreAgrees k (f k)) : SeenOnly s (modCore s c f) := by
  refine ⟨rfl, fun x => ?_⟩
  by_cases hx : x = c
  · rw [hx, coreOf_modCore_self]
    exact h _
  · rw [coreOf_modCore_ne _ _ hx]
    exact coreAgrees_refl _

theorem tblGet_map_agrees {f : Core → Core} (h : ∀ k, CoreAgrees k (f k)) (x : Nat) : ∀ t : Tbl Core,
    CoreAgrees (tblGet coreReset t x) (tblGet coreReset (t.map fun y => (y.1, f y.2)) x)
  | [] => coreAgrees_refl _
  | (i, k) :: t => by
    rw [List.map_cons, tblGet_cons, tblGet_cons]
    split
    · exact h k
    · exact tblGet_map_agrees h x t

theorem tellFerries_seen (s : State) (c : Nat) (ws : List Range) : SeenOnly s (tellFerries s c ws) := by
  unfold tellFerries
  split
  · exact .refl s
  · exact ⟨rfl, fun x => tblGet_map_agrees (ferrySees_agrees c ws) x s.cores⟩

theorem rememberAll_seen (s : State) (c e : Nat) (ws : List Range) : SeenOnly s (rememberAll s c e ws) := by
  unfold rememberAll
  split
  · exact .refl s
  · exact (modCore_seen (remember_agrees e ws)).trans (tellFerries_seen _ _ _)

/-- A core is put, and writes are remembered. -/
theorem OnlyCoreSeen_of {s t : State} {c : Nat} {k : Core} (h : SeenOnly (setCore s c k) t) : OnlyCoreSeen s t c ∧ CoreAgrees k (coreOf t c) := by
  obtain ⟨rest, cores⟩ := h
  refine ⟨⟨?_, fun x hx => ?_⟩, ?_⟩
  · have same := congrArg (fun u : State => { u with cores := s.cores, freeCtr := s.freeCtr }) rest
    exact same
  · exact coreOf_setCore_ne s k hx ▸ cores x
  · exact coreOf_setCore_self s c k ▸ cores c

/-! Completion. -/

theorem endRun_seen (s : State) (c e : Nat) (r : Run) :
    SeenOnly (setCore s c (noteBusy s (coreOf s c) (completeCore (coreOf s c) e r))) (endRun s c e r) := by
  have lands : ∀ (l : List (Nat × Range)) (t : State), SeenOnly t (l.foldl (fun s l => rememberAll s l.1 7 [l.2]) t) := by
    intro l
    induction l with
    | nil => exact .refl
    | cons x l ih => exact fun t => (rememberAll_seen _ _ _ _).trans (ih _)
  exact (rememberAll_seen _ _ _ _).trans (lands _ _)

theorem noteBusy_eq (s : State) (k k' : Core) : ∃ n, noteBusy s k k' = { k' with changed := n } := by
  unfold noteBusy
  split
  · exact ⟨k'.changed, rfl⟩
  · exact ⟨_, rfl⟩

theorem completeEff_ends {s : State} {c e : Nat} {r : Run} (hr : (engineOf (coreOf s c) e).run = some r) (hc : coreOn s c = true)
    (may : mayComplete s c r = true) : completeEff s c e = endRun s c e r := by
  unfold completeEff
  rw [hr]
  exact if_pos ((Bool.and_eq_true _ _).mpr ⟨hc, may⟩)

theorem mayComplete_of {s : State} {c : Nat} {r : Run}
    (h : r.phase = .ready ∨ (r.phase = .sending ∧ framesWait s c (fFlow r.entry.desc) = false)) : mayComplete s c r = true := by
  unfold mayComplete
  rcases h with ready | ⟨sending, taken⟩
  · rw [ready]
  · rw [sending]
    exact congrArg not taken

/-- A core as its descriptor leaves it. -/
theorem completeCore_eq (k : Core) (e : Nat) (r : Run) : completeCore k e r = if r.entry.sigSem < 48 then
    { setEngine k e { engineOf k e with run := none } with
      sems := tblSet 0 k.sems r.entry.sigSem (min 65535 (tblGet 0 k.sems r.entry.sigSem + r.entry.sigN))
      err := if 65535 < tblGet 0 k.sems r.entry.sigSem + r.entry.sigN then k.err ||| 1 else k.err
      flags := if 65535 < tblGet 0 k.sems r.entry.sigSem + r.entry.sigN then k.flags ||| 2 else k.flags }
    else setEngine k e { engineOf k e with run := none } := by
  split
  · next h => exact semAdd_eq _ _ _ h
  · next h => exact semAdd_none _ _ _ h

/-- Settles O9: the core is put as the descriptor leaves it, and the rest only remembers. -/
theorem descriptorsComplete : Obligations.DescriptorsComplete := by
  intro c e s r hc hr
  dsimp only
  intro done
  have runs : exec (.descriptorComplete c e) s = .next (endRun s c e r) := congrArg _ (completeEff_ends hr hc (mayComplete_of done))
  obtain ⟨only, frame, engines⟩ := OnlyCoreSeen_of (endRun_seen s c e r)
  obtain ⟨n, noted⟩ := noteBusy_eq s (coreOf s c) (completeCore (coreOf s c) e r)
  rw [noted] at frame engines
  have sems := congrArg Core.sems frame
  have err := congrArg Core.err frame
  have flags := congrArg Core.flags frame
  have rest := congrArg (fun k : Core => { k with
    engines := (coreOf s c).engines, sems := (coreOf s c).sems, err := (coreOf s c).err, flags := (coreOf s c).flags,
    changed := (coreOf s c).changed }) frame
  dsimp only at sems err flags rest
  have ended : ∀ g, engineOf { completeCore (coreOf s c) e r with changed := n } g =
      engineOf (setEngine (coreOf s c) e { engineOf (coreOf s c) e with run := none }) g := by
    intro g
    rw [completeCore_eq]
    split <;> rfl
  refine runs_of runs ⟨only, ?_, fun g hg => ?_, fun signals => ?_, fun m hm => ?_, fun spills => ?_, fun fits => ?_, rest.trans ?_⟩
  · rw [engines, ended, engineOf_setEngine_self]
  · rw [engines, ended, engineOf_setEngine_ne _ _ hg]
  · rw [sems, completeCore_eq, if_pos signals]
    exact tblGet_set_self _ _ _ _
  · rw [sems, completeCore_eq]
    split
    · next signals => exact tblGet_set_ne _ _ _ fun same => hm ⟨signals, same⟩
    · rfl
  · rw [err, flags, completeCore_eq, if_pos spills.1]
    exact ⟨if_pos spills.2, if_pos spills.2⟩
  · rw [err, flags, completeCore_eq]
    split
    · next signals => exact ⟨if_neg fun more => fits ⟨signals, more⟩, if_neg fun more => fits ⟨signals, more⟩⟩
    · exact ⟨rfl, rfl⟩
  · rw [completeCore_eq]
    split <;> rfl

end Sys2Proof.Machine
end

section
/-! SUPPORT. Loads, stores, stash writes, pulls and transfers (02, 06, 07). -/

namespace Sys2Proof.Machine

open Sys2Proof

/-! Loads (R58, R207). -/

theorem exec_load {c : Fin 576} {us : List Upset} {s : State} {r : Run} (hc : coreOn s c = true) (hm : memOn s = true)
    (hr : (engineOf (coreOf s c) 2).run = some r) (hp : r.phase = .work) :
    exec (.load c us) s = if touchesDrainSlot (coreOf s c) (lsSramRows r.entry.desc) then .fault (.drainSlotWrite (keptOf s))
      else .next (modCore (loadRows r.entry.desc (lsRows r.entry.desc) (addUpsets s us) []).1 c fun k =>
        setPhase (sramWrites k (loadRows r.entry.desc (lsRows r.entry.desc) (addUpsets s us) []).2) 2 .ready) := by
  refine (show execLoad c us s = _ from engineRow_runs hc hr hp rfl).trans ?_
  simp only [hm, Bool.not_true, Bool.false_eq_true, if_false]
  rfl

theorem sramWrites_frame (ws : List (Nat × List Byte)) (k : Core) (e : Nat) (p : Phase) {r : Run} (hr : (engineOf k e).run = some r) :
    engineOf (setPhase (sramWrites k ws) e p) e = { engineOf k e with run := some { r with phase := p } } ∧
      EngineFrame k (setPhase (sramWrites k ws) e p) e := by
  have core := sramWrites_core ws k
  have engines : (sramWrites k ws).engines = k.engines := by
    have same := congrArg Core.engines core
    exact same
  have same : ∀ g, engineOf (sramWrites k ws) g = engineOf k g := fun g => congrArg (tblGet engineIdle · g) engines
  have err := congrArg Core.err core
  have flags := congrArg Core.flags core
  refine ⟨?_, ?_, fun g hg => (setPhase_other _ p hg).trans (same g), .inl err, .inl flags⟩
  · rw [setPhase_engine p ((congrArg Engine.run (same e)).trans hr), same]
  · have rest := congrArg (fun x : Core => { x with err := k.err, flags := k.flags, engines := k.engines }) core
    exact rest

/-- Each write of a load lies in a row of its range. -/
theorem loaded_out {d : Line} {s : State} {x : State × List (Nat × List Byte)} (h : Loaded d s (lsRows d) x []) {a : Nat}
    (out : ∀ r ∈ lsSramRows d, ¬ (r.1 ≤ a ∧ a < r.1 + r.2)) : ∀ w ∈ x.2, ¬ (w.1 ≤ a ∧ a < w.1 + w.2.length) := by
  obtain ⟨L, hL, length, rows⟩ := h.rows
  intro w hw
  rw [hL, List.nil_append] at hw
  obtain ⟨j, hj⟩ := List.mem_iff_getElem?.mp hw
  have lt : j < lsRows d := length ▸ (List.getElem?_eq_some_iff.mp hj).1
  obtain ⟨bs, hbs, short, -⟩ := rows j lt
  obtain rfl := Option.some.inj (hj.symm.trans hbs)
  have row := out (lsSram d + j * lsSramStride d, lsBytes d) (List.mem_map.mpr ⟨j, List.mem_range.mpr lt, rfl⟩)
  rw [Nat.sub_self, Nat.zero_add]
  dsimp only at row ⊢
  omega

/-- A byte of a row that no later row covers. -/
theorem loaded_in {d : Line} {s : State} {x : State × List (Nat × List Byte)} (h : Loaded d s (lsRows d) x []) (clean : CleanMemory s)
    (lines : lsBytes d % 64 = 0) {n i : Nat} (hn : n < lsRows d) (hi : i < lsBytes d) (inside : inMem (lsMem d + n * lsMemStride d) (lsBytes d) = true)
    (last : ∀ m, n < m → m < lsRows d → ¬ (lsSram d + m * lsSramStride d ≤ lsSram d + n * lsSramStride d + i ∧
      lsSram d + n * lsSramStride d + i < lsSram d + m * lsSramStride d + lsBytes d)) (k : Core) :
    memGet (sramWrites k x.2).sram (lsSram d + n * lsSramStride d + i) = memGet s.memory.data (lsMem d + n * lsMemStride d + i) := by
  obtain ⟨L, hL, length, rows⟩ := h.rows
  simp only [Nat.sub_self, Nat.zero_add] at rows
  obtain ⟨bs, hbs, -, bytes⟩ := rows n hn
  have read := bytes clean lines inside
  obtain ⟨lt, at_⟩ := List.getElem?_eq_some_iff.mp hbs
  have cut : x.2 = L.take n ++ (lsSram d + n * lsSramStride d, bs) :: L.drop (n + 1) := by
    rw [hL, List.nil_append, ← at_, List.getElem_cons_drop, List.take_append_drop]
  have long : i < bs.length := by rwa [read, memRead_length]
  rw [cut, sramWrites_in (L.take n) (L.drop (n + 1)) (lsSram d + n * lsSramStride d, bs) k i long, read, memRead_getD _ _ _ _ hi]
  intro v hv
  obtain ⟨j, hj⟩ := List.mem_iff_getElem?.mp hv
  rw [List.getElem?_drop] at hj
  have later : n + 1 + j < lsRows d := length ▸ (List.getElem?_eq_some_iff.mp hj).1
  obtain ⟨cs, hcs, short, -⟩ := rows (n + 1 + j) later
  obtain rfl := Option.some.inj (hj.symm.trans hcs)
  have apart := last (n + 1 + j) (by omega) later
  dsimp only at short ⊢
  omega

/-! Stores (R58, R207). -/

theorem lsSramRows_eq (d : Line) : lsSramRows d = rowRanges (lsSram d) (lsSramStride d) (lsRows d) (lsBytes d) := rfl

/-- A core that is put under other changes of the state. -/
theorem coreOf_of_cores {s t : State} (h : t.cores = s.cores) (c : Nat) : coreOf t c = coreOf s c := congrArg (tblGet coreReset · c) h

theorem storeEff_spec (s : State) (c : Nat) (d : Line) (lines : lsBytes d % 64 = 0) :
    let t := storeEff s c (coreOf s c) d
    t.cores = (setCore s c (setPhase (sramTouches (coreOf s c) (lsSramRows d)) 3 .ready)).cores ∧
    MemSame s t (rowRanges (lsMem d) (lsMemStride d) (lsRows d) (lsBytes d)) ∧
    ((∀ i, (stackOf s i).state ≠ 2) → (∀ n < lsRows d, inMem (lsMem d + n * lsMemStride d) (lsBytes d) = true) →
      ∀ n < lsRows d, ∀ i < lsBytes d, (∀ m, n < m → m < lsRows d → ¬ (lsMem d + m * lsMemStride d ≤ lsMem d + n * lsMemStride d + i ∧
        lsMem d + n * lsMemStride d + i < lsMem d + m * lsMemStride d + lsBytes d)) →
      memGet t.memory.data (lsMem d + n * lsMemStride d + i) = memGet (coreOf s c).sram (lsSram d + n * lsSramStride d + i)) := by
  obtain ⟨cores, -, mem, bytes⟩ := storeRows_spec d (fun r => memRead (coreOf s c).sram (lsSram d + r * lsSramStride d) (lsBytes d))
    (fun r => memRead_length _ _ _) lines (lsRows d) 0 (setCore s c (setPhase (sramTouches (coreOf s c) (lsSramRows d)) 3 .ready))
  rw [← List.range_eq_range'] at cores mem bytes
  refine ⟨cores, mem, fun alive inside n hn i hi last => ?_⟩
  have read := bytes alive (fun r _ hr => inside r (by omega)) n (Nat.zero_le n) (by omega) i hi fun q hq hl => last q hq (by omega)
  exact read.trans (memRead_getD _ _ _ _ hi _)

theorem exec_store {c : Fin 576} {s : State} {r : Run} (hc : coreOn s c = true) (hm : memOn s = true)
    (hr : (engineOf (coreOf s c) 3).run = some r) (hp : r.phase = .work) (plain : lsStash r.entry.desc = false) :
    exec (.store c []) s = .next (storeEff s c (coreOf s c) r.entry.desc) := by
  refine (show execStore c [] s = _ from engineRow_runs hc hr hp (by simp [plain])).trans ?_
  rw [hm]
  rfl

/-- Settles O10: the rows of a load are written to SRAM in order, those of a store to package memory. -/
theorem loadsAndStoresMoveRows : Obligations.LoadsAndStoresMoveRows := by
  refine ⟨fun c us s r hc hm hr hp => ⟨fun drains => ?_, fun apart => ⟨?_, fun none clean lines inside => ?_⟩⟩, fun c s r hc hm hr hp plain lines => ?_⟩
  · exact (exec_load hc hm hr hp).trans (if_pos drains)
  · have runs := (exec_load (us := us) hc hm hr hp).trans (if_neg (Bool.eq_false_iff.mp apart))
    have loaded := loadRows_spec r.entry.desc (lsRows r.entry.desc) (addUpsets s us) [] (Nat.le_refl _)
    have upset := congrArg State.cores (addUpsets_same us s).2
    have cores : (loadRows r.entry.desc (lsRows r.entry.desc) (addUpsets s us) []).1.cores = s.cores := loaded.same.cores.trans upset
    refine runs_of runs ?_
    obtain ⟨engine, frame⟩ := sramWrites_frame (loadRows r.entry.desc (lsRows r.entry.desc) (addUpsets s us) []).2 (coreOf s c) 2 .ready hr
    unfold DoneRun
    rw [coreOf_modCore_self, coreOf_of_cores cores]
    refine ⟨engine, frame, fun a ha => sramWrites_out _ _ _ (loaded_out loaded ha), memSame_of_data ?_ _, fun x hx => ?_⟩
    · exact loaded.same.data.trans (addUpsets_data s us)
    · rw [coreOf_modCore_ne _ _ hx, coreOf_of_cores cores]
  · subst none
    have runs := (exec_load (us := []) hc hm hr hp).trans (if_neg (Bool.eq_false_iff.mp apart))
    have loaded := loadRows_spec r.entry.desc (lsRows r.entry.desc) (addUpsets s []) [] (Nat.le_refl _)
    refine runs_of runs fun n hn i hi last => ?_
    rw [coreOf_modCore_self]
    exact loaded_in loaded clean lines hn hi (inside n hn) last _
  · obtain ⟨cores, mem, bytes⟩ := storeEff_spec s c r.entry.desc lines
    refine ⟨runs_of (exec_store hc hm hr hp plain) ?_, fun alive inside => runs_of (exec_store hc hm hr hp plain) (bytes alive inside)⟩
    obtain ⟨engine, frame, sram⟩ := setPhase_touched 3 .ready hr (sramTouches_cases (coreOf s c) (lsSramRows r.entry.desc))
    unfold DoneRun
    rw [coreOf_of_cores cores, coreOf_setCore_self]
    refine ⟨engine, frame, fun a _ => by rw [sram], mem, fun x hx => ?_⟩
    rw [coreOf_of_cores cores, coreOf_setCore_ne _ _ hx]

end Sys2Proof.Machine
end

section
/-! SUPPORT. Stash writes (06, R192–R196). -/

namespace Sys2Proof.Machine

open Sys2Proof

/-! A stash write leaves the cores. -/

@[simp] theorem stashRead_cores (x : StashAcc) (a n : Nat) : (stashRead x a n).1.st.cores = x.st.cores := by
  unfold stashRead
  split
  · exact (readRange_read x.st a n .package).cores
  · rfl

@[simp] theorem stashPut_cores (x : StashAcc) (a : Nat) (bs : List Byte) : (stashPut x a bs).st.cores = x.st.cores := by
  unfold stashPut
  split
  · exact (writeLines_write x.st a bs false).cores
  · rfl

@[simp] theorem stashAllocate_cores (x : StashAcc) (hdr len : Nat) : (stashAllocate x hdr len).1.st.cores = x.st.cores := by
  unfold stashAllocate
  dsimp only
  split <;> simp

@[simp] theorem stashDepth_cores (x : StashAcc) (prev : Nat) : (stashDepth x prev).1.st.cores = x.st.cores := by
  unfold stashDepth
  dsimp only
  repeat' split
  all_goals simp

@[simp] theorem stashSkipHeader_cores (x : StashAcc) (hdr : Nat) (lost : Bool) : (stashSkipHeader x hdr lost).st.cores = x.st.cores := by
  unfold stashSkipHeader
  simp

@[simp] theorem stashWrite_cores (s : State) (recA : Nat) (data : List Byte) : (stashWrite s recA data).1.st.cores = s.cores := by
  unfold stashWrite
  dsimp only
  split
  · split <;> simp
  · split
    · next x a h =>
      have cores := congrArg (fun p => p.1.st.cores) h
      simp only [stashAllocate_cores, stashRead_cores] at cores
      simp [← cores]
    · next x h =>
      have cores := congrArg (fun p => p.1.st.cores) h
      simp only [stashAllocate_cores, stashRead_cores] at cores
      simp [← cores]

/-- What a stash write does to the cores: the skip count or the errors of the words it read, and the phase. -/
theorem countSkip_core (s : State) (c : Nat) : ∃ n, (countSkip s c).cores = (modCore s c fun k => { k with stashSkip := n }).cores := by
  unfold countSkip
  dsimp only
  split
  · exact ⟨_, (setSupEvent_report _ _).cores⟩
  · exact ⟨_, rfl⟩

/-! Records as bytes. -/

theorem bNat_memRead {m : Mem} {a n o j : Nat} (h : o + j ≤ n) : bNat (memRead m a n) o j = memNat m (a + o) j :=
  congrArg leNat (memRead_drop_take m a n o j h)

theorem bPut_length {b v : List Byte} {o : Nat} (h : o + v.length ≤ b.length) : (bPut b o v).length = b.length := by
  simp [bPut]
  omega

theorem bPut_in {b v : List Byte} {o i : Nat} (h : o ≤ b.length) (hi : i < v.length) : (bPut b o v).getD (o + i) 0 = v.getD i 0 := by
  simp only [bPut, List.getD_eq_getElem?_getD, List.append_assoc]
  rw [List.getElem?_append_right (by simp), List.length_take, Nat.min_eq_left h, Nat.add_sub_cancel_left, List.getElem?_append_left hi]

theorem bPut_out {b v : List Byte} {o i : Nat} (h : o + v.length ≤ b.length) (hi : ¬ (o ≤ i ∧ i < o + v.length)) :
    (bPut b o v).getD i 0 = b.getD i 0 := by
  simp only [bPut, List.getD_eq_getElem?_getD, List.append_assoc]
  by_cases low : i < o
  · rw [List.getElem?_append_left (by simp; omega), List.getElem?_take, if_pos low]
  · rw [List.getElem?_append_right (by simp; omega), List.getElem?_append_right (by simp; omega), List.getElem?_drop, List.length_take]
    congr 2
    omega

/-- The bytes of a record that a write makes present (R193). -/
theorem presentRecord_bytes {b : List Byte} (h : 24 ≤ b.length) (len : Nat) :
    (presentRecord b len).length = b.length ∧
    (presentRecord b len).getD 0 0 = BitVec.ofNat 8 (bNat b 0 1 / 4 * 4 + 1) ∧
    (presentRecord b len).getD 1 0 = BitVec.ofNat 8 (bNat b 1 1 / 8 * 8) ∧
    (∀ i < 8, (presentRecord b len).getD (16 + i) 0 = (leBytes 8 len).getD i 0) ∧
    ∀ i, 2 ≤ i → ¬ (16 ≤ i ∧ i < 24) → (presentRecord b len).getD i 0 = b.getD i 0 := by
  unfold presentRecord recordState
  generalize hx : leBytes 1 (bNat b 0 1 / 4 * 4 + 1) = x
  generalize hy : leBytes 1 (bNat b 1 1 / 8 * 8 + 0) = y
  generalize hz : leBytes 8 len = z
  have lx : x.length = 1 := hx ▸ leBytes_length 1 _
  have ly : y.length = 1 := hy ▸ leBytes_length 1 _
  have lz : z.length = 8 := hz ▸ leBytes_length 8 _
  have l1 : (bPut b 0 x).length = b.length := bPut_length (by omega)
  have l2 : (bPut (bPut b 0 x) 1 y).length = b.length := (bPut_length (by omega)).trans l1
  refine ⟨(bPut_length (by omega)).trans l2, ?_, ?_, fun i hi => bPut_in (by omega) (by omega), fun i low out => ?_⟩
  · rw [bPut_out (by omega) (by omega), bPut_out (by omega) (by omega)]
    exact (bPut_in (i := 0) (Nat.zero_le _) (by omega)).trans (by rw [← hx]; rfl)
  · rw [bPut_out (by omega) (by omega)]
    exact (bPut_in (i := 0) (by omega) (by omega)).trans (by rw [← hy]; rfl)
  · rw [bPut_out (by omega) (by omega), bPut_out (by omega) (by omega), bPut_out (by omega) (by omega)]

/-- Bytes of rows of one length, put one behind the other. -/
theorem rows_getD (f : Nat → List Byte) {b : Nat} (hf : ∀ r, (f r).length = b) : ∀ (l : List Nat) (n i : Nat), (hn : n < l.length) → i < b →
    (l.flatMap f).getD (n * b + i) 0 = (f l[n]).getD i 0
  | x :: l, 0, i, _, hi => by
    simp only [List.flatMap_cons, List.getD_eq_getElem?_getD, Nat.zero_mul, Nat.zero_add]
    rw [List.getElem?_append_left (by rw [hf]; exact hi)]
    rfl
  | x :: l, n + 1, i, hn, hi => by
    have rest := rows_getD f hf l n i (by simpa using hn) hi
    simp only [List.getD_eq_getElem?_getD] at rest ⊢
    rw [List.flatMap_cons, List.getElem?_append_right (by rw [hf, Nat.succ_mul]; omega), hf]
    rw [show (n + 1) * b + i - b = n * b + i by rw [Nat.succ_mul]; omega, rest]
    rfl

theorem rows_length (f : Nat → List Byte) {b : Nat} (hf : ∀ r, (f r).length = b) (n : Nat) : ((List.range n).flatMap f).length = n * b := by
  simp [List.length_flatMap, hf]

/-- What a stash write takes from the SRAM. -/
def stashData (k : Core) (d : Line) : List Byte := (lsSramRows d).flatMap fun w => memRead k.sram w.1 w.2

theorem stashData_eq (k : Core) (d : Line) :
    stashData k d = (List.range (lsRows d)).flatMap fun r => memRead k.sram (lsSram d + r * lsSramStride d) (lsBytes d) := by
  simp [stashData, lsSramRows, rowRanges, List.flatMap_map]

theorem stashData_length (k : Core) (d : Line) : (stashData k d).length = lsLen d := by
  rw [stashData_eq]
  exact rows_length _ (fun r => memRead_length _ _ _) _

theorem stashData_getD (k : Core) (d : Line) {n i : Nat} (hn : n < lsRows d) (hi : i < lsBytes d) :
    (stashData k d).getD (n * lsBytes d + i) 0 = memGet k.sram (lsSram d + n * lsSramStride d + i) := by
  rw [stashData_eq, rows_getD _ (fun r => memRead_length _ _ _) _ n i (by simpa using hn) hi]
  simp only [List.getElem_range]
  exact memRead_getD _ _ _ _ hi _

/-! An anchor with room (R193). -/

theorem stashRead_clean {x : StashAcc} {a n : Nat} (clean : CleanMemory x.st) (inside : inMem a n = true) :
    stashRead x a n = (x, memRead x.st.memory.data a n) := by
  unfold stashRead
  rw [if_pos inside, readRange_clean clean]

theorem stashPut_in {x : StashAcc} {a : Nat} {bs : List Byte} (inside : inMem a bs.length = true) :
    stashPut x a bs = ⟨writeLines x.st a bs false, x.bad⟩ := if_pos inside

/-- The state after a stash write to an anchor with room: the data, then the record. -/
def anchorWritten (s : State) (rec_ place : Nat) (data : List Byte) : State :=
  writeLines (writeLines s place data false) rec_ (presentRecord (memRead s.memory.data rec_ 128) data.length) false

theorem stashWrite_anchor {s : State} {rec_ : Nat} {data : List Byte} (clean : CleanMemory s) (inRec : inMem rec_ 128 = true)
    (inPlace : inMem (memNat s.memory.data (rec_ + 8) 8 / 64 * 64) data.length = true)
    (anchor : (memGet s.memory.data rec_).getLsbD 2 = true) (room : data.length ≤ memNat s.memory.data (rec_ + 24) 8) :
    stashWrite s rec_ data = (⟨anchorWritten s rec_ (memNat s.memory.data (rec_ + 8) 8 / 64 * 64) data, false⟩, false) := by
  have isAnchor : (bNat (memRead s.memory.data rec_ 128) 0 1).testBit 2 = true := by
    rw [bNat_memRead (by omega)]
    simpa [memNat, memRead, span, leNat, BitVec.getLsbD] using anchor
  have size : (presentRecord (memRead s.memory.data rec_ 128) data.length).length = 128 := by
    rw [(presentRecord_bytes (by simp [memRead_length]) _).1, memRead_length]
  unfold stashWrite
  simp only [stashRead_clean (x := ⟨s, false⟩) clean inRec, isAnchor, if_true]
  rw [bNat_memRead (by omega), bNat_memRead (by omega), if_pos room, stashPut_in inPlace, stashPut_in (by rw [size]; exact inRec)]
  simp only [anchorWritten]

/-- The bytes after it: the data, then the record with its changed fields, where the two lie apart. -/
theorem anchorWritten_bytes {s : State} {rec_ place : Nat} {data : List Byte} (clean : CleanMemory s) (lines : data.length % 64 = 0)
    (apart : overlap place data.length rec_ 128 = false) :
    let R := presentRecord (memRead s.memory.data rec_ 128) data.length
    (∀ i < data.length, memGet (anchorWritten s rec_ place data).memory.data (place + i) = data.getD i 0) ∧
    (∀ i < 128, memGet (anchorWritten s rec_ place data).memory.data (rec_ + i) = R.getD i 0) ∧
    ∀ a, ¬ (place ≤ a ∧ a < place + data.length) → ¬ (rec_ ≤ a ∧ a < rec_ + 128) →
      memGet (anchorWritten s rec_ place data).memory.data a = memGet s.memory.data a := by
  intro R
  have size : R.length = 128 := by rw [(presentRecord_bytes (by simp [memRead_length]) _).1, memRead_length]
  obtain ⟨first, firstBytes⟩ := writeLines_clean s place data false lines clean
  obtain ⟨second, secondBytes⟩ := writeLines_clean (writeLines s place data false) rec_ R false (by omega)
    (writeLines_keepsClean s place data false clean)
  rw [size] at second secondBytes
  have last : anchorWritten s rec_ place data = writeLines (writeLines s place data false) rec_ R false := by unfold anchorWritten; rfl
  rw [last]
  generalize writeLines s place data false = u at *
  generalize writeLines u rec_ R false = t at *
  have out : ∀ a, ¬ (rec_ ≤ a ∧ a < rec_ + 128) → memGet t.memory.data a = memGet u.memory.data a :=
    fun a ha => second.2.1 a fun r hr => by rw [List.mem_singleton.mp hr]; exact ha
  refine ⟨fun i hi => ?_, secondBytes, fun a hp hr => (out a hr).trans (first.2.1 a fun r h => by rw [List.mem_singleton.mp h]; exact hp)⟩
  rw [out _ fun inside => ?_, firstBytes i hi]
  simp only [overlap, Bool.and_eq_false_iff, decide_eq_false_iff_not] at apart
  omega

theorem exec_stashWrite {c : Fin 576} {s : State} {r : Run} (hc : coreOn s c = true) (hm : memOn s = true)
    (hr : (engineOf (coreOf s c) 3).run = some r) (hp : r.phase = .work) (stash : lsStash r.entry.desc = true) :
    let x := stashWrite s (stashRecord r.entry.desc) (stashData (coreOf s c) r.entry.desc)
    exec (.stashWrite c) s = .next (modCore
      (if x.2 then countSkip x.1.st c else modCore x.1.st c fun k => sramTouches k (lsSramRows r.entry.desc)) c
      fun k => setPhase (if x.1.bad then coreErr k errDescBad else k) 3 .ready) := by
  change execStashWrite c s = _
  unfold execStashWrite stashData
  rw [engineRow_runs hc hr hp stash, hm]
  dsimp only
  generalize stashWrite s _ _ = x
  obtain ⟨x, skipped⟩ := x
  exact when_true _ _

/-- The core after a stash write has the engines and the SRAM of before. -/
theorem stashCore_same {s : State} {c : Nat} {x : StashAcc × Bool} (cores : x.1.st.cores = s.cores) (rows : List Range) :
    let t := if x.2 then countSkip x.1.st c else modCore x.1.st c fun k => sramTouches k rows
    ((coreOf t c).engines = (coreOf s c).engines ∧ (coreOf t c).sram = (coreOf s c).sram ∧
      (x.2 = false → (coreOf t c).stashSkip = (coreOf s c).stashSkip)) ∧ ∀ y, y ≠ c → coreOf t y = coreOf s y := by
  dsimp only
  split
  · next skipped =>
    obtain ⟨n, counted⟩ := countSkip_core x.1.st c
    refine ⟨?_, fun y hy => ?_⟩
    · rw [coreOf_of_cores counted, coreOf_modCore_self, coreOf_of_cores cores]
      exact ⟨rfl, rfl, fun h => absurd h (by simp [skipped])⟩
    · rw [coreOf_of_cores counted, coreOf_modCore_ne _ _ hy, coreOf_of_cores cores]
  · refine ⟨?_, fun y hy => ?_⟩
    · rw [coreOf_modCore_self, coreOf_of_cores cores]
      rcases sramTouches_cases (coreOf s c) rows with same | ⟨-, touched⟩
      · rw [same]
        exact ⟨rfl, rfl, fun _ => rfl⟩
      · rw [touched]
        exact ⟨rfl, rfl, fun _ => rfl⟩
    · rw [coreOf_modCore_ne _ _ hy, coreOf_of_cores cores]

theorem leBytes_getElem? : ∀ (n x i : Nat), n ≤ i → (leBytes n x)[i]? = none := fun n x i h => by
  rw [List.getElem?_eq_none_iff, leBytes_length]
  exact h

/-- A number of memory whose bytes are those of a number. -/
theorem memNat_of_leBytes {m : Mem} {a n x : Nat} (h : ∀ i < n, memGet m (a + i) = (leBytes n x).getD i 0) : memNat m a n = x % 2 ^ (8 * n) := by
  have same : memRead m a n = leBytes n x := by
    refine List.ext_getElem? fun i => ?_
    rw [memRead_getElem?]
    by_cases hi : i < n
    · rw [if_pos hi, h i hi, List.getD_eq_getElem?_getD, List.getElem?_eq_getElem (by rwa [leBytes_length])]
      rfl
    · rw [if_neg hi, leBytes_getElem? n x i (by omega)]
  rw [memNat, same, leNat_leBytes]

theorem memNat_one (m : Mem) (a : Nat) : memNat m a 1 = (memGet m a).toNat := by simp [memNat, memRead, span, leNat]

theorem lsLen_lt (d : Line) : lsLen d < 2 ^ 64 := by
  have rows : lsRows d < 2 ^ 16 := Nat.mod_lt _ (Nat.two_pow_pos _)
  have bytes : lsBytes d < 2 ^ 32 := Nat.mod_lt _ (Nat.two_pow_pos _)
  have bound := Nat.mul_le_mul rows.le bytes.le
  unfold lsLen
  omega

/-- What an anchor with room reads once it is written. -/
theorem anchorWritten_record {s : State} {rec_ place : Nat} {data : List Byte} (clean : CleanMemory s) (lines : data.length % 64 = 0)
    (apart : overlap place data.length rec_ 128 = false) (short : data.length < 2 ^ 64) :
    let t := anchorWritten s rec_ place data
    MemSame s t [(place, data.length), (rec_, 2), (rec_ + 16, 8)] ∧
    (memGet t.memory.data rec_).toNat = (memGet s.memory.data rec_).toNat / 4 * 4 + 1 ∧
    (memGet t.memory.data (rec_ + 1)).toNat = (memGet s.memory.data (rec_ + 1)).toNat / 8 * 8 ∧
    memNat t.memory.data (rec_ + 16) 8 = data.length := by
  obtain ⟨-, record, out⟩ := anchorWritten_bytes clean lines apart
  obtain ⟨-, state, depth, length, rest⟩ := presentRecord_bytes (b := memRead s.memory.data rec_ 128) (by simp [memRead_length]) data.length
  refine ⟨fun a ha => ?_, ?_, ?_, ?_⟩
  · by_cases inside : rec_ ≤ a ∧ a < rec_ + 128
    · have low := ha (rec_, 2) (by simp)
      have field := ha (rec_ + 16, 8) (by simp)
      have at_ := (record (a - rec_) (by omega)).trans (rest (a - rec_) (by omega) (by omega))
      rw [memRead_getD _ _ _ _ (by omega), show rec_ + (a - rec_) = a by omega] at at_
      exact at_
    · exact out a (ha (place, data.length) (by simp)) inside
  · have at_ := (record 0 (by omega)).trans state
    rw [bNat_memRead (by omega), memNat_one] at at_
    have lt := (memGet s.memory.data rec_).isLt
    have value := congrArg BitVec.toNat at_
    rw [BitVec.toNat_ofNat, Nat.mod_eq_of_lt (by omega)] at value
    exact value
  · have at_ := (record 1 (by omega)).trans depth
    rw [bNat_memRead (by omega), memNat_one] at at_
    have lt := (memGet s.memory.data (rec_ + 1)).isLt
    have value := congrArg BitVec.toNat at_
    rw [BitVec.toNat_ofNat, Nat.mod_eq_of_lt (by omega)] at value
    exact value
  · have number := memNat_of_leBytes (m := (anchorWritten s rec_ place data).memory.data) (a := rec_ + 16) (n := 8)
      (x := data.length) fun i hi => by
        rw [Nat.add_assoc]
        exact (record (16 + i) (by omega)).trans (length i hi)
    rwa [Nat.mod_eq_of_lt short] at number

/-- A stash write whose outcome is known. -/
theorem exec_stashWrite_of {c : Fin 576} {s t : State} {r : Run} (hc : coreOn s c = true) (hm : memOn s = true)
    (hr : (engineOf (coreOf s c) 3).run = some r) (hp : r.phase = .work) (stash : lsStash r.entry.desc = true)
    (written : stashWrite s (stashRecord r.entry.desc) (stashData (coreOf s c) r.entry.desc) = (⟨t, false⟩, false)) :
    exec (.stashWrite c) s =
      .next (modCore (modCore t c fun k => sramTouches k (lsSramRows r.entry.desc)) c fun k => setPhase k 3 .ready) := by
  have runs := exec_stashWrite hc hm hr hp stash
  rw [written] at runs
  exact runs

theorem stashLine_of {d : Line} (lines : lsBytes d % 64 = 0) (k : Core) : (stashData k d).length % 64 = 0 := by
  rw [stashData_length, lsLen, Nat.mul_mod, lines, Nat.mul_zero, Nat.zero_mod]

theorem stashByte_lt {d : Line} {n i : Nat} (hn : n < lsRows d) (hi : i < lsBytes d) (k : Core) :
    n * lsBytes d + i < (stashData k d).length := by
  have more := Nat.mul_le_mul_right (lsBytes d) (Nat.succ_le_of_lt hn)
  rw [stashData_length, lsLen]
  rw [Nat.succ_mul] at more
  omega

/-- Settles O11: the data and the record of an anchor with room are two writes of whole lines that lie apart. -/
theorem stashWriteFillsAnchor : Obligations.StashWriteFillsAnchor := by
  intro c s r hc hm hr hp stash
  dsimp only
  have cores := stashWrite_cores s (stashRecord r.entry.desc) (stashData (coreOf s c) r.entry.desc)
  obtain ⟨⟨engines, sram, -⟩, others⟩ := stashCore_same (c := c) cores (lsSramRows r.entry.desc)
  refine ⟨runs_of (exec_stashWrite hc hm hr hp stash) ⟨?_, ?_, fun x hx => ?_⟩, fun clean lines _ inRec inPlace apart anchor room => ?_⟩
  · have same : ∀ b : Bool, ∀ k1 : Core, k1.engines = (coreOf s c).engines →
        engineOf (if b then coreErr k1 errDescBad else k1) 3 = engineOf (coreOf s c) 3 :=
      fun b k1 h => by cases b <;> exact congrArg (tblGet engineIdle · 3) h
    unfold DoneRun
    rw [coreOf_modCore_self, setPhase_engine _ ((congrArg Engine.run (same _ _ engines)).trans hr), same _ _ engines]
  · have same : ∀ (b : Bool) (k1 : Core), (setPhase (if b then coreErr k1 errDescBad else k1) 3 .ready).sram = k1.sram :=
      fun b k1 => by cases b <;> rfl
    rw [coreOf_modCore_self, same]
    exact sram
  · rw [coreOf_modCore_ne _ _ hx]
    exact others x hx
  · rw [← stashData_length (coreOf s c)] at inPlace apart room ⊢
    have written := stashWrite_anchor clean inRec inPlace anchor room
    have sameCores : (anchorWritten s _ _ (stashData (coreOf s c) r.entry.desc)).cores = s.cores := written ▸ cores
    obtain ⟨same, state, depth, length⟩ := anchorWritten_record clean (stashLine_of lines _) apart (by rw [stashData_length]; exact lsLen_lt _)
    obtain ⟨bytes, -, -⟩ := anchorWritten_bytes clean (stashLine_of lines _) apart
    generalize anchorWritten s (stashRecord r.entry.desc) (memNat s.memory.data (stashRecord r.entry.desc + 8) 8 / 64 * 64)
      (stashData (coreOf s c) r.entry.desc) = t at *
    refine runs_of (exec_stashWrite_of hc hm hr hp stash written) ⟨same, ?_, fun n hn i hi => ?_, state, depth, length⟩
    · rw [coreOf_modCore_self, coreOf_modCore_self, coreOf_of_cores sameCores]
      rcases sramTouches_cases (coreOf s c) (lsSramRows r.entry.desc) with untouched | ⟨-, touched⟩
      · rw [untouched]
        rfl
      · rw [touched]
        rfl
    · rw [Nat.add_assoc (memNat s.memory.data _ 8 / 64 * 64)]
      exact (bytes _ (stashByte_lt hn hi _)).trans (stashData_getD _ _ hn hi)

end Sys2Proof.Machine
end

section
/-! SUPPORT. Pulls and transfers over the outbound ferry (02, R59–R61, R219, R247, R248). -/

namespace Sys2Proof.Machine

open Sys2Proof

/-! Pulls (R60, R464). -/

/-- What a pull reads of its source, and the state once it has read. -/
def pullBytes (s : State) (d : Line) : List Byte :=
  if coreResetting s (coreField (pSrc d)) then List.replicate (fLen d) 0 else memRead (coreOf s (coreField (pSrc d))).sram (pSrcAddr d) (fLen d)

def pullRead (s : State) (d : Line) : State :=
  if coreResetting s (coreField (pSrc d)) then s else modCore s (coreField (pSrc d)) fun k => sramTouch k (pSrcAddr d) (fLen d)

theorem exec_pull {c : Fin 576} {s : State} {r : Run} (hc : coreOn s c = true) (hr : (engineOf (coreOf s c) 4).run = some r)
    (hp : r.phase = .work) : exec (.pull c) s = if hitsDrainSlot (coreOf s c) (pDst r.entry.desc) (fLen r.entry.desc) then
      .fault (.drainSlotWrite (keptOf s))
    else .next (modCore (pullRead s r.entry.desc) c fun k =>
      setPhase (sramWrite k (pDst r.entry.desc) (pullBytes s r.entry.desc)) 4 .ready) :=
  (show execPull c s = _ from engineRow_runs hc hr hp rfl)

theorem pullBytes_length (s : State) (d : Line) : (pullBytes s d).length = fLen d := by
  unfold pullBytes
  split <;> simp [memRead_length]

theorem pullBytes_getD (s : State) (d : Line) {i : Nat} (h : i < fLen d) : (pullBytes s d).getD i 0 =
    if coreResetting s (coreField (pSrc d)) then 0 else memGet (coreOf s (coreField (pSrc d))).sram (pSrcAddr d + i) := by
  unfold pullBytes
  split
  · simp [List.getD_eq_getElem?_getD, h]
  · exact memRead_getD _ _ _ _ h _

theorem pullRead_cores (s : State) (d : Line) : { pullRead s d with cores := s.cores } = s ∧
    (∀ x, (coreOf (pullRead s d) x = coreOf s x ∨
      ((coreOf s x).badWords.any (·.2) = true ∧ coreOf (pullRead s d) x = coreErr (coreOf s x) errSram))) ∧
    ∀ x, x ≠ coreField (pSrc d) → coreOf (pullRead s d) x = coreOf s x := by
  unfold pullRead
  split
  · exact ⟨rfl, fun _ => .inl rfl, fun _ _ => rfl⟩
  · refine ⟨rfl, fun x => ?_, fun x hx => coreOf_modCore_ne _ _ hx⟩
    by_cases hx : x = coreField (pSrc d)
    · rw [hx, coreOf_modCore_self]
      exact sramTouch_cases _ _ _
    · exact .inl (coreOf_modCore_ne _ _ hx)

/-- A core that has read, takes bytes and is ready. -/
theorem setPhase_written {k k1 : Core} (e : Nat) {r : Run} (hr : (engineOf k e).run = some r)
    (h : k1 = k ∨ (k.badWords.any (·.2) = true ∧ k1 = coreErr k errSram)) (a : Nat) (bs : List Byte) :
    engineOf (setPhase (sramWrite k1 a bs) e .ready) e = { engineOf k e with run := some { r with phase := .ready } } ∧
      EngineFrame k (setPhase (sramWrite k1 a bs) e .ready) e ∧ (setPhase (sramWrite k1 a bs) e .ready).sram = memWrite k.sram a bs := by
  rcases h with same | ⟨-, touched⟩
  · rw [same]
    exact ⟨setPhase_engine (k := sramWrite k a bs) _ hr, ⟨rfl, fun g hg => setPhase_other _ _ hg, .inl rfl, .inl rfl⟩, rfl⟩
  · rw [touched]
    exact ⟨setPhase_engine (k := sramWrite (coreErr k errSram) a bs) _ hr, ⟨rfl, fun g hg => setPhase_other _ _ hg, .inr rfl, .inr rfl⟩, rfl⟩

/-- Settles O12. -/
theorem pullCopies : Obligations.PullCopies := by
  intro c s r hc hr hp
  dsimp only
  refine ⟨fun drains => (exec_pull hc hr hp).trans (if_pos drains), fun apart => ?_⟩
  obtain ⟨rest, read, others⟩ := pullRead_cores s r.entry.desc
  have size := pullBytes_length s r.entry.desc
  obtain ⟨engine, frame, sram⟩ := setPhase_written 4 hr (read c) (pDst r.entry.desc) (pullBytes s r.entry.desc)
  refine runs_of ((exec_pull hc hr hp).trans (if_neg (Bool.eq_false_iff.mp apart))) ?_
  unfold DoneRun SramSame
  rw [coreOf_modCore_self]
  refine ⟨engine, frame, fun a ha => ?_, fun i hi => ?_, rest, fun x hx => ⟨?_, fun far => ?_⟩⟩
  · have out := ha (pDst r.entry.desc, fLen r.entry.desc) (by simp)
    rw [sram]
    exact memGet_memWrite_out _ _ _ _ (by dsimp only at out; omega)
  · rw [sram, ← pullBytes_getD s r.entry.desc hi]
    exact memGet_memWrite_in _ _ _ _ (by omega)
  · rw [coreOf_modCore_ne _ _ hx]
    rcases read x with same | ⟨-, touched⟩
    · rw [same]
    · rw [touched]
      rfl
  · rw [coreOf_modCore_ne _ _ hx, others x far]

/-! Transfers (R59, R61, R219, R247, R248). -/

/-- The ferry's core once it has read its bytes: engine 5 is at a phase; the SRAM stays. -/
theorem ferryCore_spec {k : Core} (d : Line) (p : Phase) {r : Run} (hr : (engineOf k 5).run = some r) :
    (engineOf (ferryCore k d p) 5).run = some { r with phase := p } ∧ (ferryCore k d p).sram = k.sram := by
  obtain ⟨engine, -, sram⟩ := setPhase_touched (k1 := sramTouch k (fSram d) (fBytes d)) 5 p hr (sramTouch_cases k _ _)
  exact ⟨congrArg Engine.run engine, sram⟩

theorem ferryCore_frame (k : Core) (d : Line) (p : Phase) : (ferryCore k d p).mode = k.mode ∧ (ferryCore k d p).drain = k.drain ∧
    (ferryCore k d p).drainSlot = k.drainSlot ∧ (ferryCore k d p).shape = k.shape ∧ (ferryCore k d p).comp = k.comp := by
  unfold ferryCore sramTouch
  split <;> exact ⟨rfl, rfl, rfl, rfl, rfl⟩

theorem hitsDrainSlot_congr {k k' : Core} (drain : k'.drain = k.drain) (slot : k'.drainSlot = k.drainSlot) (shape : k'.shape = k.shape)
    (comp : k'.comp = k.comp) (a n : Nat) : hitsDrainSlot k' a n = hitsDrainSlot k a n := by
  unfold hitsDrainSlot slotAddr slotBytes
  simp only [drain, slot, shape, comp]

section
variable {c : Fin 576} {s : State} {r : Run}

/-- The rows of the outbound ferry over a context that has faulted, and over a strait. -/
theorem exec_ferry_faulted {i : Instr} (hc : coreOn s c = true) (hr : (engineOf (coreOf s c) 5).run = some r) (hp : r.phase = .work)
    (row : (fOp r.entry.desc = 0 ∧ i = .ferryWriteSram c) ∨ (fOp r.entry.desc = 1 ∧ i = .ferryWriteMemory c) ∨
      (fOp r.entry.desc = 2 ∧ i = .remoteAccumulate c) ∨ (fOp r.entry.desc = 3 ∧ i = .ferrySignal c))
    (hx : cState (flowOf s (fFlow r.entry.desc)) ≠ 2) : exec i s = .next (setCore s c (setPhase (coreOf s c) 5 .ready)) := by
  rcases row with ⟨op, rfl⟩ | ⟨op, rfl⟩ | ⟨op, rfl⟩ | ⟨op, rfl⟩
  · exact (show execFerryWriteSram c s = _ from ferryRow_faulted hc hr hp op hx)
  · exact (show execFerryWriteMemory c s = _ from ferryRow_faulted hc hr hp op hx)
  · exact (show execRemoteAccumulate c s = _ from ferryRow_faulted hc hr hp op hx)
  · exact (show execFerrySignal c s = _ from ferryRow_faulted hc hr hp op hx)

theorem exec_ferry_strait {i : Instr} (hc : coreOn s c = true) (hr : (engineOf (coreOf s c) 5).run = some r) (hp : r.phase = .work)
    (row : (fOp r.entry.desc = 0 ∧ i = .ferryWriteSram c) ∨ (fOp r.entry.desc = 1 ∧ i = .ferryWriteMemory c) ∨
      (fOp r.entry.desc = 2 ∧ i = .remoteAccumulate c) ∨ (fOp r.entry.desc = 3 ∧ i = .ferrySignal c))
    (hx : cState (flowOf s (fFlow r.entry.desc)) = 2) (far : cRole (flowOf s (fFlow r.entry.desc)) ≠ 3) :
    exec i s = .next (ferryStrait s c (coreOf s c) r.entry.desc) := by
  rcases row with ⟨op, rfl⟩ | ⟨op, rfl⟩ | ⟨op, rfl⟩ | ⟨op, rfl⟩
  · exact (show execFerryWriteSram c s = _ from ferryRow_strait hc hr hp op hx far)
  · exact (show execFerryWriteMemory c s = _ from ferryRow_strait hc hr hp op hx far)
  · exact (show execRemoteAccumulate c s = _ from ferryRow_strait hc hr hp op hx far)
  · exact (show execFerrySignal c s = _ from ferryRow_strait hc hr hp op hx far)

end

/-- Bytes that land in a core's SRAM where they may (R84, R144). -/
theorem landBytes_lands {s : State} {c a : Nat} {bs : List Byte} (on : coreResetting s c = false) (inside : sramOk a bs.length = true)
    (apart : hitsDrainSlot (coreOf s c) a bs.length = false) :
    ∃ t, landBytes s c a bs = .ok t ∧ { t with cores := s.cores } = s ∧ (∀ x, x ≠ c → coreOf t x = coreOf s x) ∧
      SramSame (coreOf s c) (coreOf t c) [(a, bs.length)] ∧ ∀ i < bs.length, memGet (coreOf t c).sram (a + i) = bs.getD i 0 := by
  unfold landBytes
  by_cases empty : bs.isEmpty = true
  · rw [if_pos (by simp [empty])]
    refine ⟨s, rfl, rfl, fun _ _ => rfl, fun _ _ => rfl, fun i hi => ?_⟩
    rw [List.isEmpty_iff.mp empty] at hi
    exact absurd hi (Nat.not_lt_zero i)
  · rw [if_neg (by simp [on, empty]), if_neg (by simp [inside]), if_neg (by simp [apart])]
    refine ⟨_, rfl, rfl, fun x hx => coreOf_modCore_ne _ _ hx, fun x hx => ?_, fun i hi => ?_⟩
    · have out := hx (a, bs.length) (by simp)
      rw [coreOf_modCore_self]
      exact memGet_memWrite_out _ _ _ _ (by dsimp only at out; omega)
    · rw [coreOf_modCore_self]
      exact memGet_memWrite_in _ _ _ _ hi

theorem landBytes_resetting {s : State} {c a : Nat} {bs : List Byte} (reset : coreResetting s c = true) : landBytes s c a bs = .ok s :=
  if_pos (by simp [reset])

/-- A write of whole lines from the start of a line. -/
theorem writeRange_lines (s : State) (p : Nat) (bs : List Byte) (counted : Bool) (r : Reader) (start : p % 64 = 0)
    (lines : bs.length % 64 = 0) : writeRange s p bs counted r = writeLines s p bs counted := by
  have head : min bs.length ((64 - p % 64) % 64) = 0 := by omega
  have full : bs.length / 64 * 64 = bs.length := by omega
  unfold writeRange
  simp [head, full]

/-- A write of lines changes package memory alone. -/
theorem writeLines_memory (s : State) (p : Nat) (bs : List Byte) (counted : Bool) :
    { writeLines s p bs counted with memory := s.memory } = s := by
  unfold writeLines
  generalize (chunks 64 (bs.length + 1) bs).zip (List.range (bs.length + 1)) = l
  induction l generalizing s with
  | nil => rfl
  | cons x l ih =>
    obtain ⟨ds, e⟩ := writeLine_eq s (p + 64 * x.2) (padTo 64 x.1) counted
    have rest := congrArg (fun t : State => { t with memory := s.memory }) (ih (writeLine s (p + 64 * x.2) (padTo 64 x.1) counted))
    rw [e] at rest
    rw [List.foldl_cons, e]
    exact rest

/-- What the ferry leaves of the destination core is what landing asks of it. -/
theorem ferryCore_lands (s : State) (c x : Nat) (d : Line) (p : Phase) :
    coreResetting (setCore s c (ferryCore (coreOf s c) d p)) x = coreResetting s x ∧
      ∀ a n, hitsDrainSlot (coreOf (setCore s c (ferryCore (coreOf s c) d p)) x) a n = hitsDrainSlot (coreOf s x) a n := by
  unfold coreResetting
  by_cases h : x = c
  · obtain ⟨mode, drain, slot, shape, comp⟩ := ferryCore_frame (coreOf s c) d p
    rw [h, coreOf_setCore_self, mode]
    exact ⟨rfl, hitsDrainSlot_congr drain slot shape comp⟩
  · rw [coreOf_setCore_ne _ _ h]
    exact ⟨rfl, fun _ _ => rfl⟩

/-- The add that a transfer sends (R61). -/
def landedAdd (dest sem n : Nat) : List Add := if coreFieldOk dest = true ∧ sem < 48 then [⟨coreField dest, sem, n⟩] else []

/-- A state with the add of a transfer of s on its way. -/
def sendAdd (s t : State) (d : Line) : State :=
  { t with adds := t.adds ++ landedAdd (cOutFlow (flowOf s (fFlow d))) (fDestSem d) (fDestN d) }

section
variable {c : Fin 576} {s : State} {r : Run} (hc : coreOn s c = true) (hr : (engineOf (coreOf s c) 5).run = some r) (hp : r.phase = .work)
variable (hx : cState (flowOf s (fFlow r.entry.desc)) = 2) (near : cRole (flowOf s (fFlow r.entry.desc)) = 3)
include hc hr hp hx near

/-- OP 0 to a core of the package. -/
theorem exec_ferryWriteSram_local (op : fOp r.entry.desc = 0) (dest : coreFieldOk (cOutFlow (flowOf s (fFlow r.entry.desc))) = true) {t : State}
    (lands : landBytes (setCore s c (ferryCore (coreOf s c) r.entry.desc .ready)) (coreField (cOutFlow (flowOf s (fFlow r.entry.desc))))
      (fDest r.entry.desc) (memRead (coreOf s c).sram (fSram r.entry.desc) (fBytes r.entry.desc)) = .ok t) :
    exec (.ferryWriteSram c) s = .next (sendAdd s t r.entry.desc) := by
  refine (show execFerryWriteSram c s = _ from ferryRow_local hc hr hp op hx near).trans ((if_pos dest).trans ?_)
  rw [lands]
  exact congrArg Host.Outcome.next (landAdd_eq _ _ _ _)

theorem exec_ferryWriteMemory_local (op : fOp r.entry.desc = 1) (hm : memOn s = true) (start : fDest r.entry.desc % 64 = 0)
    (lines : fBytes r.entry.desc % 64 = 0) :
    let t := writeLines (setCore s c (ferryCore (coreOf s c) r.entry.desc .ready)) (fDest r.entry.desc)
      (memRead (coreOf s c).sram (fSram r.entry.desc) (fBytes r.entry.desc)) true
    exec (.ferryWriteMemory c) s = .next (sendAdd s t r.entry.desc) := by
  refine (show execFerryWriteMemory c s = _ from ferryRow_local hc hr hp op hx near).trans ?_
  dsimp only
  rw [hm, writeRange_lines _ _ _ _ _ start (by rw [memRead_length]; exact lines), landAdd_eq]
  rfl

theorem exec_remoteAccumulate_local (op : fOp r.entry.desc = 2) : exec (.remoteAccumulate c) s =
    .next (setInq (setCore (newXfer s) c (ferryCore (coreOf s c) r.entry.desc .sending)) (8 + c.val)
      (inqOf s (8 + c.val) ++ (ferryFrames s (coreOf s c) r.entry.desc).map
        fun f => ⟨fFlow r.entry.desc, some c.val, s.memory.nextXfer, f⟩)) :=
  (show execRemoteAccumulate c s = _ from ferryRow_local hc hr hp op hx near)

theorem exec_ferrySignal_local (op : fOp r.entry.desc = 3) : exec (.ferrySignal c) s =
    .next (sendAdd s (setCore s c (ferryCore (coreOf s c) r.entry.desc .ready)) r.entry.desc) :=
  (show execFerrySignal c s = _ from ferryRow_local hc hr hp op hx near).trans (congrArg Host.Outcome.next (landAdd_eq _ _ _ _))

end

theorem inqOf_setInq_ne (s : State) {k i : Nat} (l : List InFrame) (h : i ≠ k) : inqOf (setInq s k l) i = inqOf s i :=
  tblGet_set_ne _ _ _ h

/-- Settles O13, row by row: a faulted context, a strait, and the four operations within the package. -/
theorem ferriesComplete : Obligations.FerriesComplete := by
  intro c s r hc hr hp
  dsimp only
  refine ⟨fun i row hx => ?_, fun i row hx far => ?_, fun hx near => ⟨fun op dest on inside apart => ?_, fun op dest reset => ?_,
    fun op hm alive start lines => ?_, fun op => ?_, fun op => ?_⟩⟩
  · exact runs_of (exec_ferry_faulted hc hr hp row hx) ⟨setCore_onlyCore s c _, coreOf_setCore_self s c _⟩
  · refine runs_of (exec_ferry_strait hc hr hp row hx far) ⟨⟨rfl, fun x hx => coreOf_setCore_ne s _ hx⟩, ?_, fun f hf => ?_, rfl, ?_⟩
    · exact congrArg FlowRt.txq (rtOf_modRt_self _ _ _)
    · exact rtOf_modRt_ne _ _ hf
    · refine (congrArg (fun k => (engineOf k 5).run) (coreOf_setCore_self s c _)).trans ?_
      exact (ferryCore_spec r.entry.desc .sending hr).1
  · obtain ⟨sameReset, sameSlot⟩ := ferryCore_lands s c (coreField (cOutFlow (flowOf s (fFlow r.entry.desc)))) r.entry.desc .ready
    have size := memRead_length (coreOf s c).sram (fSram r.entry.desc) (fBytes r.entry.desc)
    obtain ⟨t, lands, rest, others, same, bytes⟩ := landBytes_lands (bs := memRead (coreOf s c).sram (fSram r.entry.desc) (fBytes r.entry.desc))
      (sameReset.trans on) (by rw [size]; exact inside) (by rw [size, sameSlot]; exact apart)
    rw [size] at same bytes
    have adds := congrArg State.adds rest
    have frame := congrArg (fun u : State => { u with adds := s.adds, cores := s.cores }) rest
    refine runs_of (exec_ferryWriteSram_local hc hr hp hx near op dest lands) ⟨?_, frame, same, fun i hi => ?_, others⟩
    · exact congrArg (· ++ _) adds
    · exact (bytes i hi).trans (memRead_getD _ _ _ _ hi _)
  · obtain ⟨sameReset, -⟩ := ferryCore_lands s c (coreField (cOutFlow (flowOf s (fFlow r.entry.desc)))) r.entry.desc .ready
    exact runs_of (exec_ferryWriteSram_local hc hr hp hx near op dest (landBytes_resetting (sameReset.trans reset))) rfl
  · have runs := exec_ferryWriteMemory_local hc hr hp hx near op hm start lines
    have size := memRead_length (coreOf s c).sram (fSram r.entry.desc) (fBytes r.entry.desc)
    have frame := writeLines_memory (setCore s c (ferryCore (coreOf s c) r.entry.desc .ready)) (fDest r.entry.desc)
      (memRead (coreOf s c).sram (fSram r.entry.desc) (fBytes r.entry.desc)) true
    have mem := writeLines_write (setCore s c (ferryCore (coreOf s c) r.entry.desc .ready)) (fDest r.entry.desc)
      (memRead (coreOf s c).sram (fSram r.entry.desc) (fBytes r.entry.desc)) true
    have bytes := writeLines_byte (setCore s c (ferryCore (coreOf s c) r.entry.desc .ready)) (fDest r.entry.desc)
      (memRead (coreOf s c).sram (fSram r.entry.desc) (fBytes r.entry.desc)) true alive (by rw [size]; exact lines)
    rw [size] at mem bytes
    rw [show 64 * cdiv (fBytes r.entry.desc) 64 = fBytes r.entry.desc by unfold cdiv; omega] at mem
    generalize writeLines _ _ _ _ = t at *
    have adds := congrArg State.adds frame
    have cores := congrArg State.cores frame
    have rest := congrArg (fun u : State => { u with adds := s.adds, cores := s.cores }) frame
    exact runs_of runs ⟨congrArg (· ++ _) adds, rest, cores, mem.2.1, fun i hi => (bytes i hi).trans (memRead_getD _ _ _ _ hi _)⟩
  · refine runs_of (exec_remoteAccumulate_local hc hr hp hx near op) ⟨⟨rfl, fun x hx => coreOf_setCore_ne s _ hx⟩, ?_, rfl, rfl, ?_, fun i hi => ?_⟩
    · refine (congrArg (fun k => (engineOf k 5).run) (coreOf_setCore_self s c _)).trans ?_
      exact (ferryCore_spec r.entry.desc .sending hr).1
    · exact inqOf_setInq_self _ _ _
    · exact inqOf_setInq_ne _ _ hi
  · exact runs_of (exec_ferrySignal_local hc hr hp hx near op) rfl

end Sys2Proof.Machine
end

section
/-! SUPPORT. The matrix engine (04): layout, table load, multiply-accumulate, K-steps. -/

namespace Sys2Proof.Machine

open Sys2Proof

/-! Layout and table load (R117, R136). -/

theorem isOp {d : Line} {n : Nat} (h : mOp d = n) : decide (mOp d = n) = true := decide_eq_true h

/-- A row of the matrix engine that puts its core at a phase: the engine's descriptor, and the rest of the core. -/
theorem putPhase_done {s : State} {c e : Nat} {k : Core} {r : Run} {p : Phase} (hr : (engineOf (coreOf s c) e).run = some r)
    (engines : k.engines = (coreOf s c).engines) :
    engineOf (coreOf (setCore s c (setPhase k e p)) c) e = { engineOf (coreOf s c) e with run := some { r with phase := p } } := by
  have same : engineOf k e = engineOf (coreOf s c) e := congrArg (tblGet engineIdle · e) engines
  rw [coreOf_setCore_self, setPhase_engine p ((congrArg Engine.run same).trans hr), same]

section
variable {c : Fin 576} {s : State} {r : Run} (hc : coreOn s c = true) (hr : (engineOf (coreOf s c) 0).run = some r)
include hc hr

theorem exec_layout (hp : r.phase = .work) (op : mOp r.entry.desc = 2) : exec (.layout c) s =
    if (coreOf s c).drain.isSome then .next s else .next (setCore s c (setPhase (layoutCore (coreOf s c) r.entry.desc) 0 .ready)) :=
  (show execLayout c s = _ from engineRow_runs hc hr hp (isOp op))

theorem exec_matrixTableLoad (hp : r.phase = .work) (op : mOp r.entry.desc = 3) : exec (.matrixTableLoad c) s =
    if (coreOf s c).drain.isSome then .next s
    else .next (setCore s c (setPhase (if fldB r.entry.desc 2 1 = 1 then
        { sramTouch (coreOf s c) (tableAddr r.entry.desc) 8256 with tab1 := some (memRead (coreOf s c).sram (tableAddr r.entry.desc) 8256) }
      else { sramTouch (coreOf s c) (tableAddr r.entry.desc) 8256 with
        tab2 := some (memRead (coreOf s c).sram (tableAddr r.entry.desc) 8256) }) 0 .ready)) :=
  (show execMatrixTableLoad c s = _ from engineRow_runs hc hr hp (isOp op))

end

/-- Settles O16. -/
theorem layoutAndTableLoadComplete : Obligations.LayoutAndTableLoadComplete := by
  intro c s r hc hr hp
  dsimp only
  refine ⟨fun op free => ?_, fun op free => ?_, fun op busy => (exec_layout hc hr hp op).trans (if_pos busy),
    fun op busy => (exec_matrixTableLoad hc hr hp op).trans (if_pos busy)⟩
  · refine runs_of ((exec_layout hc hr hp op).trans (if_neg (by simp [free]))) ⟨setCore_onlyCore s c _, putPhase_done hr rfl, ?_⟩
    rw [coreOf_setCore_self]
    rfl
  · refine runs_of ((exec_matrixTableLoad hc hr hp op).trans (if_neg (by simp [free]))) ⟨setCore_onlyCore s c _, putPhase_done hr ?_, ?_⟩
    · rcases sramTouch_cases (coreOf s c) (tableAddr r.entry.desc) 8256 with same | ⟨-, touched⟩
      · rw [same]
        split <;> rfl
      · rw [touched]
        split <;> rfl
    · rw [coreOf_setCore_self]
      rcases sramTouch_cases (coreOf s c) (tableAddr r.entry.desc) 8256 with same | ⟨-, touched⟩
      · rw [same]
        split <;> rfl
      · rw [touched]
        split <;> rfl

/-! Contexts. -/

@[simp] theorem ctxOf_setCtx_self (k : Core) (i : Nat) (x : AccCtx) : ctxOf (setCtx k i x) i = x := tblGet_set_self _ _ _ _

theorem ctxOf_setCtx_ne (k : Core) {i n : Nat} (x : AccCtx) (h : n ≠ i) : ctxOf (setCtx k i x) n = ctxOf k n := tblGet_set_ne _ _ _ h

/-! Multiply-accumulate (R118, R141). -/

/-- The context as a multiply-accumulate opens it. -/
def openedCtx (k : Core) (d : Line) : AccCtx := openCtx (ctxOf k (mCtx d)) (mInit d) (mTerms d) (fld d 46 6 1 = 1)

theorem openCtx_slot (x : AccCtx) (i t : Nat) (b : Bool) : (openCtx x i t b).slot = x.slot := by
  unfold openCtx
  repeat' split
  all_goals rfl

theorem openCtx_anew {x : AccCtx} {i t : Nat} {b : Bool} (h : i = 1 ∨ (i = 0 ∧ x.isOpen = false)) :
    openCtx x i t b = ⟨true, false, x.slot, 0, true⟩ := by
  unfold openCtx
  rcases h with rfl | ⟨rfl, closed⟩
  · rfl
  · simp [closed]

theorem startsAnew_iff (k : Core) (d : Line) :
    startsAnew k d = true ↔ mInit d = 1 ∨ (mInit d = 0 ∧ (ctxOf k (mCtx d)).isOpen = false) := by
  simp [startsAnew]

/-- The core of a multiply-accumulate before its phase changes. -/
def macCore (k : Core) (d : Line) : Core :=
  if mSteps d = 0 && startsAnew k d then clearTile (setCtx k (mCtx d) (openedCtx k d)) (mCtx d) else setCtx k (mCtx d) (openedCtx k d)

theorem exec_multiplyAccumulate {c : Fin 576} {s : State} {r : Run} (hc : coreOn s c = true) (hr : (engineOf (coreOf s c) 0).run = some r)
    (hp : r.phase = .work) (op : mOp r.entry.desc = 0) : exec (.multiplyAccumulate c) s =
    .next (setCore s c (setPhase (macCore (coreOf s c) r.entry.desc) 0
      (if mSteps r.entry.desc = 0 then afterSteps r.entry.desc else .kStep 0))) :=
  (show execMultiplyAccumulate c s = _ from engineRow_runs hc hr hp (isOp op))

theorem macCore_kept {k : Core} {d : Line} (h : mSteps d ≠ 0 ∨ startsAnew k d = false) : macCore k d = setCtx k (mCtx d) (openedCtx k d) :=
  if_neg (by rcases h with h | h <;> simp [h])

theorem macCore_cleared {k : Core} {d : Line} (h : mSteps d = 0) (anew : startsAnew k d = true) :
    macCore k d = clearTile (setCtx k (mCtx d) (openedCtx k d)) (mCtx d) := if_pos (by simp [h, anew])

theorem clearTile_frame (k : Core) (i : Nat) : { clearTile k i with ctxs := k.ctxs, sram := k.sram, badWords := k.badWords } = k := rfl

theorem macCore_frame (k : Core) (d : Line) :
    { macCore k d with ctxs := k.ctxs, sram := k.sram, badWords := k.badWords } = k ∧ ∀ n, n ≠ mCtx d → ctxOf (macCore k d) n = ctxOf k n := by
  unfold macCore
  split
  · refine ⟨?_, fun n hn => ?_⟩
    · have frame := congrArg (fun x : Core => { x with ctxs := k.ctxs }) (clearTile_frame (setCtx k (mCtx d) (openedCtx k d)) (mCtx d))
      exact frame
    · exact (ctxOf_setCtx_ne _ _ hn).trans (ctxOf_setCtx_ne _ _ hn)
  · exact ⟨rfl, fun n hn => ctxOf_setCtx_ne _ _ hn⟩

theorem macCore_ctx (k : Core) (d : Line) : ctxOf (macCore k d) (mCtx d) =
    if mSteps d = 0 && startsAnew k d then { openedCtx k d with zero := false } else openedCtx k d := by
  unfold macCore
  split
  · exact (ctxOf_setCtx_self _ _ _).trans (congrArg (fun x : AccCtx => { x with zero := false }) (ctxOf_setCtx_self k (mCtx d) (openedCtx k d)))
  · exact ctxOf_setCtx_self _ _ _

theorem macCore_slot (k : Core) (d : Line) :
    ctxSlot (setCtx k (mCtx d) (openedCtx k d)) (mCtx d) = ctxSlot k (mCtx d) := by
  unfold ctxSlot
  rw [ctxOf_setCtx_self, openedCtx, openCtx_slot]

theorem clearTile_sram (k : Core) (i : Nat) :
    (clearTile k i).sram = memWrite k.sram (slotAddr k (ctxSlot k i)) (List.replicate (slotBytes k) 0) := rfl

theorem slotAddr_setCtx (k : Core) (i j : Nat) (x : AccCtx) : slotAddr (setCtx k i x) j = slotAddr k j := rfl

theorem slotBytes_setCtx (k : Core) (i : Nat) (x : AccCtx) : slotBytes (setCtx k i x) = slotBytes k := rfl

theorem setCtx_sram (k : Core) (i : Nat) (x : AccCtx) : (setCtx k i x).sram = k.sram := rfl

theorem macCore_sram {k : Core} {d : Line} (h : mSteps d = 0) (anew : startsAnew k d = true) :
    SramSame k (macCore k d) [(slotAddr k (ctxSlot k (mCtx d)), slotBytes k)] ∧
      ∀ i < slotBytes k, memGet (macCore k d).sram (slotAddr k (ctxSlot k (mCtx d)) + i) = 0 := by
  have sram : (macCore k d).sram = memWrite k.sram (slotAddr k (ctxSlot k (mCtx d))) (List.replicate (slotBytes k) 0) := by
    rw [macCore_cleared h anew, clearTile_sram, macCore_slot, slotAddr_setCtx, slotBytes_setCtx, setCtx_sram]
  refine ⟨fun a ha => ?_, fun i hi => ?_⟩
  · have out := ha (slotAddr k (ctxSlot k (mCtx d)), slotBytes k) (by simp)
    rw [sram]
    exact memGet_memWrite_out _ _ _ _ (by simp only [List.length_replicate]; dsimp only at out; omega)
  · rw [sram, memGet_memWrite_in _ _ _ _ (by simpa using hi)]
    simp [List.getD_eq_getElem?_getD, hi]

/-! K-steps (R111–R114, R121–R125). -/

theorem f32Bytes_eq (vs : List FV) : f32Bytes vs = vs.flatMap fun v => leBytes 4 (toF32 v) := rfl

/-- Four bytes of each value, in order. -/
theorem f32Bytes_length (vs : List FV) : (f32Bytes vs).length = 4 * vs.length := by
  simp [f32Bytes, List.length_flatMap, leBytes_length, Nat.mul_comm]

theorem f32Bytes_getD : ∀ (vs : List FV) (e i : Nat) (he : e < vs.length), i < 4 →
    (f32Bytes vs).getD (4 * e + i) 0 = (leBytes 4 (toF32 vs[e])).getD i 0
  | v :: vs, 0, i, _, hi => by
    simp only [f32Bytes, List.flatMap_cons, List.getD_eq_getElem?_getD, Nat.mul_zero, Nat.zero_add]
    rw [List.getElem?_append_left (by rw [leBytes_length]; exact hi)]
    rfl
  | v :: vs, e + 1, i, he, hi => by
    have rest := f32Bytes_getD vs e i (by simpa using he) hi
    simp only [f32Bytes, List.flatMap_cons, List.getD_eq_getElem?_getD] at rest ⊢
    rw [List.getElem?_append_right (by rw [leBytes_length]; omega), leBytes_length, show 4 * (e + 1) + i - 4 = 4 * e + i by omega, rest]
    rfl

/-- A value of a plane of FP32 numbers that a write put at an address. -/
theorem memNat_f32 {m : Mem} {a o : Nat} {bs : List Byte} {vs : List FV} (h : ∀ i, i < 4 * vs.length → bs.getD (o + i) 0 = (f32Bytes vs).getD i 0)
    (long : o + 4 * vs.length ≤ bs.length) {e : Nat} (he : e < vs.length) :
    memNat (memWrite m a bs) (a + o + 4 * e) 4 = toF32 vs[e] % 2 ^ 32 := by
  refine memNat_of_leBytes (n := 4) fun i hi => ?_
  rw [show a + o + 4 * e + i = a + (o + (4 * e + i)) by omega, memGet_memWrite_in _ _ _ _ (by omega), h _ (by omega), f32Bytes_getD vs e i he hi]

/-- The sums of a K-step, in the order of the tile's elements. -/
def stepSums (k : Core) (d : Line) (j : Nat) : List FV :=
  let ks := span (128 * j) (min 128 (mK d - 128 * j))
  (operandRows k (operandA k d) ks).flatMap fun a => (operandRows k (operandB k d) ks).map fun b => treeSum a b

theorem operandRows_length (k : Core) (o : Operand) (ks : List Nat) : (operandRows k o ks).length = o.outer := by simp [operandRows]

theorem stepSums_length (k : Core) (d : Line) (j : Nat) : (stepSums k d j).length = shapeRows k.shape * shapeCols k.shape := by
  simp [stepSums, List.length_flatMap, operandRows_length, operandA, operandB]

/-- Elements of equal rows, one row behind the other. -/
theorem flatMap_map_getElem? {α β γ : Type} (f : α → β → γ) {bs : List β} {n : Nat} (hn : bs.length = n) :
    ∀ (as : List α) (i j : Nat) (hi : i < as.length) (hj : j < bs.length), (as.flatMap fun a => bs.map (f a))[i * n + j]? = some (f as[i] bs[j])
  | a :: as, 0, j, _, hj => by
    rw [List.flatMap_cons, List.getElem?_append_left (by simpa using hj)]
    simp [hj]
  | a :: as, i + 1, j, hi, hj => by
    rw [List.flatMap_cons, List.getElem?_append_right (by simp [Nat.succ_mul, hn]; omega), List.length_map, hn,
      show (i + 1) * n + j - n = i * n + j by rw [Nat.succ_mul]; omega]
    exact flatMap_map_getElem? f hn as i j (by simpa using hi) hj

theorem stepSums_at (k : Core) (d : Line) (j : Nat) {a b : Nat} (ha : a < shapeRows k.shape) (hb : b < shapeCols k.shape) :
    let ks := span (128 * j) (min 128 (mK d - 128 * j))
    (stepSums k d j)[a * shapeCols k.shape + b]? =
      some (treeSum (ks.map (operandElem k (operandA k d) a)) (ks.map (operandElem k (operandB k d) b))) := by
  have rows : (operandRows k (operandA k d) (span (128 * j) (min 128 (mK d - 128 * j)))).length = shapeRows k.shape := operandRows_length _ _ _
  have cols : (operandRows k (operandB k d) (span (128 * j) (min 128 (mK d - 128 * j)))).length = shapeCols k.shape := operandRows_length _ _ _
  refine (flatMap_map_getElem? treeSum cols _ a b (rows.symm ▸ ha) (cols.symm ▸ hb)).trans ?_
  simp [operandRows]

/-- A value for each element, from the element's sum and its number. -/
def tileValues (f : FV → Nat → FV) (sums : List FV) : List FV := (sums.zip (List.range sums.length)).map fun x => f x.1 x.2

theorem tileValues_length (f : FV → Nat → FV) (sums : List FV) : (tileValues f sums).length = sums.length := by simp [tileValues]

theorem tileValues_getElem {f : FV → Nat → FV} {sums : List FV} {e : Nat} {v : FV} (h : sums[e]? = some v) :
    ∃ lt : e < (tileValues f sums).length, (tileValues f sums)[e] = f v e := by
  obtain ⟨lt, rfl⟩ := List.getElem?_eq_some_iff.mp h
  exact ⟨by rwa [tileValues_length], by simp [tileValues]⟩

/-- The head of an element after a plain update, and head and tail after a compensated one. -/
def plainValue (k : Core) (zero : Bool) (slot : Nat) (v : FV) (e : Nat) : FV := updatePlain (tileElem k zero false slot e) v

def compValue (k : Core) (zero : Bool) (slot : Nat) (v : FV) (e : Nat) : FV × FV :=
  updateComp (tileElem k zero false slot e) (tileElem k zero true slot e) v

/-- What a K-step writes in its slot. -/
def stepBytes (k : Core) (d : Line) (j : Nat) : List Byte :=
  let x := ctxOf k (mCtx d)
  let slot := ctxSlot k (mCtx d)
  if k.comp then
    f32Bytes (tileValues (fun v e => (compValue k x.zero slot v e).1) (stepSums k d j)) ++
      f32Bytes (tileValues (fun v e => (compValue k x.zero slot v e).2) (stepSums k d j))
  else f32Bytes (tileValues (plainValue k x.zero slot) (stepSums k d j))

/-- What it reads. -/
def stepRanges (k : Core) (d : Line) (j : Nat) : List Range :=
  let ks := span (128 * j) (min 128 (mK d - 128 * j))
  stepReads (operandA k d) ks ++ stepReads (operandB k d) ks ++
    if (ctxOf k (mCtx d)).zero then [] else [(slotAddr k (ctxSlot k (mCtx d)), slotBytes k)]

theorem slotAddr_touches (k : Core) (rs : List Range) (j : Nat) : slotAddr (sramTouches k rs) j = slotAddr k j := by
  rcases sramTouches_cases k rs with same | ⟨-, touched⟩
  · rw [same]
  · rw [touched]
    rfl

theorem kStepEff_eq (k : Core) (d : Line) (j : Nat) : kStepEff k d j =
    setCtx (sramWrite (sramTouches k (stepRanges k d j)) (slotAddr k (ctxSlot k (mCtx d))) (stepBytes k d j)) (mCtx d)
      (countTerm (ctxOf k (mCtx d))) := by
  rw [← slotAddr_touches k (stepRanges k d j)]
  unfold kStepEff stepBytes tileValues stepSums
  simp only [List.map_map]
  rfl

theorem stepBytes_length (k : Core) (d : Line) (j : Nat) : (stepBytes k d j).length = slotBytes k := by
  unfold stepBytes slotBytes
  dsimp only
  split
  · simp only [List.length_append, f32Bytes_length, tileValues_length, stepSums_length]
    omega
  · simp only [f32Bytes_length, tileValues_length, stepSums_length]
    omega

/-- The core after a K-step: its slot takes the bytes, its context one more term. -/
theorem kStepEff_spec (k : Core) (d : Line) (j : Nat) :
    (kStepEff k d j).engines = k.engines ∧ ctxOf (kStepEff k d j) (mCtx d) = countTerm (ctxOf k (mCtx d)) ∧
    (∀ n, n ≠ mCtx d → ctxOf (kStepEff k d j) n = ctxOf k n) ∧
    (kStepEff k d j).sram = memWrite k.sram (slotAddr k (ctxSlot k (mCtx d))) (stepBytes k d j) := by
  rw [kStepEff_eq]
  rcases sramTouches_cases k (stepRanges k d j) with same | ⟨-, touched⟩
  · rw [same]
    exact ⟨rfl, ctxOf_setCtx_self _ _ _, fun n hn => ctxOf_setCtx_ne _ _ hn, rfl⟩
  · rw [touched]
    exact ⟨rfl, ctxOf_setCtx_self _ _ _, fun n hn => ctxOf_setCtx_ne _ _ hn, rfl⟩

theorem stepBytes_plain {k : Core} (d : Line) (j : Nat) (h : k.comp = false) {a b : Nat} {v : FV}
    (hv : (stepSums k d j)[a * shapeCols k.shape + b]? = some v) :
    memNat (memWrite k.sram (slotAddr k (ctxSlot k (mCtx d))) (stepBytes k d j)) (headAddr k (ctxSlot k (mCtx d)) (a * shapeCols k.shape + b)) 4 =
      toF32 (plainValue k (ctxOf k (mCtx d)).zero (ctxSlot k (mCtx d)) v (a * shapeCols k.shape + b)) % 2 ^ 32 := by
  obtain ⟨lt, value⟩ := tileValues_getElem (f := plainValue k (ctxOf k (mCtx d)).zero (ctxSlot k (mCtx d))) hv
  have bytes : stepBytes k d j = f32Bytes (tileValues (plainValue k (ctxOf k (mCtx d)).zero (ctxSlot k (mCtx d))) (stepSums k d j)) :=
    if_neg (by simp [h])
  rw [← value, bytes]
  exact memNat_f32 (o := 0) (fun i _ => by rw [Nat.zero_add]) (by rw [f32Bytes_length]; omega) lt

theorem stepBytes_comp {k : Core} (d : Line) (j : Nat) (h : k.comp = true) {a b : Nat} {v : FV}
    (hv : (stepSums k d j)[a * shapeCols k.shape + b]? = some v) :
    let e := a * shapeCols k.shape + b
    let slot := ctxSlot k (mCtx d)
    let ht := compValue k (ctxOf k (mCtx d)).zero slot v e
    memNat (memWrite k.sram (slotAddr k slot) (stepBytes k d j)) (headAddr k slot e) 4 = toF32 ht.1 % 2 ^ 32 ∧
      memNat (memWrite k.sram (slotAddr k slot) (stepBytes k d j)) (tailAddr k slot e) 4 = toF32 ht.2 % 2 ^ 32 := by
  intro e slot ht
  obtain ⟨ltH, head⟩ := tileValues_getElem (f := fun v e => (compValue k (ctxOf k (mCtx d)).zero slot v e).1) hv
  obtain ⟨ltT, tail⟩ := tileValues_getElem (f := fun v e => (compValue k (ctxOf k (mCtx d)).zero slot v e).2) hv
  have bytes : stepBytes k d j = f32Bytes (tileValues (fun v e => (compValue k (ctxOf k (mCtx d)).zero slot v e).1) (stepSums k d j)) ++
      f32Bytes (tileValues (fun v e => (compValue k (ctxOf k (mCtx d)).zero slot v e).2) (stepSums k d j)) := if_pos h
  rw [show toF32 ht.1 = _ from congrArg toF32 head.symm, show toF32 ht.2 = _ from congrArg toF32 tail.symm, bytes]
  refine ⟨memNat_f32 (o := 0) (fun i hi => ?_) (by simp only [List.length_append, f32Bytes_length]; omega) ltH, ?_⟩
  · simp only [List.getD_eq_getElem?_getD, Nat.zero_add]
    rw [List.getElem?_append_left (by rwa [f32Bytes_length])]
  · have plane : 4 * (shapeRows k.shape * shapeCols k.shape) =
        (f32Bytes (tileValues (fun v e => (compValue k (ctxOf k (mCtx d)).zero slot v e).1) (stepSums k d j))).length := by
      rw [f32Bytes_length, tileValues_length, stepSums_length]
    unfold tailAddr
    rw [plane]
    refine memNat_f32 (fun i _ => ?_) (by simp only [List.length_append, f32Bytes_length]; omega) ltT
    simp only [List.getD_eq_getElem?_getD]
    rw [List.getElem?_append_right (by omega), Nat.add_sub_cancel_left]

theorem exec_kStepUpdate {c : Fin 576} {s : State} {r : Run} {j : Nat} (hc : coreOn s c = true)
    (hr : (engineOf (coreOf s c) 0).run = some r) (hp : r.phase = .kStep j) : exec (.kStepUpdate c) s =
    .next (setCore s c (setPhase (kStepEff (coreOf s c) r.entry.desc j) 0
      (if j + 1 < mSteps r.entry.desc then .kStep (j + 1) else afterSteps r.entry.desc))) := by
  change execKStepUpdate c s = _
  unfold execKStepUpdate
  rw [hr]
  dsimp only
  rw [hp]
  dsimp only
  rw [hc, when_true]

theorem ctxOf_setPhase (k : Core) (e : Nat) (p : Phase) (n : Nat) : ctxOf (setPhase k e p) n = ctxOf k n := rfl

theorem setPhase_sram (k : Core) (e : Nat) (p : Phase) : (setPhase k e p).sram = k.sram := rfl

theorem setPhase_badWords (k : Core) (e : Nat) (p : Phase) : (setPhase k e p).badWords = k.badWords := rfl

/-- Settles O14. -/
theorem multiplyAccumulateUpdatesSlots : Obligations.MultiplyAccumulateUpdatesSlots := by
  refine ⟨fun c s r hc hr hp => ?_, fun c s r j hc hr hp => ?_⟩
  · dsimp only
    intro op
    have anewIff := startsAnew_iff (coreOf s c) r.entry.desc
    obtain ⟨frame, others⟩ := macCore_frame (coreOf s c) r.entry.desc
    have ctx := macCore_ctx (coreOf s c) r.entry.desc
    have engines : (macCore (coreOf s c) r.entry.desc).engines = (coreOf s c).engines := by
      have same := congrArg Core.engines frame
      exact same
    have rest := congrArg (fun k : Core => { k with engines := (coreOf s c).engines }) frame
    refine runs_of (exec_multiplyAccumulate hc hr hp op) ⟨setCore_onlyCore s c _, ?_⟩
    have engine := putPhase_done (p := if mSteps r.entry.desc = 0 then afterSteps r.entry.desc else .kStep 0) hr engines
    rw [coreOf_setCore_self] at engine ⊢
    rw [engine]
    simp only [ctxOf_setPhase, setPhase_sram, setPhase_badWords]
    refine ⟨rest, fun kept => ?_, fun none anew => macCore_sram none (anewIff.mpr anew), fun two => ?_, fun anew => ?_, fun zero isOpen => ?_, others, ?_⟩
    · rw [macCore_kept (kept.imp_right fun h => Bool.eq_false_iff.mpr fun anew => h (anewIff.mp anew))]
      exact ⟨rfl, rfl⟩
    · rw [ctx, if_neg (by simp [startsAnew, two]), openedCtx, openCtx, if_pos two]
    · rw [ctx, openedCtx, openCtx_anew anew, anewIff.mpr anew]
      by_cases none : mSteps r.entry.desc = 0 <;> simp [none]
    · rw [ctx, if_neg (by simp [startsAnew, zero, isOpen]), openedCtx, openCtx, zero]
      simp [isOpen]
    · by_cases none : mSteps r.entry.desc = 0
      · simp only [none, if_true, ne_eq, not_true_eq_false, if_false]
        rfl
      · simp only [none, if_false, ne_eq, not_false_eq_true, if_true]
  · dsimp only
    obtain ⟨engines, ctx, others, sram⟩ := kStepEff_spec (coreOf s c) r.entry.desc j
    refine runs_of (exec_kStepUpdate hc hr hp) ⟨setCore_onlyCore s c _, ?_⟩
    have engine := putPhase_done (p := if j + 1 < mSteps r.entry.desc then .kStep (j + 1) else afterSteps r.entry.desc) hr engines
    unfold SramSame
    rw [coreOf_setCore_self] at engine ⊢
    rw [engine]
    simp only [ctxOf_setPhase, setPhase_sram]
    refine ⟨fun a ha => ?_, ctx, others, rfl, fun a ha b hb => ⟨fun plain => ?_, fun comp => ?_⟩⟩
    · have out := ha (slotAddr (coreOf s c) (ctxSlot (coreOf s c) (mCtx r.entry.desc)), slotBytes (coreOf s c)) (by simp)
      rw [sram]
      exact memGet_memWrite_out _ _ _ _ (by rw [stepBytes_length]; dsimp only at out; omega)
    · rw [sram]
      exact stepBytes_plain _ j plain (stepSums_at _ _ j ha hb)
    · rw [sram]
      exact stepBytes_comp _ j comp (stepSums_at _ _ j ha hb)

end Sys2Proof.Machine
end

section
/-! SUPPORT. Handoff and drain of the matrix engine (04, R119, R120, R130, R132, R138, R139). -/

namespace Sys2Proof.Machine

open Sys2Proof

/-! Handoff. -/

/-- The core once the handoff has read DRAIN_DESC. -/
def handoffRead (k : Core) (d : Line) : Core := if mOp d = 1 then k else sramTouch k (0x600000 + 64 * mDrainDesc d) 64

theorem handoffRead_cases (k : Core) (d : Line) :
    handoffRead k d = k ∨ (k.badWords.any (·.2) = true ∧ handoffRead k d = coreErr k errSram) := by
  unfold handoffRead
  split
  · exact .inl rfl
  · exact sramTouch_cases _ _ _

theorem handoffRead_frame (k : Core) (d : Line) : (handoffRead k d).engines = k.engines ∧ (handoffRead k d).sram = k.sram ∧
    (handoffRead k d).ctxs = k.ctxs ∧ (handoffRead k d).drainSlot = k.drainSlot := by
  rcases handoffRead_cases k d with same | ⟨-, touched⟩
  · rw [same]
    exact ⟨rfl, rfl, rfl, rfl⟩
  · rw [touched]
    exact ⟨rfl, rfl, rfl, rfl⟩

theorem handoffEff_eq (s : State) (c : Nat) (k : Core) (d : Line) : handoffEff s c k d =
    let dd := handoffDesc k d
    let k1 := handoffRead k d
    if mOp d ≠ 1 ∧ (drainBad k1 dd || drainAbsent s dd) = true then .next (setCore s c (descBad k1 0))
    else if (drainOutputs k1 dd ++ drainInputs k1 dd).all inOperands = false then .fault (.sramRange (keptOf s))
    else if writesClash s c 6 [] (drainOutputs k1 dd) = true then .fault (.writeOverlap (keptOf s))
    else .next (setCore s c (setPhase (handoffCore k1 (handoffCtx d) dd) 0 .ready)) := by
  unfold handoffEff handoffRead isDrain undefinedCase
  simp only [decide_eq_true_eq, Bool.and_eq_true, Bool.not_eq_true', decide_eq_false_iff_not]

section
variable {s : State} {c : Nat} {k : Core} {d : Line}
variable (good : mOp d = 1 ∨ (drainBad (handoffRead k d) (handoffDesc k d) || drainAbsent s (handoffDesc k d)) = false)
variable (inside : (drainOutputs (handoffRead k d) (handoffDesc k d) ++ drainInputs (handoffRead k d) (handoffDesc k d)).all inOperands = true)
include good inside

theorem handoffEff_clash (clashes : writesClash s c 6 [] (drainOutputs (handoffRead k d) (handoffDesc k d)) = true) :
    handoffEff s c k d = .fault (.writeOverlap (keptOf s)) := by
  rw [handoffEff_eq]
  exact (if_neg fun wrong => Bool.false_ne_true ((good.resolve_left wrong.1).symm.trans wrong.2)).trans
    ((if_neg fun outside => Bool.false_ne_true (outside.symm.trans inside)).trans (if_pos clashes))

theorem handoffEff_goes (apart : writesClash s c 6 [] (drainOutputs (handoffRead k d) (handoffDesc k d)) = false) :
    handoffEff s c k d = .next (setCore s c (setPhase (handoffCore (handoffRead k d) (handoffCtx d) (handoffDesc k d)) 0 .ready)) := by
  rw [handoffEff_eq]
  exact (if_neg fun wrong => Bool.false_ne_true ((good.resolve_left wrong.1).symm.trans wrong.2)).trans
    ((if_neg fun outside => Bool.false_ne_true (outside.symm.trans inside)).trans (if_neg (Bool.eq_false_iff.mp apart)))

end

theorem handoffEff_wrong {s : State} {c : Nat} {k : Core} {d : Line} (named : mOp d ≠ 1)
    (wrong : (drainBad (handoffRead k d) (handoffDesc k d) || drainAbsent s (handoffDesc k d)) = true) :
    handoffEff s c k d = .next (setCore s c (descBad (handoffRead k d) 0)) := by
  rw [handoffEff_eq]
  exact if_pos ⟨named, wrong⟩

theorem exec_handoff {c : Fin 576} {s : State} {r : Run} (hc : coreOn s c = true) (hr : (engineOf (coreOf s c) 0).run = some r)
    (hp : r.phase = .handoff) :
    exec (.handoff c) s = if (coreOf s c).drain.isSome then .next s else handoffEff s c (coreOf s c) r.entry.desc :=
  (show execHandoff c s = _ from engineRow_runs hc hr hp rfl)

/-- What the exchange of slots leaves (R119). -/
theorem handoffCore_spec (k : Core) (i : Nat) (d : Line) :
    (handoffCore k i d).engines = k.engines ∧ (handoffCore k i d).sram = k.sram ∧ (handoffCore k i d).drainSlot = ctxSlot k i ∧
    ctxSlot (handoffCore k i d) i = k.drainSlot ∧ ctxOf (handoffCore k i d) i = { ctxReset with slot := slotField i k.drainSlot } ∧
    (∀ n, n ≠ i → ctxOf (handoffCore k i d) n = ctxOf k n) ∧
    (handoffCore k i d).drain = some ⟨d, i, if (ctxOf k i).isOpen then (ctxOf k i).terms else 0, (ctxOf k i).isOpen && (ctxOf k i).bound,
      !(ctxOf k i).isOpen || (ctxOf k i).zero, drainOutputs k d⟩ := by
  have ctx : ctxOf (handoffCore k i d) i = { ctxReset with slot := slotField i k.drainSlot } := ctxOf_setCtx_self _ _ _
  refine ⟨rfl, rfl, rfl, ?_, ctx, fun n hn => ctxOf_setCtx_ne _ _ hn, rfl⟩
  unfold ctxSlot
  rw [ctx]
  unfold slotField
  split
  · next same => exact same
  · rfl

/-! What a drain writes. -/

/-- The rows of a drained tile, each in the output format. -/
def drainRows (k : Core) (dr : Drain) : List (List FV) :=
  (List.range (shapeRows k.shape)).map fun r => (List.range (shapeCols k.shape)).map (drainElem k dr r)

def drainCodes (k : Core) (dr : Drain) : List ((List Byte × List Byte × Bool) × Nat) :=
  ((drainRows k dr).map (encodeRow (dOut dr.desc))).zip (List.range ((drainRows k dr).map (encodeRow (dOut dr.desc))).length)

/-- The status word of a drain. -/
def drainWord (k : Core) (dr : Drain) : Nat :=
  drainStatus dr k.comp (((drainRows k dr).map (encodeRow (dOut dr.desc))).any (·.2.2)) ((drainRows k dr).any fun r => r.any fvNonFinite)

def drainWrites (k : Core) (dr : Drain) : List (Nat × List Byte) :=
  (drainCodes k dr).map (fun x => (fldB dr.desc 8 4 + x.2 * (fldB dr.desc 12 4 / 64 * 64), x.1.1)) ++
    (if fmtMX (dOut dr.desc) then (drainCodes k dr).map (fun x => (fldB dr.desc 40 4 + x.2 * (fldB dr.desc 44 4 / 4 * 4), x.1.2.1)) else []) ++
    (if dNoStatus dr.desc then [] else [(dStatusAddr dr.desc, leBytes 4 (drainWord k dr))])

theorem packCodes_length (bits : Nat) (cs : List Nat) : (packCodes bits cs).length = cdiv (bits * cs.length) 8 := leBytes_length _ _

theorem encMXBlock_length (c : Nat) (vs : List FV) : (encMXBlock c vs).2.1.length = vs.length := by
  unfold encMXBlock
  split <;> simp

/-- Blocks of 32 of a row whose length is a multiple of 32. -/
theorem blocks32_full : ∀ (fuel n : Nat) (vs : List FV), vs.length = 32 * n → n < fuel →
    (blocks32 fuel vs).length = n ∧ ∀ b ∈ blocks32 fuel vs, b.length = 32
  | 0, n, _, _, h => by omega
  | fuel + 1, 0, vs, hl, _ => by
    have none : vs = [] := List.length_eq_zero_iff.mp (by omega)
    subst none
    exact ⟨rfl, nofun⟩
  | fuel + 1, n + 1, vs, hl, h => by
    have some : vs.isEmpty = false := by
      rw [Bool.eq_false_iff, ne_eq, List.isEmpty_iff]
      rintro rfl
      simp at hl
    obtain ⟨length, blocks⟩ := blocks32_full fuel n (vs.drop 32) (by rw [List.length_drop]; omega) (by omega)
    unfold blocks32
    rw [some]
    refine ⟨congrArg (· + 1) length, fun b hb => ?_⟩
    rcases List.mem_cons.mp hb with rfl | hb
    · rw [List.length_take]
      omega
    · exact blocks b hb

theorem length_flatMap_const {α β : Type} (f : α → List β) {n : Nat} : ∀ l : List α, (∀ a ∈ l, (f a).length = n) → (l.flatMap f).length = l.length * n
  | [], _ => by simp
  | a :: l, h => by
    rw [List.flatMap_cons, List.length_append, h a List.mem_cons_self, length_flatMap_const f l fun b hb => h b (List.mem_cons_of_mem _ hb),
      List.length_cons, Nat.succ_mul, Nat.add_comm]

/-- A row of whole blocks takes the bytes of its elements, and a scale per block in an MX format. -/
theorem encodeRow_length (fmt : Nat) {vs : List FV} {n : Nat} (h : vs.length = 32 * n) :
    (encodeRow fmt vs).1.length = rowBytes fmt (32 * n) ∧ (fmtMX fmt = true → (encodeRow fmt vs).2.1.length = n) := by
  unfold encodeRow
  dsimp only
  split
  · obtain ⟨length, blocks⟩ := blocks32_full (vs.length + 1) n vs h (by omega)
    refine ⟨?_, fun _ => by simp [length]⟩
    rw [packCodes_length, length_flatMap_const (n := 32)]
    · rw [List.length_map, length, Nat.mul_comm n]
      rfl
    · intro b hb
      obtain ⟨v, hv, rfl⟩ := List.mem_map.mp hb
      rw [encMXBlock_length, List.length_append, List.length_replicate, blocks v hv]
  · next plain =>
    refine ⟨?_, fun mx => absurd mx plain⟩
    rw [packCodes_length, List.length_map, List.length_map, h]
    rfl

theorem shapeCols_blocks (shape : Nat) : shapeCols shape = 32 * (shapeCols shape / 32) := by
  unfold shapeCols
  split <;> rfl

/-- A coded row of a drain: its number lies in the tile, and it is as long as the format asks. -/
theorem mem_drainCodes {k : Core} {dr : Drain} {x : (List Byte × List Byte × Bool) × Nat} (h : x ∈ drainCodes k dr) :
    x.2 < shapeRows k.shape ∧ x.1.1.length = rowBytes (dOut dr.desc) (shapeCols k.shape) ∧
      (fmtMX (dOut dr.desc) = true → x.1.2.1.length = shapeCols k.shape / 32) := by
  obtain ⟨code, number⟩ := List.of_mem_zip h
  obtain ⟨row, hrow, same⟩ := List.mem_map.mp code
  obtain ⟨n, -, rfl⟩ := List.mem_map.mp hrow
  have lengths := encodeRow_length (dOut dr.desc) (n := shapeCols k.shape / 32)
    (vs := (List.range (shapeCols k.shape)).map (drainElem k dr n)) (by simpa using shapeCols_blocks k.shape)
  rw [same, ← shapeCols_blocks] at lengths
  refine ⟨?_, lengths⟩
  simpa [drainRows] using number

/-- Each write of a drain is one of its output ranges. -/
theorem drainWrites_mem {k : Core} {dr : Drain} {w : Nat × List Byte} (h : w ∈ drainWrites k dr) :
    (w.1, w.2.length) ∈ drainOutputs k dr.desc := by
  unfold drainWrites at h
  unfold drainOutputs
  dsimp only
  rw [List.mem_append, List.mem_append] at h ⊢
  rcases h with (row | scale) | status
  · obtain ⟨x, hx, rfl⟩ := List.mem_map.mp row
    obtain ⟨lt, length, -⟩ := mem_drainCodes hx
    exact .inl (.inl (List.mem_map.mpr ⟨x.2, List.mem_range.mpr lt, by rw [length]⟩))
  · split at scale
    · next mx =>
      obtain ⟨x, hx, rfl⟩ := List.mem_map.mp scale
      obtain ⟨lt, -, length⟩ := mem_drainCodes hx
      rw [if_pos mx]
      exact .inl (.inr (List.mem_map.mpr ⟨x.2, List.mem_range.mpr lt, by rw [length mx]⟩))
    · exact absurd scale List.not_mem_nil
  · split at status
    · exact absurd status List.not_mem_nil
    · next shown =>
      rw [if_neg shown]
      obtain rfl := List.mem_singleton.mp status
      exact .inr (List.mem_singleton.mpr (by rw [leBytes_length]))

/-! The end of a drain. -/

/-- The core once a drain has read its inputs and tables. -/
def drainRead (k : Core) (dr : Drain) : Core :=
  let k1 := sramTouches k (drainInputs k dr.desc ++ if dr.zero then [] else [(slotAddr k k.drainSlot, slotBytes k)])
  if (dTab1 dr.desc && k.tab1.isNone) || (dTab2 dr.desc && k.tab2.isNone) then coreErr k1 errTable else k1

theorem drainEff_eq (k : Core) (dr : Drain) : drainEff k dr =
    let k1 := { sramWrites (drainRead k dr) (drainWrites k dr) with drainStat := reg (drainWord k dr), drain := none }
    let k2 := semAdd k1 (fldB dr.desc 36 1) (fldB dr.desc 38 2)
    if dSetF2 dr.desc then flagPut k2 2 true else k2 := rfl

/-- A core whose CORE_ERR and flags alone changed, flags F1 at most. -/
structure Reported (k k' : Core) : Prop where
  rest : { k' with err := k.err, flags := k.flags } = k
  flags : k'.flags = k.flags ∨ k'.flags = k.flags ||| 2

theorem Reported.refl (k : Core) : Reported k k := ⟨rfl, .inl rfl⟩

theorem Reported.coreErr {k k' : Core} (h : Reported k k') (b : Nat) : Reported k (coreErr k' b) := by
  refine ⟨h.rest, .inr ?_⟩
  rcases h.flags with same | set
  · exact congrArg (· ||| 2) same
  · refine (congrArg (· ||| 2) set).trans ?_
    rw [BitVec.or_assoc]
    rfl

theorem Reported.touches (k : Core) (rs : List Range) : Reported k (sramTouches k rs) := by
  rcases sramTouches_cases k rs with same | ⟨-, touched⟩
  · rw [same]
    exact .refl k
  · rw [touched]
    exact (Reported.refl k).coreErr errSram

theorem drainRead_reported (k : Core) (dr : Drain) : Reported k (drainRead k dr) := by
  unfold drainRead
  dsimp only
  split
  · exact (Reported.touches _ _).coreErr _
  · exact .touches _ _

theorem getLsbD_or_two (f : BitVec 8) : (f ||| 2).getLsbD 2 = f.getLsbD 2 := by simp

/-- What a drain leaves of its core. -/
theorem drainEff_spec (k : Core) (dr : Drain) :
    (drainEff k dr).drain = none ∧ (drainEff k dr).ctxs = k.ctxs ∧ (drainEff k dr).drainStat = reg (drainWord k dr) ∧
    (drainEff k dr).sram = (sramWrites (drainRead k dr) (drainWrites k dr)).sram ∧
    (drainEff k dr).sems = (if fldB dr.desc 36 1 < 48 then
      tblSet 0 k.sems (fldB dr.desc 36 1) (min 65535 (tblGet 0 k.sems (fldB dr.desc 36 1) + fldB dr.desc 38 2)) else k.sems) ∧
    (drainEff k dr).flags.getLsbD 2 = (k.flags.getLsbD 2 || dSetF2 dr.desc) := by
  obtain ⟨rest, flags⟩ := drainRead_reported k dr
  have writes := sramWrites_core (drainWrites k dr) (drainRead k dr)
  have writtenCtxs := congrArg Core.ctxs writes
  have writtenSems := congrArg Core.sems writes
  have writtenFlags := congrArg Core.flags writes
  have ctxs := congrArg Core.ctxs rest
  have sems := congrArg Core.sems rest
  dsimp only at writtenCtxs writtenSems writtenFlags ctxs sems
  have bit2 : (drainRead k dr).flags.getLsbD 2 = k.flags.getLsbD 2 := by
    rcases flags with same | set
    · rw [same]
    · rw [set, getLsbD_or_two]
  rw [drainEff_eq]
  dsimp only
  generalize hk1 : ({ sramWrites (drainRead k dr) (drainWrites k dr) with drainStat := reg (drainWord k dr), drain := none } : Core) = k1
  have sum : (semAdd k1 (fldB dr.desc 36 1) (fldB dr.desc 38 2)).drain = none ∧
      (semAdd k1 (fldB dr.desc 36 1) (fldB dr.desc 38 2)).ctxs = k.ctxs ∧
      (semAdd k1 (fldB dr.desc 36 1) (fldB dr.desc 38 2)).drainStat = reg (drainWord k dr) ∧
      (semAdd k1 (fldB dr.desc 36 1) (fldB dr.desc 38 2)).sram = (sramWrites (drainRead k dr) (drainWrites k dr)).sram ∧
      (semAdd k1 (fldB dr.desc 36 1) (fldB dr.desc 38 2)).sems = (if fldB dr.desc 36 1 < 48 then
        tblSet 0 k.sems (fldB dr.desc 36 1) (min 65535 (tblGet 0 k.sems (fldB dr.desc 36 1) + fldB dr.desc 38 2)) else k.sems) ∧
      (semAdd k1 (fldB dr.desc 36 1) (fldB dr.desc 38 2)).flags.getLsbD 2 = k.flags.getLsbD 2 := by
    subst hk1
    by_cases named : fldB dr.desc 36 1 < 48
    · rw [semAdd_eq _ _ _ named, if_pos named]
      dsimp only
      rw [writtenSems, sems, writtenFlags]
      refine ⟨rfl, writtenCtxs.trans ctxs, rfl, rfl, rfl, ?_⟩
      split
      · rw [getLsbD_or_two, bit2]
      · exact bit2
    · rw [semAdd_none _ _ _ named, if_neg named]
      dsimp only
      rw [writtenFlags]
      exact ⟨rfl, writtenCtxs.trans ctxs, rfl, rfl, writtenSems.trans sems, bit2⟩
  generalize semAdd k1 (fldB dr.desc 36 1) (fldB dr.desc 38 2) = k2 at sum ⊢
  obtain ⟨drain, ctxs2, stat, sram, sems2, flag⟩ := sum
  cases dSetF2 dr.desc
  · exact ⟨drain, ctxs2, stat, sram, sems2, flag.trans (Bool.or_false _).symm⟩
  · refine ⟨drain, ctxs2, stat, sram, sems2, ?_⟩
    simp [flagPut]

/-- Outside its outputs a drain leaves the SRAM; its status word is what ACC_DRAIN_STAT shows. -/
theorem drainEff_sram (k : Core) (dr : Drain) : SramSame k (drainEff k dr) (drainOutputs k dr.desc) ∧
    (dNoStatus dr.desc = false → memNat (drainEff k dr).sram (dStatusAddr dr.desc) 4 = (drainEff k dr).drainStat.toNat) := by
  obtain ⟨-, -, stat, sram, -⟩ := drainEff_spec k dr
  have same : (drainRead k dr).sram = k.sram := by
    have rest := congrArg Core.sram (drainRead_reported k dr).rest
    exact rest
  refine ⟨fun a ha => ?_, fun shown => ?_⟩
  · rw [sram, sramWrites_out _ _ _ fun w hw => ha _ (drainWrites_mem hw), same]
  · rw [stat, sram]
    obtain ⟨xs, split⟩ : ∃ xs, drainWrites k dr = xs ++ [(dStatusAddr dr.desc, leBytes 4 (drainWord k dr))] := by
      unfold drainWrites
      rw [if_neg (Bool.eq_false_iff.mp shown)]
      exact ⟨_, rfl⟩
    rw [split]
    refine (memNat_of_leBytes (n := 4) fun i hi => ?_).trans (BitVec.toNat_ofNat _ _).symm
    exact sramWrites_in xs [] (dStatusAddr dr.desc, leBytes 4 (drainWord k dr)) _ i (by rw [leBytes_length]; exact hi) nofun

theorem exec_drainEnd {c : Fin 576} {s : State} {dr : Drain} (hc : coreOn s c = true) (hd : (coreOf s c).drain = some dr) :
    exec (.drainEnd c) s = .next (drainEndEff s c dr) := by
  change execDrainEnd c s = _
  unfold execDrainEnd
  rw [hd]
  dsimp only
  rw [hc, when_true]

/-- Settles O15. -/
theorem drainsHandOffAndEnd : Obligations.DrainsHandOffAndEnd := by
  refine ⟨fun c s r hc hr => ?_, fun c s dr hc hd => ?_⟩
  · dsimp only
    refine ⟨fun hp op => ?_, fun hp busy => (exec_handoff hc hr hp).trans (if_pos busy), fun hp free => ?_⟩
    · exact runs_of (show execMatrixDrain c s = _ from engineRow_runs hc hr hp (isOp op)) ⟨setCore_onlyCore s c _, coreOf_setCore_self s c _⟩
    · have runs := (exec_handoff hc hr hp).trans (if_neg (by simp [free]))
      refine ⟨fun named wrong => ?_, fun good inside clashes => runs.trans (handoffEff_clash good inside clashes), fun good inside apart => ?_⟩
      · exact runs_of (runs.trans (handoffEff_wrong named wrong)) ⟨setCore_onlyCore s c _, coreOf_setCore_self s c _⟩
      · obtain ⟨engines, sram, drainSlot, ctxSlot, ctx, others, drain⟩ :=
          handoffCore_spec (handoffRead (coreOf s c) r.entry.desc) (handoffCtx r.entry.desc) (handoffDesc (coreOf s c) r.entry.desc)
        obtain ⟨readEngines, readSram, readCtxs, readSlot⟩ := handoffRead_frame (coreOf s c) r.entry.desc
        have readCtx := fun n => congrArg (tblGet ctxReset · n) readCtxs
        refine runs_of (runs.trans (handoffEff_goes good inside apart)) ⟨setCore_onlyCore s c _, putPhase_done hr (engines.trans readEngines), ?_⟩
        rw [coreOf_setCore_self]
        refine ⟨sram.trans readSram, drainSlot.trans ?_, ctxSlot.trans readSlot, ?_, ?_, ?_, fun n hn => (others n hn).trans (readCtx n),
          _, drain, rfl, rfl, ?_, ?_⟩
        · exact congrArg (fun x : AccCtx => x.slot.getD _) (readCtx _)
        · exact congrArg AccCtx.isOpen ctx
        · exact congrArg AccCtx.terms ctx
        · exact congrArg AccCtx.bound ctx
        · exact congrArg (fun x : AccCtx => if x.isOpen then x.terms else 0) (readCtx _)
        · exact congrArg (fun x : AccCtx => x.isOpen && x.bound) (readCtx _)
  · dsimp only
    obtain ⟨only, frame, engines⟩ := OnlyCoreSeen_of (rememberAll_seen (setCore s c (noteBusy s (coreOf s c) (drainEff (coreOf s c) dr))) c 6 dr.writes)
    obtain ⟨n, noted⟩ := noteBusy_eq s (coreOf s c) (drainEff (coreOf s c) dr)
    obtain ⟨drain, ctxs, stat, -, sems, flag⟩ := drainEff_spec (coreOf s c) dr
    obtain ⟨same, status⟩ := drainEff_sram (coreOf s c) dr
    have at_ : ∀ {α : Type} (f : Core → α), (∀ k : Core, ∀ es, f { k with engines := es } = f k) → (∀ k : Core, ∀ n, f { k with changed := n } = f k) →
        f (coreOf (drainEndEff s c dr) c) = f (drainEff (coreOf s c) dr) := by
      intro α f engines changed
      exact (engines _ _).symm.trans ((congrArg f frame).trans ((congrArg f noted).trans (changed _ _)))
    have seenSram := at_ Core.sram (fun _ _ => rfl) fun _ _ => rfl
    have seenSems := at_ Core.sems (fun _ _ => rfl) fun _ _ => rfl
    have seenFlags := at_ Core.flags (fun _ _ => rfl) fun _ _ => rfl
    have seenStat := at_ Core.drainStat (fun _ _ => rfl) fun _ _ => rfl
    refine runs_of (exec_drainEnd hc hd) ⟨only, ?_, fun a ha => ?_, fun named => ?_, fun n hn => ?_, ?_, ?_, ?_, fun shown => ?_⟩
    · exact (at_ Core.drain (fun _ _ => rfl) fun _ _ => rfl).trans drain
    · rw [seenSram]
      exact same a ha
    · rw [seenSems, sems, if_pos named]
      exact tblGet_set_self _ _ _ _
    · rw [seenSems, sems]
      split
      · next named => exact tblGet_set_ne _ _ _ fun eq => hn ⟨named, eq⟩
      · rfl
    · rw [seenFlags]
      exact flag
    · exact (at_ Core.ctxs (fun _ _ => rfl) fun _ _ => rfl).trans ctxs
    · exact ⟨_, _, seenStat.trans stat⟩
    · rw [seenSram, seenStat]
      exact status shown

end Sys2Proof.Machine
end

section
/-! SUPPORT. The clause engine (05): a pass writes its own ranges alone; table loads. -/

namespace Sys2Proof.Machine

open Sys2Proof

/-! A pass writes what it lists. -/

/-- The SRAM of a pass is that of before with the writes that it lists. -/
def Pass.Lists (k : Core) (p : Pass) : Prop := p.now = sramWrites k p.writes

theorem Pass.Lists.more {k : Core} {p q : Pass} {ws : List (Nat × List Byte)} (h : p.Lists k) (now : q.now = sramWrites p.now ws)
    (writes : q.writes = p.writes ++ ws) : q.Lists k := by
  unfold Pass.Lists at *
  rw [now, writes, h]
  exact List.foldl_append.symm

theorem Pass.Lists.foldl {α : Type} {k : Core} {f : Pass → α → Pass} (step : ∀ p a, p.Lists k → (f p a).Lists k) :
    ∀ (l : List α) (p : Pass), p.Lists k → (l.foldl f p).Lists k
  | [], _, h => h
  | a :: l, p, h => Pass.Lists.foldl step l (f p a) (step p a h)

theorem passUnit_lists (k : Core) (d : Line) (recs : List Line) (free : Nat) (p : Pass) (us : List Part) (h : p.Lists k) :
    (passUnit k d recs free p us).Lists k := h.more rfl rfl

theorem mergeUnit_lists (k : Core) (d : Line) (recs : List Line) (free : Nat) (p : Pass) (w : Row) (h : p.Lists k) :
    (mergeUnit k d recs free p w).Lists k := h.more rfl rfl

theorem clausePass_lists (k : Core) (d : Line) (recs : List Line) (free : Nat) : (clausePass k d recs free).Lists k := by
  have start : Pass.Lists k ⟨k, [], [], [], [], false, false, 0⟩ := rfl
  unfold clausePass
  dsimp only
  split
  · exact start.more rfl rfl
  · exact (Pass.Lists.foldl (passUnit_lists k d recs free) _ _ start).more rfl rfl

theorem merge_lists (k : Core) (d : Line) (recs : List Line) (free : Nat) (ws : List Row) :
    (ws.foldl (mergeUnit k d recs free) ⟨k, [], [], [], [], false, false, 0⟩).Lists k :=
  Pass.Lists.foldl (mergeUnit_lists k d recs free) ws _ rfl

/-! The end of a pass. -/

/-- The core that a pass leaves, before its descriptor changes. -/
def passRead (k : Core) (d : Line) (p : Pass) : Core :=
  let k1 := sramTouches k (p.reads.map (·.2))
  if cOp d = 0 && ((cEn d 5 && k.ctab1.isNone) || (cEn d 6 && k.ctab2.isNone)) then coreErr k1 errClTable else k1

theorem passRead_reported (k : Core) (d : Line) (p : Pass) : Reported k (passRead k d p) := by
  unfold passRead
  dsimp only
  split
  · exact (Reported.touches _ _).coreErr _
  · exact .touches _ _

theorem clauseFinish_spec {k : Core} (d : Line) {p : Pass} (lists : p.Lists k) {r : Run} (hr : (engineOf k 1).run = some r) :
    SramSame k (clauseFinish k d p) (writeRanges p.writes) ∧ (clauseFinish k d p).clauseStat = clauseStatBits p.limited p.nonfinite ∧
    engineOf (clauseFinish k d p) 1 = { engineOf k 1 with run := some { r with phase := .ready, writes := writeRanges p.writes } } ∧
    (clauseFinish k d p).sems = k.sems ∧ (clauseFinish k d p).pc = k.pc ∧ (clauseFinish k d p).ctxs = k.ctxs := by
  have rest := (passRead_reported k d p).rest
  have engines : (passRead k d p).engines = k.engines := by
    have same := congrArg Core.engines rest
    exact same
  have engine : engineOf (passRead k d p) 1 = engineOf k 1 := congrArg (tblGet engineIdle · 1) engines
  refine ⟨fun a ha => ?_, rfl, ?_, ?_, ?_, ?_⟩
  · refine (congrArg (fun m => memGet (Core.sram m) a) lists).trans (sramWrites_out _ _ _ fun w hw => ha (w.1, w.2.length) ?_)
    exact List.mem_map.mpr ⟨w, hw, rfl⟩
  · refine (engineOf_setEngine_self _ _ _).trans ?_
    show ({ engineOf (passRead k d p) 1 with
      run := (engineOf (passRead k d p) 1).run.map fun r => { r with phase := .ready, writes := writeRanges p.writes } } : Engine) = _
    rw [engine, hr]
    rfl
  · have same := congrArg Core.sems rest
    exact same
  · have same := congrArg Core.pc rest
    exact same
  · have same := congrArg Core.ctxs rest
    exact same

/-- What a row of the clause engine comes to, by its pass. -/
theorem landPass_cases {s : State} {c : Nat} {r : Run} {p : Pass} (lists : p.Lists (coreOf s c))
    (hr : (engineOf (coreOf s c) 1).run = some r) :
    ((!rangesOk (p.reads ++ p.wrote)) = true → landPass s c (coreOf s c) r p = .fault (.sramRange (keptOf s))) ∧
    ((!rangesOk (p.reads ++ p.wrote)) = false → touchesDrainSlot (coreOf s c) (writeRanges p.writes) = true →
      landPass s c (coreOf s c) r p = .fault (.drainSlotWrite (keptOf s))) ∧
    ((!rangesOk (p.reads ++ p.wrote)) = false → touchesDrainSlot (coreOf s c) (writeRanges p.writes) = false →
      writesClash s c 1 r.entry.seen (writeRanges p.writes) = true → landPass s c (coreOf s c) r p = .fault (.writeOverlap (keptOf s))) ∧
    ((!rangesOk (p.reads ++ p.wrote)) = false → touchesDrainSlot (coreOf s c) (writeRanges p.writes) = false →
      writesClash s c 1 r.entry.seen (writeRanges p.writes) = false → ∃ t, landPass s c (coreOf s c) r p = .next t ∧
        OnlyCore s t c ∧ SramSame (coreOf s c) (coreOf t c) (writeRanges p.writes) ∧
        (coreOf t c).clauseStat = clauseStatBits p.limited p.nonfinite ∧
        engineOf (coreOf t c) 1 =
          { engineOf (coreOf s c) 1 with run := some { r with phase := .ready, writes := writeRanges p.writes } } ∧
        (coreOf t c).sems = (coreOf s c).sems ∧ (coreOf t c).pc = (coreOf s c).pc ∧ (coreOf t c).ctxs = (coreOf s c).ctxs) := by
  unfold landPass
  refine ⟨fun outside => if_pos outside, fun inside drains => ?_, fun inside apart clashes => ?_, fun inside apart free => ?_⟩
  · exact (if_neg (Bool.eq_false_iff.mp inside)).trans (if_pos drains)
  · exact (if_neg (Bool.eq_false_iff.mp inside)).trans ((if_neg (Bool.eq_false_iff.mp apart)).trans (if_pos clashes))
  · refine ⟨_, (if_neg (Bool.eq_false_iff.mp inside)).trans
      ((if_neg (Bool.eq_false_iff.mp apart)).trans (if_neg (Bool.eq_false_iff.mp free))), ⟨rfl, fun x hx => coreOf_setCore_ne s _ hx⟩, ?_⟩
    rw [show coreOf (useFree (setCore s c (clauseFinish (coreOf s c) r.entry.desc p))) c = _ from coreOf_setCore_self s c _]
    exact clauseFinish_spec _ lists hr

theorem clauseOp {d : Line} {n : Nat} (h : cOp d = n) : decide (cOp d = n) = true := decide_eq_true h

/-- Settles O17. -/
theorem clauseRowsComplete : Obligations.ClauseRowsComplete := by
  intro c s r hc hr hp
  dsimp only
  refine ⟨fun op oneAxis => ?_, fun op axes => ?_, fun op => ?_, fun op => ?_⟩
  · exact (show execClause c s = _ from engineRow_runs hc hr hp (clauseOp op)).trans (if_pos oneAxis)
  · have runs := (show execClause c s = _ from engineRow_runs hc hr hp (clauseOp op)).trans (if_neg (Bool.eq_false_iff.mp axes))
    obtain ⟨outside, drains, clashes, lands⟩ := landPass_cases (clausePass_lists (coreOf s c) r.entry.desc r.recs s.freeCtr) hr
    refine ⟨fun h => runs.trans (outside h), fun h1 h2 => runs.trans (drains h1 h2), fun h1 h2 h3 => runs.trans (clashes h1 h2 h3),
      fun h1 h2 h3 => ?_⟩
    obtain ⟨t, next, spec⟩ := lands h1 h2 h3
    exact runs_of (runs.trans next) spec
  · have runs := (show execMerge c s = _ from engineRow_runs hc hr hp (clauseOp op))
    obtain ⟨outside, drains, clashes, lands⟩ :=
      landPass_cases (merge_lists (coreOf s c) r.entry.desc r.recs s.freeCtr (rowsOf (recOf (recJ r.recs 0)))) hr
    refine ⟨fun h => runs.trans (outside h), fun h1 h2 => runs.trans (drains h1 h2), fun h1 h2 h3 => runs.trans (clashes h1 h2 h3),
      fun h1 h2 h3 => ?_⟩
    obtain ⟨t, next, spec⟩ := lands h1 h2 h3
    exact runs_of (runs.trans next) spec
  · have runs := (show execClauseTableLoad c s = _ from engineRow_runs hc hr hp (clauseOp op))
    have same := sramTouch_cases (coreOf s c) (tableAddr r.entry.desc) 8256
    refine runs_of runs ⟨setCore_onlyCore s c _, putPhase_done hr ?_, ?_⟩
    · rcases same with same | ⟨-, touched⟩
      · rw [same]
        split <;> rfl
      · rw [touched]
        split <;> rfl
    · rw [coreOf_setCore_self]
      refine ⟨?_, fun first => ?_, fun second => ?_⟩
      · rcases same with same | ⟨-, touched⟩
        · rw [same]
          split <;> rfl
        · rw [touched]
          split <;> rfl
      · rw [if_pos first]
        rcases same with same | ⟨-, touched⟩
        · rw [same]
          exact ⟨rfl, rfl⟩
        · rw [touched]
          exact ⟨rfl, rfl⟩
      · rw [if_neg second]
        rcases same with same | ⟨-, touched⟩
        · rw [same]
          exact ⟨rfl, rfl⟩
        · rw [touched]
          exact ⟨rfl, rfl⟩

end Sys2Proof.Machine
end

section
/-! SUPPORT. Core resets (15, R464–R467, R483). -/

namespace Sys2Proof.Machine

open Sys2Proof

/-! The watchdog. -/

theorem coreOf_dropOutbound (s : State) (c x : Nat) : coreOf (dropOutbound s c) x = coreOf s x := rfl

theorem coreNum_split (c : Nat) : coreNum (c / 144) (c % 144) = c := Nat.div_add_mod c 144

theorem coreOf_takeCoreReset_ne (s : State) (wdog : Bool) {c x : Nat} (h : x ≠ c) : coreOf (takeCoreReset s wdog c) x = coreOf s x := by
  unfold takeCoreReset
  split
  · rfl
  · rw [coreOf_modCore_ne _ _ h, wipeCore, coreOf_dropOutbound, coreOf_modCore_ne _ _ h]

theorem coreOf_takeCoreReset_self {s : State} {wdog : Bool} {c : Nat} (h : (coreOf s c).mode ≠ .wiping) :
    coreOf (takeCoreReset s wdog c) c = { clearedCore (coreOf s c) with mode := .wiping, byWdog := wdog } := by
  unfold takeCoreReset
  rw [if_neg h, coreOf_modCore_self, wipeCore, coreOf_dropOutbound, coreOf_modCore_self]

theorem takeCoreReset_keepsBoot (s : State) (wdog : Bool) (c : Nat) : (takeCoreReset s wdog c).boot = s.boot := by
  unfold takeCoreReset
  split <;> rfl

/-- The reset of one core that is under none. -/
theorem resetCores_one {s : State} {c : Nat} (wdog : Bool) (h : (coreOf s c).mode ≠ .wiping) :
    resetCores s (c / 144) (some (c % 144)) wdog = noteCoreReset (takeCoreReset s wdog c) (c / 144) (some (c % 144)) wdog := by
  unfold resetCores
  simp only [coreNum_split, List.any_cons, List.any_nil, Bool.or_false, List.foldl_cons, List.foldl_nil, bne_iff_ne, ne_eq, h,
    not_false_eq_true, if_true]

/-- A core whose SEQ_STATE reads 1, 2 or 3 runs. -/
theorem running_of_seqState {s : State} {k : Core} (h : seqState s k ∈ [1, 2, 3]) : k.mode = .running := by
  unfold seqState at h
  split at h
  · split at h <;> simp at h
  · simp at h
  · simp at h
  · next running => exact running

/-! The end of a core's reset. -/

theorem coreOf_rewriteStore (s : State) (c : Nat) : ∃ sram bad prog start, coreOf (rewriteStore s c) c =
    { coreOf s c with sram := sram, badWords := bad, program := prog, start := start } := by
  unfold rewriteStore
  split
  · next p found =>
    have here : p.core = c := by simpa using List.find?_some found
    unfold storeProgram
    rw [here, coreOf_modCore_self]
    exact ⟨_, _, _, _, rfl⟩
  · exact ⟨_, _, _, _, rfl⟩

theorem rewriteStore_control (s : State) (c : Nat) : (rewriteStore s c).control = s.control := by
  unfold rewriteStore storeProgram
  split <;> rfl

/-- The core once its reset has ended, before a watchdog shows. -/
def anewBase (s : State) (c : Nat) : State :=
  let t := modCore s c fun k => { k with byWdog := false, mode := if jobLoadedOn s then .halted else .reset }
  if jobLoadedOn s then rewriteStore t c else t

theorem coreAnew_eq (s : State) (c : Nat) :
    coreAnew s c = if (coreOf s c).byWdog then modCore (anewBase s c) c fun k => coreErr k errWdog else anewBase s c := rfl

theorem anewBase_spec (s : State) (c : Nat) : (anewBase s c).control = s.control ∧
    (coreOf (anewBase s c) c).mode = (if jobLoadedOn s then .halted else .reset) ∧
    (coreOf (anewBase s c) c).err = (coreOf s c).err ∧ (coreOf (anewBase s c) c).flags = (coreOf s c).flags := by
  unfold anewBase
  dsimp only
  by_cases loaded : jobLoadedOn s = true
  · simp only [loaded, if_true]
    obtain ⟨sram, bad, prog, start, core⟩ := coreOf_rewriteStore (modCore s c fun k => { k with byWdog := false, mode := .halted }) c
    rw [core, coreOf_modCore_self]
    exact ⟨rewriteStore_control _ _, rfl, rfl, rfl⟩
  · simp only [loaded]
    rw [if_neg Bool.false_ne_true, coreOf_modCore_self]
    exact ⟨rfl, rfl, rfl, rfl⟩

/-- What the end of a core's reset leaves of it. -/
theorem coreAnew_spec (s : State) (c : Nat) : (coreAnew s c).control = s.control ∧
    (coreOf (coreAnew s c) c).mode = (if jobLoadedOn s then .halted else .reset) ∧
    ((coreOf s c).byWdog = true → (coreOf (coreAnew s c) c).err = (coreOf s c).err ||| (1#32 <<< errWdog) ∧
      (coreOf (coreAnew s c) c).flags = (coreOf s c).flags ||| 2) ∧
    ((coreOf s c).byWdog = false → (coreOf (coreAnew s c) c).err = (coreOf s c).err) := by
  obtain ⟨control, mode, err, flags⟩ := anewBase_spec s c
  rw [coreAnew_eq]
  split
  · next wdog =>
    rw [coreOf_modCore_self]
    refine ⟨control, mode, fun _ => ⟨congrArg (· ||| (1#32 <<< errWdog)) err, congrArg (· ||| 2) flags⟩, fun none => ?_⟩
    exact absurd (none.symm.trans wdog) Bool.false_ne_true
  · next none => exact ⟨control, mode, fun wdog => absurd wdog none, fun _ => err⟩

/-! A CORE_RESET that waits. -/

theorem coreAwaited_other {s : State} {c m : Nat} (h : ∀ r, (boxOf s m).run = some r → r.waits.contains c = false) : coreAwaited s c m = s := by
  unfold coreAwaited
  split
  · rfl
  · next r run => exact if_neg (Bool.eq_false_iff.mp (h r run))

theorem coreAwaited_others {c : Nat} : ∀ (l : List Nat) (s : State),
    (∀ m ∈ l, ∀ r, (boxOf s m).run = some r → r.waits.contains c = false) → l.foldl (fun s m => coreAwaited s c m) s = s
  | [], _, _ => rfl
  | m :: l, s, h => by
    rw [List.foldl_cons, coreAwaited_other (h m List.mem_cons_self)]
    exact coreAwaited_others l s fun n hn => h n (List.mem_cons_of_mem _ hn)

@[simp] theorem boxOf_cfgRise (s : State) (x : Change) (m : Nat) : boxOf (cfgRise s x) m = boxOf s m := rfl

/-- A command that ends: its outcome is known, and the other mailboxes stay. -/
theorem finish_run {s : State} {m : Nat} {r : Running} (code detail : Nat) (resp : List Byte) (h : (boxOf s m).run = some r) :
    (boxOf (finish s m code detail resp) m).run = some { r with result := some ⟨code, reg detail, resp⟩ } ∧
      ∀ n, n ≠ m → boxOf (finish s m code detail resp) n = boxOf s n := by
  unfold finish finishAs
  rw [h]
  dsimp only
  split
  · rw [boxOf_cfgRise, boxOf_modBox_self]
    exact ⟨rfl, fun n hn => (boxOf_cfgRise _ _ _).trans (boxOf_modBox_ne s _ hn)⟩
  · rw [boxOf_modBox_self]
    exact ⟨rfl, fun n hn => boxOf_modBox_ne s _ hn⟩

theorem coreAwaited_done {s : State} {c m : Nat} {r : Running} (run : (boxOf s m).run = some r) (last : r.waits = [c])
    (one : memNat (boxOf s m).params 1 2 ≠ 0xFFFF) :
    (boxOf (coreAwaited s c m) m).run = some { r with waits := [], result := some ⟨0, 0, []⟩ } ∧
      ∀ n, n ≠ m → boxOf (coreAwaited s c m) n = boxOf s n := by
  have none : r.waits.filter (· != c) = [] := by simp [last]
  unfold coreAwaited
  rw [run]
  simp only [show r.waits.contains c = true by simp [last], none, if_true, List.isEmpty_nil]
  rw [if_neg (by simp [one])]
  obtain ⟨ended, others⟩ := finish_run (s := modBox s m fun b => { b with run := some { r with waits := [] } }) (m := m)
    (r := { r with waits := [] }) stOk 0 [] (by rw [boxOf_modBox_self])
  exact ⟨ended, fun n hn => (others n hn).trans (boxOf_modBox_ne s _ hn)⟩

theorem coreAwaited_fold {c m : Nat} {r : Running} {s : State} {l : List Nat} (nodup : l.Nodup) (mem : m ∈ l) (run : (boxOf s m).run = some r)
    (last : r.waits = [c]) (one : memNat (boxOf s m).params 1 2 ≠ 0xFFFF)
    (others : ∀ n r, n ≠ m → (boxOf s n).run = some r → r.waits.contains c = false) :
    (boxOf (l.foldl (fun s m => coreAwaited s c m) s) m).run = some { r with waits := [], result := some ⟨0, 0, []⟩ } := by
  induction l with
  | nil => exact absurd mem List.not_mem_nil
  | cons n l ih =>
    obtain ⟨fresh, rest⟩ := List.nodup_cons.mp nodup
    rw [List.foldl_cons]
    by_cases here : n = m
    · subst here
      obtain ⟨done, same⟩ := coreAwaited_done run last one
      rw [coreAwaited_others l _ fun x hx r hr => ?_, done]
      have ne : x ≠ n := fun e => fresh (e ▸ hx)
      exact others x r ne (same x ne ▸ hr)
    · rw [coreAwaited_other fun r hr => others n r here hr]
      exact ih rest ((List.mem_cons.mp mem).resolve_left (Ne.symm here))

theorem exec_coreResetDone {c : Fin 576} {s : State} (on : alive s = true) (wiping : (coreOf s c).mode = .wiping) :
    exec (.coreResetDone c) s = .next ((List.range 16).foldl (fun s m => coreAwaited s c m) (coreAnew s c)) := by
  change when _ _ _ = _
  rw [show (alive s && decide ((coreOf s c).mode = .wiping)) = true by simp [on, wiping], when_true]

/-- Settles O18. -/
theorem coreResetsBeginAndEnd : Obligations.CoreResetsBeginAndEnd := by
  refine ⟨fun c now s on runs program armed state stood => ?_, fun c s on wiping => ⟨fun nobody => ?_, fun m r run last one others => ?_⟩⟩
  · have going : (coreOf s c).mode ≠ .wiping := by
      rw [running_of_seqState state]
      exact nofun
    have three : (decide (seqState s (coreOf s c) = 1) || decide (seqState s (coreOf s c) = 2) || decide (seqState s (coreOf s c) = 3)) = true := by
      simpa [or_assoc] using state
    refine runs_when (show execCoreWatchdogExpiry c now s = when _ s _ from rfl)
      (by simp only [on, runs, program, three, Bool.and_true, Bool.true_and, bne_iff_ne, ne_eq, armed, not_false_eq_true,
        Bool.and_eq_true, decide_eq_true_eq, true_and]; exact stood) ?_
    rw [resetCores_one (s := atTide s now) true going]
    have core := coreOf_takeCoreReset_self (s := atTide s now) (wdog := true) going
    rw [show coreOf (noteCoreReset _ _ _ _) c = _ from core]
    refine ⟨rfl, rfl, rfl, rfl, rfl, rfl, rfl, fun x hx => coreOf_takeCoreReset_ne (atTide s now) true hx, ?_⟩
    unfold noteCoreReset
    rw [takeCoreReset_keepsBoot]
    simp only [at_, bit, if_true, sat32, Nat.mul_comm (c.val / 144) (2 ^ 10)]
    rfl
  · obtain ⟨control, mode, wdog, plain⟩ := coreAnew_spec s c
    have boxes : ∀ n, boxOf (coreAnew s c) n = boxOf s n := fun n => congrArg (fun k : Control => tblGet mailboxReset k.boxes n) control
    have awaited := coreAwaited_others (c := c) (List.range 16) (coreAnew s c) fun m _ r hr => nobody m r (boxes m ▸ hr)
    refine runs_of (exec_coreResetDone on wiping) ?_
    rw [awaited]
    refine ⟨fun empty => mode.trans (if_neg (by simp [jobLoadedOn, jobEmpty, empty])), fun loaded => mode.trans (if_pos (by simp [jobLoadedOn, jobEmpty, loaded])),
      fun by_ => ?_, plain, control⟩
    obtain ⟨err, flags⟩ := wdog by_
    rw [err, flags]
    simp [errWdog]
  · obtain ⟨control, -⟩ := coreAnew_spec s c
    have boxes : ∀ n, boxOf (coreAnew s c) n = boxOf s n := fun n => congrArg (fun k : Control => tblGet mailboxReset k.boxes n) control
    refine runs_of (exec_coreResetDone on wiping) ?_
    refine coreAwaited_fold (s := coreAnew s c) List.nodup_range (List.mem_range.mpr m.isLt) ((boxes m).symm ▸ run) last
      ((boxes m).symm ▸ one) fun n r ne hr => others n r ne (boxes n ▸ hr)

end Sys2Proof.Machine
end

section
/-! SUPPORT. The isthmus links (01): widths of modules, training, declared failures, module changes. -/

namespace Sys2Proof.Machine

open Sys2Proof

/-! One lane failure (Table 1-5). -/

theorem settle_failed (x : IsthModule) : (settle x).failed = x.failed := by
  unfold settle
  repeat' split
  all_goals rfl

theorem settle_full {x : IsthModule} (fwd : failedAll x false ≤ 4) (rev : failedAll x true ≤ 4) : settle x = goFull x :=
  if_pos (by simp [fullOk, fwd, rev])

/-- A module that cannot keep its full width. -/
theorem settle_short {x : IsthModule} (short : 4 < failedAll x false ∨ 4 < failedAll x true) :
    settle x = match keptHalf x with | some hi => goHalf x hi | none => goOffline x := by
  have full : ¬ fullOk x = true := by
    simp only [fullOk, Bool.and_eq_true, decide_eq_true_eq]
    omega
  exact if_neg full

theorem halfOk_iff (x : IsthModule) (hi : Bool) : halfOk x hi = true ↔
    failedOf x false (halfLanes hi ++ spareLanes) ≤ 4 ∧ failedOf x true (halfLanes hi ++ spareLanes) ≤ 4 := by simp [halfOk]

theorem keptHalf_low {x : IsthModule} (low : halfOk x false = true) (fewer : halfOk x true = true → halfFailed x false ≤ halfFailed x true) :
    keptHalf x = some false := by
  unfold keptHalf
  rw [low]
  cases h : halfOk x true
  · rfl
  · simpa using fewer h

theorem keptHalf_high {x : IsthModule} (high : halfOk x true = true) (fewer : halfOk x false = true → halfFailed x true < halfFailed x false) :
    keptHalf x = some true := by
  unfold keptHalf
  rw [high]
  cases h : halfOk x false
  · rfl
  · simpa using fewer h

theorem keptHalf_none {x : IsthModule} (low : ¬ halfOk x false = true) (high : ¬ halfOk x true = true) : keptHalf x = none := by
  unfold keptHalf
  rw [Bool.eq_false_iff.mpr low, Bool.eq_false_iff.mpr high]

section
variable {x : IsthModule} {rev : Bool} {lane : Nat} (new : laneFailed x rev lane = false)
include new

theorem applyLane_full (full : x.width = 1) : applyLane x rev lane = settle (markLane x rev lane) := by
  unfold applyLane
  rw [if_neg (Bool.eq_false_iff.mp new), if_pos full]

theorem applyLane_half (half : x.width = 2) :
    applyLane x rev lane = if activeHalf x rev lane then goOffline (markLane x rev lane) else markLane x rev lane := by
  unfold applyLane
  rw [if_neg (Bool.eq_false_iff.mp new), if_neg (by omega), if_pos half]

theorem applyLane_none (full : x.width ≠ 1) (half : x.width ≠ 2) : applyLane x rev lane = x := by
  unfold applyLane
  rw [if_neg (Bool.eq_false_iff.mp new), if_neg full, if_neg half]

end

/-- Settles O20: full width, half width, and neither. -/
theorem laneFailureSettlesModule : Obligations.LaneFailureSettlesModule := by
  intro x rev lane new
  dsimp only
  refine ⟨?_, fun full fwd bwd => ?_, fun full short => ⟨fun low fewer => ?_, fun high fewer => ?_, fun low high => ?_⟩, fun half act => ?_,
    fun half inact => ?_, fun off => applyLane_none new (by omega) (by omega)⟩
  · by_cases full : x.width = 1
    · rw [applyLane_full new full, settle_failed, if_pos (.inl full)]
    · by_cases half : x.width = 2
      · have wide : x.width = 1 ∨ x.width = 2 := .inr half
        rw [if_pos wide, applyLane_half new half]
        split <;> rfl
      · rw [applyLane_none new full half, if_neg (by omega)]
  · rw [applyLane_full new full, settle_full fwd bwd]
    exact ⟨rfl, rfl, rfl⟩
  · rw [applyLane_full new full, settle_short short,
      keptHalf_low ((halfOk_iff _ _).mpr low) fun high => fewer ((halfOk_iff _ _).mp high)]
    exact ⟨rfl, rfl⟩
  · rw [applyLane_full new full, settle_short short,
      keptHalf_high ((halfOk_iff _ _).mpr high) fun low => fewer ((halfOk_iff _ _).mp low)]
    exact ⟨rfl, rfl⟩
  · rw [applyLane_full new full, settle_short short,
      keptHalf_none (fun ok => low ((halfOk_iff _ _).mp ok)) fun ok => high ((halfOk_iff _ _).mp ok)]
    rfl
  · rw [applyLane_half new half, if_pos act]
    rfl
  · rw [applyLane_half new half, if_neg (Bool.eq_false_iff.mp inact)]

/-! Modules and links of a state. -/

@[simp] theorem isthMod_setIsthMod_self (s : State) (k m : Nat) (x : IsthModule) : isthMod (setIsthMod s k m x) k m = x :=
  tblGet_set_self _ _ _ _

theorem isthMod_setIsthMod_ne (s : State) {k m i j : Nat} (x : IsthModule) (hm : m < 16) (hj : j < 16) (h : (i, j) ≠ (k, m)) :
    isthMod (setIsthMod s k m x) i j = isthMod s i j := by
  refine tblGet_set_ne _ _ _ fun same => h ?_
  have eq : i = k ∧ j = m := by omega
  rw [eq.1, eq.2]

@[simp] theorem linkState_setIsthMod (s : State) (k m : Nat) (x : IsthModule) (i : Nat) : linkState (setIsthMod s k m x) i = linkState s i := rfl

@[simp] theorem linkState_setLink_self (s : State) (k v : Nat) : linkState (setLink s k v) k = v := tblGet_set_self _ _ _ _

theorem linkState_setLink_ne (s : State) {k i : Nat} (v : Nat) (h : i ≠ k) : linkState (setLink s k v) i = linkState s i :=
  tblGet_set_ne _ _ _ h

@[simp] theorem isthMod_setLink (s : State) (k v i j : Nat) : isthMod (setLink s k v) i j = isthMod s i j := rfl

/-- An event of the links changes the event register and the outputs. -/
theorem setIsthEvent_isth (s : State) (b : Reg) : (setIsthEvent s b).isth = { s.isth with event := s.isth.event ||| b } := by
  have same := setIsthEvent_same s b
  unfold FireSame at same
  have isth := congrArg State.isth same
  exact isth

@[simp] theorem isthMod_setIsthEvent (s : State) (b : Reg) (i j : Nat) : isthMod (setIsthEvent s b) i j = isthMod s i j := by
  unfold isthMod
  rw [setIsthEvent_isth]

@[simp] theorem linkState_setIsthEvent (s : State) (b : Reg) (i : Nat) : linkState (setIsthEvent s b) i = linkState s i := by
  unfold linkState
  rw [setIsthEvent_isth]

theorem workingMods_congr {s t : State} {k : Nat} (h : ∀ m < 16, isthMod t k m = isthMod s k m) : workingMods t k = workingMods s k := by
  unfold workingMods
  congr 1
  refine List.filter_congr fun m hm => ?_
  rw [h m (List.mem_range.mp hm)]

/-! Training (R21, R33, R36). -/

/-- Every module trains, each by what the state was before. -/
def trainMods (s : State) (failed : List LaneFail) : State :=
  (List.range 64).foldl (fun t i => setIsthMod t (i / 16) (i % 16) (trainMod s failed (i / 16) (i % 16))) s

theorem putMods_spec (f : Nat → Nat → IsthModule) : ∀ (n : Nat) (s : State),
    let t := (List.range n).foldl (fun t i => setIsthMod t (i / 16) (i % 16) (f (i / 16) (i % 16))) s
    (∀ k m, m < 16 → 16 * k + m < n → isthMod t k m = f k m) ∧ ∀ k, linkState t k = linkState s k
  | 0, s => ⟨fun k m _ h => absurd h (Nat.not_lt_zero _), fun _ => rfl⟩
  | n + 1, s => by
    obtain ⟨mods, links⟩ := putMods_spec f n s
    rw [List.range_succ, List.foldl_append]
    refine ⟨fun k m hm h => ?_, fun k => links k⟩
    by_cases last : 16 * k + m = n
    · have key : n / 16 = k ∧ n % 16 = m := by omega
      rw [List.foldl_cons, List.foldl_nil, key.1, key.2, isthMod_setIsthMod_self]
    · rw [List.foldl_cons, List.foldl_nil, isthMod_setIsthMod_ne _ _ (by omega) hm fun same => last ?_]
      · exact mods k m hm (by omega)
      · have k_eq := congrArg Prod.fst same
        have m_eq := congrArg Prod.snd same
        dsimp only at k_eq m_eq
        omega

/-- A link is brought up or failed. -/
def trainLink (s : State) (k : Nat) : State :=
  if linkState s k = 2 then s
  else if workingMods s k < 8 then setIsthEvent (setLink s k 2) (1#32 <<< (4 + k))
  else setLink s k 1

theorem trainLinks_eq (s : State) (failed : List LaneFail) : trainLinks s failed = (List.range 4).foldl trainLink (trainMods s failed) := rfl

theorem trainLink_mod (s : State) (k i j : Nat) : isthMod (trainLink s k) i j = isthMod s i j := by
  unfold trainLink
  repeat' split
  · rfl
  · rw [isthMod_setIsthEvent, isthMod_setLink]
  · rfl

theorem trainLink_self {s : State} {k : Nat} (h : linkState s k = 0) : linkState (trainLink s k) k = if 8 ≤ workingMods s k then 1 else 2 := by
  unfold trainLink
  rw [if_neg (by omega)]
  split
  · next few => rw [if_neg (by omega), linkState_setIsthEvent, linkState_setLink_self]
  · next enough => rw [if_pos (by omega), linkState_setLink_self]

theorem trainLink_ne (s : State) {k i : Nat} (h : i ≠ k) : linkState (trainLink s k) i = linkState s i := by
  unfold trainLink
  repeat' split
  · rfl
  · rw [linkState_setIsthEvent, linkState_setLink_ne _ _ h]
  · exact linkState_setLink_ne _ _ h

theorem trainLink_fold (s : State) : ∀ (n : Nat), (∀ k < n, linkState s k = 0) →
    (∀ i j, isthMod ((List.range n).foldl trainLink s) i j = isthMod s i j) ∧
    (∀ k < n, linkState ((List.range n).foldl trainLink s) k = if 8 ≤ workingMods s k then 1 else 2) ∧
    ∀ k, n ≤ k → linkState ((List.range n).foldl trainLink s) k = linkState s k
  | 0, _ => ⟨fun _ _ => rfl, fun k h => absurd h (Nat.not_lt_zero k), fun _ _ => rfl⟩
  | n + 1, h => by
    obtain ⟨mods, done, rest⟩ := trainLink_fold s n fun k hk => h k (by omega)
    rw [List.range_succ, List.foldl_append, List.foldl_cons, List.foldl_nil]
    refine ⟨fun i j => (trainLink_mod _ n i j).trans (mods i j), fun k hk => ?_, fun k hk => (trainLink_ne _ (by omega)).trans (rest k (by omega))⟩
    by_cases last : k = n
    · subst last
      rw [trainLink_self ((rest k (Nat.le_refl k)).trans (h k hk)), workingMods_congr fun m _ => mods k m]
    · rw [trainLink_ne _ last, done k (by omega)]

/-! Declared failures (R29–R31). -/

/-- The parity count of a module changes, and nothing else but the counter of free values. -/
theorem countParity_spec (s : State) (k m : Nat) (hm : m < 16) :
    (∃ n, isthMod (countParity s k m) k m = { isthMod s k m with parity := n }) ∧
    { countParity s k m with isth := s.isth, freeCtr := s.freeCtr } = s ∧ (countParity s k m).isth.link = s.isth.link ∧
    (countParity s k m).isth.event = s.isth.event ∧
    ∀ i j, j < 16 → (i, j) ≠ (k, m) → isthMod (countParity s k m) i j = isthMod s i j :=
  ⟨⟨_, isthMod_setIsthMod_self s k m _⟩, rfl, rfl, rfl, fun _ _ hj h => isthMod_setIsthMod_ne s _ hm hj h⟩

theorem exec_isthmusLaneFail {k : Fin 4} {m : Fin 16} {rev : Bool} {lane : Fin 68} {now : Nat} {s : State} (on : islesOn s = true)
    (trained : linkState s k ≠ 0) (watch : watched (isthMod s k m) rev lane = true)
    (new : declaredLane (isthMod s k m) (laneOrder rev lane) = false) {y : IsthModule}
    (hy : declare (isthMod s k m) ⟨max s.tide.now now / 1000000, laneOrder rev lane⟩ (max s.tide.now now) = y) :
    exec (.isthmusLaneFail k m (rev, lane) now) s = .next (countParity (setIsthMod (atTide s now) k m y) k m) := by
  subst hy
  change when _ _ _ = _
  rw [show (islesOn s && linkState s k != 0 && watched (isthMod s k m) rev lane && !declaredLane (isthMod s k m) (laneOrder rev lane)) = true by
    simp [on, trained, watch, new]]
  rfl

/-- What the declaration of a failure leaves of the links. -/
theorem laneFail_spec (s : State) (k : Fin 4) (m : Fin 16) (now : Nat) (y : IsthModule) :
    let t := countParity (setIsthMod (atTide s now) k m y) k m
    { isthMod t k m with parity := 0 } = { y with parity := 0 } ∧
      { t with isth := s.isth, freeCtr := s.freeCtr } = atTide s now ∧ t.isth.link = s.isth.link ∧ t.isth.event = s.isth.event ∧
      ∀ i j, i < 4 → j < 16 → (i, j) ≠ (k.val, m.val) → isthMod t i j = isthMod s i j := by
  intro t
  obtain ⟨⟨n, parity⟩, frame, link, event, others⟩ := countParity_spec (setIsthMod (atTide s now) k m y) k m m.isLt
  refine ⟨?_, ?_, link, event, fun i j _ hj h => (others i j hj h).trans (isthMod_setIsthMod_ne (atTide s now) y m.isLt hj h)⟩
  · rw [show isthMod t k m = _ from parity, isthMod_setIsthMod_self]
  · have rest := congrArg (fun u : State => { u with isth := s.isth }) frame
    exact rest

theorem declare_first {x : IsthModule} (d : LaneDecl) (n : Nat) (h : x.change = none) : declare x d n = { x with change := some ⟨d, n⟩ } := by
  unfold declare
  rw [h]

theorem declare_waits {x : IsthModule} {c : ModChange} {d : LaneDecl} {n : Nat} (h : x.change = some c)
    (later : c.since ≠ n ∨ declBefore d c.decl = false) : declare x d n = { x with declared := addDecl d x.declared } := by
  unfold declare
  rw [h]
  refine if_neg fun first => ?_
  simp only [Bool.and_eq_true, decide_eq_true_eq] at first
  rcases later with since | order
  · exact since first.1
  · exact Bool.false_ne_true (order.symm.trans first.2)

theorem declare_before {x : IsthModule} {c : ModChange} {d : LaneDecl} {n : Nat} (h : x.change = some c) (since : c.since = n)
    (order : declBefore d c.decl = true) : declare x d n = { x with change := some ⟨d, n⟩, declared := addDecl c.decl x.declared } := by
  unfold declare
  rw [h]
  exact if_pos (by simp [since, order])

/-! Module changes (R32, R33). -/

theorem applyLane_declared (x : IsthModule) (rev : Bool) (lane : Nat) : (applyLane x rev lane).declared = x.declared := by
  unfold applyLane settle
  repeat' split
  all_goals rfl

theorem endChange_last {x : IsthModule} (d : LaneDecl) (now : Nat) (h : x.declared = []) :
    endChange x d now = { applyLane x (d.order % 2 = 1) (d.order / 2) with change := none } := by
  unfold endChange
  dsimp only
  split
  · rfl
  · next some => exact absurd ((applyLane_declared _ _ _).symm.trans some) (by simp [h])

theorem endChange_next {x : IsthModule} {e : LaneDecl} {es : List LaneDecl} (d : LaneDecl) (now : Nat) (h : x.declared = e :: es) :
    endChange x d now = { applyLane x (d.order % 2 = 1) (d.order / 2) with change := some ⟨e, now⟩, declared := es } := by
  unfold endChange
  dsimp only
  split
  · next none => exact absurd ((applyLane_declared _ _ _).symm.trans none) (by simp [h])
  · next some =>
    obtain ⟨rfl, rfl⟩ := List.cons.inj (some.symm.trans ((applyLane_declared _ _ _).trans h))
    rfl

theorem recomputeTempo_isth (s : State) : (recomputeTempo s).isth = s.isth := by
  have same := congrArg State.isth (recomputeTempo_same s).1
  exact same

/-- A link whose working modules have become fewer than 8 fails, and no other changes. -/
theorem checkLink_spec (s : State) (k : Nat) :
    (∀ i j, isthMod (checkLink s k) i j = isthMod s i j) ∧
    (linkState s k = 2 → linkState (checkLink s k) k = 2) ∧
    (linkState s k = 1 → linkState (checkLink s k) k = if workingMods s k < 8 then 2 else 1) ∧
    (∀ i, i ≠ k → linkState (checkLink s k) i = linkState s i) ∧
    ∀ b, s.isth.event.getLsbD b = true → (checkLink s k).isth.event.getLsbD b = true := by
  unfold checkLink
  split
  · next fails =>
    obtain ⟨up, few⟩ := (Bool.and_eq_true _ _).mp fails
    rw [decide_eq_true_eq] at up few
    have report := congrArg State.isth (faultNow_report (setIsthEvent (setLink s k 2) (1#32 <<< (4 + k))) 2)
    have isth : (faultNow (setIsthEvent (setLink s k 2) (1#32 <<< (4 + k))) 2).isth = (setIsthEvent (setLink s k 2) (1#32 <<< (4 + k))).isth :=
      report
    have links : ∀ i, linkState (faultNow (setIsthEvent (setLink s k 2) (1#32 <<< (4 + k))) 2) i = linkState (setLink s k 2) i := fun i =>
      (congrArg (fun x : Isthmus => tblGet 0 x.link i) isth).trans (linkState_setIsthEvent _ _ _)
    refine ⟨fun i j => ?_, fun failed => by omega, fun _ => ?_, fun i hi => (links i).trans (linkState_setLink_ne s 2 hi), fun b hb => ?_⟩
    · exact (congrArg (fun x : Isthmus => tblGet moduleReset x.mods (16 * i + j)) isth).trans (isthMod_setIsthEvent _ _ _ _)
    · rw [links, linkState_setLink_self, if_pos few]
    · rw [isth, setIsthEvent_isth]
      simp only [BitVec.getLsbD_or]
      rw [show (setLink s k 2).isth.event = s.isth.event from rfl, hb, Bool.true_or]
  · next stays =>
    refine ⟨fun _ _ => rfl, id, fun up => ?_, fun _ _ => rfl, fun _ hb => hb⟩
    rw [up, if_neg fun few => stays (by simp [up, few])]

theorem exec_isthmusModuleChangeEnd {k : Fin 4} {m : Fin 16} {now : Nat} {c : ModChange} {s : State} (on : islesOn s = true)
    (change : (isthMod s k m).change = some c) : exec (.isthmusModuleChangeEnd k m now) s =
    .next (recomputeTempo (checkLink (setIsthEvent (setIsthMod (atTide s now) k m (endChange (isthMod s k m) c.decl (max s.tide.now now)))
      (1#32 <<< k.val)) k)) := by
  change execIsthmusModuleChangeEnd k m now s = _
  unfold execIsthmusModuleChangeEnd
  dsimp only
  rw [change]
  dsimp only
  rw [on, when_true]
  rfl

/-- Settles O19. -/
theorem isthmusRowsComplete : Obligations.IsthmusRowsComplete := by
  refine ⟨⟨fun failed s on untrained => ?_, fun k m rev lane now s on trained => ?_, fun k m rev s on works => ?_⟩, fun k m now c s on change => ?_⟩
  · have all : ((List.range 4).all fun k => linkState s k = 0) = true := by
      rw [List.all_eq_true]
      exact fun k hk => decide_eq_true (untrained k (List.mem_range.mp hk))
    obtain ⟨mods, links⟩ := putMods_spec (trainMod s failed) 64 s
    obtain ⟨sameMods, done, -⟩ := trainLink_fold (trainMods s failed) 4 fun k hk => (links k).trans (untrained k hk)
    refine runs_when (show execIsthmusTrainingDone failed s = when _ s _ from rfl) (by rw [on, all]; rfl) ?_
    rw [trainLinks_eq]
    refine ⟨fun k hk m hm => (sameMods k m).trans (mods k m hm (by omega)), fun k hk => ?_⟩
    rw [done k hk, workingMods_congr fun m _ => sameMods k m]
  · dsimp only
    intro watch new
    have spec := fun y => laneFail_spec s k m now y
    exact ⟨fun none => runs_of (exec_isthmusLaneFail on trained watch new (declare_first _ _ none)) (spec _),
      fun c some later => runs_of (exec_isthmusLaneFail on trained watch new (declare_waits some later)) (spec _),
      fun c some since order => runs_of (exec_isthmusLaneFail on trained watch new (declare_before some since order)) (spec _)⟩
  · obtain ⟨⟨n, parity⟩, frame, link, -, -⟩ := countParity_spec s k m m.isLt
    refine runs_when (show execIsthmusFlitReplay k m rev s = when _ s _ from rfl) (by rw [on, works]; rfl) ⟨?_, frame, link⟩
    rw [parity]
  · dsimp only
    generalize hy : endChange (isthMod s k m) c.decl (max s.tide.now now) = y
    have runs := exec_isthmusModuleChangeEnd (now := now) on change
    rw [hy] at runs
    obtain ⟨mods, failed, up, links, events⟩ := checkLink_spec (setIsthEvent (setIsthMod (atTide s now) k m y) (1#32 <<< k.val)) k
    have before : ∀ i, linkState (setIsthEvent (setIsthMod (atTide s now) k m y) (1#32 <<< k.val)) i = linkState s i := fun i => by
      rw [linkState_setIsthEvent, linkState_setIsthMod]
      rfl
    generalize hu : checkLink (setIsthEvent (setIsthMod (atTide s now) k m y) (1#32 <<< k.val)) k = u at *
    have isth := recomputeTempo_isth u
    have tMod : ∀ i j, isthMod (recomputeTempo u) i j = isthMod (setIsthMod (atTide s now) k m y) i j := fun i j =>
      (congrArg (fun x : Isthmus => tblGet moduleReset x.mods (16 * i + j)) isth).trans ((mods i j).trans (isthMod_setIsthEvent _ _ _ _))
    have tLink : ∀ i, linkState (recomputeTempo u) i = linkState u i := fun i => congrArg (fun x : Isthmus => tblGet 0 x.link i) isth
    have here : isthMod (recomputeTempo u) k m = y := (tMod k m).trans (isthMod_setIsthMod_self _ _ _ _)
    refine runs_of runs ⟨fun last => ?_, fun e es more => ?_, ?_, fun was => ?_, fun was => ?_, fun i j _ hj h => ?_, fun i hi => ?_⟩
    · rw [here, ← hy, endChange_last _ _ last]
    · rw [here, ← hy, endChange_next _ _ more]
    · rw [isth]
      refine events k ?_
      rw [setIsthEvent_isth]
      simp
      omega
    · rw [tLink]
      exact failed ((before k).trans was)
    · rw [tLink, up ((before k).trans was), workingMods_congr fun j _ => (tMod k j).trans (isthMod_setIsthEvent _ _ _ _).symm]
    · exact (tMod i j).trans (isthMod_setIsthMod_ne (atTide s now) y m.isLt hj h)
    · rw [tLink, links i hi, before]

end Sys2Proof.Machine
end

section
/-! SUPPORT. Strait ports (08, Ports; Bring-up and running on with fewer lanes): what training, a port going down, a declared lane and a
lane change leave of the ports, and what the end of a pause sends. -/

namespace Sys2Proof.Machine

open Sys2Proof

/-! Ports before and after. -/

theorem othersAgree_of_tideSame {s t : State} (h : TideSame s t) (p : Nat) : OthersAgree s t p := fun q _ => h.2 q

theorem samePort_of_tideSame {s t : State} (h : TideSame s t) (p : Nat) : SamePort (portOf s p) (portOf t p) := h.2 p

theorem othersAgree_modPort {s t : State} {p : Nat} {g : Port → Port} (h : OthersAgree (modPort s p g) t p) : OthersAgree s t p := by
  intro q hq
  have e := h q hq
  rwa [portOf_modPort_ne _ _ hq] at e

theorem onlyPort_modPort (s : State) (p : Nat) (g : Port → Port) : OnlyPort s (modPort s p g) p :=
  ⟨rfl, fun _ hq => portOf_modPort_ne _ _ hq⟩

theorem onlyPort_modPort_modPort (s : State) (p : Nat) (g h : Port → Port) : OnlyPort s (modPort (modPort s p g) p h) p :=
  ⟨rfl, fun _ hq => (portOf_modPort_ne _ _ hq).trans (portOf_modPort_ne _ _ hq)⟩

/-! Training begins (R236, R42). -/

/-- What keeps a port down, as its cause reads; 0: nothing. -/
def keptDownBy (k : Port) : Nat := if k.isolated then 4 else if k.laserFault then 2 else if !k.qualified then 3 else if !k.farLit then 5 else 0

theorem beginTraining_eq (s : State) (p : Nat) :
    beginTraining s p = modPort s p fun k => { k with
      state := if keptDownBy (portOf s p) = 0 then 1 else 3, cause := keptDownBy (portOf s p) } := rfl

theorem beginTraining_modPort (s : State) (p : Nat) (g : Port → Port) :
    OnlyPort s (beginTraining (modPort s p g) p) p ∧ portOf (beginTraining (modPort s p g) p) p = { g (portOf s p) with
      state := if keptDownBy (g (portOf s p)) = 0 then 1 else 3, cause := keptDownBy (g (portOf s p)) } := by
  rw [beginTraining_eq, portOf_modPort_self]
  exact ⟨onlyPort_modPort_modPort s p g _, by rw [portOf_modPort_self, portOf_modPort_self]⟩

/-! A port goes down (R239, R240). -/

/-- A port that goes down after a change of its own record. -/
theorem portDown_modPort (s : State) (p : Fin 8) (g : Port → Port) (cause : Nat) (hg : (g (portOf s p)).state = (portOf s p).state) :
    OthersAgree s (portDown (modPort s p g) p cause) p ∧
    ((portOf s p).state = 2 → (portDown (modPort s p g) p cause).straits.event.getLsbD (8 + p) = true) ∧
    SamePort (downPort s (g (portOf s p)) cause) (portOf (portDown (modPort s p g) p cause) p) := by
  refine ⟨?_, fun h2 => ?_, ?_⟩
  · intro q hq
    have e := portDown_other (modPort s p g) cause hq
    rw [portOf_modPort_ne _ _ hq] at e
    exact e
  · refine portDown_event _ _ _ ?_ (by omega)
    unfold portUp
    rw [portOf_modPort_self, hg, h2]
    rfl
  · have e := portDown_port (modPort s p g) p cause
    rw [portOf_modPort_self] at e
    exact e

theorem windowFrom_straits (s : State) : (windowFrom s).straits = s.straits := rfl
theorem portOf_windowFrom (s : State) (p : Nat) : portOf (windowFrom s) p = portOf s p := rfl

theorem sendLane_same (s : State) (p : Nat) : TideSame s (sendLane s p) := sendOut_same _ _ _

/-- What is said of a port that goes down does not read the identity window of an arming. -/
theorem downPort_eq (s : State) (x : Port) (cause : Nat) : downPort s x cause = { x with
    state := 3, cause := cause, pauseTx := false, pauseRx := false, held := [], hunting := false
    failTx := x.failTx ||| x.newTx, failRx := x.failRx ||| x.newRx, newTx := 0, newRx := 0
    latched := x.latched || (armed s && decide (x.state = 1 ∨ x.state = 2)) } := by
  unfold downPort
  rw [Bool.decide_or]

/-- Settles O21: training shows what keeps the port down; a fault of the laser or the far end takes it down. -/
theorem portsTrainAndGoDown : Obligations.PortsTrainAndGoDown := by
  unfold Obligations.PortsTrainAndGoDown
  intro p s k why down
  have goesDown : ∀ (g : Port → Port) (cause : Nat), (g k).state = k.state →
      down (portDown (modPort s p g) p cause) (g k) cause := by
    intro g cause hg
    obtain ⟨hothers, hevent, hport⟩ := portDown_modPort s p g cause hg
    rw [downPort_eq] at hport
    exact ⟨hothers, hevent, hport⟩
  refine ⟨fun lit laser hmay => ?_, fun lit hmay h3 h5 => ?_, fun hon => ?_, fun hon hst => ?_, ?_⟩
  · refine runs_when (show execPortTraining p lit laser s = when _ s _ from rfl) hmay ?_
    exact beginTraining_modPort s p fun k => { k with farLit := lit, qualified := laserOk s laser }
  · refine runs_when (show execPortTrainingRetry p lit s = when _ s _ from rfl) ?_ ?_
    · simp only [hmay, Bool.true_and, Bool.and_eq_true, decide_eq_true_eq]
      exact ⟨h3, h5⟩
    · exact beginTraining_modPort s p fun k => { k with farLit := lit }
  · exact runs_when (show execLaserModuleFault p s = when _ s _ from rfl) hon (goesDown (fun k => { k with laserFault := true }) 2 rfl)
  · refine runs_when (show execFarEndDark p s = when _ s _ from rfl) ?_ (goesDown (fun k => { k with farLit := false }) 5 rfl)
    simp only [hon, Bool.true_and, Bool.or_eq_true, portUp, decide_eq_true_eq]
    exact hst
  · intro rx tx hon h1 x enough
    have hrow : (straitsOn s && decide ((portOf s p).state = 1)) = true := by simp only [hon, Bool.true_and, decide_eq_true_eq]; exact h1
    constructor <;> intro he <;> refine runs_when (show execPortTrainingDone p rx tx s = when _ s _ from rfl) hrow ?_
    · have he' : (decide (8 ≤ activeLanes x.failRx) && decide (8 ≤ activeLanes x.failTx)) = true := by
        rw [Bool.and_eq_true, decide_eq_true_eq, decide_eq_true_eq]
        exact he
      obtain ⟨u, hu⟩ : ∃ u, modPort (modPort s p fun k => { k with trained := true, failRx := k.failRx ||| rx, failTx := k.failTx ||| tx }) p
          (fun k => { k with state := 2, cause := 0, rr := 0 }) = u := ⟨_, rfl⟩
      have huo : OnlyPort s u p := by rw [← hu]; exact onlyPort_modPort_modPort s p _ _
      have hup : portOf u p = { x with state := 2, cause := 0, rr := 0 } := by rw [← hu, portOf_modPort_self, portOf_modPort_self]
      have hsame : ∀ t, TideSame u t → OthersAgree s t p ∧ SamePort { x with state := 2, cause := 0, rr := 0 } (portOf t p) := by
        intro t ht
        refine ⟨fun q hq => ?_, ?_⟩
        · rw [← huo.2 q hq]
          exact ht.2 q
        · rw [← hup]
          exact ht.2 p
      rw [portOf_modPort_self, he', hu, if_pos rfl, Bool.true_and]
      have h2 := recomputeTempo_same u
      have hsent := hsame _ (.ite (c := (rx != 0) = true) (h2.trans (sendLane_same _ p)) h2)
      exact hsent
    · have he' : (decide (8 ≤ activeLanes x.failRx) && decide (8 ≤ activeLanes x.failTx)) = false := by
        rw [Bool.and_eq_false_iff, decide_eq_false_iff_not, decide_eq_false_iff_not, ← not_and_or]
        exact he
      rw [portOf_modPort_self, he', Bool.false_and, if_neg Bool.false_ne_true, if_neg Bool.false_ne_true]
      have hdown := goesDown (fun k => { k with trained := true, failRx := k.failRx ||| rx, failTx := k.failTx ||| tx }) 1 rfl
      generalize portDown _ _ _ = t at hdown ⊢
      exact hdown

/-! Lanes (R237, R238). -/

/-- The LANE frame of a receive direction: its body is the mask of its active lanes, its DIRECTION 0 (Table 8-4). -/
def laneFrame (s : State) (k : Port) : Frame := ctlFrame s 9 s.straits.jobTag 0 0 (leBytes 4 (~~~ (k.failRx ||| k.newRx)).toNat)

theorem sendLane_eq (s : State) (p : Nat) : sendLane s p = sendOut s p (laneFrame s (portOf s p)) := rfl

theorem laneFrame_body (s : State) (k : Port) :
    bNat (laneFrame s k).body 0 4 = (~~~ (k.failRx ||| k.newRx)).toNat ∧ bNat (laneFrame s k).body 4 1 = 0 := by
  obtain ⟨v, hv⟩ : ∃ v, (~~~ (k.failRx ||| k.newRx)) = v := ⟨_, rfl⟩
  have hbody : (laneFrame s k).body = (leBytes 4 v.toNat ++ List.replicate 20 0).take 20 := by rw [← hv]; rfl
  rw [hv, hbody]
  constructor
  · have hfour : (((leBytes 4 v.toNat ++ List.replicate 20 0).take 20).drop 0).take 4 = leBytes 4 v.toNat := by
      rw [List.drop_zero, List.take_take, List.take_append_of_le_length (by rw [leBytes_length]; omega),
        List.take_of_length_le (by rw [leBytes_length]; omega)]
    exact (congrArg leNat hfour).trans ((leNat_leBytes 4 _).trans (Nat.mod_eq_of_lt v.isLt))
  · have hnext : (((leBytes 4 v.toNat ++ List.replicate 20 0).take 20).drop 4).take 1 = [0] := by
      simp [leBytes]
    exact congrArg leNat hnext

theorem sendLane_leaves (s : State) (p : Nat) :
    OtherPorts s (sendLane s p) p ∧ (portOf (sendLane s p) p).newRx = (portOf s p).newRx ∧
    (portOf (sendLane s p) p).failRx = (portOf s p).failRx ∧ Leaves s (sendLane s p) p [laneFrame s (portOf s p)] := by
  have hleaves := sendOut_leaves s p (laneFrame s (portOf s p))
  rw [sendLane_eq]
  have hsame := sendOut_same s p (laneFrame s (portOf s p))
  refine ⟨fun q hq => ?_, ?_, ?_, hleaves⟩
  · unfold sendOut
    split
    · exact portOf_modPort_ne _ _ hq
    · rfl
  · have e := congrArg Port.newRx (hsame.2 p)
    exact e
  · have e := congrArg Port.failRx (hsame.2 p)
    exact e

/-- A port's receive direction declares a lane failed, after changes of what the port counts. -/
theorem declareLane_told {s u : State} {p n : Nat} (hup : portUp u p = true)
    (hn : ((portOf u p).failRx ||| (portOf u p).newRx).getLsbD n = false) (hrx : (portOf u p).newRx = (portOf s p).newRx)
    (hfail : (portOf u p).failRx = (portOf s p).failRx) (hothers : OtherPorts s u p) (hpause : (portOf u p).pauseTx = (portOf s p).pauseTx)
    (hheld : (portOf u p).held = (portOf s p).held) (hsent : u.sent = s.sent) :
    (portOf (declareLane u p n) p).newRx = (portOf s p).newRx ||| (1#32 <<< n) ∧
    (portOf (declareLane u p n) p).failRx = (portOf s p).failRx ∧ OtherPorts s (declareLane u p n) p ∧
    ∃ f : Frame, Leaves s (declareLane u p n) p [f] ∧ f.typ = 9 ∧
      bNat f.body 0 4 = (~~~ ((portOf s p).failRx ||| ((portOf s p).newRx ||| (1#32 <<< n)))).toNat ∧ bNat f.body 4 1 = 0 := by
  have e : declareLane u p n = sendLane (modPort u p fun k => { k with newRx := k.newRx ||| (1#32 <<< n) }) p := by
    unfold declareLane
    dsimp only
    rw [hup, hn]
    rfl
  obtain ⟨v, hv⟩ : ∃ v, (modPort u p fun k => { k with newRx := k.newRx ||| (1#32 <<< n) }) = v := ⟨_, rfl⟩
  have hp : portOf v p = { portOf u p with newRx := (portOf u p).newRx ||| (1#32 <<< n) } := by rw [← hv, portOf_modPort_self]
  have ho : ∀ q, q ≠ p → portOf v q = portOf u q := fun q hq => by rw [← hv, portOf_modPort_ne _ _ hq]
  have hs : v.sent = u.sent := by rw [← hv]; rfl
  rw [e, hv]
  obtain ⟨hlo, hlrx, hlfail, hleaves⟩ := sendLane_leaves v p
  obtain ⟨hb4, hb1⟩ := laneFrame_body v (portOf v p)
  refine ⟨?_, ?_, fun q hq => ?_, laneFrame v (portOf v p), ⟨fun h => ?_, fun h => ?_⟩, rfl, ?_, hb1⟩
  · rw [hlrx, hp, hrx]
  · rw [hlfail, hp, hfail]
  · rw [hlo q hq, ho q hq, hothers q hq]
  · rw [hleaves.1 (by rw [hp, hpause, h]), hs, hsent]
  · obtain ⟨hsent', hheld'⟩ := hleaves.2 (by rw [hp, hpause, h])
    exact ⟨by rw [hsent', hs, hsent], by rw [hheld', hp, hheld]⟩
  · rw [hb4, hp, hfail, hrx]

/-! Lane changes (R238, R239). -/

/-- A port after a lane change of one direction. -/
def lanesApplied (k : Port) (tx : Bool) : Port :=
  if tx then { k with failTx := k.failTx ||| k.newTx, newTx := 0, pauseTx := true }
  else { k with failRx := k.failRx ||| k.newRx, newRx := 0, pauseRx := true }

theorem laneChange_eq (s : State) (p : Nat) (tx : Bool) :
    laneChange s p tx =
      let u := setStraitEvent (modPort s p fun k => lanesApplied k tx) (1#32 <<< p)
      if activeLanes (if tx then (portOf u p).failTx else (portOf u p).failRx) < 8 then portDown u p 1 else recomputeTempo u := rfl

theorem portOf_setStraitEvent (s : State) (b : Reg) (p : Nat) : portOf (setStraitEvent s b) p = portOf s p :=
  portOf_of (flowPorts (FlowSame.event s b)) p

theorem portOf_changed (s : State) (p : Nat) (tx : Bool) (b : Reg) :
    portOf (setStraitEvent (modPort s p fun k => lanesApplied k tx) b) p = lanesApplied (portOf s p) tx := by
  rw [portOf_setStraitEvent, portOf_modPort_self]

theorem laneChange_up {s : State} (p : Fin 8) {tx : Bool}
    (h : ¬ activeLanes (if tx then (lanesApplied (portOf s p) tx).failTx else (lanesApplied (portOf s p) tx).failRx) < 8) :
    OthersAgree s (laneChange s p tx) p ∧ SamePort (lanesApplied (portOf s p) tx) (portOf (laneChange s p tx) p) ∧
    (laneChange s p tx).straits.event.getLsbD p = true := by
  rw [laneChange_eq]
  dsimp only
  rw [portOf_changed, if_neg h]
  have hsame := recomputeTempo_same (setStraitEvent (modPort s p fun k => lanesApplied k tx) (1#32 <<< p.val))
  refine ⟨fun q hq => ?_, ?_, ?_⟩
  · have e := hsame.2 q
    rwa [portOf_setStraitEvent, portOf_modPort_ne _ _ hq] at e
  · have e := hsame.2 p
    rwa [portOf_changed] at e
  · rw [tideEvent hsame, setStraitEvent_event, BitVec.getLsbD_or]
    simp
    right
    omega

/-- Of two ports that agree but for what waits, the marker and the required tempo, state, cause and failed lanes are the same. -/
theorem lanes_of_samePort {k k' : Port} (h : SamePort k k') :
    k'.state = k.state ∧ k'.cause = k.cause ∧ k'.failRx = k.failRx ∧ k'.failTx = k.failTx := by
  unfold SamePort at h
  rw [← h]
  exact ⟨rfl, rfl, rfl, rfl⟩

theorem laneChange_down {s : State} (p : Fin 8) {tx : Bool}
    (h : activeLanes (if tx then (lanesApplied (portOf s p) tx).failTx else (lanesApplied (portOf s p) tx).failRx) < 8) :
    OthersAgree s (laneChange s p tx) p ∧ (portOf (laneChange s p tx) p).state = 3 ∧ (portOf (laneChange s p tx) p).cause = 1 ∧
    (portOf (laneChange s p tx) p).failRx = (lanesApplied (portOf s p) tx).failRx ||| (lanesApplied (portOf s p) tx).newRx ∧
    (portOf (laneChange s p tx) p).failTx = (lanesApplied (portOf s p) tx).failTx ||| (lanesApplied (portOf s p) tx).newTx := by
  rw [laneChange_eq]
  dsimp only
  rw [portOf_changed, if_pos h]
  obtain ⟨u, hu⟩ : ∃ u, setStraitEvent (modPort s p fun k => lanesApplied k tx) (1#32 <<< p.val) = u := ⟨_, rfl⟩
  have hup : portOf u p = lanesApplied (portOf s p) tx := by rw [← hu, portOf_changed]
  have huo : ∀ q, q ≠ p.val → portOf u q = portOf s q := fun q hq => by
    rw [← hu, portOf_setStraitEvent, portOf_modPort_ne _ _ hq]
  rw [hu]
  have hport : SamePort (downPort u (lanesApplied (portOf s p) tx) 1) (portOf (portDown u p 1) p) := by
    rw [← hup]
    exact portDown_port u p 1
  refine ⟨fun q hq => ?_, lanes_of_samePort hport⟩
  · have e := portDown_other u 1 hq
    rw [huo q hq] at e
    exact e

/-! The end of a pause (R238). -/

/-- Frames only leave: ports and contexts stay. -/
def FramesGo (s t : State) : Prop :=
  t.straits.ports = s.straits.ports ∧ t.straits.flows = s.straits.flows ∧ ∃ fs, t.sent = fs ++ s.sent

theorem framesGo_refl (s : State) : FramesGo s s := ⟨rfl, rfl, [], rfl⟩

theorem framesGo_trans {a b c : State} (h : FramesGo a b) (h' : FramesGo b c) : FramesGo a c := by
  obtain ⟨hp, hf, fs, hs⟩ := h
  obtain ⟨hp', hf', fs', hs'⟩ := h'
  exact ⟨hp'.trans hp, hf'.trans hf, fs' ++ fs, by rw [hs', hs, List.append_assoc]⟩

theorem sendOut_open {s : State} {p : Nat} (h : (portOf s p).pauseTx = false) (f : Frame) :
    sendOut s p f = emit s (.frame p (sealFrame f)) := by
  unfold sendOut
  rw [h]
  rfl

theorem sendOut_framesGo {s : State} {p : Nat} (h : (portOf s p).pauseTx = false) (f : Frame) : FramesGo s (sendOut s p f) := by
  rw [sendOut_open h]
  exact ⟨rfl, rfl, [_], rfl⟩

/-- Steps that only send while the port does not pause, one after another. -/
theorem framesGo_foldl {α : Type} {p : Nat} (f : State → α → State)
    (h : ∀ s x, (portOf s p).pauseTx = false → FramesGo s (f s x)) :
    ∀ (l : List α) (s : State), (portOf s p).pauseTx = false → FramesGo s (l.foldl f s)
  | [], s, _ => framesGo_refl s
  | x :: l, s, hp => by
    have h1 := h s x hp
    exact framesGo_trans h1 (framesGo_foldl f h l (f s x) (by rw [portOf_of h1.1]; exact hp))

theorem resendFrom_framesGo {s : State} {p : Nat} (i q : Nat) (h : (portOf s p).pauseTx = false) : FramesGo s (resendFrom s p i q) := by
  unfold resendFrom
  exact framesGo_trans (framesGo_foldl _ (fun t c ht => sendOut_framesGo ht _) _ s h) ⟨rfl, rfl, [], rfl⟩

/-- Frames sent one after another over a port that does not pause. -/
theorem foldl_sendOut_open (p : Nat) (g : Frame → Frame) : ∀ (l : List Frame) (s : State), (portOf s p).pauseTx = false →
    l.foldl (fun t f => sendOut t p (g f)) s =
      { s with sent := (l.map fun f => Out.frame p (sealFrame (g f))).reverse ++ s.sent }
  | [], _, _ => rfl
  | f :: l, s, hp => by
    rw [List.foldl_cons, sendOut_open hp, foldl_sendOut_open p g l (emit s _) hp]
    simp [emit]

/-- Settles O22: each row by what it leaves of its port; a LANE frame tells a declared lane; the frames held leave at the end of a pause. -/
theorem portLanesAndErrors : Obligations.PortLanesAndErrors := by
  unfold Obligations.PortLanesAndErrors
  intro p now s hon hst k N laneTold changed
  have hup : portUp s p = true := by simp only [portUp, hst, decide_true]
  have halive : alive s = true := by
    simp only [straitsOn, Bool.and_eq_true] at hon
    exact hon.1.1.1.1.1
  refine ⟨fun n c hn hc => ?_, fun n c hc => ?_, fun f hrx htyp hgood hdir => ?_, fun hrx hnew => ⟨fun h8 => ?_, fun h8 => ?_⟩,
    fun htx hnew => ⟨fun h8 => ?_, fun h8 => ?_⟩, fun hrx => ?_, fun htx => ?_, ?_, fun block hbad hhunt => ?_⟩
  · refine runs_when (show execStraitLaneFail p (n, c) s = when _ s _ from rfl) (by rw [hon, hup]; rfl) ?_
    rw [if_neg (by dsimp only; omega)]
    refine declareLane_told (decide_eq_true ?_) ?_ ?_ ?_ (fun q hq => portOf_modPort_ne _ _ hq) ?_ ?_ rfl
    all_goals rw [portOf_modPort_self]
    · exact hst
    · exact hn
  · refine runs_when (show execStraitLaneFail p (n, some c) s = when _ s _ from rfl) (by rw [hon, hup]; rfl) ?_
    rw [if_pos (by exact hc)]
    exact ⟨onlyPort_modPort _ _ _, by rw [portOf_modPort_self]; rfl⟩
  · have ha : arrives s p 9 f = true := by simp [arrives, halive, hup, hrx, hgood, htyp, k]
    refine runs_of (t := modPort (marked s p) p fun k => { k with newTx := k.newTx ||| (~~~ (reg (bNat f.body 0 4)) &&& ~~~ k.failTx) })
      ?_ ⟨onlyPort_modPort_modPort _ _ _ _, by rw [portOf_modPort_self, marked, portOf_modPort_self]⟩
    change execLane p f s = _
    unfold execLane portRow
    rw [if_pos ha]
    dsimp only
    rw [if_pos hdir]
  · refine runs_when (show execStraitLaneChange p false now s = when _ s _ from rfl) (by simp [hon, hup, k] at *; exact ⟨hrx, hnew⟩) ?_
    exact laneChange_up (s := atTide s now) p (tx := false) (Nat.not_lt.mpr h8)
  · refine runs_when (show execStraitLaneChange p false now s = when _ s _ from rfl) (by simp [hon, hup, k] at *; exact ⟨hrx, hnew⟩) ?_
    obtain ⟨ho, h3, h1, hr, -⟩ := laneChange_down (s := atTide s now) p (tx := false) h8
    exact ⟨ho, h3, h1, hr.trans (by simp [lanesApplied]; rfl)⟩
  · refine runs_when (show execStraitLaneChange p true now s = when _ s _ from rfl) (by simp [hon, hup, k] at *; exact ⟨htx, hnew⟩) ?_
    exact laneChange_up (s := atTide s now) p (tx := true) (Nat.not_lt.mpr h8)
  · refine runs_when (show execStraitLaneChange p true now s = when _ s _ from rfl) (by simp [hon, hup, k] at *; exact ⟨htx, hnew⟩) ?_
    obtain ⟨ho, h3, h1, -, ht⟩ := laneChange_down (s := atTide s now) p (tx := true) h8
    exact ⟨ho, h3, h1, ht.trans (by simp [lanesApplied]; rfl)⟩
  · refine runs_when (show execLaneChangePauseEnd p false now s = when _ s _ from rfl) (by simp [hon, hup, k] at *; exact hrx) ?_
    exact ⟨onlyPort_modPort _ _ _, portOf_modPort_self _ _ _⟩
  · refine runs_when (show execLaneChangePauseEnd p true now s = when _ s _ from rfl) (by simp [hon, hup, k] at *; exact htx) ?_
    obtain ⟨u, hu⟩ : ∃ u, (modPort (atTide s now) p fun k => { k with pauseTx := false, held := [] }) = u := ⟨_, rfl⟩
    have hp : portOf u p = { k with pauseTx := false, held := [] } := by rw [← hu]; exact portOf_modPort_self _ _ _
    have ho : OtherPorts s u p := fun q hq => by rw [← hu]; exact portOf_modPort_ne _ _ hq
    have hf : u.straits.flows = s.straits.flows := by rw [← hu]; rfl
    have hs : u.sent = s.sent := by rw [← hu]; rfl
    have hrel : releaseHeld (atTide s now) p = { u with
        sent := (k.held.map fun f => Out.frame p (sealFrame { f with stamp := BitVec.ofNat 64 N })).reverse ++ u.sent } := by
      rw [← foldl_sendOut_open p (fun f => { f with stamp := BitVec.ofNat 64 N }) k.held u (by rw [hp]), ← hu]
      rfl
    rw [if_pos rfl, hrel]
    obtain ⟨v, hv⟩ : ∃ v, ({ u with
        sent := (k.held.map fun f => Out.frame p (sealFrame { f with stamp := BitVec.ofNat 64 N })).reverse ++ u.sent } : State) = v := ⟨_, rfl⟩
    have hvp : v.straits = u.straits := by rw [← hv]
    have hvs : v.sent = (k.held.map fun f => Out.frame p (sealFrame { f with stamp := BitVec.ofNat 64 N })).reverse ++ s.sent := by
      rw [← hv, ← hs]
    have hvpo : ∀ q, portOf v q = portOf u q := portOf_of (by rw [hvp])
    rw [hv]
    obtain ⟨hgp, hgf, fs, hgs⟩ := framesGo_foldl (p := p) (fun s i => resendFrom s p i (cAckedSeq (flowOf s i)))
      (fun t i ht => resendFrom_framesGo i _ ht)
      ((contexts v).filter fun i => sends (flowOf v i) && decide (cPort (flowOf v i) = p.val)) v (by rw [hvpo, hp])
    refine ⟨fun q hq => ?_, ?_, ?_, fs, ?_⟩
    · rw [portOf_of hgp, hvpo, ho q hq]
    · rw [portOf_of hgp, hvpo, hp]
    · rw [hgf, hvp, hf]
    · rw [Sent, hgs, hvs, List.append_assoc]
  · intro n last x
    refine ⟨fun hlast => ?_, fun hlast hsoon hn => ?_⟩
    · refine runs_when (show execUncorrectableCodeword p (n, now) s = when _ s _ from rfl) (by simp [hon, hup]) ?_
      rw [if_neg (by
        simp only [Bool.and_eq_true, bne_iff_ne, decide_eq_true_eq]
        rintro ⟨h0, hlt⟩
        exact hlast.elim h0 (fun h => absurd hlt (Nat.not_lt.mpr h)))]
      exact ⟨onlyPort_modPort _ _ _, portOf_modPort_self _ _ _⟩
    · refine runs_when (show execUncorrectableCodeword p (n, now) s = when _ s _ from rfl) (by simp [hon, hup]) ?_
      rw [if_pos (by
        simp only [Bool.and_eq_true, bne_iff_ne, decide_eq_true_eq]
        exact ⟨hlast, hsoon⟩)]
      refine declareLane_told (decide_eq_true ?_) ?_ ?_ ?_ (fun q hq => (portOf_modPort_ne _ _ hq).trans rfl) ?_ ?_ rfl
      all_goals rw [portOf_modPort_self]
      · exact hst
      · exact hn
      all_goals rfl
  · refine runs_when (show execBadBlockBoundary (p, block) s = when _ s _ from rfl) (by simp [hon, hup, hbad, k] at *; exact hhunt) ?_
    exact ⟨onlyPort_modPort _ _ _, portOf_modPort_self _ _ _⟩

end Sys2Proof.Machine
end

section
/-! SUPPORT. Frames of a flow at a sink, and at the port that sends them (08, R243, R248–R253, R258). -/

namespace Sys2Proof.Machine

open Sys2Proof

/-! A frame of OP 0 lands (R59, R84, R144, R249). -/

theorem sram_of_coreAgrees {k k' : Core} (h : CoreAgrees k k') : k'.sram = k.sram := by
  have e := congrArg Core.sram h.1
  exact e

/-- Bytes of another package land in a core's SRAM where they may. -/
theorem landSram_lands {s : State} {c a : Nat} {bs : List Byte} (on : coreResetting s c = false) (inside : sramOk a bs.length = true)
    (apart : hitsDrainSlot (coreOf s c) a bs.length = false) (free : writesClash s c 7 [] [(a, bs.length)] = false) :
    ∃ t, landSram s c a bs = .ok t ∧ { t with cores := s.cores } = s ∧ (∀ x, x ≠ c → CoreAgrees (coreOf s x) (coreOf t x)) ∧
      SramSame (coreOf s c) (coreOf t c) [(a, bs.length)] ∧ ∀ i < bs.length, memGet (coreOf t c).sram (a + i) = bs.getD i 0 := by
  obtain ⟨u, lands, rest, others, same, bytes⟩ := landBytes_lands on inside apart
  obtain ⟨seenRest, seenCores⟩ := rememberAll_seen u c 7 [(a, bs.length)]
  have sram := sram_of_coreAgrees (seenCores c)
  refine ⟨rememberAll u c 7 [(a, bs.length)], ?_, ?_, fun x hx => ?_, fun x hx => ?_, fun i hi => ?_⟩
  · unfold landSram
    rw [on, if_neg Bool.false_ne_true, free, if_neg Bool.false_ne_true, lands]
    rfl
  · have e := congrArg (fun v : State => { v with cores := s.cores }) seenRest
    exact Eq.trans e rest
  · have e := seenCores x
    rwa [others x hx] at e
  · rw [sram]
    exact same x hx
  · rw [sram]
    exact bytes i hi

theorem landSram_clash {s : State} {c a : Nat} {bs : List Byte} (on : coreResetting s c = false)
    (free : writesClash s c 7 [] [(a, bs.length)] = true) : landSram s c a bs = .error (.writeOverlap (keptOf s)) := by
  unfold landSram
  rw [on, if_neg Bool.false_ne_true, if_pos free]

theorem landSram_range {s : State} {c a : Nat} {bs : List Byte} (on : coreResetting s c = false)
    (free : writesClash s c 7 [] [(a, bs.length)] = false) (some : bs.length ≠ 0) (inside : sramOk a bs.length = false) :
    landSram s c a bs = .error (.sramRange (keptOf s)) := by
  have full : bs.isEmpty = false := by
    cases bs with
    | nil => exact absurd rfl some
    | cons b bs => rfl
  unfold landSram landBytes
  rw [on, if_neg Bool.false_ne_true, free, if_neg Bool.false_ne_true, full, inside]
  rfl

theorem landSram_drain {s : State} {c a : Nat} {bs : List Byte} (on : coreResetting s c = false)
    (free : writesClash s c 7 [] [(a, bs.length)] = false) (some : bs.length ≠ 0) (inside : sramOk a bs.length = true)
    (hits : hitsDrainSlot (coreOf s c) a bs.length = true) : landSram s c a bs = .error (.drainSlotWrite (keptOf s)) := by
  have full : bs.isEmpty = false := by
    cases bs with
    | nil => exact absurd rfl some
    | cons b bs => rfl
  unfold landSram landBytes
  rw [on, if_neg Bool.false_ne_true, free, if_neg Bool.false_ne_true, full, inside, hits]
  rfl

/-- A frame of OP 0 to a core of the package: its payload, then the add of a last frame. -/
theorem landFrame_sram {s : State} {core : Nat} {f : Frame} (typ : f.typ = 1) (op : frameOp f = 0) (dest : coreFieldOk core = true)
    (start : coreResetting s (coreField core) = true ∨ isFirst f = true ∨ (f.destAddr.toNat ≠ 0x400000 ∧ f.destAddr.toNat ≠ 0x600000)) :
    landFrame s core f = (landSram s (coreField core) f.destAddr.toNat (payload f)).map fun t =>
      if isLast f then landAdd t core f.destSem.toNat f.destN.toNat else t := by
  unfold landFrame
  have goesOn : (!isFirst f && (decide (f.destAddr.toNat = 0x400000) || decide (f.destAddr.toNat = 0x600000)) &&
      !coreResetting s (coreField core)) = false := by
    rcases start with h | h | ⟨h4, h6⟩
    · simp [h]
    · simp [h]
    · simp [h4, h6]
  have noSignal : (decide (f.typ = 2) || decide (frameOp f = 3) || !coreFieldOk core && decide (frameOp f = 0)) = false := by
    simp [typ, op, dest]
  dsimp only
  rw [if_neg (by rw [noSignal]; exact Bool.false_ne_true), if_pos op, if_neg (by rw [goesOn]; exact Bool.false_ne_true)]
  cases landSram s (coreField core) f.destAddr.toNat (payload f) <;> rfl

theorem payload_length (f : Frame) : (payload f).length = min f.body.length f.valid.toNat := by
  unfold payload
  rw [List.length_take, Nat.min_comm]

theorem payload_getD (f : Frame) {j : Nat} (h : j < min f.body.length f.valid.toNat) : (payload f).getD j 0 = f.body.getD j 0 := by
  unfold payload
  rw [List.getD_eq_getElem?_getD, List.getD_eq_getElem?_getD, List.getElem?_take_of_lt (by omega)]

/-- What a fault keeps is read of the meter and of the boot state alone. -/
theorem keptOf_congr {s t : State} (meter : t.meter = s.meter) (boot : t.boot = s.boot) : keptOf t = keptOf s := by
  unfold keptOf
  rw [meter, boot]

theorem keptOf_throughSource (s : State) (src : Nat) (x : InFrame) : keptOf (throughSource s src x) = keptOf s := keptOf_congr rfl rfl
theorem keptOf_cSet (s : State) (i byte n v : Nat) : keptOf (cSet s i byte n v) = keptOf s := keptOf_congr rfl rfl
theorem keptOf_advanceRecv (s : State) (i : Nat) : keptOf (advanceRecv s i) = keptOf s := keptOf_cSet s i 16 32 _
theorem keptOf_came (s : State) (p now i : Nat) : keptOf (came (arrived s p now) p i) = keptOf s := keptOf_congr rfl rfl
theorem keptOf_inXfer (s : State) (i : Nat) (f : Frame) : keptOf (inXfer s i f) = keptOf s := by
  unfold inXfer
  split <;> exact keptOf_congr rfl rfl

theorem land_map_map (r : Land) (g h : State → State) : Except.map h (Except.map g r) = Except.map (fun t => h (g t)) r := by
  cases r <;> rfl

/-- The state in which a sink's frame, in order and with nothing before it, is delivered. -/
def delivering (s : State) (p : Fin 8) (now : Nat) (f : Frame) : State :=
  let u := came (arrived s p now) p (frameFlow f)
  throughSource (inXfer (advanceRecv u (frameFlow f)) (frameFlow f) f) (frameFlow f / 2048) (sinkFrame u (frameFlow f) f)

theorem delivering_eq (s : State) (p : Fin 8) (now : Nat) (f : Frame) : (delivering s p now f).cores = s.cores ∧
    (delivering s p now f).adds = s.adds ∧ keptOf (delivering s p now f) = keptOf s ∧
    flowOf (delivering s p now f) (frameFlow f) = cPut (flowOf s (frameFlow f)) 16 32 (cRecvSeq (flowOf s (frameFlow f)) + 1) := by
  unfold delivering
  refine ⟨?_, ?_, ?_, ?_⟩
  · rw [throughSource_cores, inXfer_cores, advanceRecv_cores]
    rfl
  · rw [throughSource_adds, inXfer_adds, advanceRecv_adds]
    rfl
  · rw [keptOf_throughSource, keptOf_inXfer, keptOf_advanceRecv, keptOf_came]
  · rw [flowOf_throughSource, flowOf_inXfer, flowOf_advanceRecv]
    rfl

/-- A sink's frame of OP 0, in order, with nothing before it: it lands, its credits are granted, and an ACK may leave. -/
theorem exec_data_sink {p : Fin 8} {f : Frame} {now : Nat} {s : State} (hs : alive s = true) (hup : (portOf s p).state = 2)
    (hrx : (portOf s p).pauseRx = false) (hg : frameGood f = true) (typ : f.typ = 1) (op : frameOp f = 0)
    (htag : s.straits.jobTag ≠ 0) (hours : f.jobTag.toNat = s.straits.jobTag) (harmed : cState (flowOf s (frameFlow f)) = 2)
    (hsink : cRole (flowOf s (frameFlow f)) = 2) (hlinked : roleLinked (portRole s p) = true)
    (hseq : f.seq.toNat = cRecvSeq (flowOf s (frameFlow f))) (hq : inqOf s (frameFlow f / 2048) = []) :
    exec (.data p f now) s = ofLand ((landFrame (delivering s p now f) (cDestCore (flowOf s (frameFlow f))) f).map fun t =>
      sendAck (grant t (frameFlow f) (frameCredits f)) p (frameFlow f)) := by
  rw [exec_sequenced hs hup hrx hg (.inl ⟨typ, rfl⟩)]
  have known : foreignTag (arrived s p now) f = false := (foreignTag_eq_false_iff (arrived s p now) f).mpr ⟨htag, hours⟩
  have taken : unknownTo (arrived s p now) p f = false :=
    (unknownTo_eq_false_iff (arrived s p now) p f).mpr ⟨.inl harmed, .inr hsink, hlinked⟩
  obtain ⟨u, hu⟩ : ∃ u, came (arrived s p now) p (frameFlow f) = u := ⟨_, rfl⟩
  have huf : flowOf u (frameFlow f) = flowOf s (frameFlow f) := by rw [← hu]; rfl
  have hx : forController (sinkFrame u (frameFlow f) f) = false := by simp [forController, sinkFrame, op]
  have hq' : inqOf (inXfer (advanceRecv u (frameFlow f)) (frameFlow f) f) (frameFlow f / 2048) = [] := by
    rw [inqOf_inXfer, inqOf_advanceRecv, ← hu]
    exact hq
  have hacc : acceptSeq u (frameFlow f) f = deliverFrame (delivering s p now f) (sinkFrame u (frameFlow f) f) := by
    rw [acceptSeq_sink f (by rw [huf]; exact harmed) (by rw [huf]; exact hsink), intoSource_delivers hq' hx, ← hu]
    rfl
  have hseqd : sequenced (arrived s p now) p f =
      (deliverFrame (delivering s p now f) (sinkFrame u (frameFlow f) f)).map fun t => sendAck t p (frameFlow f) := by
    rw [← hacc, ← hu]
    unfold sequenced came
    dsimp only
    rw [known, if_neg Bool.false_ne_true, taken, if_neg Bool.false_ne_true]
    exact if_pos hseq
  have hdest : cDestCore (flowOf (delivering s p now f) (frameFlow f)) = cDestCore (flowOf s (frameFlow f)) := by
    rw [(delivering_eq s p now f).2.2.2, cDestCore_putRecvSeq]
  have hdel : deliverFrame (delivering s p now f) (sinkFrame u (frameFlow f) f) =
      (landFrame (delivering s p now f) (cDestCore (flowOf s (frameFlow f))) f).map fun t => grant t (frameFlow f) (frameCredits f) := by
    unfold deliverFrame
    rw [if_neg (by simp [sinkFrame, op])]
    change Except.map _ (landFrame _ (cDestCore (flowOf _ (frameFlow f))) f) = _
    rw [hdest]
    rfl
  rw [hseqd, hdel, land_map_map]

/-- What is read of the state after the credits of a delivered frame are granted and its ACK may have left. -/
theorem granted_reads (t : State) (p : Nat) (i n : Nat) : (sendAck (grant t i n) p i).cores = t.cores ∧
    (sendAck (grant t i n) p i).adds = t.adds ∧ cRecvSeq (flowOf (sendAck (grant t i n) p i) i) = cRecvSeq (flowOf t i) := by
  refine ⟨?_, ?_, ?_⟩
  · rw [sendAck_cores, grant_cores]
  · rw [sendAck_adds, grant_adds]
  · rw [flowOf_sendAck, flowOf_grant, cRecvSeq_putGranted]

theorem lastAdd_eq (t : State) (dest sem n : Nat) (last : Bool) : (if last = true then landAdd t dest sem n else t) =
    { t with adds := t.adds ++ if last = true ∧ coreFieldOk dest = true ∧ sem < 48 then [⟨coreField dest, sem, n⟩] else [] } := by
  cases last with
  | false => simp
  | true => simp [landAdd_eq]

/-- Settles O24: the frame lands by the rule of landing in a core's SRAM, at the state in which its sink delivers it. -/
theorem sinkDeliversToSram : Obligations.SinkDeliversToSram := by
  unfold Obligations.SinkDeliversToSram
  intro p f now s hs hup hrx i d c a n clashes hg typ op htag hours harmed hsink hlinked hseq hdest hq
  have run := exec_data_sink (now := now) hs hup hrx hg typ op htag hours harmed hsink hlinked hseq hq
  obtain ⟨hcores, hadds, hkept, hflow⟩ := delivering_eq s p now f
  generalize delivering s p now f = v at run hcores hadds hkept hflow
  have hcore : ∀ x, coreOf v x = coreOf s x := coreOf_of_cores hcores
  have hclash : writesClash v c 7 [] [(a, (payload f).length)] = clashes := by
    rw [payload_length]
    unfold writesClash landing
    rw [hcore, hcores]
    rfl
  have hreset : coreResetting v c = coreResetting s c := by unfold coreResetting; rw [hcore]
  have hnext : cRecvSeq (flowOf v i) = (f.seq.toNat + 1) % 2 ^ 32 := by rw [hflow, cRecvSeq_putRecvSeq, hseq]
  refine ⟨fun hon hstart => ?_, fun hr => ?_⟩
  · rw [landFrame_sram typ op hdest (.inr hstart)] at run
    have hon' := hreset.trans hon
    refine ⟨fun hin hapart hfree => ?_, fun hcl => ?_, fun hfree hn hin => ?_, fun hfree hn hin hhit => ?_⟩
    · obtain ⟨w, hland, hrest, hothers, hsame, hbytes⟩ := landSram_lands (a := a) hon' (by rw [payload_length]; exact hin)
        (by rw [payload_length, hcore]; exact hapart) (hclash.trans hfree)
      rw [hland] at run
      have hwadds : w.adds = v.adds := by have e := congrArg State.adds hrest; exact e
      have hwflow : flowOf w i = flowOf v i := by
        have e := congrArg State.straits hrest
        unfold flowOf
        rw [show w.straits = v.straits from e]
      obtain ⟨gcores, gadds, grecv⟩ := granted_reads { w with
        adds := w.adds ++ if isLast f = true ∧ coreFieldOk (cDestCore d) = true ∧ f.destSem.toNat < 48 then
          [⟨c, f.destSem.toNat, f.destN.toNat⟩] else [] } p i (frameCredits f)
      simp only [Except.map, lastAdd_eq] at run
      refine runs_of run ⟨fun x hx => ?_, fun j hj => ?_, fun x hx => ?_, ?_, ?_⟩
      · rw [coreOf_of_cores gcores, ← hcore]
        refine hsame x ?_
        rw [payload_length]
        exact hx
      · rw [coreOf_of_cores gcores]
        refine (hbytes j ?_).trans (payload_getD f hj)
        rw [payload_length]
        exact hj
      · rw [coreOf_of_cores gcores, ← hcore]
        exact hothers x hx
      · exact grecv.trans ((congrArg cRecvSeq hwflow).trans hnext)
      · refine gadds.trans ?_
        simp only [hwadds, hadds, hdest, true_and]
    · rw [landSram_clash hon' (hclash.trans hcl), hkept] at run
      exact run
    · rw [landSram_range hon' (hclash.trans hfree) (by rw [payload_length]; exact hn) (by rw [payload_length]; exact hin), hkept] at run
      exact run
    · rw [landSram_drain hon' (hclash.trans hfree) (by rw [payload_length]; exact hn) (by rw [payload_length]; exact hin)
        (by rw [payload_length, hcore]; exact hhit), hkept] at run
      exact run
  · rw [landFrame_sram typ op hdest (.inl (hreset.trans hr))] at run
    have hland : landSram v c a (payload f) = .ok v := by unfold landSram; rw [hreset, if_pos hr]
    rw [hland] at run
    obtain ⟨gcores, -, grecv⟩ := granted_reads { v with
      adds := v.adds ++ if isLast f = true ∧ coreFieldOk (cDestCore d) = true ∧ f.destSem.toNat < 48 then
        [⟨c, f.destSem.toNat, f.destN.toNat⟩] else [] } p i (frameCredits f)
    simp only [Except.map, lastAdd_eq] at run
    exact runs_of run ⟨gcores.trans hcores, grecv.trans hnext⟩

end Sys2Proof.Machine
end

section
/-! SUPPORT. What a port sends and counts (08, R243, R248, R251–R253, R258). -/

namespace Sys2Proof.Machine

open Sys2Proof

/-! The head of a context leaves (R251, R252). -/

theorem rtOf_setFlow (s : State) (i : Nat) (d : Line) (j : Nat) : rtOf (setFlow s i d) j = rtOf s j := rfl

theorem flowOf_grant_ne (s : State) {i j : Nat} (n : Nat) (h : j ≠ i) : flowOf (grant s i n) j = flowOf s j := by
  rw [grant, flowOf_modRt]
  exact flowOf_setFlow_ne s _ h

theorem rtOf_grant_ne (s : State) {i j : Nat} (n : Nat) (h : j ≠ i) : rtOf (grant s i n) j = rtOf s j := by
  rw [grant, rtOf_modRt_ne _ _ h, rtOf_cSet]

theorem flowOf_modPort (s : State) (p : Nat) (g : Port → Port) (i : Nat) : flowOf (modPort s p g) i = flowOf s i := rfl
theorem rtOf_modPort (s : State) (p : Nat) (g : Port → Port) (i : Nat) : rtOf (modPort s p g) i = rtOf s i := rfl
theorem flowOf_emit (s : State) (o : Out) (i : Nat) : flowOf (emit s o) i = flowOf s i := rfl
theorem rtOf_emit (s : State) (o : Out) (i : Nat) : rtOf (emit s o) i = rtOf s i := rfl
theorem portOf_emit (s : State) (o : Out) (p : Nat) : portOf (emit s o) p = portOf s p := rfl
theorem portOf_setFlow (s : State) (i : Nat) (d : Line) (p : Nat) : portOf (setFlow s i d) p = portOf s p := rfl
theorem portOf_cSet (s : State) (i byte n v p : Nat) : portOf (cSet s i byte n v) p = portOf s p := rfl
theorem portOf_grant (s : State) (i n p : Nat) : portOf (grant s i n) p = portOf s p := by
  rw [grant, portOf_modRt, portOf_cSet]

theorem cSet_sent (s : State) (i byte n v : Nat) : (cSet s i byte n v).sent = s.sent := rfl
theorem modRt_sent' (s : State) (i : Nat) (g : FlowRt → FlowRt) : (modRt s i g).sent = s.sent := rfl
theorem grant_sent (s : State) (i n : Nat) : (grant s i n).sent = s.sent := by
  rw [grant, modRt_sent', cSet_sent]

/-- The frame as it leaves: the context's SEQ and the next hop's identifier, stamped (R252). -/
def frameOut (s : State) (d : Line) (x : TxFrame) : Frame := { x.frame with
  flags := x.frame.flags &&& 0xEF
  flow := BitVec.ofNat 16 (cOutFlow d % 16384)
  seq := BitVec.ofNat 32 (cSendSeq d)
  jobTag := BitVec.ofNat 16 s.straits.jobTag
  stamp := BitVec.ofNat 64 s.tide.now }

/-- A context's new record and what the die keeps of it, once a frame has left it. -/
def putSent (s : State) (i : Nat) (d : Line) (f : Frame) (n : Nat) : State :=
  let u := setFlow s i d
  modRt u i fun r => { r with
    txq := r.txq.tail
    replay := r.replay ++ [⟨f, 0, u.tide.now⟩]
    spent := r.spent + n
    launched := if isFirst f && u.tide.running then some u.tide.step else r.launched }

/-- A context after its head has left, but for what a forwarded frame's credits grant. -/
def headSent (s : State) (i : Nat) (x : TxFrame) : State :=
  putSent s i (cPut (cPut (flowOf s i) 12 32 (cSendSeq (flowOf s i) + 1)) 24 32 (cCredits (flowOf s i) - frameCredits x.frame))
    (frameOut s (flowOf s i) x) (frameCredits x.frame)

theorem putSent_reads (s : State) (i : Nat) (d : Line) (f : Frame) (n : Nat) : flowOf (putSent s i d f n) i = d ∧
    (rtOf (putSent s i d f n) i).txq = (rtOf s i).txq.tail ∧
    (rtOf (putSent s i d f n) i).replay = (rtOf s i).replay ++ [⟨f, 0, s.tide.now⟩] ∧
    (putSent s i d f n).sent = s.sent ∧ (∀ p, portOf (putSent s i d f n) p = portOf s p) ∧
    ∀ j, j ≠ i → flowOf (putSent s i d f n) j = flowOf s j ∧ rtOf (putSent s i d f n) j = rtOf s j := by
  refine ⟨?_, ?_, ?_, rfl, fun p => rfl, fun j hj => ⟨?_, ?_⟩⟩
  · rw [putSent, flowOf_modRt, flowOf_setFlow_self]
  · rw [putSent, rtOf_modRt_self, rtOf_setFlow]
  · rw [putSent, rtOf_modRt_self, rtOf_setFlow]
    rfl
  · rw [putSent, flowOf_modRt, flowOf_setFlow_ne _ _ hj]
  · rw [putSent, rtOf_modRt_ne _ _ hj, rtOf_setFlow]

theorem sendFrame_eq (s : State) (p i : Nat) (x : TxFrame) : sendFrame s p i x =
    emit (modPort (if cRole (flowOf s i) = roleTransit then grant (headSent s i x) i (frameCredits x.frame) else headSent s i x) p
      fun k => { k with rr := (i + 1) % 16384 }) (.frame p (sealFrame (frameOut s (flowOf s i) x))) := rfl

/-- Fields of a context after SEND_SEQ and CREDITS have moved, and after a grant. -/
theorem cSendSeq_sent (d : Line) (a b : Nat) : cSendSeq (cPut (cPut d 12 32 a) 24 32 b) = a % 2 ^ 32 :=
  (fldB_cPut_ne _ 24 32 b 12 4 (by omega) (by omega)).trans (fldB_cPut_self d 12 4 a (by omega))
theorem cCredits_sent (d : Line) (a b : Nat) : cCredits (cPut (cPut d 12 32 a) 24 32 b) = b % 2 ^ 32 := fldB_cPut_self _ 24 4 b (by omega)
theorem cSendSeq_putGranted (d : Line) (v : Nat) : cSendSeq (cPut d 28 32 v) = cSendSeq d :=
  fldB_cPut_ne d 28 32 v 12 4 (by omega) (by omega)
theorem cCredits_putGranted (d : Line) (v : Nat) : cCredits (cPut d 28 32 v) = cCredits d :=
  fldB_cPut_ne d 28 32 v 24 4 (by omega) (by omega)

theorem headSent_sendSeq (s : State) (i : Nat) (x : TxFrame) :
    cSendSeq (flowOf (headSent s i x) i) = (cSendSeq (flowOf s i) + 1) % 2 ^ 32 := by
  unfold headSent
  rw [(putSent_reads s i _ _ _).1, cSendSeq_sent]

theorem headSent_credits_mod (s : State) (i : Nat) (x : TxFrame) :
    cCredits (flowOf (headSent s i x) i) = (cCredits (flowOf s i) - frameCredits x.frame) % 2 ^ 32 := by
  unfold headSent
  rw [(putSent_reads s i _ _ _).1, cCredits_sent]

theorem headSent_credits (s : State) (i : Nat) (x : TxFrame) :
    cCredits (flowOf (headSent s i x) i) = cCredits (flowOf s i) - frameCredits x.frame := by
  rw [headSent_credits_mod]
  exact Nat.mod_eq_of_lt (Nat.lt_of_le_of_lt (Nat.sub_le _ _) (fldB_lt (flowOf s i) 24 4))

theorem headSent_rest (s : State) (i : Nat) (x : TxFrame) :
    (rtOf (headSent s i x) i).txq = (rtOf s i).txq.tail ∧
    (rtOf (headSent s i x) i).replay = (rtOf s i).replay ++ [⟨frameOut s (flowOf s i) x, 0, s.tide.now⟩] ∧
    (headSent s i x).sent = s.sent ∧ (∀ p, portOf (headSent s i x) p = portOf s p) ∧
    ∀ j, j ≠ i → flowOf (headSent s i x) j = flowOf s j ∧ rtOf (headSent s i x) j = rtOf s j := by
  unfold headSent
  exact (putSent_reads s i _ _ _).2

theorem sendFrame_reads (s : State) (p i : Nat) (x : TxFrame) :
    cSendSeq (flowOf (sendFrame s p i x) i) = (cSendSeq (flowOf s i) + 1) % 2 ^ 32 ∧
    cCredits (flowOf (sendFrame s p i x) i) = cCredits (flowOf s i) - frameCredits x.frame ∧
    (rtOf (sendFrame s p i x) i).txq = (rtOf s i).txq.tail ∧
    (rtOf (sendFrame s p i x) i).replay = (rtOf s i).replay ++ [⟨frameOut s (flowOf s i) x, 0, s.tide.now⟩] ∧
    Sent s (sendFrame s p i x) [.frame p (sealFrame (frameOut s (flowOf s i) x))] ∧
    (portOf (sendFrame s p i x) p).rr = (i + 1) % 16384 ∧
    ∀ j, j ≠ i → flowOf (sendFrame s p i x) j = flowOf s j ∧ rtOf (sendFrame s p i x) j = rtOf s j := by
  have hseq := headSent_sendSeq s i x
  have hcred := headSent_credits s i x
  obtain ⟨htxq, hrep, hsent, hport, hother⟩ := headSent_rest s i x
  rw [sendFrame_eq]
  generalize headSent s i x = u at *
  by_cases hrole : cRole (flowOf s i) = roleTransit
  · rw [if_pos hrole]
    simp -implicitDefEqProofs only [flowOf_emit, rtOf_emit, flowOf_modPort, rtOf_modPort, flowOf_grant, rtOf_grant, cSendSeq_putGranted, cCredits_putGranted]
    refine ⟨hseq, hcred, htxq, hrep, ?_, ?_, fun j hj => ?_⟩
    · unfold Sent emit
      dsimp only
      rw [modPort_sent, grant_sent, hsent]
      rfl
    · rw [portOf_emit, portOf_modPort_self]
    · rw [flowOf_grant_ne _ _ hj, rtOf_grant_ne _ _ hj]
      exact hother j hj
  · rw [if_neg hrole]
    simp -implicitDefEqProofs only [flowOf_emit, rtOf_emit, flowOf_modPort, rtOf_modPort]
    refine ⟨hseq, hcred, htxq, hrep, ?_, ?_, hother⟩
    · unfold Sent emit
      dsimp only
      rw [modPort_sent, hsent]
      rfl
    · rw [portOf_emit, portOf_modPort_self]

/-! A frame whose CRC fails (R253). -/

theorem leaves_nil {s t : State} {p : Nat} (hsent : t.sent = s.sent) (hheld : (portOf t p).held = (portOf s p).held) : Leaves s t p [] :=
  ⟨fun _ => by simpa using hsent, fun _ => ⟨hsent, by simpa using hheld⟩⟩

theorem leaves_append {a b c : State} {p : Nat} {fs gs : List Frame} (hpause : (portOf b p).pauseTx = (portOf a p).pauseTx)
    (h : Leaves a b p fs) (h' : Leaves b c p gs) : Leaves a c p (fs ++ gs) := by
  refine ⟨fun hp => ?_, fun hp => ?_⟩
  · rw [h'.1 (hpause.trans hp), h.1 hp]
    simp
  · obtain ⟨hs, hh⟩ := h.2 hp
    obtain ⟨hs', hh'⟩ := h'.2 (hpause.trans hp)
    exact ⟨hs'.trans hs, by rw [hh', hh, List.append_assoc]⟩

/-- What NACKs on a port leave of the state: contexts and the other ports; what the dies keep of a context changes in its NACK alone. -/
def NacksOnly (p : Nat) (s t : State) : Prop :=
  { t with straits := s.straits, sent := s.sent } = s ∧ t.straits.flows = s.straits.flows ∧ OtherPorts s t p ∧
  { portOf t p with held := (portOf s p).held } = portOf s p

theorem nacksOnly_refl (p : Nat) (s : State) : NacksOnly p s s := ⟨rfl, rfl, fun _ _ => rfl, rfl⟩

theorem nacksOnly_trans {p : Nat} {a b c : State} (h : NacksOnly p a b) (h' : NacksOnly p b c) : NacksOnly p a c := by
  obtain ⟨hrest, hflow, hother, hport⟩ := h
  obtain ⟨hrest', hflow', hother', hport'⟩ := h'
  refine ⟨Eq.trans ?_ hrest, hflow'.trans hflow, fun q hq => (hother' q hq).trans (hother q hq), Eq.trans ?_ hport⟩
  · rw [← hrest']
  · rw [← hport']

theorem sendNack_recent {s : State} {i : Nat} (h : ¬ NackDue s i) (p reason : Nat) : sendNack s p i reason = s := by
  unfold NackDue at h
  push Not at h
  obtain ⟨q, m, hn, hq, hm⟩ := h
  unfold sendNack
  simp only [hn]
  exact if_pos (by simp [hq, hm])

theorem sendOut_nacksOnly (s : State) (p : Nat) (f : Frame) : NacksOnly p s (sendOut s p f) := by
  unfold sendOut
  split
  · exact ⟨rfl, rfl, fun q hq => portOf_modPort_ne _ _ hq, by rw [portOf_modPort_self]⟩
  · exact ⟨rfl, rfl, fun _ _ => rfl, rfl⟩

theorem sendNack_nacksOnly (s : State) (p i reason : Nat) : NacksOnly p s (sendNack s p i reason) := by
  by_cases h : NackDue s i
  · rw [sendNack_due h]
    have hmark : NacksOnly p s (nackTold s i) := ⟨rfl, rfl, fun _ _ => rfl, rfl⟩
    refine nacksOnly_trans hmark ?_
    unfold sendCtl
    split
    · exact sendOut_nacksOnly _ _ _
    · exact nacksOnly_refl _ _
  · rw [sendNack_recent h]
    exact nacksOnly_refl p s

theorem rtOf_sendNack_ne (s : State) (p : Nat) {i j : Nat} (reason : Nat) (h : j ≠ i) : rtOf (sendNack s p i reason) j = rtOf s j := by
  by_cases hdue : NackDue s i
  · obtain ⟨-, hrt, -⟩ := reads_of_onlySends (sendNack_onlySends hdue p reason)
    unfold rtOf
    rw [hrt]
    exact rtOf_modRt_ne s _ h
  · rw [sendNack_recent hdue]

/-- A NACK of REASON 1 for the next frame of context i. -/
def NackOf (s : State) (i : Nat) (a : Frame) : Prop :=
  a.typ = 4 ∧ bNat a.body 0 4 = 1 ∧ a.flow.toNat = cUpFlow (flowOf s i) % 16384 ∧ a.seq.toNat = cRecvSeq (flowOf s i)

theorem sendNack_tells {s : State} {p : Nat} (hp : portUp s p = true) (i : Nat) :
    ∃ fs, Leaves s (sendNack s p i 1) p fs ∧ (∀ a ∈ fs, NackOf s i a) ∧ (NackDue s i → fs ≠ []) := by
  by_cases h : NackDue s i
  · obtain ⟨a, hleaves, htyp, hflow, hseq, hbody⟩ := sendNack_leaves (p := p) hp h (reason := 1) (by omega)
    refine ⟨[a], hleaves, fun b hb => ?_, fun _ => List.cons_ne_nil _ _⟩
    rw [List.mem_singleton.mp hb]
    exact ⟨htyp, hbody, hflow, hseq⟩
  · rw [sendNack_recent h]
    exact ⟨[], leaves_nil rfl rfl, fun a ha => absurd ha List.not_mem_nil, fun hd => absurd hd h⟩

theorem nackDue_congr {s t : State} {i : Nat} (hflow : flowOf t i = flowOf s i) (hrt : rtOf t i = rtOf s i) (hnow : t.tide.now = s.tide.now) :
    NackDue t i ↔ NackDue s i := by
  unfold NackDue
  rw [hflow, hrt, hnow]

/-- The NACKs for a list of contexts, one after another. -/
theorem nacks_told (p : Nat) : ∀ (l : List Nat) (s : State), portUp s p = true →
    let t := l.foldl (fun t i => sendNack t p i 1) s
    NacksOnly p s t ∧ ∃ fs, Leaves s t p fs ∧ (∀ a ∈ fs, a.typ = 4 ∧ bNat a.body 0 4 = 1) ∧
      ∀ i ∈ l, NackDue s i → ∃ a ∈ fs, NackOf s i a
  | [], s, _ => ⟨nacksOnly_refl p s, [], leaves_nil rfl rfl, fun a ha => absurd ha List.not_mem_nil, fun i hi => absurd hi List.not_mem_nil⟩
  | j :: l, s, hp => by
    obtain ⟨fs, hleaves, htell, hsome⟩ := sendNack_tells hp j
    have honly := sendNack_nacksOnly s p j 1
    have hrt := fun i (h : i ≠ j) => rtOf_sendNack_ne s p 1 h
    rw [List.foldl_cons]
    generalize sendNack s p j 1 = u at *
    obtain ⟨hrest, hflows, hothers, hport⟩ := id honly
    have hflow : ∀ i, flowOf u i = flowOf s i := fun i => by unfold flowOf; rw [hflows]
    have hnow : u.tide.now = s.tide.now := by have e := congrArg (fun x : State => x.tide.now) hrest; exact e
    have hup : portUp u p = true := by
      unfold portUp at hp ⊢
      rw [← hport] at hp
      exact hp
    have hpause : (portOf u p).pauseTx = (portOf s p).pauseTx := by
      have e := congrArg Port.pauseTx hport
      exact e
    obtain ⟨honly', gs, hleaves', htyp', hsome'⟩ := nacks_told p l u hup
    refine ⟨nacksOnly_trans honly honly', fs ++ gs, leaves_append hpause hleaves hleaves', fun a ha => ?_, fun i hi hdue => ?_⟩
    · rcases List.mem_append.mp ha with h | h
      · exact ⟨(htell a h).1, (htell a h).2.1⟩
      · exact htyp' a h
    · by_cases h : i = j
      · subst h
        obtain ⟨a, ha⟩ := List.exists_mem_of_ne_nil fs (hsome hdue)
        exact ⟨a, List.mem_append_left _ ha, htell a ha⟩
      · obtain ⟨a, ha, htells⟩ := hsome' i ((List.mem_cons.mp hi).resolve_left h) ((nackDue_congr (hflow i) (hrt i h) hnow).mpr hdue)
        refine ⟨a, List.mem_append_right _ ha, ?_⟩
        unfold NackOf at htells ⊢
        rwa [hflow i] at htells

/-- Settles O26: the head of a context as it leaves; the NACKs of a frame with a bad CRC; an unknown frame is counted. -/
theorem portsSendAndCount : Obligations.PortsSendAndCount := by
  unfold Obligations.PortsSendAndCount
  intro p now s hs hup t0 n
  have hpu : portUp s p = true := decide_eq_true hup
  refine ⟨fun i x htx hnext hhead => ?_, fun hrx f => ⟨fun hbad => ?_, fun hgood hkind => ?_⟩⟩
  · have run : execFrameSend p now s = .next (sendFrame t0 p i x) := by
      unfold execFrameSend
      dsimp only
      rw [show nextToSend (atTide s now) p = some i from hnext]
      dsimp only
      rw [show (rtOf (atTide s now) i).txq.head? = some x from hhead]
      dsimp only
      rw [show (alive s && portUp s p && !(portOf s p).pauseTx) = true by simp [hs, hpu, htx], when_true]
    obtain ⟨hseq, hcred, htxq, hrep, hsent, hrr, hother⟩ := sendFrame_reads t0 p i x
    refine runs_of run ⟨frameOut t0 (flowOf s i) x, hsent, ?_, ?_, rfl, rfl, ?_, hseq, hcred, htxq, hrep, hrr, hother⟩
    · exact (BitVec.toNat_ofNat ..).trans (Nat.mod_eq_of_lt (fldB_lt _ 12 4))
    · exact (BitVec.toNat_ofNat ..).trans (Nat.mod_eq_of_lt (by omega))
    · exact BitVec.toNat_ofNat ..
  · refine runs_when (show execFrameCrcFail p (f, now) s = when _ s _ from rfl) (by simp [hs, hpu, hrx, hbad]) ?_
    obtain ⟨u, hu⟩ : ∃ u, marked (atTide s now) p = u := ⟨_, rfl⟩
    have hport : portOf u p = { portOf s p with hunting := false } := by rw [← hu]; exact portOf_modPort_self _ _ _
    have hothers : OtherPorts s u p := fun q hq => by rw [← hu]; exact portOf_modPort_ne _ _ hq
    have hflows : u.straits.flows = s.straits.flows := by rw [← hu]; rfl
    have hrt : ∀ i, rtOf u i = rtOf s i := fun i => by rw [← hu]; rfl
    have hrest : { u with straits := s.straits, sent := s.sent } = t0 := by rw [← hu]; rfl
    have hnow : u.tide.now = n := by rw [← hu]; rfl
    have hsent : u.sent = s.sent := by rw [← hu]; rfl
    rw [hu]
    obtain ⟨⟨hrest', hflows', hothers', hport'⟩, fs, hleaves, htyp, hsome⟩ := nacks_told p
      ((contexts s).filter fun i => decide (cState (flowOf s i) = fArmed) && arrivesOn s i p) u (by unfold portUp; rw [hport]; exact hpu)
    refine ⟨?_, hflows'.trans hflows, fun q hq => (hothers' q hq).trans (hothers q hq), ?_, fs, ⟨fun hp => ?_, fun hp => ?_⟩, htyp,
      fun i hi harmed hon hdue => ?_⟩
    · have e := congrArg (fun x : State => { x with straits := s.straits, sent := s.sent }) hrest'
      exact Eq.trans e hrest
    · rw [hport] at hport'
      exact hport'
    · rw [hleaves.1 (by rw [hport]; exact hp), hsent]
    · obtain ⟨h1, h2⟩ := hleaves.2 (by rw [hport]; exact hp)
      exact ⟨h1.trans hsent, by rw [h2, hport]⟩
    · have hflow : flowOf u i = flowOf s i := by unfold flowOf; rw [hflows]
      have hdue' : NackDue u i := by
        unfold NackDue
        rw [hrt, hflow, hnow]
        exact hdue
      obtain ⟨a, ha, -, -, hfl, hsq⟩ := hsome i (List.mem_filter.mpr ⟨hi, by simp [harmed, fArmed, hon]⟩) hdue'
      rw [hflow] at hfl hsq
      exact ⟨a, ha, hfl, hsq⟩
  · refine runs_when (show execUnknownFrame p f s = when _ s _ from rfl) ?_ ⟨onlyPort_modPort_modPort _ _ _ _, ?_⟩
    · have harr : arrives s p f.typ.toNat f = true := by simp [arrives, hs, hpu, hrx, hgood]
      rcases hkind with hk | ⟨ht, hfor, hunk⟩
      · simp [harr, hk]
      · rw [harr, hfor, hunk]
        rcases ht with h | h <;> simp [h]
    · rw [countUnknown, portOf_modPort_self, marked, portOf_modPort_self]
      rfl

end Sys2Proof.Machine
end

section
/-! SUPPORT. The states of the tide (09, R267–R278, R290): what choosing a parent, the frames that leave and the pod's barriers leave of a
package, and how its state moves. -/

namespace Sys2Proof.Machine

open Sys2Proof

/-! What the pod's frames and barriers change. -/

/-- A state that differs only by what frames of the pod change: the entries of pod barriers and what is read of them, tide events, adds on
their way, pending bits, outputs, and frames that wait for a pause to end. -/
structure PodOnly (s t : State) : Prop where
  rest : { t with tide := s.tide, adds := s.adds, straits := { t.straits with ports := s.straits.ports },
                  control := { t.control with pba := s.control.pba }, sent := s.sent } = s
  ports : ∀ q, { portOf t q with held := (portOf s q).held } = portOf s q
  tide : { t.tide with event := s.tide.event, uses := s.tide.uses, lateRels := s.tide.lateRels, podQ := s.tide.podQ,
                       noRoom := s.tide.noRoom } = s.tide
  events : ∀ b, s.tide.event.getLsbD b = true → t.tide.event.getLsbD b = true

theorem PodOnly.refl (s : State) : PodOnly s s := ⟨rfl, fun _ => rfl, rfl, fun _ h => h⟩

theorem PodOnly.trans {a b c : State} (h : PodOnly a b) (h' : PodOnly b c) : PodOnly a c := by
  refine ⟨Eq.trans ?_ h.rest, fun q => Eq.trans ?_ (h.ports q), Eq.trans ?_ h.tide, fun x hx => h'.events x (h.events x hx)⟩
  · rw [← h'.rest]
  · rw [← h'.ports q]
  · rw [← h'.tide]

theorem PodOnly.ite {c : Prop} [Decidable c] {s a b : State} (ha : PodOnly s a) (hb : PodOnly s b) : PodOnly s (if c then a else b) := by
  split
  · exact ha
  · exact hb

theorem podOnly_foldl {α : Type} (f : State → α → State) (h : ∀ s x, PodOnly s (f s x)) : ∀ (l : List α) (s : State),
    PodOnly s (l.foldl f s)
  | [], s => .refl s
  | x :: l, s => (h s x).trans (podOnly_foldl f h l _)

theorem PodOnly.setTide (s : State) (f : Tide → Tide)
    (h : { f s.tide with event := s.tide.event, uses := s.tide.uses, lateRels := s.tide.lateRels, podQ := s.tide.podQ,
                         noRoom := s.tide.noRoom } = s.tide) (he : (f s.tide).event = s.tide.event) : PodOnly s (Machine.setTide s f) :=
  ⟨rfl, fun _ => rfl, h, fun b hb => by rw [show (Machine.setTide s f).tide.event = s.tide.event from he]; exact hb⟩

theorem PodOnly.sends {s t : State} (h : { t with sent := s.sent, adds := s.adds, control := { t.control with pba := s.control.pba } } = s) :
    PodOnly s t := by
  have hstraits : t.straits = s.straits := by have e := congrArg State.straits h; exact e
  have htide : t.tide = s.tide := by have e := congrArg State.tide h; exact e
  refine ⟨Eq.trans ?_ h, fun q => ?_, ?_, fun b hb => ?_⟩
  · rw [← hstraits, ← htide]
  · unfold portOf; rw [hstraits]
  · rw [htide]
  · rw [htide]; exact hb

theorem fire_podOnly (s : State) (v : Nat) : PodOnly s (fire s v) := by
  refine .sends ?_
  have e := congrArg (fun t : State => { t with adds := s.adds }) (fire_same s v)
  exact e

theorem setTideEvent_podOnly (s : State) (b : Nat) : PodOnly s (setTideEvent s b) := by
  have h : PodOnly s { s with tide := { s.tide with event := s.tide.event ||| (1#32 <<< b) } } :=
    ⟨rfl, fun _ => rfl, rfl, fun x hx => by rw [BitVec.getLsbD_or, hx, Bool.true_or]⟩
  refine h.trans ?_
  unfold setTideEvent fireOnRise
  exact .ite (.refl _) (fire_podOnly _ _)

theorem setTideEvent_tide (s : State) (b : Nat) : (setTideEvent s b).tide = { s.tide with event := s.tide.event ||| (1#32 <<< b) } := by
  have e := congrArg State.tide (setTideEvent_same s b)
  exact e

theorem setTideEvent_raises (s : State) {b : Nat} (hb : b < 32) : (setTideEvent s b).tide.event.getLsbD b = true := by
  rw [setTideEvent_tide, BitVec.getLsbD_or]
  simp [hb]

theorem sendOut_podOnly (s : State) (p : Nat) (f : Frame) : PodOnly s (sendOut s p f) := by
  unfold sendOut
  refine .ite ⟨rfl, fun q => ?_, rfl, fun _ h => h⟩ (.sends rfl)
  by_cases hq : q = p
  · rw [hq, portOf_modPort_self]
  · rw [portOf_modPort_ne _ _ hq]

theorem sendTide_podOnly (s : State) (p typ seq : Nat) (body : List Byte) : PodOnly s (sendTide s p typ seq body) := by
  unfold sendTide
  exact .ite (sendOut_podOnly _ _ _) (.refl s)

theorem flood_podOnly (s : State) (but typ : Nat) (body : List Byte) : PodOnly s (flood s but typ body) :=
  podOnly_foldl _ (fun _ _ => .ite (.refl _) (sendTide_podOnly _ _ _ _ _)) _ s

theorem putUse_podOnly (s : State) (x : PodUse) : PodOnly s (putUse s x) := .setTide s _ rfl rfl

theorem queueAddAll_podOnly (s : State) (members sem : Nat) : PodOnly s (queueAddAll s members sem) := by
  refine podOnly_foldl _ (fun s c => ?_) _ s
  unfold queueAdd
  exact .ite (.sends rfl) (.refl s)

theorem sendTotal_podOnly (s : State) (x : PodUse) : PodOnly s (sendTotal s x) := by
  unfold sendTotal
  exact .ite (sendTide_podOnly _ _ _ _ _) (.refl s)

theorem resendTotals_podOnly (s : State) : PodOnly s (resendTotals s) := podOnly_foldl _ sendTotal_podOnly _ s

theorem takeRelease_podOnly (s : State) (x : PodUse) (rel but : Nat) : PodOnly s (takeRelease s x rel but) := by
  have h : PodOnly s (flood (putUse s { x with release := some (rel, s.tide.now), addDue := true }) but 0x13
      (leBytes 1 x.idx ++ leBytes 1 x.use ++ leBytes 2 x.step ++ leBytes 8 rel)) := (putUse_podOnly s _).trans (flood_podOnly _ _ _ _)
  unfold takeRelease
  exact .ite (h.trans (((PodOnly.setTide _ _ rfl rfl).trans (setTideEvent_podOnly _ _)).trans
    ((queueAddAll_podOnly _ _ _).trans (putUse_podOnly _ _)))) h

theorem tryRelease_podOnly (s : State) (x : PodUse) : PodOnly s (tryRelease s x) := by
  unfold tryRelease
  exact .ite (.ite (.refl s) (takeRelease_podOnly _ _ _ _)) (.refl s)

theorem podChanged_podOnly (s : State) (x : PodUse) : PodOnly s (podChanged s x) := by
  unfold podChanged
  exact (putUse_podOnly s x).trans (.ite (tryRelease_podOnly _ _) (sendTotal_podOnly _ _))

theorem admitOwn_podOnly : ∀ (k : Nat) (s : State), PodOnly s (admitOwn k s)
  | 0, s => .refl s
  | k + 1, s => by
    unfold admitOwn
    split
    · exact .refl s
    · refine .ite (.refl s) ?_
      exact ((PodOnly.setTide _ _ rfl rfl).trans (podChanged_podOnly _ _)).trans (admitOwn_podOnly k _)

theorem settlePods_podOnly (s : State) : PodOnly s (settlePods s) := admitOwn_podOnly _ s

theorem showPodQ_podOnly (s : State) : PodOnly s (showPodQ s) := by
  obtain ⟨n, hn⟩ : ∃ n, aggregateQ s = n := ⟨_, rfl⟩
  unfold showPodQ
  simp only [hn]
  have h : PodOnly s (setTide s fun t => { t with podQ := n }) := .setTide s _ rfl rfl
  refine .ite ?_ (.refl s)
  exact .ite ((PodOnly.ite (h.trans (setTideEvent_podOnly _ _)) h).trans (setTideEvent_podOnly _ _))
    (.ite (h.trans (setTideEvent_podOnly _ _)) h)

theorem aggregateChanged_podOnly (s : State) (old : Nat) : PodOnly s (aggregateChanged s old) := by
  unfold aggregateChanged
  exact .ite ((showPodQ_podOnly s).trans (sendTide_podOnly _ _ _ _ _)) (showPodQ_podOnly s)

theorem floodRelease_podOnly (s : State) (x : PodUse) (rel but : Nat) : PodOnly s (floodRelease s x rel but) := flood_podOnly _ _ _ _

theorem releaseKnown_podOnly (s : State) : PodOnly s (releaseKnown s) := by
  refine podOnly_foldl _ (fun t x => ?_) _ s
  split
  · exact floodRelease_podOnly _ _ _ _
  · exact .refl t

/-- What is left of a neighbour that is no child any more: its requirement counts no longer. -/
theorem loseChild_podOnly (s : State) (p : Nat) : PodOnly (modPort s p fun k => { k with reqQ := 0 }) (loseChild s p) := by
  unfold loseChild
  refine (aggregateChanged_podOnly _ _).trans (podOnly_foldl _ (fun t x => ?_) _ _)
  dsimp only
  exact .ite (podChanged_podOnly t _) (putUse_podOnly t _)

theorem PodOnly.port {s t : State} (h : PodOnly s t) (q : Nat) : (portOf t q).marker = (portOf s q).marker ∧
    (portOf t q).reqQ = (portOf s q).reqQ ∧ (portOf t q).pauseTx = (portOf s q).pauseTx ∧ SamePort (portOf s q) (portOf t q) := by
  have e := h.ports q
  unfold SamePort
  refine ⟨?_, ?_, ?_, ?_⟩
  · have e' := congrArg Port.marker e; exact e'
  · have e' := congrArg Port.reqQ e; exact e'
  · have e' := congrArg Port.pauseTx e; exact e'
  · have e' := congrArg (fun k : Port => { k with marker := (portOf s q).marker, reqQ := (portOf s q).reqQ }) e
    exact e'

theorem PodOnly.now {s t : State} (h : PodOnly s t) : t.tide.now = s.tide.now := by have e := congrArg Tide.now h.tide; exact e

/-! What a package reads of its pod: its own place in the tree may move, cores and memory stay. -/

/-- Cores, memory, the tide's time and the markers stay, and so do the ports but for what waits there and the required tempo. -/
structure TideWork (s t : State) : Prop where
  memory : t.memory = s.memory
  cores : t.cores = s.cores
  now : t.tide.now = s.tide.now
  markers : ∀ q, (portOf t q).marker = (portOf s q).marker
  ports : ∀ q, SamePort (portOf s q) (portOf t q)

theorem samePort_refl (k : Port) : SamePort k k := rfl

theorem samePort_trans {a b c : Port} (h : SamePort a b) (h' : SamePort b c) : SamePort a c := by
  unfold SamePort at *
  refine Eq.trans ?_ h
  rw [← h']

theorem TideWork.refl (s : State) : TideWork s s := ⟨rfl, rfl, rfl, fun _ => rfl, fun _ => rfl⟩

theorem TideWork.trans {a b c : State} (h : TideWork a b) (h' : TideWork b c) : TideWork a c :=
  ⟨h'.memory.trans h.memory, h'.cores.trans h.cores, h'.now.trans h.now, fun q => (h'.markers q).trans (h.markers q),
    fun q => samePort_trans (h.ports q) (h'.ports q)⟩

theorem TideWork.ite {c : Prop} [Decidable c] {s a b : State} (ha : TideWork s a) (hb : TideWork s b) : TideWork s (if c then a else b) := by
  split
  · exact ha
  · exact hb

theorem PodOnly.work {s t : State} (h : PodOnly s t) : TideWork s t := by
  refine ⟨?_, ?_, h.now, fun q => (h.port q).1, fun q => (h.port q).2.2.2⟩
  · have e := congrArg State.memory h.rest; exact e
  · have e := congrArg State.cores h.rest; exact e

theorem TideWork.setTide (s : State) (f : Tide → Tide) (h : (f s.tide).now = s.tide.now) : TideWork s (Machine.setTide s f) :=
  ⟨rfl, rfl, h, fun _ => rfl, fun _ => rfl⟩

theorem TideWork.event (s : State) (b : Nat) : TideWork s (setTideEvent s b) := (setTideEvent_podOnly s b).work

theorem modPort_work (s : State) (p : Nat) (f : Port → Port) (hm : ∀ k, (f k).marker = k.marker) (hk : ∀ k, SamePort k (f k)) :
    TideWork s (modPort s p f) := by
  refine ⟨rfl, rfl, rfl, fun q => ?_, fun q => ?_⟩
  · by_cases hq : q = p
    · rw [hq, portOf_modPort_self, hm]
    · rw [portOf_modPort_ne _ _ hq]
  · by_cases hq : q = p
    · rw [hq, portOf_modPort_self]
      exact hk _
    · rw [portOf_modPort_ne _ _ hq]
      exact samePort_refl _

theorem loseChild_work (s : State) (p : Nat) : TideWork s (loseChild s p) :=
  (modPort_work s p (fun k => { k with reqQ := 0 }) (fun _ => rfl) fun _ => rfl).trans (loseChild_podOnly s p).work

theorem takeParent_work (s : State) (p : Nat) (m : Marker) : TideWork s (takeParent s p m) := by
  obtain ⟨first, hfirst⟩ : ∃ b, (((s.tide.state = tideFree) || s.tide.mayStep) && !armed s) = b := ⟨_, rfl⟩
  unfold takeParent
  simp only [hfirst]
  refine TideWork.trans ?_ (sendTide_podOnly _ _ _ _ _).work
  refine TideWork.trans ?_ (resendTotals_podOnly _).work
  refine TideWork.trans ?_ (settlePods_podOnly _).work
  refine TideWork.trans ?_ (TideWork.event _ _)
  exact .ite ((TideWork.setTide _ _ rfl).trans (TideWork.event _ _)) (TideWork.setTide _ _ rfl)

theorem chooseParent_work (s : State) : TideWork s (chooseParent s) := by
  unfold chooseParent
  split
  · exact .refl s
  · refine .ite (.ite (takeParent_work _ _ _) (.refl s)) ?_
    split
    · exact .ite (.refl s) (takeParent_work _ _ _)
    · exact takeParent_work _ _ _

theorem loseLock_work (s : State) : TideWork s (loseLock s) := (TideWork.setTide s _ rfl).trans (TideWork.event _ _)

/-- LOCKED is lost; the package's place in the tree stays. -/
theorem loseLock_tide (s : State) : (loseLock s).tide = { s.tide with
    locked := false, state := if s.tide.state = tideLocked then tideTracking else s.tide.state,
    event := s.tide.event ||| (1#32 <<< evHoldover) } := by
  unfold loseLock
  rw [setTideEvent_tide]
  rfl

/-! A MARKER arrives (R270–R273). -/

/-- The package's place in the tree. -/
def PlaceSame (s t : State) : Prop :=
  t.tide.srcSeq = s.tide.srcSeq ∧ t.tide.depth = s.tide.depth ∧ t.tide.srcRank = s.tide.srcRank

theorem placeSame_refl (s : State) : PlaceSame s s := ⟨rfl, rfl, rfl⟩

theorem placeSame_loseLock (s : State) : PlaceSame s (loseLock s) := by
  unfold PlaceSame
  rw [loseLock_tide]
  exact ⟨rfl, rfl, rfl⟩

/-- Markers but for their moments. -/
def MarkerReads (m m' : Marker) : Prop :=
  m'.seq = m.seq ∧ m'.depth = m.depth ∧ m'.rank = m.rank ∧ m'.locked = m.locked ∧ m'.child = m.child

theorem tblGet_map_default {α : Type} (d : α) (f : α → α) (hd : f d = d) (x : Nat) : ∀ t : Tbl α,
    tblGet d (t.map fun y => (y.1, f y.2)) x = f (tblGet d t x)
  | [] => hd.symm
  | (i, v) :: t => by
    rw [List.map_cons, tblGet_cons, tblGet_cons]
    split
    · rfl
    · exact tblGet_map_default d f hd x t

/-- A port after a step of the tide by d. -/
def movedPort (d : Int) (k : Port) : Port := { k with
  ueAt := k.ueAt.map fun x => (x.1, movedBy d x.2)
  marker := k.marker.map fun x => { x with changedAt := movedBy d x.changedAt, arrival := movedBy (256 * d) x.arrival } }

theorem portOf_moveTimes (s : State) (d : Int) (q : Nat) : portOf (moveTimes s d) q = movedPort d (portOf s q) :=
  tblGet_map_default portReset (movedPort d) rfl q s.straits.ports

/-- An offset from the parent: the tide may step, and with it the moments of the markers. -/
theorem applyOffset_keeps (s : State) (o : Int) : (applyOffset s o).memory = s.memory ∧ PlaceSame s (applyOffset s o) ∧
    ∀ q m, (portOf s q).marker = some m → ∃ m', (portOf (applyOffset s o) q).marker = some m' ∧ MarkerReads m m' := by
  have still : ∀ {t}, TideWork s t → ∀ q m, (portOf s q).marker = some m → ∃ m', (portOf t q).marker = some m' ∧ MarkerReads m m' :=
    fun h q m hm => ⟨m, (h.markers q).trans hm, rfl, rfl, rfl, rfl, rfl⟩
  obtain ⟨u, hu⟩ : ∃ u, (setTide s fun t => { t with offset := offsetPs o }) = u := ⟨_, rfl⟩
  have hwork : TideWork s u := by rw [← hu]; exact TideWork.setTide _ _ rfl
  have hplace : PlaceSame s u := by rw [← hu]; exact ⟨rfl, rfl, rfl⟩
  unfold applyOffset
  simp only [hu]
  split
  · refine ⟨hwork.memory, hplace, fun q m hm => ?_⟩
    refine ⟨_, (congrArg Port.marker (portOf_moveTimes u _ q)).trans (congrArg (Option.map _) ((hwork.markers q).trans hm)),
      rfl, rfl, rfl, rfl, rfl⟩
  · split
    · have h := hwork.trans (TideWork.setTide u (fun t => { t with inBound := some (t.inBound.getD t.now) }) rfl)
      exact ⟨h.memory, hplace, still h⟩
    · have h := hwork.trans (TideWork.setTide u (fun t => { t with inBound := none }) rfl)
      split
      · have h' := h.trans (loseLock_work _)
        obtain ⟨h1, h2, h3⟩ := placeSame_loseLock (setTide u fun t => { t with inBound := none })
        exact ⟨h'.memory, ⟨h1.trans hplace.1, h2.trans hplace.2.1, h3.trans hplace.2.2⟩, still h'⟩
      · exact ⟨h.memory, hplace, still h⟩

/-- The marker that a frame brings (R270). -/
def markerOf (s : State) (p : Nat) (f : Frame) : Marker :=
  let flags := bNat f.body 1 1
  let seq := f.seq.toNat
  let changed := match (portOf s p).marker with | some m => if m.seq = seq then m.changedAt else s.tide.now | none => s.tide.now
  ⟨seq, changed, flags % 8, bNat f.body 0 1, flags.testBit 3, flags.testBit 4,
    f.stamp.toNat * 256 + bNat f.body 2 1, s.tide.now * 256 + s.tide.frac⟩

/-- The parent's marker gives the package's place. -/
def parentMarked (s : State) (m : Marker) : State :=
  let s := if s.tide.srcRank = m.rank then s else setTideEvent s evSourceChange
  let s := setTide s fun t => { t with srcSeq := m.seq, depth := m.depth + 1, srcRank := m.rank }
  if s.tide.state = tideLocked && !m.locked then loseLock s else s

theorem parentMarked_spec (s : State) (m : Marker) : TideWork s (parentMarked s m) ∧ (parentMarked s m).tide.srcSeq = m.seq ∧
    (parentMarked s m).tide.depth = m.depth + 1 ∧ (parentMarked s m).tide.srcRank = m.rank := by
  obtain ⟨u, hu⟩ : ∃ u, (if s.tide.srcRank = m.rank then s else setTideEvent s evSourceChange) = u := ⟨_, rfl⟩
  have hwork : TideWork s u := by rw [← hu]; exact .ite (.refl s) (.event _ _)
  unfold parentMarked
  simp only [hu]
  have h := hwork.trans (TideWork.setTide u (fun t => { t with srcSeq := m.seq, depth := m.depth + 1, srcRank := m.rank }) rfl)
  split
  · obtain ⟨h1, h2, h3⟩ := placeSame_loseLock (setTide u fun t => { t with srcSeq := m.seq, depth := m.depth + 1, srcRank := m.rank })
    exact ⟨h.trans (loseLock_work _), h1, h2, h3⟩
  · exact ⟨h, rfl, rfl, rfl⟩

/-- The state in which a stored marker has been read for the tree. -/
def markerTaken (s : State) (p : Nat) (m : Marker) : State :=
  let s := modPort s p fun k => { k with marker := some m }
  chooseParent (if m.child then s else loseChild s p)

theorem markerEff_eq (s : State) (p : Nat) (f : Frame) : markerEff s p f =
    let m := markerOf s p f
    let u := markerTaken s p m
    if u.tide.parent = p && u.tide.state != tideSource then
      (if (bNat f.body 1 1).testBit 5 then
        applyOffset (parentMarked u m) (markerOffset m.stamp m.arrival (sgn 64 (bNat f.body 4 8)))
      else parentMarked u m)
    else u := rfl

theorem markerTaken_work (s : State) (p : Nat) (m : Marker) : TideWork (modPort s p fun k => { k with marker := some m }) (markerTaken s p m) :=
  TideWork.trans (.ite (.refl _) (loseChild_work _ _)) (chooseParent_work _)

theorem markerEff_spec (s : State) (p : Nat) (f : Frame) : (markerEff s p f).memory = s.memory ∧
    (∃ m, (portOf (markerEff s p f) p).marker = some m ∧ MarkerReads (markerOf s p f) m) ∧
    ((bNat f.body 1 1).testBit 5 = false → OthersAgree s (markerEff s p f) p ∧ (markerEff s p f).cores = s.cores ∧
      (markerEff s p f).tide.now = s.tide.now) ∧
    ((markerEff s p f).tide.parent = p → (markerEff s p f).tide.state ≠ 5 →
      (markerEff s p f).tide.srcSeq = f.seq.toNat ∧ (markerEff s p f).tide.depth = bNat f.body 0 1 + 1 ∧
      (markerEff s p f).tide.srcRank = bNat f.body 1 1 % 8) := by
  rw [markerEff_eq]
  obtain ⟨m, hm⟩ : ∃ m, markerOf s p f = m := ⟨_, rfl⟩
  have hplace : m.seq = f.seq.toNat ∧ m.depth = bNat f.body 0 1 ∧ m.rank = bNat f.body 1 1 % 8 := by rw [← hm]; exact ⟨rfl, rfl, rfl⟩
  have hwork := markerTaken_work s p m
  dsimp only
  rw [hm]
  generalize markerTaken s p m = u at hwork ⊢
  obtain ⟨hmark, hseq, hdepth, hrank⟩ := parentMarked_spec u m
  generalize parentMarked u m = v at hmark hseq hdepth hrank ⊢
  have stored : ∀ {t}, TideWork (modPort s p fun k => { k with marker := some m }) t →
      (∃ m', (portOf t p).marker = some m' ∧ MarkerReads m m') ∧ OthersAgree s t p ∧ t.cores = s.cores ∧ t.tide.now = s.tide.now := by
    intro t h
    refine ⟨⟨m, (h.markers p).trans ?_, rfl, rfl, rfl, rfl, rfl⟩, fun q hq => ?_, h.cores, h.now⟩
    · rw [portOf_modPort_self]
    · have e := h.ports q
      rwa [portOf_modPort_ne _ _ hq] at e
  by_cases hpar : (decide (u.tide.parent = p) && u.tide.state != tideSource) = true
  · rw [if_pos hpar]
    have hv := hwork.trans hmark
    obtain ⟨hst, hframe⟩ := stored hv
    by_cases h5 : (bNat f.body 1 1).testBit 5 = true
    · rw [if_pos h5]
      obtain ⟨amem, ⟨aseq, adepth, arank⟩, amark⟩ := applyOffset_keeps v (markerOffset m.stamp m.arrival (sgn 64 (bNat f.body 4 8)))
      generalize applyOffset v _ = w at amem aseq adepth arank amark ⊢
      obtain ⟨m1, h1, r1⟩ := hst
      obtain ⟨m2, h2, r2⟩ := amark p m1 h1
      refine ⟨amem.trans hv.memory, ⟨m2, h2, ?_⟩, fun h => absurd (h5.symm.trans h) (by decide), fun _ _ => ⟨?_, ?_, ?_⟩⟩
      · obtain ⟨a1, a2, a3, a4, a5⟩ := r1
        obtain ⟨b1, b2, b3, b4, b5⟩ := r2
        exact ⟨b1.trans a1, b2.trans a2, b3.trans a3, b4.trans a4, b5.trans a5⟩
      · rw [aseq, hseq, hplace.1]
      · rw [adepth, hdepth, hplace.2.1]
      · rw [arank, hrank, hplace.2.2]
    · rw [if_neg h5]
      refine ⟨hv.memory, hst, fun _ => hframe, fun _ _ => ⟨?_, ?_, ?_⟩⟩
      · rw [hseq, hplace.1]
      · rw [hdepth, hplace.2.1]
      · rw [hrank, hplace.2.2]
  · rw [if_neg hpar]
    obtain ⟨hst, hframe⟩ := stored hwork
    refine ⟨hwork.memory, hst, fun _ => hframe, fun hp h5 => absurd ?_ hpar⟩
    simp only [hp, decide_true, Bool.true_and, bne_iff_ne]
    exact h5

/-! MARKERs leave; children whose markers live no longer are dropped (R270, R290). -/

/-- A child's markers live no longer. -/
def childLost (s : State) (p : Nat) : Bool :=
  match (portOf s p).marker with
  | some m => m.child && !markerLive m s.tide.now
  | none => false

theorem dropLost_eq (s : State) : dropLost s = (List.range 8).foldl (fun s p => if childLost s p then dropChild s p else s) s := by
  unfold dropLost
  congr 1
  funext s p
  unfold childLost
  cases (portOf s p).marker <;> simp

theorem childLost_iff {s : State} {p : Nat} {m : Marker} (h : (portOf s p).marker = some m) :
    childLost s p = true ↔ m.child = true ∧ m.changedAt + 3000 < s.tide.now := by
  simp [childLost, h, markerLive]

theorem dropLost_none {s : State} (h : ∀ p < 8, childLost s p = false) : dropLost s = s := by
  rw [dropLost_eq]
  have key : ∀ l : List Nat, (∀ p ∈ l, p < 8) → l.foldl (fun s p => if childLost s p then dropChild s p else s) s = s := by
    intro l
    induction l with
    | nil => exact fun _ => rfl
    | cons p l ih =>
      intro hl
      rw [List.foldl_cons, h p (hl p List.mem_cons_self), if_neg Bool.false_ne_true]
      exact ih fun q hq => hl q (List.mem_cons_of_mem _ hq)
  exact key _ fun p hp => List.mem_range.mp hp

theorem dropChild_reads (s : State) (p : Nat) : (dropChild s p).tide.now = s.tide.now ∧ (portOf (dropChild s p) p).reqQ = 0 ∧
    (portOf (dropChild s p) p).marker = (portOf s p).marker.map (fun m => { m with child := false }) ∧
    ∀ q, q ≠ p → (portOf (dropChild s p) q).reqQ = (portOf s q).reqQ ∧ (portOf (dropChild s p) q).marker = (portOf s q).marker := by
  unfold dropChild
  have h := loseChild_podOnly (modPort s p fun k => { k with marker := k.marker.map fun m => { m with child := false } }) p
  generalize loseChild _ p = t at h ⊢
  refine ⟨h.now, ?_, ?_, fun q hq => ?_⟩
  · rw [(h.port p).2.1, portOf_modPort_self]
  · rw [(h.port p).1, portOf_modPort_self, portOf_modPort_self]
  · rw [(h.port q).1, (h.port q).2.1, portOf_modPort_ne _ _ hq, portOf_modPort_ne _ _ hq]
    exact ⟨rfl, rfl⟩

/-- Dropping leaves a port whose child is not lost as it is, and takes one whose child is. -/
theorem dropLost_reads (p : Nat) : ∀ (l : List Nat) (s : State), l.Nodup →
    let t := l.foldl (fun s p => if childLost s p then dropChild s p else s) s
    (p ∉ l → (portOf t p).reqQ = (portOf s p).reqQ ∧ (portOf t p).marker = (portOf s p).marker) ∧
    (p ∈ l → childLost s p = true → (portOf t p).reqQ = 0 ∧
      (portOf t p).marker = (portOf s p).marker.map fun m => { m with child := false })
  | [], s, _ => ⟨fun _ => ⟨rfl, rfl⟩, fun h => absurd h List.not_mem_nil⟩
  | q :: l, s, hl => by
    obtain ⟨hq, hl'⟩ := List.nodup_cons.mp hl
    obtain ⟨hnow, hreq, hmark, hothers⟩ := dropChild_reads s q
    rw [List.foldl_cons]
    by_cases hlost : childLost s q = true
    · rw [if_pos hlost]
      obtain ⟨hout, hin⟩ := dropLost_reads p l (dropChild s q) hl'
      refine ⟨fun hp => ?_, fun hp hpl => ?_⟩
      · obtain ⟨hpq, hpl⟩ := not_or.mp (mt List.mem_cons.mpr hp)
        obtain ⟨h1, h2⟩ := hout hpl
        exact ⟨h1.trans (hothers p hpq).1, h2.trans (hothers p hpq).2⟩
      · by_cases hpq : p = q
        · subst hpq
          obtain ⟨h1, h2⟩ := hout hq
          exact ⟨h1.trans hreq, h2.trans hmark⟩
        · obtain ⟨h1, h2⟩ := hothers p hpq
          have hpl' : childLost (dropChild s q) p = true := by
            unfold childLost at hpl ⊢
            rw [h2, hnow]
            exact hpl
          obtain ⟨h3, h4⟩ := hin ((List.mem_cons.mp hp).resolve_left hpq) hpl'
          exact ⟨h3, by rw [h4, h2]⟩
    · rw [if_neg hlost]
      obtain ⟨hout, hin⟩ := dropLost_reads p l s hl'
      refine ⟨fun hp => hout fun h => hp (List.mem_cons_of_mem _ h), fun hp hpl => ?_⟩
      rcases List.mem_cons.mp hp with rfl | hp'
      · exact absurd hpl hlost
      · exact hin hp' hpl

/-- The MARKER of a port that does not pause leaves. -/
def sendMarker (s : State) (p : Nat) : State := if (portOf s p).pauseTx then s else sendTide s p 0x10 s.tide.srcSeq (markerBody s p)

/-- The MARKER that port p sends. -/
def markerFrame (s : State) (p : Nat) : Frame := ctlFrame s 0x10 s.tide.podId 0 s.tide.srcSeq (markerBody s p)

/-- A MARKER leaves port p: it is up and does not pause. -/
def marksPort (s : State) (p : Nat) : Bool := portUp s p && !(portOf s p).pauseTx

theorem sendMarker_eq {s : State} (hpod : s.tide.podId ≠ 0) (p : Nat) :
    sendMarker s p = if marksPort s p then emit s (.frame p (sealFrame (markerFrame s p))) else s := by
  unfold sendMarker sendTide sendOut marksPort
  have hb : (s.tide.podId != 0) = true := bne_iff_ne.mpr hpod
  by_cases hp : (portOf s p).pauseTx = true
  · simp [hp]
  · simp [hp, hb]
    rfl

/-- What the ports send, read of the state before: one MARKER for each that sends. -/
def markersOut (s : State) (l : List Nat) : List Out :=
  ((l.filter (marksPort s)).map fun p => Out.frame p (sealFrame (markerFrame s p))).reverse

theorem sendMarkers_eq : ∀ (l : List Nat) (s : State), s.tide.podId ≠ 0 →
    l.foldl sendMarker s = { s with sent := markersOut s l ++ s.sent }
  | [], _, _ => rfl
  | p :: l, s, hpod => by
    rw [List.foldl_cons, sendMarker_eq hpod]
    by_cases hp : marksPort s p = true
    · rw [if_pos hp, sendMarkers_eq l (emit s _) hpod]
      have hsame : markersOut (emit s (.frame p (sealFrame (markerFrame s p)))) l = markersOut s l := rfl
      rw [hsame, show markersOut s (p :: l) = markersOut s l ++ [Out.frame p (sealFrame (markerFrame s p))] by simp [markersOut, hp]]
      simp [emit]
    · rw [if_neg hp, sendMarkers_eq l s hpod]
      rw [show markersOut s (p :: l) = markersOut s l by simp [markersOut, hp]]

theorem mem_markersOut (s : State) (p : Nat) :
    (∃ f : Frame, Out.frame p f ∈ markersOut s (List.range 8) ∧ f.typ = 0x10 ∧ f.seq.toNat = s.tide.srcSeq % 2 ^ 32) ↔
      (p < 8 ∧ portUp s p = true ∧ (portOf s p).pauseTx = false) := by
  simp only [markersOut, List.mem_reverse, List.mem_map, List.mem_filter, List.mem_range, marksPort, Bool.and_eq_true,
    Bool.not_eq_true']
  constructor
  · rintro ⟨f, ⟨q, hq, hf⟩, -⟩
    obtain ⟨rfl, -⟩ := Out.frame.inj hf
    exact hq
  · intro hp
    exact ⟨_, ⟨p, hp, rfl⟩, rfl, BitVec.toNat_ofNat ..⟩

theorem execMarkerSend_eq {s : State} {now : Nat} (hs : alive s = true) (hpod : s.tide.podId ≠ 0) : exec (.markerSend now) s =
    let t := dropLost (atTide s now)
    .next ((List.range 8).foldl sendMarker
      (if t.tide.state = tideSource then setTide t fun x => { x with srcSeq := (x.srcSeq + 1) % 2 ^ 32 } else t)) := by
  change execMarkerSend now s = _
  unfold execMarkerSend
  rw [hs, bne_iff_ne.mpr hpod]
  rfl

theorem PodOnly.podId {s t : State} (h : PodOnly s t) : t.tide.podId = s.tide.podId := by have e := congrArg Tide.podId h.tide; exact e

theorem dropLost_podId (s : State) : (dropLost s).tide.podId = s.tide.podId := by
  have key : ∀ (l : List Nat) (s : State), (l.foldl (fun s p => if childLost s p then dropChild s p else s) s).tide.podId = s.tide.podId := by
    intro l
    induction l with
    | nil => exact fun _ => rfl
    | cons p l ih =>
      intro s
      rw [List.foldl_cons, ih]
      split
      · exact (loseChild_podOnly _ _).podId
      · rfl
  rw [dropLost_eq]
  exact key _ s

/-! A backup takes over (R273, R277, R297). -/

/-- What a package's place is as it enters SOURCE. -/
def asSource (t : Tide) : Tide := { t with
  state := tideSource, parent := 8, depth := 0, srcRank := t.rank, locked := true, mayStep := false, inBound := none }

theorem enterSource_spec (s : State) : (enterSource s).tide.state = 5 ∧ (enterSource s).tide.locked = true ∧ (enterSource s).tide.depth = 0 ∧
    (enterSource s).tide.parent = 8 ∧ (enterSource s).tide.srcRank = s.tide.rank ∧ (enterSource s).tide.event.getLsbD 0 = true ∧
    (enterSource s).tide.now = s.tide.now := by
  obtain ⟨u, hu⟩ : ∃ u, setTideEvent (setTide s asSource) evSourceChange = u := ⟨_, rfl⟩
  have htide : u.tide = { asSource s.tide with event := s.tide.event ||| (1#32 <<< evSourceChange) } := by rw [← hu, setTideEvent_tide]; rfl
  have hevent : u.tide.event.getLsbD 0 = true := by rw [← hu]; exact setTideEvent_raises _ (by decide)
  obtain ⟨v, hv⟩ : ∃ v, (openUses (setTide s asSource)).foldl tryRelease (showPodQ u) = v := ⟨_, rfl⟩
  have hpod : PodOnly u v := by
    rw [← hv]
    exact (showPodQ_podOnly u).trans (podOnly_foldl _ tryRelease_podOnly _ _)
  have e : enterSource s = setTide v fun t => { t with
      uses := t.uses.filter fun x => !((openUses v).drop 64).contains x
      noRoom := t.noRoom ++ (((openUses v).drop 64).filter (·.own)).map fun x => (x.idx, x.step, x.use) } := by
    rw [← hv, ← hu]
    rfl
  rw [e]
  have ht := hpod.tide
  rw [htide] at ht
  refine ⟨?_, ?_, ?_, ?_, ?_, hpod.events 0 hevent, ?_⟩
  · have h := congrArg Tide.state ht; exact h
  · have h := congrArg Tide.locked ht; exact h
  · have h := congrArg Tide.depth ht; exact h
  · have h := congrArg Tide.parent ht; exact h
  · have h := congrArg Tide.srcRank ht; exact h
  · have h := congrArg Tide.now ht; exact h

theorem takenOver_spec (s : State) : let t := releaseKnown (enterSource s)
    t.tide.state = 5 ∧ t.tide.locked = true ∧ t.tide.depth = 0 ∧ t.tide.parent = 8 ∧ t.tide.srcRank = s.tide.rank ∧
    t.tide.event.getLsbD 0 = true ∧ t.tide.now = s.tide.now := by
  obtain ⟨hstate, hlocked, hdepth, hparent, hrank, hevent, hnow⟩ := enterSource_spec s
  have h := releaseKnown_podOnly (enterSource s)
  generalize releaseKnown (enterSource s) = t at h ⊢
  have ht := h.tide
  refine ⟨?_, ?_, ?_, ?_, ?_, h.events 0 hevent, h.now.trans hnow⟩
  · rw [← hstate, ← ht]
  · rw [← hlocked, ← ht]
  · rw [← hdepth, ← ht]
  · rw [← hparent, ← ht]
  · rw [← hrank, ← ht]

theorem tryJoin_spec (s : State) : { tryJoin s with tide := { (tryJoin s).tide with due := s.tide.due } } = s ∧
    (s.job.adopted = false → tryJoin s = s) := by
  unfold tryJoin
  cases s.tide.joinRef with
  | none => exact ⟨rfl, fun _ => rfl⟩
  | some v =>
    dsimp only
    split
    next h => exact ⟨rfl, fun ha => by simp [ha] at h⟩
    next h => exact ⟨rfl, fun _ => rfl⟩

theorem arrives_of_comes {s : State} {p typ : Nat} {f : Frame} (hs : alive s = true) (h : Comes s p f (BitVec.ofNat 8 typ)) (ht : typ < 256) :
    arrives s p typ f = true := by
  obtain ⟨hup, hrx, htyp, hgood⟩ := h
  have : f.typ.toNat = typ := by rw [htyp, BitVec.toNat_ofNat]; omega
  simp [arrives, hs, portUp, hup, hrx, hgood, this]

/-- Settles O28: a marker by what it stores, the markers that leave, and each state of the tide by its fields. -/
theorem tideStates : Obligations.TideStates := by
  unfold Obligations.TideStates
  intro s now hs t0 n lost
  refine ⟨fun p f hf hpod => ?_, fun p f hf => ?_, fun hpod hnone => ?_, fun hpod p m hm hl => ?_, fun hst hbest => ?_,
    fun hst hlock hhold => ?_, fun m b hst hm hlocked hlive hin hlong => ?_, fun hpod h1 h4 h5 hclk hsil => ?_⟩
  · have ha : arrives s p 0x10 f = true := arrives_of_comes hs hf (by omega)
    have hforeign : (decide (s.tide.podId = 0) || f.jobTag.toNat != s.tide.podId) = true := by
      rw [Bool.or_eq_true, decide_eq_true_eq, bne_iff_ne]
      exact hpod
    refine runs_of (t := countUnknown (marked s p) p) ?_ ⟨onlyPort_modPort_modPort _ _ _ _, ?_⟩
    · change execMarker p f now s = _
      unfold execMarker tideRow
      rw [if_pos ha, if_pos hforeign]
    · rw [countUnknown, portOf_modPort_self, marked, portOf_modPort_self]
      rfl
  · obtain ⟨hcomes, hpod, htag⟩ := hf
    have ha : arrives s p 0x10 f = true := arrives_of_comes hs hcomes (by omega)
    have hours : ¬ (decide (s.tide.podId = 0) || f.jobTag.toNat != s.tide.podId) = true := by
      rw [Bool.or_eq_true, decide_eq_true_eq, bne_iff_ne]
      exact not_or.mpr ⟨hpod, not_not.mpr htag⟩
    obtain ⟨hmem, ⟨m, hm, hseq, hdepth, hrank, hlocked, hchild⟩, hstill, hplace⟩ := markerEff_spec (atTide (marked s p) now) p f
    refine runs_of (t := markerEff (atTide (marked s p) now) p f) ?_
      ⟨hmem, ⟨m, hm, hseq, hdepth, hrank, hlocked, hchild⟩, fun h5 => ?_, hplace⟩
    · change execMarker p f now s = _
      unfold execMarker tideRow
      rw [if_pos ha, if_neg hours]
    · obtain ⟨hothers, hcores, hnow⟩ := hstill h5
      exact ⟨othersAgree_modPort (g := fun k => { k with hunting := false }) hothers, hcores, hnow⟩
  · have hdrop : dropLost (atTide s now) = t0 := by
      refine dropLost_none fun p hp => ?_
      cases hm : (portOf s p).marker with
      | none => unfold childLost; rw [show (portOf (atTide s now) p).marker = none from hm]
      | some m => exact Bool.eq_false_iff.mpr fun h => hnone ⟨p, hp⟩ m hm ((childLost_iff (s := atTide s now) hm).mp h)
    obtain ⟨u, hu⟩ : ∃ u, (if t0.tide.state = tideSource then setTide t0 fun x => { x with srcSeq := (x.srcSeq + 1) % 2 ^ 32 } else t0) = u :=
      ⟨_, rfl⟩
    have hut : u.tide = { s.tide with now := n, srcSeq := if s.tide.state = 5 then (s.tide.srcSeq + 1) % 2 ^ 32 else s.tide.srcSeq } := by
      rw [← hu]
      by_cases h : s.tide.state = 5
      · rw [if_pos (show t0.tide.state = tideSource from h), if_pos h]
        rfl
      · rw [if_neg (show ¬ t0.tide.state = tideSource from h), if_neg h]
        rfl
    have hur : { u with tide := s.tide } = s := by rw [← hu]; split <;> rfl
    have hus : u.straits = s.straits := by rw [← hur]
    have hup : ∀ q, portOf u q = portOf s q := fun q => by unfold portOf; rw [hus]
    refine runs_of (t := { u with sent := markersOut u (List.range 8) ++ u.sent }) ?_ ⟨hut, ?_, markersOut u (List.range 8), ?_, fun p => ?_⟩
    · rw [execMarkerSend_eq hs hpod]
      dsimp only
      rw [hdrop, hu, sendMarkers_eq _ _ (by rw [hut]; exact hpod)]
    · have e := congrArg (fun x : State => { x with sent := s.sent }) hur
      exact e
    · rw [Sent]
      have e := congrArg State.sent hur
      rw [show u.sent = s.sent from e]
    · refine (mem_markersOut u p).trans ?_
      unfold portUp
      rw [hup]
  · have hin : p.val ∈ List.range 8 := List.mem_range.mpr p.isLt
    have hcl : childLost (atTide s now) p = true := (childLost_iff (s := atTide s now) hm).mpr hl
    obtain ⟨hreq, hmark⟩ := (dropLost_reads p (List.range 8) (atTide s now) List.nodup_range).2 hin hcl
    rw [← dropLost_eq] at hreq hmark
    have hpid := dropLost_podId (atTide s now)
    have hrun := execMarkerSend_eq (now := now) hs hpod
    dsimp only at hrun
    generalize dropLost (atTide s now) = d at hrun hreq hmark hpid
    obtain ⟨u, hu⟩ : ∃ u, (if d.tide.state = tideSource then setTide d fun x => { x with srcSeq := (x.srcSeq + 1) % 2 ^ 32 } else d) = u :=
      ⟨_, rfl⟩
    have hus : u.straits = d.straits := by rw [← hu]; split <;> rfl
    have hup : u.tide.podId = d.tide.podId := by rw [← hu]; split <;> rfl
    rw [hu, sendMarkers_eq _ _ (by rw [hup, hpid]; exact hpod)] at hrun
    have hport : portOf { u with sent := markersOut u (List.range 8) ++ u.sent } p = portOf d p := by
      unfold portOf
      exact congrArg (fun x => tblGet portReset x.ports p.val) hus
    refine runs_of hrun ⟨by rw [hport]; exact hreq, ?_⟩
    rw [hport, hmark, show (portOf (atTide s now) p).marker = some m from hm]
    rfl
  · have hrow : (alive s && (decide (t0.tide.state = tideAcquiring) || decide (t0.tide.state = tideTracking) ||
        decide (t0.tide.state = tideLocked)) && (bestParent t0).isNone) = true := by
      rw [hs, hbest]
      simp only [List.mem_cons, List.not_mem_nil, or_false] at hst
      rcases hst with h | h | h <;> simp [t0, atTide, h, tideAcquiring, tideTracking, tideLocked]
    refine runs_when (show execHoldover now s = when _ s _ from rfl) hrow ?_
    obtain ⟨u, hu⟩ : ∃ u, (setTide (atTide s now) fun t => { t with
      state := tideHoldover, parent := 8, depth := 0xFF, srcRank := 7, inBound := none, podQ := 0, holdSince := t.now }) = u := ⟨_, rfl⟩
    have e : enterHoldover (atTide s now) = setTideEvent u evHoldover := by rw [← hu]; rfl
    have hw := TideWork.event u evHoldover
    have hc : u.cores = s.cores ∧ u.memory = s.memory := by rw [← hu]; exact ⟨rfl, rfl⟩
    rw [e]
    refine ⟨?_, ?_, ?_, ?_, ?_, setTideEvent_raises _ (by decide), hw.cores.trans hc.1, hw.memory.trans hc.2⟩
    all_goals rw [setTideEvent_tide, ← hu]; rfl
  · refine runs_when (show execLockedLoss now s = when _ s _ from rfl) ?_ ?_
    · simp only [hs, Bool.true_and, Bool.and_eq_true, decide_eq_true_eq]
      exact ⟨⟨hst, hlock⟩, hhold⟩
    have e := loseLock_tide (atTide s now)
    refine ⟨?_, ?_, ?_⟩
    · rw [e]
    · rw [e]
      simp [atTide, hst, tideLocked]
    · exact setTideEvent_raises _ (by decide)
  · have hpl : (match (portOf t0 t0.tide.parent).marker with | some m => m.locked && markerLive m t0.tide.now | none => false) = true := by
      rw [show (portOf t0 t0.tide.parent).marker = some m from hm]
      simp only [hlocked, markerLive, Bool.true_and, decide_eq_true_eq]
      exact hlive
    have hil : (match t0.tide.inBound with | some b => decide (b + 1000000000 ≤ t0.tide.now) | none => false) = true := by
      rw [show t0.tide.inBound = some b from hin]
      exact decide_eq_true hlong
    refine runs_when (show execLockAcquired now s = when _ s _ from rfl) ?_ ?_
    · rw [hs]
      simp only [Bool.true_and, Bool.and_eq_true, decide_eq_true_eq]
      exact ⟨⟨hst, hpl⟩, hil⟩
    · obtain ⟨hsame, hnot⟩ := tryJoin_spec (setTide (atTide s now) fun x => { x with state := tideLocked, locked := true })
      refine ⟨hsame, fun ha => ?_⟩
      have e := congrArg (fun x : State => x.tide.due) (hnot ha)
      exact e
  · have hrow : (alive s && t0.tide.podId != 0 && decide (1 ≤ t0.tide.rank) && decide (t0.tide.rank ≤ 4) && t0.tide.state != tideSource
        && s.boot.clkMode != 3 && decide (lastLive t0 + 10000 + 40000 * (t0.tide.rank - 1) ≤ t0.tide.now)) = true := by
      simp only [hs, Bool.true_and, Bool.and_eq_true, decide_eq_true_eq, bne_iff_ne]
      exact ⟨⟨⟨⟨⟨hpod, h1⟩, h4⟩, h5⟩, hclk⟩, hsil⟩
    refine runs_when (show execBackupTakeover now s = when _ s _ from rfl) hrow ?_
    exact takenOver_spec (atTide s now)

end Sys2Proof.Machine
end

section
/-! SUPPORT. Arenas open (10, R311–R313), and package memory is kept up: write-back, scrub, wipe, digest units (07, R205–R231). -/

namespace Sys2Proof.Machine

open Sys2Proof

/-! Opening (R218, R311, R312). -/

/-- The state in which a use's record stands written and its range is clear. -/
def opening (s : State) (i n : Nat) (d : Use) (u : Nat) : State :=
  let k := arenaKey i d.record
  setRecordUse (setUse (setBegun (setArena (clearRange s i d.base d.length) k (useRecord (n % 65536) d)) k []) (useKey n u) .opening) k
    (useKey n u + 1)

theorem readUse_clean {s : State} (h : CleanMemory s) (u : Nat) : readUse s u = s := by
  unfold readUse
  split
  · rw [readRange_clean h]
  · rfl

theorem beginUse_clean {s : State} (h : CleanMemory s) (i n u : Nat) : beginUse s i n u = opening s i n (useAt s u) u := by
  unfold beginUse opening
  rw [readUse_clean h]

theorem accGet_clearRange (s : State) (i base len x : Nat) : accGet (clearRange s i base len) x =
    if accKey i base ≤ x ∧ x < accKey i base + len then 0 else accGet s x := by
  unfold accGet clearRange
  dsimp only
  split
  next h => exact tblGet_filter_drop _ _ _ _ fun v => by simp [h]
  next h => exact tblGet_filter_keep _ _ _ _ fun v => by simp; omega

theorem useState_setUse_self (s : State) (k : Nat) (v : UseState) : useState (setUse s k v) k = v := by
  unfold useState setUse
  exact tblGet_set_self _ _ _ _

theorem begunOf_setBegun_self (s : State) (k : Nat) (l : List Nat) : begunOf (setBegun s k l) k = l := by
  unfold begunOf setBegun
  exact tblGet_set_self _ _ _ _

theorem opening_reads (s : State) (i n : Nat) (d : Use) (u : Nat) :
    arenaAt (opening s i n d u) (arenaKey i d.record) = useRecord (n % 65536) d ∧
    useState (opening s i n d u) (useKey n u) = .opening ∧ begunOf (opening s i n d u) (arenaKey i d.record) = [] ∧
    (∀ x, accGet (opening s i n d u) x = accGet (clearRange s i d.base d.length) x) ∧
    (∀ a, a ≠ arenaKey i d.record → arenaAt (opening s i n d u) a = arenaAt s a) ∧ MemSame s (opening s i n d u) [] ∧
    (opening s i n d u).cores = s.cores := by
  unfold opening
  generalize useRecord (n % 65536) d = r
  generalize arenaKey i d.record = k
  generalize useKey n u = key
  have hclear : (clearRange s i d.base d.length).memory.data = s.memory.data ∧ (clearRange s i d.base d.length).memory.arenas = s.memory.arenas ∧
      (clearRange s i d.base d.length).cores = s.cores := ⟨rfl, rfl, rfl⟩
  generalize clearRange s i d.base d.length = c at hclear ⊢
  obtain ⟨hdata, harenas, hcores⟩ := hclear
  refine ⟨?_, ?_, ?_, fun x => rfl, fun a ha => ?_, fun a ha => congrArg (memGet · a) hdata, hcores⟩
  · exact tblGet_set_self _ _ _ _
  · exact useState_setUse_self (setBegun (setArena c k r) k []) key .opening
  · exact begunOf_setBegun_self _ _ _
  · exact (tblGet_set_ne _ _ _ ha).trans (congrArg (tblGet 0 · a) harenas)

/-- The state in which record k reads open. -/
def readsOpen (s : State) (k : Nat) (r : Arena) : State :=
  match recordUse s k with
  | some u => setUse (setArena s k r) u .opened
  | none => setArena s k r

theorem readsOpen_reads (s : State) (k : Nat) (r : Arena) : arenaAt (readsOpen s k r) k = r ∧
    (∀ u, recordUse s k = some u → useState (readsOpen s k r) u = .opened) ∧
    (∀ a, a ≠ k → arenaAt (readsOpen s k r) a = arenaAt s a) ∧ (readsOpen s k r).memory.acc = s.memory.acc ∧
    MemSame s (readsOpen s k r) [] ∧ (readsOpen s k r).cores = s.cores ∧ (readsOpen s k r).memory.park = s.memory.park := by
  unfold readsOpen
  cases recordUse s k with
  | none =>
    exact ⟨tblGet_set_self _ _ _ _, fun u hu => absurd hu (Option.some_ne_none u).symm, fun a ha => tblGet_set_ne _ _ _ ha, rfl,
      fun _ _ => rfl, rfl, rfl⟩
  | some v =>
    refine ⟨tblGet_set_self _ _ _ _, fun u hu => ?_, fun a ha => tblGet_set_ne _ _ _ ha, rfl, fun _ _ => rfl, rfl, rfl⟩
    rw [Option.some.inj hu]
    exact useState_setUse_self _ _ _

theorem exec_arenaOpened {i : Fin 24} {s : State} {k : Nat} (hm : memOn s = true) (hop : openingOn s i = some k) :
    exec (.arenaOpened i) s = ofLand (feedParked (readsOpen s k (setAState (arenaAt s k) arenaOpen)) i k) := by
  change execArenaOpened i s = _
  unfold execArenaOpened readsOpen
  rw [hop]
  exact if_pos hm

theorem feedParked_none {s : State} {i k : Nat} (h : parkOf s i = []) : feedParked s i k = .ok s := by
  unfold feedParked
  rw [h]
  rfl

/-- Settles O31: the record and the range as opening writes them; the record reads open once clearing has ended. -/
theorem arenasOpen : Obligations.ArenasOpen := by
  unfold Obligations.ArenasOpen
  intro i now s hm
  refine ⟨fun n u hnext hjob hrun hstop hres hop hfree hstart hclean => ?_, fun k hop hpark => ?_⟩
  · refine runs_of (t := opening (atTide s now) i n (useAt s u) u) ?_ ?_
    · change execArenaOpen i now s = _
      unfold execArenaOpen
      dsimp only
      rw [hnext]
      dsimp only
      rw [beginUse_clean (s := atTide s now) hclean]
      rw [show (memOn s && jobRuns s && s.tide.running && !s.reduction.stopped && !inReshard s && (openingOn s i).isNone
        && rangeFree s i (useAt s u) && decide (s.tide.start ≤ (atTide s now).tide.now)) = true from by
          simp only [hm, hjob, hrun, hstop, hres, hop, hfree, Bool.true_and, Bool.not_false, Option.isNone_none, decide_eq_true_eq]
          exact hstart]
      rfl
    · obtain ⟨harena, huse, hbegun, hacc, hothers, hmem, hcores⟩ := opening_reads (atTide s now) i n (useAt s u) u
      refine ⟨harena, huse, hbegun, fun x h1 h2 => ?_, fun x hx => ?_, hothers, hmem, hcores⟩
      · rw [hacc, accGet_clearRange, if_pos ⟨h1, h2⟩]
      · rw [hacc, accGet_clearRange, if_neg hx]
        rfl
  · have run := exec_arenaOpened hm hop
    have hopen := aState_setAState (arenaAt s k) arenaOpen
    generalize setAState (arenaAt s k) arenaOpen = r at run hopen
    obtain ⟨harena, huse, hothers, hacc, hmem, hcores, hparks⟩ := readsOpen_reads s k r
    rw [feedParked_none (by unfold parkOf; rw [hparks]; exact hpark)] at run
    exact runs_of run ⟨by rw [harena]; exact hopen, huse, hothers, hacc, hmem, hcores⟩

/-! Write-back, scrub, wipe (R205, R213, R215, R229–R231). -/

theorem stackOf_modStack (s : State) (i : Nat) (f : Stack → Stack) (j : Nat) :
    stackOf (modStack s i f) j = if j = i then f (stackOf s j) else stackOf s j := by
  unfold stackOf modStack
  split
  next h => rw [h]; exact tblGet_mod_self _ _ _ _
  next h => exact tblGet_mod_ne _ _ _ h

/-- A change of each of the stacks below n. -/
theorem stackOf_modStacks (f : Nat → Stack → Stack) : ∀ (l : List Nat) (s : State) (j : Nat), l.Nodup →
    stackOf (l.foldl (fun s i => modStack s i (f i)) s) j = if j ∈ l then f j (stackOf s j) else stackOf s j
  | [], s, j, _ => (if_neg List.not_mem_nil).symm
  | i :: l, s, j, hl => by
    obtain ⟨hi, hl'⟩ := List.nodup_cons.mp hl
    rw [List.foldl_cons, stackOf_modStacks f l _ j hl', stackOf_modStack]
    by_cases h : j = i
    · subst h
      rw [if_neg hi, if_pos rfl, if_pos List.mem_cons_self]
    · simp [h]

theorem modStacks_keeps (f : Nat → Stack → Stack) : ∀ (l : List Nat) (s : State),
    (l.foldl (fun s i => modStack s i (f i)) s).memory.data = s.memory.data ∧
    (l.foldl (fun s i => modStack s i (f i)) s).memory.wipe = s.memory.wipe
  | [], _ => ⟨rfl, rfl⟩
  | i :: l, s => by
    obtain ⟨h1, h2⟩ := modStacks_keeps f l (modStack s i (f i))
    exact ⟨h1, h2⟩

/-- Whether every stack that works has ended a pass is read of the stacks alone. -/
theorem allStacks_congr {s t : State} (h : t.memory.stack = s.memory.stack) (f : Stack → Bool) : allStacks t f = allStacks s f := by
  unfold allStacks stackOf
  rw [h]

/-- A pass ends once every stack has ended it. -/
theorem passEnds {s t : State} {f : Stack → Bool} {w : Nat} (hw : t.memory.wipe ≠ w)
    (hs : s = if allStacks t f then { t with memory := { t.memory with wipe := w } } else t) :
    s.memory.data = t.memory.data ∧ s.memory.stack = t.memory.stack ∧ (s.memory.wipe = w ↔ allStacks s f = true) := by
  subst hs
  by_cases h : allStacks t f = true
  · rw [if_pos h]
    exact ⟨rfl, rfl, iff_of_true rfl ((allStacks_congr rfl f).trans h)⟩
  · rw [if_neg h]
    exact ⟨rfl, rfl, iff_of_false hw h⟩

/-- What a verify pass's reads leave (R213, R231). -/
theorem verifyReads_same : ∀ (l : List Nat) (s : State),
    let t := l.foldl (fun t p =>
      let ue := (decodeLine (memRead t.memory.data p 64) (tblGet [] t.memory.upset p)).2.2
      let u := (readLine t p .host).1
      if ue then { u with memory := { u.memory with ueSeen := true } } else u) s
    t.memory.data = s.memory.data ∧ t.memory.wipe = s.memory.wipe
  | [], _ => ⟨rfl, rfl⟩
  | p :: l, s => by
    rw [List.foldl_cons]
    obtain ⟨h1, h2⟩ := verifyReads_same l (if (decodeLine (memRead s.memory.data p 64) (tblGet [] s.memory.upset p)).2.2 = true then
      { (readLine s p .host).1 with memory := { (readLine s p .host).1.memory with ueSeen := true } } else (readLine s p .host).1)
    have hr := readLine_read s p .host
    have hd := hr.data
    have hw : (readLine s p .host).1.memory.wipe = s.memory.wipe := by
      have e := congrArg (fun x : State => x.memory.wipe) hr.1
      exact e
    refine ⟨h1.trans ?_, h2.trans ?_⟩
    · split
      · exact hd
      · exact hd
    · split
      · exact hw
      · exact hw

/-! Digest units (R226, R227, R448). -/

theorem digestOf_modDigest_self (s : State) (r : Nat) (f : Digest → Digest) : digestOf (modDigest s r f) r = f (digestOf s r) :=
  tblGet_mod_self _ _ _ _
theorem digestOf_modDigest_ne (s : State) {r q : Nat} (f : Digest → Digest) (h : q ≠ r) : digestOf (modDigest s r f) q = digestOf s q :=
  tblGet_mod_ne _ _ _ h

/-- DIG_CTRL of region r takes a word while its dies are lit. -/
theorem writeWord_digest (s : State) (r : Fin 16) (v : Reg) (hf : feature s featDigest = true) (hp : s.power.state < 2) :
    writeWord s .bar0 (0x52000 + 64 * r.val) v none =
      cfgWrite (digestCtrl s r v) false (0x52000 + 64 * r.val) (bar0Read s (0x52000 + 64 * r.val)) := by
  have hr := r.isLt
  obtain ⟨off, hoff⟩ : ∃ off, 0x52000 + 64 * r.val = off := ⟨_, rfl⟩
  have hlow : 0x52000 ≤ off ∧ off < 0x52400 := by omega
  have hcore : inCoreBlock off = false := by simp [inCoreBlock]; omega
  have hevent : eventWrite s off v none = none := by
    unfold eventWrite
    rw [if_neg (by omega), if_neg (by omega), if_neg (by omega), if_neg (by omega), if_neg (by omega), if_neg (by omega), if_neg (by omega),
      if_neg (by omega), if_neg (by omega), if_neg (by omega), if_neg (by simp [hcore])]
  have hrw : rwWrite s off v none = some (digestCtrl s r v) := by
    unfold rwWrite
    dsimp only
    rw [if_neg (by omega), if_pos ⟨hlow.1, hlow.2, hf⟩, if_pos (by omega), show (off - 0x52000) / 64 = r.val by omega]
  have hdark : darkBlock s off = false := by
    have : islesDark s = false := by simp [islesDark]; omega
    simp [darkBlock, this]
  unfold writeWord
  dsimp only
  rw [hoff, hevent]
  dsimp only
  rw [hrw]
  dsimp only
  rw [hdark, if_neg Bool.false_ne_true]
  rfl

/-- A write of DIG_CTRL that leaves EN as it stands. -/
theorem digestWrite_spec (s : State) (r : Fin 16) (now n : Nat) (hf : feature s featDigest = true) (hp : s.power.state < 2)
    (d' : Digest) (hd : ∀ t : State, digestOf t r = digestOf s r →
      digestOf (digestCtrl t r (reg (bit (digestOf s r).en + n))) r = d') :
    let t := writeWord (atTide s now) .bar0 (0x52000 + 64 * r.val) (reg (bit (digestOf s r).en + n)) none
    digestOf t r = d' ∧ t.control.cfgGen = (s.control.cfgGen + 1) % 2 ^ 64 ∧ MemSame s t [] ∧
      ∀ q, q ≠ r.val → digestOf t q = digestOf s q := by
  dsimp only
  rw [writeWord_digest (atTide s now) r _ hf hp]
  refine ⟨hd (atTide s now) rfl, rfl, fun a ha => rfl, fun q hq => ?_⟩
  exact (digestOf_modDigest_ne _ _ hq).trans rfl

/-- Settles O33: what each row writes of package memory, its stacks and its digest units. -/
theorem memoryMaintenance : Obligations.MemoryMaintenance := by
  unfold Obligations.MemoryMaintenance
  refine ⟨fun i s => ⟨fun p bs hm hfind => ?_, fun hm hw hh hup => ?_, fun hm hup hj => ?_, fun ha hw hd => ?_, fun failed ha hw hd => ?_,
    fun ha hw hup hall => ?_, fun ha hw hup hall => ?_⟩, fun r now s hheld hclk href hpow hfeat => ?_⟩
  · refine runs_of (t := { s with memory := putLine s.memory p bs }) ?_ ⟨fun a ha => ?_, tblGet_erase_self _ _ _, fun x hx => ?_,
      fun j hj => memGet_memWrite_in _ _ _ _ hj, rfl⟩
    · change execEccWriteBack i s = _
      unfold execEccWriteBack
      rw [hfind]
      dsimp only
      rw [hm]
      rfl
    · have h := ha (p, bs.length) (by simp)
      exact memGet_memWrite_out _ _ _ _ (by dsimp only at h; omega)
    · exact bne_iff_ne.mp (List.mem_filter.mp hx).2
  · refine runs_when (show execPatrolScrub i [] s = when _ s _ from rfl) (by simp [hm, hw, hh, hup]) ?_
    have hr := readLine_read s (globalAddr i (stackOf s i).scrub) .host
    have hu : addUpsets s [] = s := rfl
    rw [hu]
    refine ⟨?_, fun a ha => ?_, hr.cores⟩
    · rw [stackOf_modStack, if_pos rfl]
    · exact congrArg (memGet · a) hr.data
  · refine runs_when (show execStackFailure i s = when _ s _ from rfl) (by simp [hm, hup, hj]) ?_
    refine ⟨?_, fun a ha => rfl, rfl, fun j hjne => ?_⟩
    · rw [stackOf_modStack, if_pos rfl]
    · rw [stackOf_modStack, if_neg hjne]
      rfl
  · exact runs_when (show execWipeSramDone s = when _ s _ from rfl) (by simp [ha, hw, hd]) rfl
  · refine runs_when (show execStackTrainingDone failed s = when _ s _ from rfl) (by simp [ha, hw, hd]) ?_
    obtain ⟨hdata, hwipe⟩ := modStacks_keeps (fun i k => { k with state := if failed.any (·.val = i) then 2 else 1 }) (List.range 24)
      { s with memory := { s.memory with wipe := if (List.range 24).all fun i => failed.any (·.val = i) then 0 else 2 } }
    refine ⟨hwipe, fun j hj => ?_, fun a ha => congrArg (memGet · a) hdata⟩
    rw [stackOf_modStacks (fun i k => { k with state := if failed.any (·.val = i) then 2 else 1 }) _ _ _ List.nodup_range,
      if_pos (List.mem_range.mpr hj)]
  · refine runs_when (show execWipeWritePassDone i s = when _ s _ from rfl) (by simp [ha, hw, hup, hall]) ?_
    obtain ⟨t, ht⟩ : ∃ t, modStack { s with memory := { s.memory with
      data := s.memory.data.filter fun c => stackIdx c.1 != i.val
      upset := s.memory.upset.filter fun c => stackIdx c.1 != i.val
      writeBack := s.memory.writeBack.filter fun p => stackIdx p.1 != i.val } } i (fun k => { k with wroteAll := true }) = t := ⟨_, rfl⟩
    have hdata : t.memory.data = s.memory.data.filter fun c => stackIdx c.1 != i.val := by rw [← ht]; rfl
    have hstack : (stackOf t i).wroteAll = true := by rw [← ht, stackOf_modStack, if_pos rfl]
    have hwipe : t.memory.wipe = 2 := by rw [← ht]; exact hw
    rw [ht]
    generalize hs' : (if allStacks t (·.wroteAll) = true then { t with memory := { t.memory with wipe := 3 } } else t) = t'
    obtain ⟨e1, e2, e3⟩ := passEnds (w := 3) (by rw [hwipe]; omega) hs'.symm
    refine ⟨fun a hst => ?_, fun a hst => ?_, ?_, e3⟩
    · rw [e1, hdata]
      exact tblGet_filter_drop _ _ _ _ fun v => by simp [hst]
    · rw [e1, hdata]
      exact tblGet_filter_keep _ _ _ _ fun v => by simp [hst]
    · unfold stackOf at hstack ⊢
      rw [e2]
      exact hstack
  · refine runs_when (show execWipeVerifyDone i [] s = when _ s _ from rfl) (by simp [ha, hw, hup, hall]) ?_
    obtain ⟨hdata, hwipe⟩ := verifyReads_same ((s.memory.upset.filter fun c => stackIdx c.1 = i.val).map (·.1)) s
    rw [show addUpsets s (([] : List Upset).filter fun u => stackIdx u.addr = i.val) = s from rfl]
    generalize (List.foldl _ s _) = u at hdata hwipe ⊢
    obtain ⟨t, ht⟩ : ∃ t, modStack u i (fun k => { k with readAll := true }) = t := ⟨_, rfl⟩
    have htdata : t.memory.data = s.memory.data := by rw [← ht]; exact hdata
    have hstack : (stackOf t i).readAll = true := by rw [← ht, stackOf_modStack, if_pos rfl]
    have htwipe : t.memory.wipe = 3 := by rw [← ht]; exact hwipe.trans hw
    rw [ht]
    generalize hs' : (if allStacks t (·.readAll) = true then { t with memory := { t.memory with wipe := 0 } } else t) = t'
    obtain ⟨e1, e2, e3⟩ := passEnds (w := 0) (by rw [htwipe]; omega) hs'.symm
    refine ⟨?_, e3, fun a ha => by rw [e1, htdata]⟩
    unfold stackOf at hstack ⊢
    rw [e2]
    exact hstack
  · have hpcie : pcieOn s = true := by simp [pcieOn, hheld, hclk, href]
    refine ⟨?_, ?_, fun hvin hsnap => ?_⟩
    · refine runs_when (show execDigestSnap r now s = when _ s _ from rfl) hpcie ?_
      refine digestWrite_spec s r now 4 hfeat hpow _ fun t ht => ?_
      unfold digestCtrl
      rw [digestOf_modDigest_self, ht]
      cases (digestOf s r).en <;> rfl
    · refine runs_when (show execDigestClear r now s = when _ s _ from rfl) hpcie ?_
      refine digestWrite_spec s r now 2 hfeat hpow _ fun t ht => ?_
      unfold digestCtrl
      rw [digestOf_modDigest_self, ht]
      cases (digestOf s r).en <;> rfl
    · refine runs_when (show execDigestSnapDone r s = when _ s _ from rfl) ?_ ⟨digestOf_modDigest_self _ _ _, rfl, fun a ha => rfl, fun q hq => ?_⟩
      · rw [show (digestOf s r).snap = true from hsnap]
        simp [alive, hheld, hvin]
      · exact digestOf_modDigest_ne _ _ hq

end Sys2Proof.Machine
end

section
/-! SUPPORT. Frames of a step (09, 11, 12): what the image reads, how a step ends, is evaluated and decided, and how a core goes on
(R50, R282, R346, R352, R361, R364). -/

namespace Sys2Proof.Machine

open Sys2Proof

/-! What is read of the image depends on package memory and the job alone. -/

/-- Package memory reads alike, and the job in force is the same. -/
structure ImageSame (s t : State) : Prop where
  data : t.memory.data = s.memory.data
  upset : t.memory.upset = s.memory.upset
  states : ∀ i, (stackOf t i).state = (stackOf s i).state
  job : t.job = s.job

theorem ImageSame.refl (s : State) : ImageSame s s := ⟨rfl, rfl, fun _ => rfl, rfl⟩

theorem ImageSame.trans {a b c : State} (h : ImageSame a b) (h' : ImageSame b c) : ImageSame a c :=
  ⟨h'.data.trans h.data, h'.upset.trans h.upset, fun i => (h'.states i).trans (h.states i), h'.job.trans h.job⟩

theorem ImageSame.of_eq {s t : State} (hm : t.memory = s.memory) (hj : t.job = s.job) : ImageSame s t :=
  ⟨by rw [hm], by rw [hm], fun i => by unfold stackOf; rw [hm], hj⟩

theorem ReadSame.image {s t : State} (h : ReadSame s t) : ImageSame s t := ⟨h.data, h.upset, h.2, h.job⟩

theorem ReportSame.image {s t : State} (h : ReportSame s t) : ImageSame s t := (ReadSame.of_report h).image

theorem ImageSame.peek {s t : State} (h : ImageSame s t) (p n : Nat) : Machine.peek t p n = Machine.peek s p n := by
  unfold Machine.peek
  simp only [h.data, h.upset, h.states]

theorem ImageSame.section_ {s t : State} (h : ImageSame s t) (typ variant : Nat) : Machine.section_ t typ variant = Machine.section_ s typ variant := by
  unfold Machine.section_ directory dirEntry peekNat
  simp only [h.job, h.peek]

theorem ImageSame.secNat {s t : State} (h : ImageSame s t) (typ o n : Nat) : Machine.secNat t typ o n = Machine.secNat s typ o n := by
  unfold Machine.secNat peekNat
  simp only [h.section_, h.peek]

theorem readSections_read : ∀ (typs : List Nat) (s : State), ReadSame s (readSections s typs)
  | [], s => .refl s
  | typ :: typs, s => by
    unfold readSections
    rw [List.foldl_cons]
    refine ReadSame.trans ?_ (readSections_read typs _)
    split
    · exact readRange_read _ _ _ _
    · exact .refl s

/-! The harbour port's sends touch the straits and the outputs alone. -/

/-- A state but for the straits and what leaves the package. -/
def HarbourSame (s t : State) : Prop := { t with straits := s.straits, sent := s.sent } = s

theorem HarbourSame.refl (s : State) : HarbourSame s s := rfl

theorem HarbourSame.trans {a b c : State} (h : HarbourSame a b) (h' : HarbourSame b c) : HarbourSame a c := by
  unfold HarbourSame at *
  refine Eq.trans ?_ h
  rw [← h']

theorem HarbourSame.ite {c : Prop} [Decidable c] {s a b : State} (ha : HarbourSame s a) (hb : HarbourSame s b) :
    HarbourSame s (if c then a else b) := by
  split
  · exact ha
  · exact hb

theorem sendHarbour_same (s : State) (dst : BitVec 128) (o : HarbourOut) : HarbourSame s (sendHarbour s dst o) := by
  unfold sendHarbour
  split
  · rfl
  · rfl

theorem transmit_same (s : State) (k : Nat) (h : HOut) : HarbourSame s (transmit s k h) := by
  unfold transmit
  exact .ite (sendHarbour_same _ _ _) (.refl s)

theorem modSession_same (s : State) (k : Nat) (g : Session → Session) : HarbourSame s (modSession s k g) := rfl

theorem number_same (s : State) (k typ addr : Nat) (payload : List Byte) : HarbourSame s (number s k typ addr payload) := by
  unfold number
  exact .ite ((modSession_same s k _).trans (transmit_same _ _ _)) (modSession_same s k _)

theorem sendDigest_same (s : State) (n poison : Nat) (dg : List Byte) : HarbourSame s (sendDigest s n poison dg) := by
  unfold sendDigest
  refine .ite ?_ (.refl s)
  split
  · exact number_same _ _ _ _ _
  · exact .refl s

/-! Own completions of pod barriers (R292, R295). -/

/-- The entries that a package has completed itself stay so, and what waits for room stays. -/
structure OwnStays (s t : State) : Prop where
  own : ∀ i n u, (podUse s i n u).own = true → (podUse t i n u).own = true
  noRoom : t.tide.noRoom = s.tide.noRoom

theorem OwnStays.refl (s : State) : OwnStays s s := ⟨fun _ _ _ h => h, rfl⟩

theorem OwnStays.trans {a b c : State} (h : OwnStays a b) (h' : OwnStays b c) : OwnStays a c :=
  ⟨fun i n u hu => h'.own i n u (h.own i n u hu), h'.noRoom.trans h.noRoom⟩

theorem OwnStays.ite {c : Prop} [Decidable c] {s a b : State} (ha : OwnStays s a) (hb : OwnStays s b) : OwnStays s (if c then a else b) := by
  split
  · exact ha
  · exact hb

theorem OwnStays.of_uses {s t : State} (hu : t.tide.uses = s.tide.uses) (hr : t.tide.noRoom = s.tide.noRoom) : OwnStays s t :=
  ⟨fun i n u h => by unfold podUse at *; rw [hu]; exact h, hr⟩

theorem OwnStays.of_tide {s t : State} (h : t.tide = s.tide) : OwnStays s t := .of_uses (by rw [h]) (by rw [h])

theorem ownStays_foldl {α : Type} (f : State → α → State) (h : ∀ s x, OwnStays s (f s x)) : ∀ (l : List α) (s : State),
    OwnStays s (l.foldl f s)
  | [], s => .refl s
  | x :: l, s => (h s x).trans (ownStays_foldl f h l _)

theorem isUse_self (x : PodUse) : isUse x.idx x.step x.use x = true := by simp [isUse]

/-- An entry as it is put, and the others. -/
theorem podUse_putUse (s : State) (x : PodUse) (i n u : Nat) :
    podUse (putUse s x) i n u = if isUse i n u x then x else podUse s i n u := by
  have hfind : ∀ l : List PodUse, (l.filter (fun y => !isUse x.idx x.step x.use y) ++ [x]).find? (isUse i n u) =
      if isUse i n u x then some x else l.find? (isUse i n u) := by
    intro l
    by_cases hx : isUse i n u x = true
    · have hkey : i = x.idx ∧ n = x.step ∧ u = x.use := by
        simp only [isUse, Bool.and_eq_true, decide_eq_true_eq] at hx
        exact ⟨hx.1.1.symm, hx.1.2.symm, hx.2.symm⟩
      obtain ⟨rfl, rfl, rfl⟩ := hkey
      have hnone : (l.filter (fun y => !isUse x.idx x.step x.use y)).find? (isUse x.idx x.step x.use) = none := by
        rw [List.find?_eq_none]
        intro y hy
        simpa using (List.mem_filter.mp hy).2
      rw [List.find?_append, hnone, if_pos hx]
      simp [hx]
    · rw [if_neg hx, List.find?_append]
      have hkeep : (l.filter (fun y => !isUse x.idx x.step x.use y)).find? (isUse i n u) = l.find? (isUse i n u) := by
        rw [List.find?_filter]
        congr 1
        funext y
        by_cases hy : isUse i n u y = true
        · have hne : isUse x.idx x.step x.use y = false := by
            by_contra hc
            rw [Bool.not_eq_false] at hc
            simp only [isUse, Bool.and_eq_true, decide_eq_true_eq] at hy hc hx
            obtain ⟨⟨h1, h2⟩, h3⟩ := hy
            obtain ⟨⟨g1, g2⟩, g3⟩ := hc
            exact hx ⟨⟨g1.symm.trans h1, g2.symm.trans h2⟩, g3.symm.trans h3⟩
          simp [hy, hne]
        · simp [hy]
      rw [hkeep]
      simp [hx]
  unfold podUse
  change ((s.tide.uses.filter (fun y => !isUse x.idx x.step x.use y) ++ [x]).find? (isUse i n u)).getD _ = _
  rw [hfind]
  split <;> rfl

theorem putUse_ownStays (s : State) {x : PodUse} (h : x.own = true) : OwnStays s (putUse s x) := by
  refine ⟨fun i n u hu => ?_, rfl⟩
  rw [podUse_putUse]
  split
  · exact h
  · exact hu

theorem sendOut_tide (s : State) (p : Nat) (f : Frame) : (sendOut s p f).tide = s.tide := by
  unfold sendOut
  split <;> rfl

theorem sendTide_tide (s : State) (p typ seq : Nat) (body : List Byte) : (sendTide s p typ seq body).tide = s.tide := by
  unfold sendTide
  split
  · exact sendOut_tide _ _ _
  · rfl

theorem flood_ownStays (s : State) (but typ : Nat) (body : List Byte) : OwnStays s (flood s but typ body) :=
  ownStays_foldl _ (fun s _ => .ite (.refl s) (.of_tide (sendTide_tide _ _ _ _ _))) _ s

theorem setTideEvent_ownStays (s : State) (b : Nat) : OwnStays s (setTideEvent s b) := by
  refine .of_uses ?_ ?_
  all_goals rw [setTideEvent_tide]

theorem queueAddAll_ownStays (s : State) (members sem : Nat) : OwnStays s (queueAddAll s members sem) := by
  refine ownStays_foldl _ (fun s c => ?_) _ s
  unfold queueAdd
  exact .ite (.of_tide rfl) (.refl s)

theorem takeRelease_ownStays (s : State) {x : PodUse} (h : x.own = true) (rel but : Nat) : OwnStays s (takeRelease s x rel but) := by
  have hput : ∀ (t : State) (r : Option (Nat × Nat)) (d : Bool), OwnStays t (putUse t { x with release := r, addDue := d }) :=
    fun t r d => putUse_ownStays t h
  have hflood := (hput s (some (rel, s.tide.now)) true).trans (flood_ownStays _ but 0x13
    (leBytes 1 x.idx ++ leBytes 1 x.use ++ leBytes 2 x.step ++ leBytes 8 rel))
  unfold takeRelease
  refine .ite (hflood.trans ?_) hflood
  refine OwnStays.trans (b := setTideEvent _ _) ?_ ((queueAddAll_ownStays _ _ _).trans (hput _ _ _))
  exact OwnStays.trans (b := setTide _ fun t => { t with lateRels := sat32 (t.lateRels + 1) }) (.of_uses rfl rfl)
    (setTideEvent_ownStays _ _)

theorem tryRelease_ownStays (s : State) {x : PodUse} (h : x.own = true) : OwnStays s (tryRelease s x) := by
  unfold tryRelease
  exact .ite (.ite (.refl s) (takeRelease_ownStays s h _ _)) (.refl s)

theorem sendTotal_ownStays (s : State) (x : PodUse) : OwnStays s (sendTotal s x) := by
  unfold sendTotal
  exact .ite (.of_tide (sendTide_tide _ _ _ _ _)) (.refl s)

/-- A completion of the package's own comes in. -/
theorem podChanged_own (s : State) (i n u : Nat) :
    let t := podChanged s { podUse s i n u with own := true }
    OwnStays s t ∧ (podUse t i n u).own = true := by
  obtain ⟨x, hx⟩ : ∃ x, { podUse s i n u with own := true } = x := ⟨_, rfl⟩
  have hown : x.own = true := by rw [← hx]
  have hkey : isUse i n u x = true := by
    rw [← hx]
    unfold podUse
    cases hf : s.tide.uses.find? (isUse i n u) with
    | none => simp [isUse]
    | some y =>
      have hy : isUse i n u y = true := List.find?_some hf
      exact hy
  have hput := putUse_ownStays s hown
  have hrest : OwnStays (putUse s x) (podChanged s x) := by
    unfold podChanged
    exact .ite (tryRelease_ownStays _ hown) (sendTotal_ownStays _ _)
  dsimp only
  rw [hx]
  refine ⟨hput.trans hrest, hrest.own i n u ?_⟩
  rw [podUse_putUse, if_pos hkey]
  exact hown

/-- Each completion that waits has come in, or still waits. -/
theorem admitOwn_own : ∀ (k : Nat) (s : State), s.tide.noRoom.length ≤ k → ∀ i n u,
    (podUse s i n u).own = true ∨ (i, n, u) ∈ s.tide.noRoom →
    (podUse (admitOwn k s) i n u).own = true ∨ (i, n, u) ∈ (admitOwn k s).tide.noRoom
  | 0, s, _, _, _, _, h => h
  | k + 1, s, hk, i, n, u, h => by
    unfold admitOwn
    cases hl : s.tide.noRoom with
    | nil =>
      exact h
    | cons x rest =>
      obtain ⟨j, m, v⟩ := x
      dsimp only
      split
      · rw [hl] at h
        rwa [hl]
      · obtain ⟨t, ht⟩ : ∃ t, (setTide s fun t => { t with noRoom := rest }) = t := ⟨_, rfl⟩
        have huse : ∀ a b c, podUse t a b c = podUse s a b c := fun a b c => by rw [← ht]; rfl
        have hroom : t.tide.noRoom = rest := by rw [← ht]; rfl
        obtain ⟨hstays, hown⟩ := podChanged_own t j m v
        rw [huse] at hstays hown
        rw [ht]
        refine admitOwn_own k _ ?_ i n u ?_
        · rw [hstays.noRoom, hroom]
          rw [hl, List.length_cons] at hk
          omega
        · rcases h with h | h
          · exact .inl (hstays.own i n u (by rw [huse]; exact h))
          · rw [hl] at h
            rcases List.mem_cons.mp h with h | h
            · obtain ⟨rfl, rfl, rfl⟩ : i = j ∧ n = m ∧ u = v := by simpa using h
              exact .inl hown
            · exact .inr (by rw [hstays.noRoom, hroom]; exact h)

theorem completeOwn_own (s : State) (i n u : Nat) :
    (podUse (completeOwn s i n u) i n u).own = true ∨ (i, n, u) ∈ (completeOwn s i n u).tide.noRoom := by
  unfold completeOwn settlePods
  refine admitOwn_own _ _ (Nat.le_refl _) i n u (.inr ?_)
  exact List.mem_append_right _ (List.mem_singleton.mpr rfl)

theorem completeOwn_podOnly (s : State) (i n u : Nat) : PodOnly s (completeOwn s i n u) :=
  (PodOnly.setTide s _ rfl rfl).trans (settlePods_podOnly _)

theorem PodOnly.memory {s t : State} (h : PodOnly s t) : t.memory = s.memory := by have e := congrArg State.memory h.rest; exact e
theorem PodOnly.cores {s t : State} (h : PodOnly s t) : t.cores = s.cores := by have e := congrArg State.cores h.rest; exact e
theorem PodOnly.job {s t : State} (h : PodOnly s t) : t.job = s.job := by have e := congrArg State.job h.rest; exact e
theorem PodOnly.commit {s t : State} (h : PodOnly s t) : t.commit = s.commit := by have e := congrArg State.commit h.rest; exact e
theorem PodOnly.step {s t : State} (h : PodOnly s t) : t.tide.step = s.tide.step := by have e := congrArg Tide.step h.tide; exact e

end Sys2Proof.Machine
end

section
/-! SUPPORT. How a step ends and how a core goes on (09, 11, 12): step-done, evaluation, the next frame reference (R50, R282, R346, R352,
R361). -/

namespace Sys2Proof.Machine

open Sys2Proof

/-! Evaluation (R361). -/

/-- Cores, the job, the number of the frame and the steps evaluated stay. -/
structure EvalKeeps (s t : State) : Prop where
  cores : t.cores = s.cores
  step : t.tide.step = s.tide.step
  evals : t.commit.evals = s.commit.evals
  job : t.job = s.job

theorem EvalKeeps.refl (s : State) : EvalKeeps s s := ⟨rfl, rfl, rfl, rfl⟩

theorem EvalKeeps.trans {a b c : State} (h : EvalKeeps a b) (h' : EvalKeeps b c) : EvalKeeps a c :=
  ⟨h'.cores.trans h.cores, h'.step.trans h.step, h'.evals.trans h.evals, h'.job.trans h.job⟩

theorem EvalKeeps.ite {c : Prop} [Decidable c] {s a b : State} (ha : EvalKeeps s a) (hb : EvalKeeps s b) :
    EvalKeeps s (if c then a else b) := by
  split
  · exact ha
  · exact hb

theorem ReadSame.evalKeeps {s t : State} (h : ReadSame s t) : EvalKeeps s t := by
  refine ⟨h.cores, by rw [h.tide], ?_, h.job⟩
  have e := congrArg (fun x : State => x.commit.evals) h.1
  exact e

theorem ReportSame.evalKeeps {s t : State} (h : ReportSame s t) : EvalKeeps s t := (ReadSame.of_report h).evalKeeps

theorem HarbourSame.evalKeeps {s t : State} (h : HarbourSame s t) : EvalKeeps s t := by
  refine ⟨?_, ?_, ?_, ?_⟩
  · have e := congrArg State.cores h; exact e
  · have e := congrArg (fun x : State => x.tide.step) h; exact e
  · have e := congrArg (fun x : State => x.commit.evals) h; exact e
  · have e := congrArg State.job h; exact e

theorem PodOnly.evalKeeps {s t : State} (h : PodOnly s t) : EvalKeeps s t := ⟨h.cores, h.step, by rw [h.commit], h.job⟩

theorem readStashes_read (s : State) (n : Nat) : ReadSame s (readStashes s n).1 := by
  unfold readStashes
  dsimp only
  generalize (stashHeaders s).zip (List.range (stashHeaders s).length) = l
  have key : ∀ (l : List (Nat × Nat)) (x : State × Nat × Nat),
      ReadSame x.1 (l.foldl (fun x h =>
        let (t, bs) := if inMem h.1 64 then readRange x.1 h.1 64 (.step n) else (x.1, [])
        let d := lineOf bs
        (t, (if fld d 28 1 1 = 1 && x.2.1 = 0xFFFFFFFF then h.2 else x.2.1), sat32 (x.2.2 + fldB d 24 4))) x).1 := by
    intro l
    induction l with
    | nil => exact fun x => .refl x.1
    | cons h l ih =>
      intro x
      rw [List.foldl_cons]
      refine ReadSame.trans ?_ (ih _)
      dsimp only
      split
      · exact readRange_read _ _ _ _
      · exact .refl x.1
  exact key l (s, 0xFFFFFFFF, 0)

/-- The faults that an evaluation finds are marked for its step. -/
def evalMarks (s : State) (n : Nat) (lost missing : Bool) : State :=
  let s := if lost || !allDone s n || s.cores.any (fun c => c.2.program && c.2.dbgHalt) then markFault s n 0 else s
  let s := if lost then markFault s n 5 else s
  let s := if reductionDone s n then s else markFault s n 3
  if s.commit.diverged || (missing && polStrict s) then markFault s n 4 else s

/-- The step is noted as evaluated, and its digest goes out. -/
def evalNoted (s : State) (n poison anchor skips : Nat) : State :=
  let faults := tblGet 0 s.commit.faults n
  let dg := stepDigest s n poison
  let next := evalAfter s n
  let s := { s with commit := { s.commit with
    faults := tblErase s.commit.faults n
    evalNext := next
    runFrom := if next = n + 1 then s.commit.runFrom else next
    evals := s.commit.evals ++ [⟨n, faults, poison, dg, anchor, skips⟩]
    ownDigests := tblSet [] s.commit.ownDigests n dg } }
  sendDigest (compareDigests s n) n poison dg

/-- The twin's digest that is missing is shown. -/
def missingShown (s : State) (missing : Bool) : State :=
  if missing then setSupEvent { s with commit := { s.commit with missing := true } } 5 else s

/-- The rest of an evaluation, once the stash headers and the poison word are read. -/
def evalRest (s : State) (n anchor skips poison : Nat) (missing : Bool) : State :=
  let u := evalMarks (missingShown s missing) n (anchor != 0xFFFFFFFF) missing
  let v := evalNoted u n poison anchor skips
  if tblGet 0 u.commit.faults n = 0 then completeOwn v (commitBar v) n 0 else v

theorem evaluate_eq {s r w : State} {n anchor skips : Nat} {pw : List Byte}
    (hr : readStashes (readSections s [secCommit, secStash]) n = (r, anchor, skips))
    (hw : readRange r (secNat r secCommit 32 8) 8 (.step n) = (w, pw)) :
    evaluate s n = evalRest w n anchor skips (leNat pw) (twinMissing w n) := by
  unfold evaluate
  rw [hr]
  dsimp -zeta only
  rw [hw]
  rfl

theorem missingShown_keeps (s : State) (b : Bool) : EvalKeeps s (missingShown s b) := by
  unfold missingShown
  refine .ite ?_ (.refl s)
  exact EvalKeeps.trans (b := { s with commit := { s.commit with missing := true } }) ⟨rfl, rfl, rfl, rfl⟩ (setSupEvent_report _ _).evalKeeps

theorem markFault_keeps (s : State) (n b : Nat) : EvalKeeps s (markFault s n b) := ⟨rfl, rfl, rfl, rfl⟩

/-- A fault bit of a step stays marked when more are. -/
def BitStays (n b : Nat) (s t : State) : Prop :=
  (tblGet 0 s.commit.faults n).testBit b = true → (tblGet 0 t.commit.faults n).testBit b = true

theorem faults_markFault (s : State) (n b : Nat) :
    tblGet 0 (markFault s n b).commit.faults n = tblGet 0 s.commit.faults n ||| 2 ^ b := by
  unfold markFault
  exact tblGet_mod_self (0 : Nat) s.commit.faults n fun x => x ||| 2 ^ b

theorem markFault_bitStays (s : State) (n b c : Nat) : BitStays n c s (markFault s n b) := by
  intro h
  rw [faults_markFault, Nat.testBit_or, h, Bool.true_or]

theorem bitStays_ite {n b : Nat} {c : Prop} [Decidable c] {s a d : State} (ha : BitStays n b s a) (hd : BitStays n b s d) :
    BitStays n b s (if c then a else d) := by
  split
  · exact ha
  · exact hd

theorem evalMarks_spec (s : State) (n : Nat) (lost missing : Bool) : EvalKeeps s (evalMarks s n lost missing) ∧
    (allDone s n = false → (tblGet 0 (evalMarks s n lost missing).commit.faults n).testBit 0 = true) := by
  unfold evalMarks
  dsimp only
  obtain ⟨a, ha⟩ : ∃ a, (if (lost || !allDone s n || s.cores.any fun c => c.2.program && c.2.dbgHalt) = true then markFault s n 0 else s) = a :=
    ⟨_, rfl⟩
  have hka : EvalKeeps s a := by rw [← ha]; exact .ite (markFault_keeps _ _ _) (.refl s)
  have hbit : allDone s n = false → (tblGet 0 a.commit.faults n).testBit 0 = true := by
    intro h
    rw [← ha, if_pos (by simp [h]), faults_markFault, Nat.testBit_or]
    simp
  rw [ha]
  obtain ⟨b, hb⟩ : ∃ b, (if lost = true then markFault a n 5 else a) = b := ⟨_, rfl⟩
  have hkb : EvalKeeps a b := by rw [← hb]; exact .ite (markFault_keeps _ _ _) (.refl a)
  have hbb : BitStays n 0 a b := by rw [← hb]; exact bitStays_ite (markFault_bitStays _ _ _ _) id
  rw [hb]
  obtain ⟨c, hc⟩ : ∃ c, (if reductionDone b n = true then b else markFault b n 3) = c := ⟨_, rfl⟩
  have hkc : EvalKeeps b c := by rw [← hc]; exact .ite (.refl b) (markFault_keeps _ _ _)
  have hbc : BitStays n 0 b c := by rw [← hc]; exact bitStays_ite id (markFault_bitStays _ _ _ _)
  rw [hc]
  refine ⟨((hka.trans hkb).trans hkc).trans (.ite (markFault_keeps _ _ _) (.refl c)), fun h => ?_⟩
  exact bitStays_ite (c := (c.commit.diverged || missing && polStrict c) = true) (markFault_bitStays c n 4 0) id (hbc (hbb (hbit h)))

theorem compareDigests_keeps (s : State) (n : Nat) : EvalKeeps s (compareDigests s n) ∧
    (compareDigests s n).commit.evalNext = s.commit.evalNext := by
  unfold compareDigests
  dsimp only
  split
  · exact ⟨.refl s, rfl⟩
  · split
    · exact ⟨⟨rfl, rfl, rfl, rfl⟩, rfl⟩
    · have h := setSupEvent_report { s with commit := { s.commit with diverged := true } } 5
      refine ⟨EvalKeeps.trans (b := { s with commit := { s.commit with diverged := true } }) ⟨rfl, rfl, rfl, rfl⟩ h.evalKeeps, ?_⟩
      have e := congrArg (fun x : State => x.commit.evalNext) h
      exact e

theorem evalNoted_spec (s : State) (n poison anchor skips : Nat) :
    let t := evalNoted s n poison anchor skips
    t.cores = s.cores ∧ t.tide.step = s.tide.step ∧ t.job = s.job ∧ t.commit.evalNext = evalAfter s n ∧
    t.commit.evals = s.commit.evals ++ [⟨n, tblGet 0 s.commit.faults n, poison, stepDigest s n poison, anchor, skips⟩] := by
  unfold evalNoted
  dsimp only
  obtain ⟨a, ha⟩ : ∃ a : State, ({ s with commit := { s.commit with
    faults := tblErase s.commit.faults n
    evalNext := evalAfter s n
    runFrom := if evalAfter s n = n + 1 then s.commit.runFrom else evalAfter s n
    evals := s.commit.evals ++ [⟨n, tblGet 0 s.commit.faults n, poison, stepDigest s n poison, anchor, skips⟩]
    ownDigests := tblSet [] s.commit.ownDigests n (stepDigest s n poison) } } : State) = a := ⟨_, rfl⟩
  have hcores : a.cores = s.cores := by rw [← ha]
  have htide : a.tide = s.tide := by rw [← ha]
  have hjob : a.job = s.job := by rw [← ha]
  have hnext : a.commit.evalNext = evalAfter s n := by rw [← ha]
  have hevals : a.commit.evals = s.commit.evals ++ [⟨n, tblGet 0 s.commit.faults n, poison, stepDigest s n poison, anchor, skips⟩] := by
    rw [← ha]
  rw [ha]
  obtain ⟨hk, hkn⟩ := compareDigests_keeps a n
  have hs := sendDigest_same (compareDigests a n) n poison (stepDigest s n poison)
  have hsn : (sendDigest (compareDigests a n) n poison (stepDigest s n poison)).commit.evalNext = (compareDigests a n).commit.evalNext := by
    have e := congrArg (fun x : State => x.commit.evalNext) hs
    exact e
  have h := hk.trans hs.evalKeeps
  exact ⟨h.cores.trans hcores, h.step.trans (by rw [htide]), h.job.trans hjob, hsn.trans (hkn.trans hnext), h.evals.trans hevals⟩

theorem evalAfter_none {s : State} (h : reshardAt s = none) (n : Nat) : evalAfter s n = n + 1 := by
  unfold evalAfter
  rw [h]
  rfl

/-- What an evaluation leaves (R361). -/
theorem evaluate_spec (s : State) (n : Nat) : let t := evaluate s n
    t.cores = s.cores ∧ t.tide.step = s.tide.step ∧ ∃ e, t.commit.evals = s.commit.evals ++ [e] ∧ e.step = n ∧
      (allDone s n = false → e.faults.testBit 0 = true) ∧ (reshardAt s = none → t.commit.evalNext = n + 1) ∧
      (e.faults = 0 → (podUse t (commitBar t) n 0).own = true ∨ (commitBar t, n, 0) ∈ t.tide.noRoom) := by
  have hr := (readSections_read [secCommit, secStash] s).trans (readStashes_read (readSections s [secCommit, secStash]) n)
  rcases hrs : readStashes (readSections s [secCommit, secStash]) n with ⟨r, anchor, skips⟩
  rw [hrs] at hr
  have hw := hr.trans (readRange_read r (secNat r secCommit 32 8) 8 (.step n))
  rcases hws : readRange r (secNat r secCommit 32 8) 8 (.step n) with ⟨w, pw⟩
  rw [hws] at hw
  rw [evaluate_eq hrs hws]
  unfold evalRest
  dsimp only
  have hm := hw.evalKeeps.trans (missingShown_keeps w (twinMissing w n))
  generalize hmis : missingShown w (twinMissing w n) = m at hm ⊢
  obtain ⟨hmarks, hbit⟩ := evalMarks_spec m n (anchor != 0xFFFFFFFF) (twinMissing w n)
  have hu := hm.trans hmarks
  generalize evalMarks m n (anchor != 0xFFFFFFFF) (twinMissing w n) = u at hu hbit ⊢
  obtain ⟨vcores, vstep, vjob, vnext, vevals⟩ := evalNoted_spec u n (leNat pw) anchor skips
  generalize evalNoted u n (leNat pw) anchor skips = v at vcores vstep vjob vnext vevals ⊢
  have hdone : allDone s n = false → allDone m n = false := by unfold allDone; rw [hm.cores]; exact id
  have hafter : reshardAt s = none → evalAfter u n = n + 1 := fun h => evalAfter_none (by unfold reshardAt at *; rw [hu.job]; exact h) n
  rw [hu.evals] at vevals
  by_cases hf : tblGet 0 u.commit.faults n = 0
  · rw [if_pos hf]
    have hpod := completeOwn_podOnly v (commitBar v) n 0
    have hown := completeOwn_own v (commitBar v) n 0
    generalize completeOwn v (commitBar v) n 0 = t at hpod hown ⊢
    have hbar : commitBar t = commitBar v := (ImageSame.of_eq hpod.memory hpod.job).secNat _ _ _
    refine ⟨hpod.cores.trans (vcores.trans hu.cores), hpod.step.trans (vstep.trans hu.step), _, by rw [hpod.commit]; exact vevals, rfl,
      fun h => hbit (hdone h), fun h => ?_, fun _ => by rw [hbar]; exact hown⟩
    rw [hpod.commit, vnext, hafter h]
  · rw [if_neg hf]
    exact ⟨vcores.trans hu.cores, vstep.trans hu.step, _, vevals, rfl, fun h => hbit (hdone h), fun h => vnext.trans (hafter h),
      fun h => absurd h hf⟩

/-! Step-done (R50, R289, R345, R353, R436, R442). -/

theorem evaluateReported_cores (s : State) : (evaluateReported s).cores = s.cores := by
  unfold evaluateReported
  dsimp only
  split
  · exact (evaluate_spec s s.commit.evalNext).1
  · rfl

theorem TideSame.cores {s t : State} (h : TideSame s t) : t.cores = s.cores := by have e := congrArg State.cores h.1; exact e

theorem frameDone_cores (s : State) (n : Nat) : (frameDone s n).cores = s.cores := by
  unfold frameDone
  dsimp only
  split
  · rfl
  · rw [(recomputeTempo_same _).cores]
    split
    · rw [(TideSame.event _ _).cores]
      rfl
    · rfl

theorem haltCore_cases (k : Core) : ∃ k1 : Core, (k1 = k ∨ k1 = coreErr k errSram) ∧ haltCore k = { k1 with mode := .halted, wait := .none, held := [] } := by
  unfold haltCore
  rcases fetchTouch_cases k 0 with h | ⟨-, h⟩
  · exact ⟨k, .inl rfl, by rw [h]⟩
  · exact ⟨coreErr k errSram, .inr rfl, by rw [h]⟩

theorem haltCore_fields (k : Core) : (haltCore k).mode = .halted ∧ (haltCore k).pc = k.pc ∧ (haltCore k).doneUpTo = k.doneUpTo := by
  obtain ⟨k1, h1, e⟩ := haltCore_cases k
  rw [e]
  rcases h1 with rfl | rfl
  · exact ⟨rfl, rfl, rfl⟩
  · exact ⟨rfl, rfl, rfl⟩

/-- What a report of step-done leaves of the cores. -/
theorem reportDone_cores (s : State) (c : Nat) : let n := (coreOf s c).frameStep
    (∀ x, x ≠ c → coreOf (reportDone s c) x = coreOf s x) ∧
    coreOf (reportDone s c) c =
      if s.job.state = jobHalting ∧ n = s.job.haltAt then haltCore { coreOf s c with doneUpTo := max (coreOf s c).doneUpTo (n + 1) }
      else { coreOf s c with doneUpTo := max (coreOf s c).doneUpTo (n + 1) } := by
  dsimp only
  obtain ⟨n, hn⟩ : ∃ n, (coreOf s c).frameStep = n := ⟨_, rfl⟩
  obtain ⟨a, ha⟩ : ∃ a, (if (coreOf s c).err = 0 then s else faultAt s n 0) = a := ⟨_, rfl⟩
  have hrep : ReportSame s a := by
    rw [← ha]
    split
    · exact .refl s
    · exact faultAt_report _ _ _
  have hac : ∀ x, coreOf a x = coreOf s x := coreOf_of_cores hrep.cores
  have haj : a.job = s.job := by have e := congrArg State.job hrep; exact e
  obtain ⟨b, hb⟩ : ∃ b, modCore a c (fun k => { k with doneUpTo := max k.doneUpTo (n + 1) }) = b := ⟨_, rfl⟩
  obtain ⟨d, hd⟩ : ∃ d : State, ({ b with commit := { b.commit with doneTide := tblSet 0 b.commit.doneTide n b.tide.now } } : State) = d := ⟨_, rfl⟩
  have hdb : ∀ x, coreOf d x = coreOf b x := coreOf_of_cores (by rw [← hd])
  have hdself : coreOf d c = { coreOf s c with doneUpTo := max (coreOf s c).doneUpTo (n + 1) } := by
    rw [hdb, ← hb, coreOf_modCore_self, hac]
  have hdne : ∀ x, x ≠ c → coreOf d x = coreOf s x := fun x hx => by
    rw [hdb, ← hb, coreOf_modCore_ne a _ hx, hac]
  have hdj : d.job = s.job := by rw [← hd, ← hb]; exact haj
  obtain ⟨e, he⟩ : ∃ e, (if (decide (d.job.state = jobHalting) && decide (n = d.job.haltAt)) = true then modCore d c haltCore else d) = e := ⟨_, rfl⟩
  have heq : reportDone s c = evaluateReported (if allDone e n = true then frameDone e n else e) := by
    rw [← he, ← hd, ← hb, ← ha, ← hn]
    rfl
  have hcores : (reportDone s c).cores = e.cores := by
    rw [heq, evaluateReported_cores]
    split
    · exact frameDone_cores _ _
    · rfl
  have hcond : (decide (d.job.state = jobHalting) && decide (n = d.job.haltAt)) = true ↔ s.job.state = jobHalting ∧ n = s.job.haltAt := by
    rw [hdj, Bool.and_eq_true, decide_eq_true_eq, decide_eq_true_eq]
  rw [hn]
  refine ⟨fun x hx => ?_, ?_⟩
  · rw [coreOf_of_cores hcores, ← he]
    split
    · rw [coreOf_modCore_ne _ _ hx, hdne x hx]
    · exact hdne x hx
  · rw [coreOf_of_cores hcores, ← he]
    by_cases h : s.job.state = jobHalting ∧ n = s.job.haltAt
    · rw [if_pos (hcond.mpr h), if_pos h, coreOf_modCore_self, hdself, ← hn]
    · rw [if_neg (mt hcond.mp h), if_neg h, hdself, ← hn]

/-! The next frame reference (R50, R282, R346, R352). -/

theorem deliver_slot {s : State} {c : Nat} (h : ¬ (coreOf s c).doneUpTo ≤ s.job.slotReady) : deliver s c = s := by
  unfold deliver
  dsimp only
  split
  · rw [if_neg h]
  · rfl

theorem deliver_at {s : State} {c : Nat} {ref : Nat × Nat} {pc : Nat} {runs : RunKind} (hs : (coreOf s c).doneUpTo ≤ s.job.slotReady)
    (hr : frameRef s (coreOf s c).doneUpTo = some ref) (hn : nextRun s (coreOf s c) (coreOf s c).doneUpTo = some (.at pc runs)) :
    deliver s c = giveFrame s c (coreOf s c).doneUpTo ref pc runs := by
  unfold deliver
  dsimp only
  rw [hr, hn]
  dsimp only
  rw [if_pos hs]

theorem deliver_after {s : State} {c : Nat} {ref : Nat × Nat} {p : Nat} (hs : (coreOf s c).doneUpTo ≤ s.job.slotReady)
    (hr : frameRef s (coreOf s c).doneUpTo = some ref) (hn : nextRun s (coreOf s c) (coreOf s c).doneUpTo = some (.after p)) :
    deliver s c = giveAfter s c (coreOf s c).doneUpTo ref p := by
  unfold deliver
  dsimp only
  rw [hr, hn]
  dsimp only
  rw [if_pos hs]

/-- A core that is given frame n. -/
def givenCore (s : State) (k : Core) (n : Nat) (ref : Nat × Nat) (pc : Nat) (runs : RunKind) : Core :=
  { jumpCore s k pc with frameStep := n, frameT := ref.1, frameQ := ref.2, runs := runs }

theorem giveFrame_spec (s : State) (c n : Nat) (ref : Nat × Nat) (pc : Nat) (runs : RunKind) :
    OnlyCore s (giveFrame s c n ref pc runs) c ∧ coreOf (giveFrame s c n ref pc runs) c = givenCore s (coreOf s c) n ref pc runs :=
  ⟨⟨rfl, fun _ hx => coreOf_modCore_ne _ _ hx⟩, coreOf_modCore_self _ _ _⟩

theorem giveAfter_keeps {s : State} {c p : Nat} (n : Nat) (ref : Nat × Nat) (hv : planVariant s p = none) (hp : (coreOf s c).program = true) :
    giveAfter s c n ref p = giveFrame s c n ref (coreOf s c).start .step := by
  unfold giveAfter
  rw [hv]
  dsimp only
  rw [if_pos hp]

/-- A core takes its program of a variant that has one. -/
theorem switchCore_spec {s : State} {c v : Nat} (h : (programs s v).any (fun x => x.core = c) = true) :
    (∀ x, x ≠ c → coreOf (switchCore s c v) x = coreOf s x) ∧ (coreOf (switchCore s c v) c).program = true := by
  obtain ⟨p, hp, hc⟩ := List.any_eq_true.mp h
  unfold switchCore
  cases hf : (programs s v).find? fun p => p.core = c with
  | none => exact absurd hc (List.find?_eq_none.mp hf p hp)
  | some q =>
    have hq : q.core = c := of_decide_eq_true (List.find?_some (p := fun p : Program => decide (p.core = c)) hf)
    unfold storeProgram
    dsimp only
    rw [hq]
    exact ⟨fun x hx => coreOf_modCore_ne _ _ hx, by rw [coreOf_modCore_self]⟩

theorem giveAfter_switches {s : State} {c p v : Nat} (n : Nat) (ref : Nat × Nat) (hv : planVariant s p = some v)
    (hp : (programs s v).any (fun x => x.core = c) = true) :
    giveAfter s c n ref p = giveFrame (switchCore s c v) c n ref (coreOf (switchCore s c v) c).start .step := by
  unfold giveAfter
  rw [hv]
  dsimp only
  rw [if_pos (switchCore_spec hp).2]

theorem jobRuns_halting {s : State} (h : s.job.state = 4) : jobRuns s = true := by
  unfold jobRuns
  rw [h]
  rfl

theorem stepDone_diag {s : State} {c : Fin 576} {now : Nat} (hw : seqWaits s c .stepEnd = true) (hi : maskIdle (coreOf s c) 0x3F = true)
    (hruns : (coreOf s c).runs = .diag) : exec (.stepDone c now) s = .next (modCore (atTide s now) c haltCore) := by
  change execStepDone c now s = _
  unfold execStepDone
  dsimp only
  rw [hw, hi, hruns]
  rfl

theorem stepDone_fold {s : State} {c : Fin 576} {now : Nat} (hw : seqWaits s c .stepEnd = true) (hi : maskIdle (coreOf s c) 0x3F = true)
    (hruns : (coreOf s c).runs = .fold) :
    exec (.stepDone c now) s = .next (modCore (atTide s now) c fun k => { k with wait := .stepRef }) := by
  change execStepDone c now s = _
  unfold execStepDone
  dsimp only
  rw [hw, hi, hruns]
  rfl

theorem stepDone_reports {s u : State} {c : Fin 576} {now : Nat} (hw : seqWaits s c .stepEnd = true) (hi : maskIdle (coreOf s c) 0x3F = true)
    (hruns : (coreOf s c).runs = .step ∨ (coreOf s c).runs = .reshard) (hjob : jobRuns s = true) (hprog : (coreOf s c).program = true)
    (hu : modCore (atTide s now) c.val (fun k => { k with wait := .stepRef }) = u) : exec (.stepDone c now) s = .next (reportDone u c) := by
  change execStepDone c now s = _
  unfold execStepDone
  dsimp only
  rw [hw, hi, hu, hjob, hprog]
  rcases hruns with h | h
  · rw [h]; rfl
  · rw [h]; rfl

theorem exec_delivery {s : State} {c : Fin 576} {now : Nat} (hw : seqWaits s c .stepRef = true) (hjob : jobRuns s = true)
    (hprog : (coreOf s c).program = true) : exec (.frameReferenceDelivery c now) s = .next (deliver (atTide s now) c) := by
  change execFrameReferenceDelivery c now s = _
  unfold execFrameReferenceDelivery
  rw [hw, hjob, hprog]
  rfl

/-- Settles O34: the report of a step by the core it leaves; the delivery of a reference by how the core goes on. -/
theorem stepDoneAndNextFrame : Obligations.StepDoneAndNextFrame := by
  unfold Obligations.StepDoneAndNextFrame
  intro c now s k others
  refine ⟨fun hw hi => ⟨fun hruns => ?_, fun hruns => ?_, fun hruns hjob hprog hnot => ?_, fun hruns hprog hst hat => ?_⟩,
    fun hw hjob hprog ref href => ?_⟩
  · refine runs_of (stepDone_diag hw hi hruns) ⟨⟨rfl, fun _ hx => coreOf_modCore_ne _ _ hx⟩, ?_⟩
    rw [coreOf_modCore_self]
    obtain ⟨hmode, hpc, -⟩ := haltCore_fields (coreOf (atTide s now) c)
    exact ⟨hmode, hpc⟩
  · refine runs_of (stepDone_fold hw hi hruns) ⟨⟨rfl, fun _ hx => coreOf_modCore_ne _ _ hx⟩, ?_⟩
    rw [coreOf_modCore_self]
    rfl
  · obtain ⟨u, hu⟩ : ∃ u, modCore (atTide s now) c.val (fun k => { k with wait := .stepRef }) = u := ⟨_, rfl⟩
    have hself : coreOf u c = { k with wait := .stepRef } := by rw [← hu]; exact coreOf_modCore_self _ _ _
    obtain ⟨hne, hat⟩ := reportDone_cores u c
    refine runs_of (t := reportDone u c) (stepDone_reports hw hi hruns hjob hprog hu) ⟨fun x hx => ?_, ?_⟩
    · rw [hne x hx, ← hu]
      exact coreOf_modCore_ne _ _ hx
    · rw [hself] at hat
      rw [hat, if_neg (by rw [← hu]; exact hnot)]
  · obtain ⟨u, hu⟩ : ∃ u, modCore (atTide s now) c.val (fun k => { k with wait := .stepRef }) = u := ⟨_, rfl⟩
    have hself : coreOf u c = { k with wait := .stepRef } := by rw [← hu]; exact coreOf_modCore_self _ _ _
    obtain ⟨hne, hcore⟩ := reportDone_cores u c
    refine runs_of (t := reportDone u c) (stepDone_reports hw hi hruns (jobRuns_halting hst) hprog hu) ⟨fun x hx => ?_, ?_⟩
    · rw [hne x hx, ← hu]
      exact coreOf_modCore_ne _ _ hx
    · rw [hself, if_pos (by rw [← hu]; exact ⟨hst, hat⟩)] at hcore
      rw [hcore]
      obtain ⟨hmode, -, hdone⟩ := haltCore_fields { k with wait := .stepRef, doneUpTo := max k.doneUpTo (k.frameStep + 1) }
      exact ⟨hmode, hdone⟩
  intro given
  refine ⟨fun hslot => ?_, fun hslot => ⟨fun pc runs hnext => ?_, fun p hnext => ⟨fun hv => ?_, fun v hv hpv => ?_⟩⟩⟩
  · exact (exec_delivery hw hjob hprog).trans (congrArg Host.Outcome.next (deliver_slot (s := atTide s now) (Nat.not_le.mpr hslot)))
  · obtain ⟨honly, hcore⟩ := giveFrame_spec (atTide s now) c k.doneUpTo ref pc runs
    exact runs_of ((exec_delivery hw hjob hprog).trans (congrArg Host.Outcome.next (deliver_at (s := atTide s now) hslot href hnext)))
      ⟨honly, hcore⟩
  · obtain ⟨honly, hcore⟩ := giveFrame_spec (atTide s now) c k.doneUpTo ref k.start .step
    have h := (deliver_after (s := atTide s now) hslot href hnext).trans (giveAfter_keeps (s := atTide s now) k.doneUpTo ref hv hprog)
    exact runs_of ((exec_delivery hw hjob hprog).trans (congrArg Host.Outcome.next h)) ⟨honly, hcore⟩
  · obtain ⟨hne, -⟩ := switchCore_spec (s := atTide s now) (c := c.val) (v := v) hpv
    obtain ⟨⟨-, honly⟩, hcore⟩ :=
      giveFrame_spec (switchCore (atTide s now) c v) c k.doneUpTo ref (coreOf (switchCore (atTide s now) c v) c).start .step
    have h := (deliver_after (s := atTide s now) hslot href hnext).trans (giveAfter_switches (s := atTide s now) k.doneUpTo ref hv hpv)
    refine runs_of ((exec_delivery hw hjob hprog).trans (congrArg Host.Outcome.next h)) ⟨fun x hx => (honly x hx).trans (hne x hx), ?_⟩
    change coreOf (giveFrame _ c (coreOf s c).doneUpTo _ _ _) c = _ at hcore
    refine ⟨(congrArg Core.frameStep hcore).trans rfl, (congrArg Core.frameT hcore).trans rfl, (congrArg Core.frameQ hcore).trans rfl,
      (congrArg Core.runs hcore).trans rfl, ?_, (congrArg Core.wait hcore).trans rfl⟩
    exact (congrArg Core.pc hcore).trans (congrArg Core.start hcore).symm

end Sys2Proof.Machine
end

section
/-! SUPPORT. How a step is decided, a job halts and a reshard folds (11, 12, 14): decisions, the ledger, halts (R353, R361, R364, R369,
R371, R436). -/

namespace Sys2Proof.Machine

open Sys2Proof

theorem when_holds {g : Bool} (h : g = true) (s t : State) : when g s t = .next t := by
  rw [h]
  exact when_true s t

theorem setSupEvent_control (s : State) (b : Nat) :
    (setSupEvent s b).control.supEvent = s.control.supEvent ||| (1#32 <<< b) := by
  have e := congrArg (fun x : State => x.control.supEvent) (setSupEvent_same s b)
  exact e

theorem setSupEvent_raises (s : State) {b : Nat} (hb : b < 32) : (setSupEvent s b).control.supEvent.getLsbD b = true := by
  rw [setSupEvent_control, BitVec.getLsbD_or]
  simp [hb]

theorem setSupEvent_stays (s : State) (b : Nat) {i : Nat} (h : s.control.supEvent.getLsbD i = true) :
    (setSupEvent s b).control.supEvent.getLsbD i = true := by
  rw [setSupEvent_control, BitVec.getLsbD_or, h, Bool.true_or]

theorem setSupEvent_commit (s : State) (b : Nat) : (setSupEvent s b).commit = s.commit := by
  have e := congrArg State.commit (setSupEvent_same s b)
  exact e

theorem setSupEvent_job (s : State) (b : Nat) : (setSupEvent s b).job = s.job := by
  have e := congrArg State.job (setSupEvent_same s b)
  exact e

/-! Halts (R435, R436). -/

/-- A context that is armed no longer. -/
def unarmed (d : Line) : Line := if cState d = 2 ∨ cState d = 3 then setFld d 0 2 1 else d

theorem cState_unarmed (d : Line) : cState (unarmed d) ≠ 2 ∧ cState (unarmed d) ≠ 3 := by
  unfold unarmed
  by_cases h : cState d = 2 ∨ cState d = 3
  · rw [if_pos h, cState_setState]
    decide
  · rw [if_neg h]
    exact not_or.mp h

theorem unarmed_zero : unarmed 0 = 0 := if_neg (by
  have h : cState 0 = 0 := by
    unfold cState fld bitsOf
    rw [show (0 : Line).toNat = 0 from BitVec.toNat_zero, Nat.zero_div, Nat.zero_mod]
  rw [h]
  decide)

theorem flowOf_unarmFlows (s : State) (i : Nat) : flowOf (unarmFlows s) i = unarmed (flowOf s i) := by
  have hmap : (unarmFlows s).straits.flows = s.straits.flows.map fun y => (y.1, unarmed y.2) := by
    unfold unarmFlows
    refine List.map_congr_left fun y _ => ?_
    unfold unarmed
    by_cases h : cState y.2 = 2 ∨ cState y.2 = 3
    · rw [if_pos h]
      exact if_pos (by rcases h with h | h <;> rw [h] <;> rfl)
    · obtain ⟨h2, h3⟩ := not_or.mp h
      rw [if_neg h]
      exact if_neg (by simp [h2, h3, fArmed, fFaulted])
  unfold flowOf
  rw [hmap]
  exact tblGet_map_default 0 unarmed unarmed_zero i s.straits.flows

/-- A core that runs no more. -/
def stoppedCore (k : Core) : Core := if k.mode = .running then haltCore k else k

theorem stoppedCore_mode (k : Core) : (stoppedCore k).mode ≠ .running := by
  unfold stoppedCore
  by_cases h : k.mode = .running
  · rw [if_pos h, (haltCore_fields k).1]
    decide
  · rwa [if_neg h]

/-- What a halt of the job leaves (R435, R436). -/
theorem haltJob_spec (s : State) (cause : Nat) : let t := haltJob s cause
    t.job = { s.job with state := 5, cause := cause } ∧ t.tide.running = false ∧ t.control.supEvent.getLsbD 0 = true ∧
    (∀ x, (coreOf t x).mode ≠ .running) ∧ (∀ i, cState (flowOf t i) ≠ 2 ∧ cState (flowOf t i) ≠ 3) ∧ t.commit = s.commit ∧
    ∀ b, s.control.supEvent.getLsbD b = true → t.control.supEvent.getLsbD b = true := by
  obtain ⟨a, ha⟩ : ∃ a : State, ({ unarmFlows s with
    cores := s.cores.map fun c => (c.1, stoppedCore c.2)
    job := { s.job with state := jobHalted, cause := cause }
    tide := { s.tide with running := false, due := none, adopt := none, curQ := 0 }
    power := { s.power with rampAt := none, ramp := none } } : State) = a := ⟨_, rfl⟩
  have heq : haltJob s cause = setSupEvent a 0 := by rw [← ha]; rfl
  have hcore : ∀ x, coreOf a x = stoppedCore (coreOf s x) := fun x => by
    rw [← ha]
    exact tblGet_map_default coreReset stoppedCore rfl x s.cores
  have hflow : ∀ i, flowOf a i = unarmed (flowOf s i) := fun i => by
    rw [← ha]
    exact flowOf_unarmFlows s i
  have hsame := setSupEvent_same a 0
  have htide : (setSupEvent a 0).tide = a.tide := by have e := congrArg State.tide hsame; exact e
  have hcores : (setSupEvent a 0).cores = a.cores := by have e := congrArg State.cores hsame; exact e
  have hflows : (setSupEvent a 0).straits.flows = a.straits.flows := by have e := congrArg (fun x : State => x.straits.flows) hsame; exact e
  dsimp only
  rw [heq]
  refine ⟨by rw [setSupEvent_job, ← ha]; rfl, by rw [htide, ← ha], setSupEvent_raises a (by decide), fun x => ?_, fun i => ?_,
    by rw [setSupEvent_commit, ← ha]; rfl, fun b hb => setSupEvent_stays a 0 (by rw [← ha]; exact hb)⟩
  · rw [coreOf_of_cores hcores, hcore]
    exact stoppedCore_mode _
  · rw [show flowOf (setSupEvent a 0) i = flowOf a i by unfold flowOf; rw [hflows], hflow]
    exact cState_unarmed _

/-! Decisions (R364, R371). -/

/-- The job, the evaluations that wait and what SUP_EVENT shows stay. -/
structure Undecided (s t : State) : Prop where
  job : t.job = s.job
  evals : t.commit.evals = s.commit.evals

theorem Undecided.refl (s : State) : Undecided s s := ⟨rfl, rfl⟩

theorem Undecided.trans {a b c : State} (h : Undecided a b) (h' : Undecided b c) : Undecided a c :=
  ⟨h'.job.trans h.job, h'.evals.trans h.evals⟩

theorem EvalKeeps.undecided {s t : State} (h : EvalKeeps s t) : Undecided s t := ⟨h.job, h.evals⟩

theorem WriteSame.undecided {s t : State} {rs : List Range} (h : WriteSame s t rs) : Undecided s t := ⟨h.1.evalKeeps.job, h.1.evalKeeps.evals⟩

theorem closeEntry_undecided (s : State) (n : Nat) : Undecided s (closeEntry s n) := by
  unfold closeEntry
  dsimp only
  split
  · exact ⟨rfl, rfl⟩
  · exact .refl s

theorem writeVerdict_undecided (s : State) (n o : Nat) : Undecided s (writeVerdict s n o) := (writeLines_write _ _ _ _).undecided

theorem writeReport_undecided (s : State) (e : Eval) (o faults : Nat) : Undecided s (writeReport s e o faults) := by
  unfold writeReport
  exact (readRange_read _ _ _ _).evalKeeps.undecided.trans (writeLines_write _ _ _ _).undecided

theorem settleLedger_undecided (s : State) : Undecided s (settleLedger s) := ⟨rfl, rfl⟩

theorem ledgerDecide_undecided (s : State) (n o : Nat) : Undecided s (ledgerDecide s n o) := by
  unfold ledgerDecide
  split
  · exact ⟨rfl, rfl⟩
  · split
    · exact ⟨rfl, rfl⟩
    · exact .refl s

/-- The faults that COMMIT_STAT shows for a step. -/
def outFaultsOf (s : State) (e : Eval) (cs o : Nat) : Nat :=
  e.faults ||| (if releasedLate s e.step cs then 0x40 else 0) ||| (if o = 3 then 0x80 else 0)

/-- What the decision of a step leaves. -/
theorem decideStep_spec (s : State) (e : Eval) (cs : Nat) : let t := decideStep s e cs
    let r := readSections s [secCommit]
    let o := outcomeOf r e cs
    t.commit.outStep = e.step ∧ t.control.supEvent.getLsbD 1 = true ∧ (∀ x ∈ t.commit.evals, x.step ≠ e.step) ∧ t.commit.outcome = o ∧
    t.commit.outFaults = outFaultsOf r e cs o ∧ (o ≠ 3 → t.job = s.job) ∧
    (o = 3 → t.job.state = 5 ∧ t.job.cause = 2 ∧ t.tide.running = false) := by
  dsimp only
  obtain ⟨r, hr⟩ : ∃ r, readSections s [secCommit] = r := ⟨_, rfl⟩
  obtain ⟨o, ho⟩ : ∃ o, outcomeOf r e cs = o := ⟨_, rfl⟩
  obtain ⟨v, hv⟩ : ∃ v, ledgerDecide (writeReport (writeVerdict (closeEntry r e.step) e.step o) e o (outFaultsOf r e cs o)) e.step o = v := ⟨_, rfl⟩
  have hkeep : Undecided s v := by
    rw [← hv, ← hr]
    exact (readSections_read _ _).evalKeeps.undecided.trans ((closeEntry_undecided _ _).trans ((writeVerdict_undecided _ _ _).trans
      ((writeReport_undecided _ _ _ _).trans (ledgerDecide_undecided _ _ _))))
  obtain ⟨w, hw⟩ : ∃ w : State, ({ v with commit := { v.commit with
    evals := v.commit.evals.filter fun x => x.step != e.step, outcome := o, outFaults := outFaultsOf r e cs o, outStep := e.step } } : State) = w :=
    ⟨_, rfl⟩
  have heq : decideStep s e cs = if o = 3 then haltJob (setSupEvent w 1) 2 else setSupEvent w 1 := by
    rw [← hw, ← hv, ← ho, ← hr]
    rfl
  have hevals : ∀ x ∈ w.commit.evals, x.step ≠ e.step := fun x hx => by
    rw [← hw] at hx
    exact bne_iff_ne.mp (List.mem_filter.mp hx).2
  have hjob : w.job = s.job := by rw [← hw]; exact hkeep.job
  have hstep : w.commit.outStep = e.step := by rw [← hw]
  have hout : w.commit.outcome = o := by rw [← hw]
  have hfaults : w.commit.outFaults = outFaultsOf r e cs o := by rw [← hw]
  rw [hr, ho, heq]
  by_cases h3 : o = 3
  · rw [if_pos h3]
    obtain ⟨hj, hrun, -, -, -, hcommit, hbit⟩ := haltJob_spec (setSupEvent w 1) 2
    rw [hcommit, setSupEvent_commit, hj]
    exact ⟨hstep, hbit 1 (setSupEvent_raises w (by decide)), hevals, hout, hfaults, fun h => absurd h3 h, fun _ => ⟨rfl, rfl, hrun⟩⟩
  · rw [if_neg h3, setSupEvent_commit, setSupEvent_job]
    exact ⟨hstep, setSupEvent_raises w (by decide), hevals, hout, hfaults, fun _ => hjob, fun h => absurd h h3⟩

/-- When COMMIT_BAR released a step, and the limit of its poison count, as the sections read. -/
theorem decision_reads (s : State) (now n : Nat) : let r := readSections (atTide s now) [secCommit]
    commitRelease r n = commitRelease s n ∧ secNat r secCommit 24 8 = secNat s secCommit 24 8 := by
  have h := readSections_read [secCommit] (atTide s now)
  have himage : ImageSame s (readSections (atTide s now) [secCommit]) := ImageSame.trans (b := atTide s now) (.of_eq rfl rfl) h.image
  have htide : (readSections (atTide s now) [secCommit]).tide.uses = s.tide.uses := by rw [h.tide]; rfl
  refine ⟨?_, himage.secNat _ _ _⟩
  unfold commitRelease podUse
  rw [show commitBar (readSections (atTide s now) [secCommit]) = commitBar s from himage.secNat _ _ _, htide]

theorem outcomeOf_inTime {s : State} {e : Eval} {cs rel at' : Nat} (h : commitRelease s e.step = some (rel, at')) (ht : at' ≤ cs) :
    outcomeOf s e cs = (if e.poison ≤ secNat s secCommit 24 8 then 1 else 2) ∧ releasedLate s e.step cs = false := by
  unfold outcomeOf releasedLate
  rw [h]
  exact ⟨if_pos ht, decide_eq_false (by omega)⟩

theorem outcomeOf_late {s : State} {e : Eval} {cs : Nat} (h : ¬ ∃ rel at', commitRelease s e.step = some (rel, at') ∧ at' ≤ cs) :
    outcomeOf s e cs = 3 := by
  unfold outcomeOf
  rcases hr : commitRelease s e.step with _ | ⟨rel, at'⟩
  · rfl
  · exact if_neg fun ht => h ⟨rel, at', hr, ht⟩

theorem outFaultsOf_inTime {s : State} {e : Eval} {cs o : Nat} (h : releasedLate s e.step cs = false) (ho : o ≠ 3) :
    outFaultsOf s e cs o = e.faults := by
  unfold outFaultsOf
  rw [h, if_neg ho]
  simp

/-! The ledger (R369). -/

theorem settleLedger_applied {s : State} (h : s.commit.ledState = 1) :
    settleLedger s = { s with commit := { s.commit with ledState := if allMarked s = true then 2 else 1 } } := by
  unfold settleLedger
  rw [h]
  cases allMarked s <;> rfl

theorem settleLedger_skipped {s : State} (h : s.commit.ledState = 3) : settleLedger s =
    { s with commit := { s.commit with ledState := if markDone s (2 * subShards s) s.commit.ledStep = true then 4 else 3 } } := by
  unfold settleLedger
  rw [h]
  cases markDone s (2 * subShards s) s.commit.ledStep <;> rfl

theorem doneMark_own {s : State} {k : Nat} (hm : memOn s = true) (h1 : s.commit.ledState = 1) (hk : k < subShards s)
    (hd : markDone s k s.commit.ledStep = true) : exec (.ledgerDoneMark k false) s =
      .next (settleLedger { s with commit := { s.commit with own := tblSet false s.commit.own k true } }) := by
  change execLedgerDoneMark k false s = _
  unfold execLedgerDoneMark
  dsimp only
  rw [if_pos h1]
  exact when_holds (by simp [hm, hk, hd]) _ _

theorem doneMark_mirror {s : State} {k : Nat} (hm : memOn s = true) (h1 : s.commit.ledState = 1) (hk : k < subShards s)
    (hp : polMirror s = true) (hd : markDone s (subShards s + k) s.commit.ledStep = true) : exec (.ledgerDoneMark k true) s =
      .next (settleLedger { s with commit := { s.commit with mirror := tblSet false s.commit.mirror k true } }) := by
  change execLedgerDoneMark k true s = _
  unfold execLedgerDoneMark
  dsimp only
  rw [if_pos h1]
  exact when_holds (by simp [hm, hk, hp, hd]) _ _

theorem doneMark_end {s : State} (hm : memOn s = true) (h3 : s.commit.ledState = 3) :
    exec (.ledgerDoneMark (2 * subShards s) false) s = .next (settleLedger s) := by
  change execLedgerDoneMark _ false s = _
  unfold execLedgerDoneMark
  dsimp only
  rw [if_neg (by rw [h3]; decide)]
  exact when_holds (by simp [hm, h3]) _ _

/-- Settles O35: what an evaluation leaves, a decision by its outcome, and the ledger by its state. -/
theorem stepsAreEvaluatedAndDecided : Obligations.StepsAreEvaluatedAndDecided := by
  unfold Obligations.StepsAreEvaluatedAndDecided
  refine ⟨fun now s halive => ?_, fun now s e hhead halive hjob hrun hstep => ?_, fun k s hm => ?_⟩
  · intro n heval hrun hn htide
    refine runs_when (show execEvalDeadline now s = when _ s _ from rfl) ?_ (evaluate_spec (atTide s now) n)
    simp only [halive, hrun, Bool.true_and, Bool.and_eq_true, Bool.or_eq_true, decide_eq_true_eq]
    exact ⟨⟨⟨heval, trivial⟩, hn⟩, htide⟩
  · intro cs inTime hcs
    obtain ⟨hrel, hlimit⟩ := decision_reads s now e.step
    obtain ⟨hout, hbit, hevals, hoc, hfaults, hkeep, hhalt⟩ := decideStep_spec (atTide s now) e cs
    refine runs_of (t := decideStep (atTide s now) e cs) ?_ ⟨hout, hbit, hevals, fun ht hp => ?_, fun ht hp => ?_, fun ht => ?_⟩
    · change execStepDecision now s = _
      unfold execStepDecision
      rw [hhead]
      exact when_holds (by simp only [halive, hjob, hrun, Bool.true_and, Bool.and_eq_true, decide_eq_true_eq]; exact ⟨hstep, hcs⟩) _ _
    · obtain ⟨rel, at', hr, hle⟩ := ht
      obtain ⟨ho, hlate⟩ := outcomeOf_inTime (hrel.trans hr) hle
      rw [hlimit, if_pos hp] at ho
      rw [ho] at hoc hfaults hkeep
      exact ⟨hoc, hkeep (by decide), hfaults.trans (outFaultsOf_inTime hlate (by decide))⟩
    · obtain ⟨rel, at', hr, hle⟩ := ht
      obtain ⟨ho, hlate⟩ := outcomeOf_inTime (hrel.trans hr) hle
      rw [hlimit, if_neg (Nat.not_le.mpr hp)] at ho
      rw [ho] at hoc hfaults hkeep
      exact ⟨hoc, hkeep (by decide), hfaults.trans (outFaultsOf_inTime hlate (by decide))⟩
    · have ho := outcomeOf_late (s := readSections (atTide s now) [secCommit]) (e := e) (cs := cs) (by rw [hrel]; exact ht)
      rw [ho] at hoc hfaults hhalt
      obtain ⟨hst, hcause, hr⟩ := hhalt rfl
      refine ⟨hoc, hst, hcause, hr, ?_⟩
      rw [hfaults]
      unfold outFaultsOf
      rw [if_pos rfl, Nat.testBit_or, show Nat.testBit 0x80 7 = true by decide, Bool.or_true]
  · intro c n own mir
    exact ⟨fun h1 hk hd => runs_of (doneMark_own hm h1 hk hd) (settleLedger_applied h1),
      fun h1 hk hp hd => runs_of (doneMark_mirror hm h1 hk hp hd) (settleLedger_applied h1),
      fun h3 => runs_of (doneMark_end hm h3) (settleLedger_skipped h3)⟩

/-! Halts and folds (R353, R435, R436). -/

/-- What a fold abandons stays as it is: the job, the reduction, the adds and the arena records. -/
structure FoldKeeps (s t : State) : Prop where
  job : t.job = s.job
  reduction : t.reduction = s.reduction
  adds : t.adds = s.adds
  arenas : t.memory.arenas = s.memory.arenas

theorem FoldKeeps.refl (s : State) : FoldKeeps s s := ⟨rfl, rfl, rfl, rfl⟩

theorem FoldKeeps.trans {a b c : State} (h : FoldKeeps a b) (h' : FoldKeeps b c) : FoldKeeps a c :=
  ⟨h'.job.trans h.job, h'.reduction.trans h.reduction, h'.adds.trans h.adds, h'.arenas.trans h.arenas⟩

theorem foldKeeps_foldl {α : Type} (f : State → α → State) (h : ∀ s x, FoldKeeps s (f s x)) : ∀ (l : List α) (s : State),
    FoldKeeps s (l.foldl f s)
  | [], s => .refl s
  | x :: l, s => (h s x).trans (foldKeeps_foldl f h l (f s x))

theorem modCore_foldKeeps (s : State) (c : Nat) (f : Core → Core) : FoldKeeps s (modCore s c f) := ⟨rfl, rfl, rfl, rfl⟩

theorem rewriteStore_foldKeeps (s : State) (c : Nat) : FoldKeeps s (rewriteStore s c) := by
  unfold rewriteStore
  split
  · exact modCore_foldKeeps _ _ _
  · exact .refl s

theorem foldCore_keeps (s : State) (c : Nat) : FoldKeeps s (foldCore s c) := by
  unfold foldCore
  have h : FoldKeeps s (dropOutbound (modCore s c clearedCore) c) := ⟨rfl, rfl, rfl, rfl⟩
  exact (h.trans (rewriteStore_foldKeeps _ _)).trans (modCore_foldKeeps _ _ _)

theorem switchCore_foldKeeps (s : State) (c v : Nat) : FoldKeeps s (switchCore s c v) := by
  unfold switchCore
  split
  · exact modCore_foldKeeps _ _ _
  · exact modCore_foldKeeps _ _ _

theorem giveFrame_foldKeeps (s : State) (c n : Nat) (ref : Nat × Nat) (pc : Nat) (runs : RunKind) :
    FoldKeeps s (giveFrame s c n ref pc runs) := modCore_foldKeeps _ _ _

theorem giveAfter_foldKeeps (s : State) (c n : Nat) (ref : Nat × Nat) (p : Nat) : FoldKeeps s (giveAfter s c n ref p) := by
  unfold giveAfter
  dsimp only
  have key : ∀ u, FoldKeeps s u → FoldKeeps s (if (coreOf u c).program = true then giveFrame u c n ref (coreOf u c).start .step else u) := by
    intro u hu
    split
    · exact hu.trans (giveFrame_foldKeeps _ _ _ _ _ _)
    · exact hu
  split
  · exact key _ (switchCore_foldKeeps s c _)
  · exact key _ (.refl s)

theorem deliver_keeps (s : State) (c : Nat) : FoldKeeps s (deliver s c) := by
  unfold deliver
  dsimp only
  split
  · split
    · split
      · exact giveFrame_foldKeeps _ _ _ _ _ _
      · exact giveAfter_foldKeeps _ _ _ _ _
    · exact .refl s
  · exact .refl s

theorem aState_zero : aState 0 = 0 := by
  unfold aState aFld bitsOf
  rw [show (0 : Arena).toNat = 0 from BitVec.toNat_zero, Nat.zero_div, Nat.zero_mod]

theorem freeArenas_arenas (s : State) : (freeArenas s).memory.arenas =
    ((emptyParks s).memory.arenas.map fun r => (r.1, setAState r.2 arenaFree)).filter fun r => r.2 != 0 := by
  unfold freeArenas
  generalize emptyParks s = u
  rfl

/-- Every arena is free. -/
theorem arenaAt_freeArenas (s : State) (a : Nat) : aState (arenaAt (freeArenas s) a) = 0 := by
  by_cases h : arenaAt (freeArenas s) a = 0
  · exact (congrArg aState h).trans aState_zero
  · have hmem := tblGet_mem h
    rw [freeArenas_arenas] at hmem
    obtain ⟨r, -, hr⟩ := List.mem_map.mp (List.mem_filter.mp hmem).1
    rw [← freeArenas_arenas] at hr
    change aState (tblGet 0 (freeArenas s).memory.arenas a) = 0
    rw [← (Prod.mk.inj hr).2]
    exact aState_setAState r.2 0

theorem setFlow_foldKeeps (s : State) (f : Nat) (d : Line) : FoldKeeps s (setFlow s f d) := ⟨rfl, rfl, rfl, rfl⟩

theorem cSet_foldKeeps (s : State) (f byte n v : Nat) : FoldKeeps s (cSet s f byte n v) := setFlow_foldKeeps s f _

theorem modRt_foldKeeps (s : State) (f : Nat) (g : FlowRt → FlowRt) : FoldKeeps s (modRt s f g) := ⟨rfl, rfl, rfl, rfl⟩

theorem returnedCredits_keeps (s : State) (f byte n v : Nat) (g : FlowRt → FlowRt) : FoldKeeps s (modRt (cSet s f byte n v) f g) :=
  (cSet_foldKeeps s f byte n v).trans (modRt_foldKeeps _ f g)

theorem emptyParks_keeps (s : State) : FoldKeeps s (emptyParks s) := by
  unfold emptyParks
  refine foldKeeps_foldl _ (fun s i => FoldKeeps.trans (b := setPark s i []) ⟨rfl, rfl, rfl, rfl⟩ ?_) _ s
  refine foldKeeps_foldl _ (fun s x => ?_) _ _
  unfold returnCredits
  split
  · exact .refl s
  · exact returnedCredits_keeps _ _ _ _ _ _

theorem abandonReduction_fields (s : State) : (abandonReduction s).job = s.job ∧ (abandonReduction s).memory.arenas = (freeArenas s).memory.arenas ∧
    (abandonReduction s).reduction.abandoned = true ∧ (abandonReduction s).reduction.stopped = true := by
  have hjob : (freeArenas s).job = s.job := by
    have h := (emptyParks_keeps s).job
    unfold freeArenas
    generalize emptyParks s = u at h ⊢
    exact h
  unfold abandonReduction
  generalize freeArenas s = f at hjob ⊢
  exact ⟨hjob, rfl, rfl, rfl⟩

/-- What a fold leaves (R353). -/
theorem foldReshard_spec (s : State) : let t := foldReshard s
    t.job = { s.job with rsFolded := true } ∧ t.reduction.abandoned = true ∧ t.reduction.stopped = true ∧ t.adds = [] ∧
    ∀ a, aState (arenaAt t a) = 0 := by
  obtain ⟨hjob, harenas, haband, hstop⟩ := abandonReduction_fields s
  have hfree := arenaAt_freeArenas s
  unfold foldReshard
  generalize abandonReduction s = r at hjob harenas haband hstop ⊢
  generalize s.cores.map (·.1) = cs
  intro t
  have hbc : FoldKeeps { r with adds := [] } (cs.foldl foldCore { r with adds := [] }) := foldKeeps_foldl _ foldCore_keeps _ _
  have key : ∃ d : State, FoldKeeps d t ∧ d.job = { s.job with rsFolded := true } ∧ d.reduction = r.reduction ∧ d.adds = [] ∧
      d.memory.arenas = r.memory.arenas := by
    refine ⟨_, foldKeeps_foldl _ (fun u x => ?_) cs _, ?_, hbc.reduction, hbc.adds, hbc.arenas⟩
    · split
      · exact deliver_keeps u x
      · exact .refl u
    · exact (congrArg (fun j : Job => { j with rsFolded := true }) (hbc.job.trans hjob))
  obtain ⟨d, hd, hdjob, hdred, hdadds, hdarenas⟩ := key
  refine ⟨hd.job.trans hdjob, ?_, ?_, hd.adds.trans hdadds, fun a => ?_⟩
  · rw [hd.reduction, hdred, haband]
  · rw [hd.reduction, hdred, hstop]
  · unfold arenaAt
    rw [hd.arenas, hdarenas, harenas]
    exact hfree a

/-- Settles O36: a halt and a failure stop the job; a fold abandons the reduction before its cores take their programs. -/
theorem haltAndFold : Obligations.HaltAndFold := by
  unfold Obligations.HaltAndFold
  intro now s halted
  have halts : ∀ (u : State) (cause : Nat), halted (haltJob u cause) cause := fun u cause => by
    obtain ⟨hjob, hrun, hbit, hmode, hflow, -⟩ := haltJob_spec u cause
    exact ⟨by rw [hjob], by rw [hjob], hrun, hbit, hmode, hflow⟩
  refine ⟨fun ha hst hrun hat hall hled => ?_, fun hi hdue hrel => ?_, fun ha hdue hrel hend => ?_⟩
  · refine runs_when (show execHaltTakesEffect now s = when _ s _ from rfl) ?_ (halts (atTide s now) 1)
    simp only [ha, hrun, hall, hled, hst, jobHalting, Bool.true_and, Bool.and_true, Bool.and_eq_true, decide_eq_true_eq]
    exact ⟨trivial, hat⟩
  · refine runs_when (show execReshardFold now s = when _ s _ from rfl) (by rw [hi, hdue, hrel]; rfl) ?_
    exact foldReshard_spec (atTide s now)
  · refine runs_when (show execReshardFail now s = when _ s _ from rfl) ?_ ⟨halts _ 3, by rw [(haltJob_spec _ 3).1]⟩
    simp only [ha, hdue, hrel, Bool.true_and, Bool.not_false, Bool.or_eq_true, decide_eq_true_eq]
    exact hend

end Sys2Proof.Machine
end

section
/-! SUPPORT. The step and the machine after reset (14, 15). -/

namespace Sys2Proof.Machine

open Sys2Proof

theorem idle_none {s : State} (hm : s.memory.merging = none) (h : s.boot.resetDue = none ∨ s.boot.held ≠ 0) : idle s = s := by
  unfold idle
  rw [landMerge_none s hm]
  dsimp only
  rcases h with h | h
  · rw [h]
  · split
    · rfl
    · exact if_neg h

theorem idle_reset {s : State} {d : Nat} (hm : s.memory.merging = none) (hd : s.boot.resetDue = some d) (hh : s.boot.held = 0) :
    idle s = systemReset (atTide s d) 5 := by
  unfold idle
  rw [landMerge_none s hm]
  dsimp only
  rw [hd]
  exact if_pos hh

theorem idle_merge {s : State} (hr : s.boot.resetDue = none) : idle s = landMerge s := by
  unfold idle
  dsimp only
  rw [landMerge_boot, hr]

theorem step_idle {s : State} (h : s.pending = []) : step s = .next (idle s) := by
  unfold step
  rw [h]

/-- What a system reset notes of itself (R448). -/
theorem systemReset_notes (s : State) (source : Nat) : (systemReset s source).boot.held = 1 ∧ (systemReset s source).boot.source = source ∧
    (systemReset s source).boot.sysCount = sat32 (s.boot.sysCount + 1) ∧ (systemReset s source).boot.resetDue = none ∧
    (systemReset s source).meter = s.meter := ⟨rfl, rfl, rfl, rfl, rfl⟩

/-- Settles O1: the front command, an idle step and the merged line. -/
theorem stepRunsFrontCommand : Obligations.StepRunsFrontCommand := by
  unfold Obligations.StepRunsFrontCommand
  refine ⟨fun s c cs h => ?_, fun s h hm => ⟨fun hr => ?_, fun d hd hh => ?_⟩, fun s p bs h hm hr hon hw => ?_⟩
  · unfold step
    rw [h]
  · rw [step_idle h, idle_none hm hr]
  · obtain ⟨hheld, hsource, hcount, hdue, hmeter⟩ := systemReset_notes (atTide s d) 5
    refine ⟨systemReset (atTide s d) 5, ?_, hheld, hsource, hcount, hdue, hmeter⟩
    rw [step_idle h, idle_reset hm hd hh]
  · rw [step_idle h, idle_merge hr, landMerge_some s p bs hm hon hw]

/-- Settles O55: each part is read off the state after reset. -/
theorem resetLeaves : Obligations.ResetLeaves := by
  unfold Obligations.ResetLeaves
  refine ⟨rfl, rfl, rfl, rfl, rfl, fun c => ⟨rfl, rfl⟩, rfl, rfl, rfl, rfl, rfl, rfl, rfl, rfl, fun p => rfl, fun k => rfl, rfl⟩

end Sys2Proof.Machine
end

section
/-! SUPPORT. Power states, wakes and losses (13, 16): what goes dark, what an exit leaves (R388–R393, R401, R485, R491, R492). -/

namespace Sys2Proof.Machine

open Sys2Proof

/-! Ports and tide that go dark (R239, R394). -/

/-- A state that differs only by what ports, contexts and the tide hold, by faults of steps and by what is sent. -/
structure DarkOnly (s t : State) : Prop where
  rest : { t with straits := s.straits, tide := s.tide, adds := s.adds,
                  commit := { t.commit with faults := s.commit.faults, armFaults := s.commit.armFaults },
                  control := { t.control with pba := s.control.pba }, sent := s.sent } = s
  state : t.tide.state = s.tide.state

theorem DarkOnly.refl (s : State) : DarkOnly s s := ⟨rfl, rfl⟩

theorem DarkOnly.trans {a b c : State} (h : DarkOnly a b) (h' : DarkOnly b c) : DarkOnly a c := by
  refine ⟨Eq.trans ?_ h.rest, h'.state.trans h.state⟩
  rw [← h'.rest]

theorem DarkOnly.ite {c : Prop} [Decidable c] {s a b : State} (ha : DarkOnly s a) (hb : DarkOnly s b) :
    DarkOnly s (if c then a else b) := by
  split
  · exact ha
  · exact hb

theorem darkOnly_foldl {α : Type} (f : State → α → State) (h : ∀ s x, DarkOnly s (f s x)) : ∀ (l : List α) (s : State),
    DarkOnly s (l.foldl f s)
  | [], s => .refl s
  | x :: l, s => (h s x).trans (darkOnly_foldl f h l _)

theorem FlowSame.dark {s t : State} (h : FlowSame s t) : DarkOnly s t := by
  have htide : t.tide = s.tide := by have e := congrArg State.tide h; exact e
  refine ⟨?_, by rw [htide]⟩
  have e := congrArg (fun x : State => { x with
    straits := s.straits, tide := s.tide, adds := s.adds, sent := s.sent
    commit := { x.commit with faults := s.commit.faults, armFaults := s.commit.armFaults }
    control := { x.control with pba := s.control.pba } }) h
  exact e

theorem TideSame.dark {s t : State} (h : TideSame s t) (hs : t.tide.state = s.tide.state) : DarkOnly s t := by
  refine ⟨?_, hs⟩
  have e := congrArg (fun x : State => { x with
    straits := s.straits
    commit := { x.commit with faults := s.commit.faults, armFaults := s.commit.armFaults } }) h.1
  exact e

theorem PodOnly.state {s t : State} (h : PodOnly s t) : t.tide.state = s.tide.state := by have e := congrArg Tide.state h.tide; exact e

theorem modPort_dark (s : State) (p : Nat) (f : Port → Port) : DarkOnly s (modPort s p f) := ⟨rfl, rfl⟩

theorem dropChild_dark (s : State) (p : Nat) : DarkOnly s (dropChild s p) :=
  (dropChild_same s p).dark ((loseChild_podOnly _ p).state.trans rfl)

theorem recomputeTempo_dark (s : State) : DarkOnly s (recomputeTempo s) := by
  refine (recomputeTempo_same s).dark ?_
  unfold recomputeTempo
  refine (aggregateChanged_podOnly _ _).state.trans ?_
  split
  · exact (setTideEvent_podOnly _ _).state.trans rfl
  · rfl

theorem portDown_dark (s : State) (p cause : Nat) : DarkOnly s (portDown s p cause) := by
  unfold portDown
  dsimp only
  refine DarkOnly.trans ?_ (recomputeTempo_dark _)
  refine DarkOnly.trans ?_ (dropChild_dark _ _)
  have hport := fun f => modPort_dark s p f
  have hevent : ∀ {a : State} {c : Prop} [Decidable c] (b : Reg), DarkOnly s a → DarkOnly s (if c then setStraitEvent a b else a) :=
    fun b ha => .ite (ha.trans (FlowSame.event _ b).dark) ha
  have hfault : ∀ {a : State} (l : List Nat), DarkOnly s a → DarkOnly s (l.foldl (fun s i => faultFlow s i 2) a) :=
    fun l ha => ha.trans (darkOnly_foldl _ (fun s i => (faultFlow_same s i 2).dark) l _)
  refine .ite (DarkOnly.trans ?_ (FlowSame.faultNow _ 2).dark) ?_
  · exact hfault _ (hevent _ (hport _))
  · exact hfault _ (hevent _ (hport _))

/-- Every port that is not down goes down. -/
def portsDown (s : State) : State := (List.range 8).foldl (fun s p => if (portOf s p).state = 0 then s else portDown s p 0) s

theorem portsDown_dark (s : State) : DarkOnly s (portsDown s) :=
  darkOnly_foldl _ (fun s p => .ite (.refl s) (portDown_dark s p 0)) _ s

/-- What straits without light show, beside their ports going down. -/
def lightsOut (s : State) : State :=
  let ps : Tbl Port := s.straits.ports.map fun x => (x.1, { x.2 with farLit := false, marker := none, identOk := false, reqQ := 0 })
  { s with straits := { s.straits with linkUp := false, ptpLocked := false, ports := ps.filter fun x => x.2 != portReset } }

theorem lightsOut_dark (s : State) : DarkOnly s (lightsOut s) := ⟨rfl, rfl⟩

theorem straitsDark_eq (s : State) : straitsDark s = lightsOut (portsDown s) := by
  delta straitsDark lightsOut portsDown
  rfl

theorem straitsDark_dark (s : State) : DarkOnly s (straitsDark s) := by
  rw [straitsDark_eq]
  exact (portsDown_dark s).trans (lightsOut_dark _)

/-- A state that differs only by what ports, contexts and the tide hold, by what the job waits for, and by the control unit. -/
def RunsOn (s t : State) : Prop :=
  { t with straits := s.straits, tide := s.tide, adds := s.adds, commit := s.commit, job := { t.job with arming := s.job.arming },
           control := s.control, sent := s.sent } = s

theorem RunsOn.refl (s : State) : RunsOn s s := rfl

theorem RunsOn.trans {a b c : State} (h : RunsOn a b) (h' : RunsOn b c) : RunsOn a c := by
  refine Eq.trans ?_ h
  unfold RunsOn at h'
  rw [← h']

theorem DarkOnly.runsOn {s t : State} (h : DarkOnly s t) : RunsOn s t := by
  have e := congrArg (fun x : State => { x with commit := s.commit, job := { x.job with arming := s.job.arming }, control := s.control }) h.rest
  exact e

section
variable {s t : State} (h : RunsOn s t)
include h

theorem RunsOn.power : t.power = s.power := by have e := congrArg State.power h; exact e
theorem RunsOn.memory : t.memory = s.memory := by have e := congrArg State.memory h; exact e
theorem RunsOn.cores : t.cores = s.cores := by have e := congrArg State.cores h; exact e
theorem RunsOn.meter : t.meter = s.meter := by have e := congrArg State.meter h; exact e
theorem RunsOn.boot : t.boot = s.boot := by have e := congrArg State.boot h; exact e
theorem RunsOn.jobState : t.job.state = s.job.state := by have e := congrArg (fun x : State => x.job.state) h; exact e
theorem RunsOn.jobCause : t.job.cause = s.job.cause := by have e := congrArg (fun x : State => x.job.cause) h; exact e
end

theorem DarkOnly.boxes {s t : State} (h : DarkOnly s t) (m : Nat) : boxOf t m = boxOf s m := by
  unfold boxOf
  have e := congrArg (fun x : State => tblGet mailboxReset x.control.boxes m) h.rest
  exact e

theorem enterHoldover_tide (s : State) : (enterHoldover s).tide.state = 4 := by
  unfold enterHoldover
  rw [setTideEvent_tide]
  rfl

theorem setTideEvent_boxes (s : State) (b m : Nat) : boxOf (setTideEvent s b) m = boxOf s m := by
  have e := congrArg (fun x : State => tblGet mailboxReset x.control.boxes m) (setTideEvent_same s b)
  exact e

theorem setTideEvent_runsOn (s : State) (b : Nat) : RunsOn s (setTideEvent s b) :=
  ((TideSame.event s b).dark (setTideEvent_podOnly s b).state).runsOn

theorem enterHoldover_boxes (s : State) (m : Nat) : boxOf (enterHoldover s) m = boxOf s m := setTideEvent_boxes _ _ m

theorem enterHoldover_runsOn (s : State) : RunsOn s (enterHoldover s) := by
  have h : ∀ f, RunsOn s (setTide s f) := fun _ => rfl
  exact (h _).trans (setTideEvent_runsOn _ _)

/-- The tide and the ports of a package that goes dark (R394). -/
theorem darkness_spec (s : State) : let t := straitsDark (darkTide s)
    RunsOn s t ∧ (∀ m, boxOf t m = boxOf s m) ∧ (s.tide.state ≠ 5 → s.boot.clkMode ≠ 3 → t.tide.state = 4) := by
  have h := straitsDark_dark (darkTide s)
  have hd : RunsOn s (darkTide s) ∧ (∀ m, boxOf (darkTide s) m = boxOf s m) ∧
      (s.tide.state ≠ 5 → s.boot.clkMode ≠ 3 → (darkTide s).tide.state = 4) := by
    unfold darkTide
    split
    · next e => exact ⟨.refl s, fun _ => rfl, fun h1 h2 => absurd e (by simp [tideSource, h1, h2])⟩
    · exact ⟨enterHoldover_runsOn s, enterHoldover_boxes s, fun _ _ => enterHoldover_tide s⟩
  obtain ⟨hrun, hbox, hstate⟩ := hd
  exact ⟨hrun.trans h.runsOn, fun m => (h.boxes m).trans (hbox m), fun h1 h2 => h.state.trans (hstate h1 h2)⟩

/-! Commands that end with a transition (R424). -/

theorem finish_runsOn (s : State) (m code detail : Nat) (resp : List Byte) : RunsOn s (finish s m code detail resp) := by
  unfold finish finishAs
  split
  · exact .refl s
  · dsimp only
    split
    · rfl
    · rfl

theorem endPowerCommand_runsOn (s : State) (code : Nat) : ∃ mb, RunsOn { s with power := { s.power with mailbox := mb } } (endPowerCommand s code) := by
  unfold endPowerCommand
  split
  · exact ⟨s.power.mailbox, .refl s⟩
  · exact ⟨none, finish_runsOn _ _ _ _ _⟩

theorem setState_fields (s : State) (v ahead : Nat) : ∃ ns, setState s v ahead =
    { s with power := { s.power with notices := ns, state := v, going := none, bandSet := false, ballast := false } } := by
  unfold setState notice
  split
  · exact ⟨s.power.notices, rfl⟩
  · exact ⟨_, rfl⟩

/-- Power after a transition to v: what the transition itself leaves as it is. -/
structure Arrived (s t : State) (v : Nat) : Prop where
  runs : RunsOn { s with power := t.power } t
  state : t.power.state = v
  going : t.power.going = none
  wakeHeld : t.power.wakeHeld = s.power.wakeHeld
  tripDry : t.power.tripDry = s.power.tripDry
  stat : t.power.stat = s.power.stat
  saved : t.power.saved = s.power.saved

theorem arrive_spec (s : State) (v ahead code : Nat) : Arrived s (endPowerCommand (setState s v ahead) code) v := by
  obtain ⟨ns, hs⟩ := setState_fields s v ahead
  obtain ⟨mb, h⟩ := endPowerCommand_runsOn (setState s v ahead) code
  have hp := h.power
  rw [hs] at hp h ⊢
  refine ⟨?_, ?_, ?_, ?_, ?_, ?_, ?_⟩
  · rw [hp]; exact h
  all_goals rw [hp]

theorem arrive_boxes (s : State) (v ahead code m : Nat) {r : Running} (hm : s.power.mailbox = some m) (hr : (boxOf s m).run = some r) :
    (boxOf (endPowerCommand (setState s v ahead) code) m).run =
      some { r with result := some ⟨code, reg (if code = stRefused then stateDetail (setState s v ahead) else 0), []⟩ } := by
  obtain ⟨ns, hs⟩ := setState_fields s v ahead
  have hmb : (setState s v ahead).power.mailbox = some m := by rw [hs]; exact hm
  have hrun : (boxOf (setState s v ahead) m).run = some r := by rw [hs]; exact hr
  generalize setState s v ahead = u at hmb hrun ⊢
  unfold endPowerCommand
  rw [hmb]
  exact (finish_run (s := setPower u fun p => { p with mailbox := none }) code _ [] hrun).1

theorem finish_tide (s : State) (m code detail : Nat) (resp : List Byte) : (finish s m code detail resp).tide = s.tide := by
  unfold finish finishAs
  split
  · rfl
  · dsimp only
    split
    · rfl
    · rfl

theorem arrive_tide (s : State) (v ahead code : Nat) : (endPowerCommand (setState s v ahead) code).tide = s.tide := by
  obtain ⟨ns, hs⟩ := setState_fields s v ahead
  have htide : (setState s v ahead).tide = s.tide := by rw [hs]
  rw [← htide]
  generalize setState s v ahead = u
  unfold endPowerCommand
  split
  · rfl
  · exact finish_tide _ _ _ _ _

/-! Entries (R388, R389). -/

/-- A package that goes dark, with the registers that are saved. -/
def goDark (s : State) (saved : List (Nat × Reg)) (off : Bool) : State :=
  straitsDark (darkTide (setPower s fun p => { p with saved := saved, isleOff := off }))

/-- The package as an entry to v finds it: dark, but for an entry to Slack. -/
def darkFor (s : State) (v : Nat) : State :=
  let keep := feature s featKeep
  let off := v = 3 || (v = 2 && s.power.isleKeep && keep)
  if v = 1 then s else goDark s (if keep then takeSaveList s off else []) off

/-- A wake that was held begins the exit. -/
def wakeHeldNow (s : State) : State := if s.power.wakeHeld then setPower s fun p => { p with wakeHeld := false, going := some 0 } else s

theorem enterState_eq (s : State) (v : Nat) :
    enterState s v = wakeHeldNow (endPowerCommand (setState (darkFor s v) v (aheadOf (darkFor s v))) stOk) := by
  delta enterState wakeHeldNow darkFor goDark
  rfl

theorem goDark_spec (s : State) (saved : List (Nat × Reg)) (off : Bool) : let t := goDark s saved off
    t.cores = s.cores ∧ t.memory = s.memory ∧ t.power.wakeHeld = s.power.wakeHeld ∧ t.power.mailbox = s.power.mailbox ∧
    (∀ m, boxOf t m = boxOf s m) ∧ (s.tide.state ≠ 5 → s.boot.clkMode ≠ 3 → t.tide.state = 4) := by
  obtain ⟨hrun, hbox, hstate⟩ := darkness_spec (setPower s fun p => { p with saved := saved, isleOff := off })
  unfold goDark
  dsimp only
  rw [hrun.power]
  exact ⟨hrun.cores, hrun.memory, rfl, rfl, hbox, hstate⟩

theorem darkFor_spec (s : State) (v : Nat) : let t := darkFor s v
    t.cores = s.cores ∧ t.memory = s.memory ∧ t.power.wakeHeld = s.power.wakeHeld ∧ t.power.mailbox = s.power.mailbox ∧
    (∀ m, boxOf t m = boxOf s m) ∧ (v = 1 → t.tide = s.tide) ∧ (v ≠ 1 → s.tide.state ≠ 5 → s.boot.clkMode ≠ 3 → t.tide.state = 4) := by
  unfold darkFor
  dsimp only
  by_cases h1 : v = 1
  · rw [if_pos h1]
    exact ⟨rfl, rfl, rfl, rfl, fun _ => rfl, fun _ => rfl, fun h => absurd h1 h⟩
  · rw [if_neg h1]
    obtain ⟨hcores, hmem, hheld, hmb, hbox, hstate⟩ := goDark_spec s
      (if feature s featKeep = true then takeSaveList s (v = 3 || (v = 2 && s.power.isleKeep && feature s featKeep)) else [])
      (v = 3 || (v = 2 && s.power.isleKeep && feature s featKeep))
    exact ⟨hcores, hmem, hheld, hmb, hbox, fun h => absurd h h1, fun _ => hstate⟩

/-- What an entry to v leaves (R388, R392, R394). -/
theorem enterState_spec (s : State) (v : Nat) : let t := enterState s v
    t.power.state = v ∧ t.power.going = (if s.power.wakeHeld then some 0 else none) ∧ t.power.wakeHeld = false ∧ t.cores = s.cores ∧
    (v = 1 → t.tide.state = s.tide.state) ∧ (v ≠ 1 → s.tide.state ≠ 5 → s.boot.clkMode ≠ 3 → t.tide.state = 4) ∧ t.memory = s.memory ∧
    ∀ m r, s.power.mailbox = some m → (boxOf s m).run = some r → (boxOf t m).run = some { r with result := some ⟨0, 0, []⟩ } := by
  obtain ⟨hcores, hmem, hheld, hmb, hbox, hone, hdark⟩ := darkFor_spec s v
  rw [enterState_eq]
  generalize darkFor s v = d at hcores hmem hheld hmb hbox hone hdark ⊢
  have harr := arrive_spec d v (aheadOf d) stOk
  have htide := arrive_tide d v (aheadOf d) stOk
  have hruns := fun m r => arrive_boxes d v (aheadOf d) stOk m (r := r)
  generalize endPowerCommand (setState d v (aheadOf d)) stOk = e at harr htide hruns ⊢
  have hfields : ∀ u : State, u.cores = e.cores → u.tide = e.tide → u.memory = e.memory → (∀ m, boxOf u m = boxOf e m) →
      u.cores = s.cores ∧ (v = 1 → u.tide.state = s.tide.state) ∧
      (v ≠ 1 → s.tide.state ≠ 5 → s.boot.clkMode ≠ 3 → u.tide.state = 4) ∧ u.memory = s.memory ∧
      ∀ m r, s.power.mailbox = some m → (boxOf s m).run = some r → (boxOf u m).run = some { r with result := some ⟨0, 0, []⟩ } := by
    intro u huc hut hum hub
    refine ⟨?_, fun h => ?_, fun h => ?_, ?_, fun m r hm hr => ?_⟩
    · rw [huc, harr.runs.cores, hcores]
    · rw [hut, htide, hone h]
    · rw [hut, htide]; exact hdark h
    · rw [hum, harr.runs.memory, hmem]
    · rw [hub]
      exact hruns m r (hmb.trans hm) (by rw [hbox]; exact hr)
  unfold wakeHeldNow
  rw [harr.wakeHeld, hheld]
  cases hw : s.power.wakeHeld
  · exact ⟨harr.state, harr.going, (harr.wakeHeld.trans hheld).trans hw, hfields e rfl rfl rfl fun _ => rfl⟩
  · exact ⟨harr.state, rfl, rfl, hfields _ rfl rfl rfl fun _ => rfl⟩

/-! Exits (R390, R391, R393, R402). -/

/-- A state that differs only by the cores, their barriers and adds, the ports and the contexts. -/
def WorkOnly (s t : State) : Prop := { t with cores := s.cores, adds := s.adds, bars := s.bars, straits := s.straits } = s

theorem WorkOnly.refl (s : State) : WorkOnly s s := rfl

theorem WorkOnly.trans {a b c : State} (h : WorkOnly a b) (h' : WorkOnly b c) : WorkOnly a c := by
  refine Eq.trans ?_ h
  unfold WorkOnly at h'
  rw [← h']

theorem workOnly_foldl {α : Type} (f : State → α → State) (h : ∀ s x, WorkOnly s (f s x)) : ∀ (l : List α) (s : State),
    WorkOnly s (l.foldl f s)
  | [], s => .refl s
  | x :: l, s => (h s x).trans (workOnly_foldl f h l _)

theorem modCore_work (s : State) (c : Nat) (f : Core → Core) : WorkOnly s (modCore s c f) := rfl

theorem modPort_workOnly (s : State) (p : Nat) (f : Port → Port) : WorkOnly s (modPort s p f) := rfl

theorem restoreReg_work (s : State) (e : Nat × Reg) : WorkOnly s (restoreReg s e) := by
  unfold restoreReg
  split
  · exact modCore_work _ _ _
  · split
    · exact modPort_workOnly _ _ _
    · exact .refl s

theorem restored_work (l : List (Nat × Reg)) (s : State) : WorkOnly s (l.foldl restoreReg s) := workOnly_foldl _ restoreReg_work l s

theorem cores_work (s : State) (cs : Tbl Core) (as : List Add) (bs : Barriers) : WorkOnly s { s with cores := cs, adds := as, bars := bs } := rfl

theorem coresAnew_work (s : State) : WorkOnly s (coresAnew s) := by
  unfold coresAnew
  exact (cores_work s _ _ _).trans (restored_work _ _)

theorem setPkgBar_work (s : State) (b : Nat) (x : Bar) : WorkOnly s (setPkgBar s b x) := rfl

theorem setIsleBar_work (s : State) (k : Nat) (x : Bar) : WorkOnly s (setIsleBar s k x) := rfl

theorem writeBars_work (s : State) : WorkOnly s (writeBars s) := by
  unfold writeBars writeIsleBars
  refine WorkOnly.trans (workOnly_foldl _ (fun u i => ?_) _ s) (workOnly_foldl _ (fun u b => setPkgBar_work u b _) _ _)
  exact workOnly_foldl _ (fun t k => setIsleBar_work t k _) _ u

theorem writeFlow_work (s : State) (f : Nat) (d : Line) (g : FlowRt → FlowRt) : WorkOnly s (modRt (setFlow s f d) f g) := rfl

theorem writeFlows_work (s : State) (variant state : Nat) : WorkOnly s (writeFlows s variant state) := by
  unfold writeFlows
  have h : WorkOnly s (freeFlows s) := rfl
  exact h.trans (workOnly_foldl _ (fun u e => writeFlow_work u _ _ _) _ _)

theorem storeProgram_work (s : State) (p : Program) : WorkOnly s (storeProgram s p) := modCore_work _ _ _

theorem writesAnew_work (s : State) : WorkOnly s (writesAnew s) := by
  unfold writesAnew
  split
  · exact cores_work s _ _ _
  · dsimp only
    refine WorkOnly.trans ?_ (writeFlows_work _ _ _)
    refine WorkOnly.trans ?_ (writeBars_work _)
    refine WorkOnly.trans ?_ (workOnly_foldl _ storeProgram_work _ _)
    exact workOnly_foldl _ (fun u c => modCore_work u c _) _ s

/-- Cores and ports as an exit brings them up: their stores from the image, or as the save list kept them. -/
def storesAnew (s : State) : State := if s.power.isleOff then writesAnew (coresAnew s) else s.power.saved.foldl restoreReg s

theorem storesAnew_work (s : State) : WorkOnly s (storesAnew s) := by
  unfold storesAnew
  split
  · exact (coresAnew_work s).trans (writesAnew_work _)
  · exact restored_work _ s

/-- Every core at 400 MHz. -/
def slowed (s : State) : State := { s with cores := s.cores.map fun c => (c.1, { c.2 with mhz := 400 }) }

theorem slowed_mhz (s : State) (c : Nat) : (coreOf (slowed s) c).mhz = 400 := by
  have e : coreOf (slowed s) c = { coreOf s c with mhz := 400 } :=
    tblGet_map_default coreReset (fun k : Core => { k with mhz := 400 }) rfl c s.cores
  rw [e]

/-- The links train, unless the isles are held in reset. -/
def linksUp (s : State) (failed : List LaneFail) : State := if s.boot.isles then trainLinks s failed else s

theorem leaveDark_eq (s : State) (failed : List LaneFail) :
    leaveDark s failed = setTide (setPower (linksUp (slowed (storesAnew (memoryAnew (portsAnew s)))) failed)
      fun p => { p with saved := [], isleOff := false, tripDry := false }) fun t => { t with mayStep := t.state != tideSource } := by
  delta leaveDark linksUp slowed storesAnew
  rfl

/-- A state that differs only by the isthmus links and by what is sent. -/
def IsthOnly (s t : State) : Prop := { t with isth := s.isth, control := { t.control with pba := s.control.pba }, sent := s.sent } = s

theorem IsthOnly.trans {a b c : State} (h : IsthOnly a b) (h' : IsthOnly b c) : IsthOnly a c := by
  refine Eq.trans ?_ h
  unfold IsthOnly at h'
  rw [← h']

theorem isthOnly_foldl {α : Type} (f : State → α → State) (h : ∀ s x, IsthOnly s (f s x)) : ∀ (l : List α) (s : State),
    IsthOnly s (l.foldl f s)
  | [], _ => rfl
  | x :: l, s => (h s x).trans (isthOnly_foldl f h l _)

theorem setIsthEvent_only (s : State) (b : Reg) : IsthOnly s (setIsthEvent s b) := by
  have e := congrArg (fun x : State => { x with isth := s.isth }) (setIsthEvent_same s b)
  exact e

theorem trainLink_only (s : State) (k : Nat) : IsthOnly s (trainLink s k) := by
  unfold trainLink
  split
  · rfl
  · split
    · exact IsthOnly.trans (b := setLink s k 2) rfl (setIsthEvent_only _ _)
    · rfl

theorem setIsthMod_only (s : State) (k m : Nat) (x : IsthModule) : IsthOnly s (setIsthMod s k m x) := rfl

theorem trainLinks_only (s : State) (failed : List LaneFail) : IsthOnly s (trainLinks s failed) := by
  rw [trainLinks_eq]
  exact (isthOnly_foldl _ (fun u i => setIsthMod_only u _ _ _) _ s).trans (isthOnly_foldl _ trainLink_only _ _)

theorem linksUp_only (s : State) (failed : List LaneFail) : IsthOnly s (linksUp s failed) := by
  unfold linksUp
  split
  · exact trainLinks_only s failed
  · rfl

theorem trainMod_congr {s t : State} (h : t.isth = s.isth) (failed : List LaneFail) (k m : Nat) : trainMod t failed k m = trainMod s failed k m := by
  unfold trainMod isthMod mapLanes
  rw [h]

theorem trainLinks_mod (s : State) (failed : List LaneFail) {k m : Nat} (hk : k < 4) (hm : m < 16) :
    isthMod (trainLinks s failed) k m = trainMod s failed k m := by
  have hlinks : ∀ (l : List Nat) (u : State), isthMod (l.foldl trainLink u) k m = isthMod u k m := by
    intro l
    induction l with
    | nil => exact fun u => rfl
    | cons i l ih => exact fun u => (ih _).trans (trainLink_mod u i k m)
  rw [trainLinks_eq, hlinks]
  exact (putMods_spec (trainMod s failed) 64 s).1 k m hm (by omega)

/-- What an exit from Ebb or Dry brings up (R390, R391, R402). -/
theorem leaveDark_spec (s : State) (failed : List LaneFail) : let t := leaveDark s failed
    t.memory.data = s.memory.data ∧ t.memory.acc = [] ∧ t.memory.arenas = [] ∧ (∀ c, (coreOf t c).mhz = 400) ∧
    t.tide.mayStep = decide (s.tide.state ≠ 5) ∧ t.power = { s.power with saved := [], isleOff := false, tripDry := false } ∧
    (s.boot.isles = true → ∀ k < 4, ∀ m < 16, isthMod t k m = trainMod s failed k m) := by
  rw [leaveDark_eq]
  obtain ⟨a, ha⟩ : ∃ a, memoryAnew (portsAnew s) = a := ⟨_, rfl⟩
  have adata : a.memory.data = s.memory.data := by rw [← ha]; rfl
  have aacc : a.memory.acc = [] := by rw [← ha]; rfl
  have aarenas : a.memory.arenas = [] := by rw [← ha]; rfl
  have apower : a.power = s.power := by rw [← ha]; rfl
  have atide : a.tide = s.tide := by rw [← ha]; rfl
  have aisth : a.isth = s.isth := by rw [← ha]; rfl
  have aboot : a.boot = s.boot := by rw [← ha]; rfl
  rw [ha]
  have hwork := storesAnew_work a
  generalize storesAnew a = b at hwork ⊢
  have hmhz := slowed_mhz b
  have hslow : WorkOnly a (slowed b) := by have h : WorkOnly b (slowed b) := rfl; exact hwork.trans h
  generalize slowed b = c at hmhz hslow ⊢
  have hcisth : c.isth = s.isth := by have e := congrArg State.isth hslow; exact Eq.trans e aisth
  have hcboot : c.boot = s.boot := by have e := congrArg State.boot hslow; exact Eq.trans e aboot
  have honly := linksUp_only c failed
  have hmods : s.boot.isles = true → ∀ k < 4, ∀ m < 16, isthMod (linksUp c failed) k m = trainMod s failed k m := fun hi k hk m hm => by
    unfold linksUp
    rw [hcboot, if_pos hi, trainLinks_mod c failed hk hm, trainMod_congr hcisth]
  generalize linksUp c failed = d at honly hmods ⊢
  have hdmem : d.memory = c.memory := by have e := congrArg State.memory honly; exact e
  have hcmem : c.memory = a.memory := by have e := congrArg State.memory hslow; exact e
  have hdcores : d.cores = c.cores := by have e := congrArg State.cores honly; exact e
  have hdtide : d.tide = s.tide := by
    have e := congrArg State.tide honly
    have e' := congrArg State.tide hslow
    exact Eq.trans e (Eq.trans e' atide)
  have hdpower : d.power = s.power := by
    have e := congrArg State.power honly
    have e' := congrArg State.power hslow
    exact Eq.trans e (Eq.trans e' apower)
  have hmem : d.memory = a.memory := hdmem.trans hcmem
  refine ⟨?_, ?_, ?_, fun x => ?_, ?_, ?_, hmods⟩
  · exact (congrArg Memory.data hmem).trans adata
  · exact (congrArg Memory.acc hmem).trans aacc
  · exact (congrArg Memory.arenas hmem).trans aarenas
  · exact (congrArg Core.mhz (coreOf_of_cores hdcores x)).trans (hmhz x)
  · change (d.tide.state != tideSource) = _
    rw [hdtide, Bool.eq_iff_iff]
    simp [tideSource]
  · change { d.power with saved := [], isleOff := false, tripDry := false } = _
    rw [hdpower]

end Sys2Proof.Machine
end

section
/-! SUPPORT. Trips, losses and wakes (13, 16): R392, R401, R485, R491, R492. -/

namespace Sys2Proof.Machine

open Sys2Proof

/-! Power that is cut. -/

theorem runsOn_foldl {α : Type} (f : State → α → State) (h : ∀ s x, RunsOn s (f s x)) : ∀ (l : List α) (s : State),
    RunsOn s (l.foldl f s)
  | [], s => .refl s
  | x :: l, s => (h s x).trans (runsOn_foldl f h l _)

theorem arming_runsOn (s : State) (a : Option Arming) : RunsOn s { s with job := { s.job with arming := a } } := rfl

theorem commit_runsOn (s : State) (c : Commit) : RunsOn s { s with commit := c } := rfl

theorem modBox_runsOn (s : State) (m : Nat) (g : Mailbox → Mailbox) : RunsOn s (modBox s m g) := rfl

/-- What waits on power alone ends. -/
theorem endWaiting_runsOn (s : State) : RunsOn s (endWaiting s) := by
  obtain ⟨a, ha⟩ : ∃ a, (match s.job.arming with
    | some a => finish { s with job := { s.job with arming := none } } a.mb stRefused (stateDetail s) []
    | none => s) = a := ⟨_, rfl⟩
  have h1 : RunsOn s a := by
    rw [← ha]
    split
    · exact (arming_runsOn s none).trans (finish_runsOn _ _ _ _ _)
    · exact .refl s
  obtain ⟨b, hb⟩ : ∃ b, (match a.commit.resume with
    | some m => finish { a with commit := { a.commit with resume := none } } m stRefused (stateDetail a) []
    | none => a) = b := ⟨_, rfl⟩
  have h2 : RunsOn a b := by
    rw [← hb]
    split
    · exact (commit_runsOn a _).trans (finish_runsOn _ _ _ _ _)
    · exact .refl a
  have heq : endWaiting s = b.control.boxes.foldl (fun s b => match b.2.run with
    | some r => if r.waits.isEmpty then s
        else finish (modBox s b.1 fun x => { x with run := some { r with waits := [] } }) b.1 stRefused (stateDetail s) []
    | none => s) b := by
    rw [← hb, ← ha]
    rfl
  rw [heq]
  refine (h1.trans h2).trans (runsOn_foldl _ (fun u x => ?_) _ b)
  split
  · split
    · exact .refl u
    · exact (modBox_runsOn u _ _).trans (finish_runsOn _ _ _ _ _)
  · exact .refl u

/-- The package dark, unless it is in Dry already. -/
def darkOnce (s : State) : State := if s.power.state = 3 then s else straitsDark (darkTide s)

theorem darkOnce_runsOn (s : State) : RunsOn s (darkOnce s) := by
  unfold darkOnce
  split
  · exact .refl s
  · exact (darkness_spec s).1

theorem cutPower_eq (s : State) : cutPower s =
    endWaiting (setPower (endPowerCommand (setState (darkOnce s) 3 0) (if s.power.going = some 3 then stOk else stRefused))
      fun p => { p with wakeHeld := false, isleOff := true, saved := if s.power.state = 3 then p.saved else [] }) := by
  delta cutPower darkOnce
  dsimp only

/-- What is left when isles and straits lose their power. -/
theorem cutPower_spec (s : State) : let t := cutPower s
    t.power.state = 3 ∧ t.power.tripDry = s.power.tripDry ∧ t.power.stat = s.power.stat ∧ RunsOn { s with power := t.power } t := by
  rw [cutPower_eq]
  have hdark := darkOnce_runsOn s
  generalize darkOnce s = d at hdark ⊢
  have harr := arrive_spec d 3 0 (if s.power.going = some 3 then stOk else stRefused)
  generalize endPowerCommand (setState d 3 0) (if s.power.going = some 3 then stOk else stRefused) = e at harr ⊢
  obtain ⟨u, hu⟩ : ∃ u, (setPower e fun p => { p with wakeHeld := false, isleOff := true, saved := if s.power.state = 3 then p.saved else [] }) = u :=
    ⟨_, rfl⟩
  have hstate : u.power.state = 3 := by rw [← hu]; exact harr.state
  have htrip : u.power.tripDry = s.power.tripDry := by rw [← hu]; exact harr.tripDry.trans (by rw [hdark.power])
  have hstat : u.power.stat = s.power.stat := by rw [← hu]; exact harr.stat.trans (by rw [hdark.power])
  have hruns : RunsOn { s with power := u.power } u := by
    have h1 := congrArg (fun x : State => { x with power := u.power }) hdark
    have h2 := congrArg (fun x : State => { x with power := u.power }) harr.runs
    have h3 : RunsOn { d with power := u.power } u := by
      rw [← hu] at h2 ⊢
      exact h2
    exact RunsOn.trans (b := { d with power := u.power }) h1 h3
  have hend := endWaiting_runsOn u
  rw [hu]
  generalize endWaiting u = t at hend ⊢
  dsimp only
  rw [hend.power]
  exact ⟨hstate, htrip, hstat, hruns.trans hend⟩

/-! The trip (R401, R492). -/

theorem haltJob_memory (s : State) (cause : Nat) : (haltJob s cause).memory = s.memory := by
  have h : ∀ a : State, (setSupEvent a 0).memory = a.memory := fun a => by
    have e := congrArg State.memory (setSupEvent_same a 0)
    exact e
  exact h _

theorem setGovStat_power (s : State) (b : Nat) :
    (setGovStat s b).power = { s.power with stat := s.power.stat ||| (1#32 <<< b) } := by
  have e := congrArg State.power (setGovStat_same s b)
  exact e

theorem setGovStat_memory (s : State) (b : Nat) : (setGovStat s b).memory = s.memory := by
  have e := congrArg State.memory (setGovStat_same s b)
  exact e

theorem setGovStat_job (s : State) (b : Nat) : (setGovStat s b).job = s.job := by
  have e := congrArg State.job (setGovStat_same s b)
  exact e

theorem driveTrip_eq (s : State) (low : Bool) : ∃ out, driveTrip s low = { s with boot := { s.boot with tripLow := low }, sent := out } := by
  unfold driveTrip
  split
  · next h => exact ⟨s.sent, by rw [← h]⟩
  · exact ⟨_, rfl⟩

/-- The job as a trip leaves it. -/
def tripHalt (s : State) : State := if jobRuns s then haltJob s 4 else s

/-- What a trip leaves. -/
theorem trip_spec (s : State) : let u := setPower (cutPower (setGovStat (tripHalt s) 2)) fun p => { p with tripDry := true }
    u.power.state = 3 ∧ u.power.tripDry = true ∧ u.power.stat.getLsbD 2 = true ∧ u.memory = s.memory ∧
    (jobRuns s = true → u.job.state = 5 ∧ u.job.cause = 4) := by
  have hmem : (tripHalt s).memory = s.memory := by
    unfold tripHalt
    split
    · exact haltJob_memory s 4
    · rfl
  have hjob : jobRuns s = true → (tripHalt s).job.state = 5 ∧ (tripHalt s).job.cause = 4 := fun h => by
    unfold tripHalt
    rw [if_pos h, (haltJob_spec s 4).1]
    exact ⟨rfl, rfl⟩
  generalize tripHalt s = a at hmem hjob ⊢
  have hstat : (setGovStat a 2).power.stat.getLsbD 2 = true := by
    rw [setGovStat_power, BitVec.getLsbD_or]
    simp
  have hgmem := setGovStat_memory a 2
  have hgjob := setGovStat_job a 2
  generalize setGovStat a 2 = b at hstat hgmem hgjob ⊢
  obtain ⟨hstate, -, hcstat, hruns⟩ := cutPower_spec b
  generalize cutPower b = c at hstate hcstat hruns ⊢
  refine ⟨hstate, rfl, ?_, ?_, fun h => ?_⟩
  · change c.power.stat.getLsbD 2 = true
    rw [hcstat, hstat]
  · exact (hruns.memory.trans hgmem).trans hmem
  · obtain ⟨h1, h2⟩ := hjob h
    rw [← hgjob] at h1 h2
    exact ⟨hruns.jobState.trans h1, hruns.jobCause.trans h2⟩

/-! VIN48 (R485). -/

/-- Memory without its contents. -/
def emptied (s : State) : State := { s with memory := { s.memory with data := [], upset := [], writeBack := [], merging := none } }

theorem loseVin48_spec (s : State) : let t := loseVin48 s
    t.power.state = 3 ∧ t.power.vinFault = true ∧ (∀ a, memGet t.memory.data a = 0) ∧ t.meter.range = true ∧ t.meter.energy = s.meter.energy := by
  have key : ∀ u : State, u.power.state = 3 → u.memory = (emptied s).memory → u.meter = s.meter →
      let t := setMeter (setPower u fun p => { p with vinFault := true }) fun m => { m with range := true }
      t.power.state = 3 ∧ t.power.vinFault = true ∧ (∀ a, memGet t.memory.data a = 0) ∧ t.meter.range = true ∧ t.meter.energy = s.meter.energy := by
    intro u hstate hmem hmeter
    refine ⟨hstate, rfl, fun a => ?_, rfl, by rw [← hmeter]; rfl⟩
    exact congrArg (fun m : Memory => memGet m.data a) hmem
  have heq : loseVin48 s = setMeter (setPower (if (emptied s).boot.held = 0 then cutPower (emptied s) else setState (emptied s) 3 0)
      fun p => { p with vinFault := true }) fun m => { m with range := true } := by
    delta loseVin48 emptied
    rfl
  rw [heq]
  refine key _ ?_ ?_ ?_
  all_goals
    obtain ⟨hstate, -, -, hruns⟩ := cutPower_spec (emptied s)
    obtain ⟨ns, hs⟩ := setState_fields (emptied s) 3 0
    split
  · exact hstate
  · rw [hs]
  · exact hruns.memory
  · rw [hs]
  · exact hruns.meter
  · rw [hs]
    rfl

/-! The reference clock (R491). -/

theorem portDown_state_self (s : State) (p cause : Nat) : (portOf (portDown s p cause) p).state = 3 := by
  have h := portDown_port s p cause
  dsimp only at h
  generalize portDown s p cause = t at h ⊢
  have e := congrArg Port.state h
  exact e

theorem portDown_state_ne (s : State) {p q : Nat} (cause : Nat) (hq : q ≠ p) : (portOf (portDown s p cause) q).state = (portOf s q).state := by
  have h := portDown_other s cause hq
  dsimp only at h
  generalize portDown s p cause = t at h ⊢
  have e := congrArg Port.state h
  exact e

theorem portsDown_state (s : State) (p : Nat) (hp : p < 8) : (portOf (portsDown s) p).state ≠ 2 := by
  have key : ∀ (l : List Nat) (u : State), (p ∈ l ∨ (portOf u p).state ≠ 2) →
      (portOf (l.foldl (fun s p => if (portOf s p).state = 0 then s else portDown s p 0) u) p).state ≠ 2 := by
    intro l
    induction l with
    | nil => exact fun u h => h.resolve_left (List.not_mem_nil)
    | cons q l ih =>
      intro u h
      rw [List.foldl_cons]
      refine ih _ ?_
      by_cases hq : p = q
      · refine .inr ?_
        subst hq
        by_cases h0 : (portOf u p).state = 0
        · rw [if_pos h0, h0]
          decide
        · rw [if_neg h0]
          rw [portDown_state_self]
          decide
      · rcases h with h | h
        · exact .inl ((List.mem_cons.mp h).resolve_left hq)
        · refine .inr ?_
          split
          · exact h
          · rw [portDown_state_ne u 0 hq]
            exact h
  exact key _ s (.inl (List.mem_range.mpr hp))

theorem loseReference_eq (s : State) : loseReference s =
    { portsDown (enterHoldover s) with straits := { (portsDown (enterHoldover s)).straits with linkUp := false, ptpLocked := false } } := by
  delta loseReference portsDown
  rfl

theorem loseReference_spec (s : State) : let t := loseReference s
    t.tide.state = 4 ∧ t.straits.linkUp = false ∧ (∀ p < 8, portUp t p = false) ∧ t.cores = s.cores ∧ t.memory = s.memory ∧ t.power = s.power := by
  rw [loseReference_eq]
  have hrun := enterHoldover_runsOn s
  have hstate := enterHoldover_tide s
  generalize enterHoldover s = a at hrun hstate ⊢
  have hdark := portsDown_dark a
  have hports := portsDown_state a
  generalize portsDown a = b at hdark hports ⊢
  have h := hrun.trans hdark.runsOn
  exact ⟨hdark.state.trans hstate, rfl, fun p hp => decide_eq_false (hports p hp), h.cores, h.memory, h.power⟩

/-! Wakes (R392). -/

theorem releaseTrip_eq (s : State) : ∃ b out, releaseTrip s = { s with boot := b, sent := out } := by
  unfold releaseTrip
  split
  · obtain ⟨out, h⟩ := driveTrip_eq { s with boot := { s.boot with tripReset := false } } false
    exact ⟨_, out, h⟩
  · exact ⟨s.boot, s.sent, rfl⟩

theorem releaseTrip_keeps (s : State) : (releaseTrip s).power = s.power ∧ (releaseTrip s).cores = s.cores ∧ (releaseTrip s).memory = s.memory := by
  obtain ⟨b, out, h⟩ := releaseTrip_eq s
  rw [h]
  exact ⟨rfl, rfl, rfl⟩

theorem wakeUp_exits {s : State} (i : Nat) (hv : s.power.vinFault = false) (ht : s.power.tripDry = false) (hg : s.power.going = none)
    (hs : s.power.state ≠ 0) :
    wakeUp s i = { s with power := { s.power with wakeCause := s.power.wakeCause ||| 2 ^ i, going := some 0 } } := by
  unfold wakeUp
  rw [if_neg (by rw [hv, ht]; simp)]
  dsimp only [setPower]
  rw [hg]
  dsimp only
  rw [if_neg hs, if_neg (by rw [ht]; decide)]

theorem entryDone_enters {s : State} {now v : Nat} (ha : alive s = true) (hg : s.power.going = some v) (hs : s.power.state = 0) (hv : v ≠ 0)
    (hb : s.power.ballast = false) : exec (.powerEntryDone now) s = .next (enterState (atTide s now) v) := by
  change execPowerEntryDone now s = _
  unfold execPowerEntryDone
  rw [hg]
  exact when_holds (by simp [ha, hs, hv, hb]) _ _

/-- The package as an exit brings it up: nothing but Slack leaves it as it is. -/
def awake (s : State) (failed : List LaneFail) : State := if s.power.state = 1 then s else leaveDark s failed

/-- An exit that ends in Flood. -/
def exited (s : State) : State := endPowerCommand (setState s 0 (aheadOf s)) stOk

theorem exitDone_exits {s : State} {now : Nat} {failed : List LaneFail} (ha : alive s = true) (hs : s.power.state ≠ 0)
    (hg : s.power.going = some 0) : exec (.powerExitDone (now, failed)) s = .next (exited (awake (atTide s now) failed)) := by
  change execPowerExitDone (now, failed) s = _
  delta execPowerExitDone exited awake
  exact when_holds (by simp [ha, hs, hg]) _ _

theorem exited_spec (s : State) : let t := exited s
    t.power.state = 0 ∧ t.power.going = none ∧ t.memory = s.memory ∧ t.cores = s.cores ∧ t.tide = s.tide ∧ t.isth = s.isth ∧
    t.power.tripDry = s.power.tripDry := by
  have h := arrive_spec s 0 (aheadOf s) stOk
  have htide := arrive_tide s 0 (aheadOf s) stOk
  unfold exited
  generalize endPowerCommand (setState s 0 (aheadOf s)) stOk = t at h htide ⊢
  have histh : t.isth = s.isth := by have e := congrArg State.isth h.runs; exact e
  exact ⟨h.state, h.going, h.runs.memory, h.runs.cores, htide, histh, h.tripDry⟩

theorem awake_data (s : State) (failed : List LaneFail) : (awake s failed).memory.data = s.memory.data := by
  unfold awake
  split
  · rfl
  · exact (leaveDark_spec s failed).1

/-- THERM_TRIP_N goes low once the trip has taken its effect. -/
theorem trip_driven {s u : State} (hstate : u.power.state = 3) (hdry : u.power.tripDry = true) (hstat : u.power.stat.getLsbD 2 = true)
    (hmem : MemSame s u []) (hjob : jobRuns s = true → u.job.state = 5 ∧ u.job.cause = 4) :
    let t := driveTrip { u with boot := { u.boot with tripReset := false } } true
    t.power.state = 3 ∧ t.power.tripDry = true ∧ t.boot.tripLow = true ∧ t.power.stat.getLsbD 2 = true ∧
    (jobRuns s = true → t.job.state = 5 ∧ t.job.cause = 4) ∧ MemSame s t [] := by
  obtain ⟨out, h⟩ := driveTrip_eq { u with boot := { u.boot with tripReset := false } } true
  rw [h]
  exact ⟨hstate, hdry, rfl, hstat, hjob, hmem⟩

/-- Settles O37: entries, exits, wakes and losses by what each leaves of the package. -/
theorem powerTransitionsWakesAndLosses : Obligations.PowerTransitionsWakesAndLosses := by
  unfold Obligations.PowerTransitionsWakesAndLosses
  refine ⟨fun now s ha => ⟨fun v hg hb => ?_, fun v hg hs hv hb hw => ?_, fun v hg hs hv hb hw => ?_, fun failed hs hg => ?_⟩,
    fun now s => ⟨fun i level held temps h0 hv ht hg hs hen hl hh => ?_, fun temps n ha hn hot => ?_, fun hh hv => ?_,
      fun hc hr => ⟨fun h0 => ?_, fun h1 => ?_⟩⟩⟩
  · change execPowerEntryDone now s = _
    unfold execPowerEntryDone
    rw [hg]
    dsimp only
    rw [hb, Bool.not_true, Bool.and_false]
    rfl
  · obtain ⟨hstate, hgoing, -, hcores, hone, hdark, hmem, hbox⟩ := enterState_spec (atTide s now) v
    rw [show (atTide s now).power.wakeHeld = false from hw, if_neg (by decide)] at hgoing
    exact runs_of (entryDone_enters ha hg hs hv hb) ⟨hstate, hgoing, fun h => ⟨hcores, hone h⟩, hdark, memSame_of_data (congrArg Memory.data hmem) _, hbox⟩
  · obtain ⟨hstate, hgoing, hheld, -⟩ := enterState_spec (atTide s now) v
    rw [show (atTide s now).power.wakeHeld = true from hw, if_pos rfl] at hgoing
    exact runs_of (entryDone_enters ha hg hs hv hb) ⟨hstate, hgoing, hheld⟩
  · refine runs_of (t := exited (awake (atTide s now) failed)) (exitDone_exits ha hs hg) ?_
    obtain ⟨hstate, hgoing, hmem, hcores, htide, histh, hdry⟩ := exited_spec (awake (atTide s now) failed)
    refine ⟨hstate, hgoing, memSame_of_data ?_ _, fun h1 => ?_, fun h1 hi => ?_, fun h1 => ?_⟩
    · exact (congrArg Memory.data hmem).trans (awake_data _ _)
    · rw [hcores]
      have he : awake (atTide s now) failed = atTide s now := if_pos h1
      rw [he]
      rfl
    · have he : awake (atTide s now) failed = leaveDark (atTide s now) failed := if_neg h1
      intro k hk m hm
      unfold isthMod
      rw [histh, he]
      exact (leaveDark_spec (atTide s now) failed).2.2.2.2.2.2 hi k hk m hm
    · have he : awake (atTide s now) failed = leaveDark (atTide s now) failed := if_neg h1
      obtain ⟨-, hacc, harenas, hmhz, hmay, hpower, -⟩ := leaveDark_spec (atTide s now) failed
      rw [he] at hmem hcores htide hdry ⊢
      refine ⟨fun c => ?_, ?_, ?_, fun k => ?_, fun a => ?_⟩
      · rw [coreOf_of_cores hcores]
        exact hmhz c
      · rw [htide]
        exact hmay
      · rw [hdry, hpower]
      · unfold accGet
        rw [hmem, hacc]
        rfl
      · unfold arenaAt
        rw [hmem, harenas]
        exact aState_zero
  · refine runs_when (show execWakePin i level held temps s = when _ s _ from rfl) (decide_eq_true h0) ?_
    rw [if_pos (by rw [hen, hl]; simp [hh])]
    obtain ⟨hpower, hcores, hmem⟩ := releaseTrip_keeps (takeTemps s temps)
    generalize releaseTrip (takeTemps s temps) = u at hpower hcores hmem ⊢
    rw [wakeUp_exits (s := u) i.val (by rw [hpower]; exact hv) (by rw [hpower]; exact ht) (by rw [hpower]; exact hg) (by rw [hpower]; exact hs)]
    exact ⟨rfl, by rw [hpower]; rfl, by rw [hpower]; rfl, hcores, hmem⟩
  · obtain ⟨hstate, hdry, hstat, hmem, hjob⟩ := trip_spec (takeTemps (atTide s now) temps)
    refine runs_when (show execThermalTrip temps now s = when _ s _ from rfl) ?_ ?_
    · rw [ha, Bool.true_and]
      exact List.any_eq_true.mpr ⟨n, List.mem_range.mpr hn, decide_eq_true hot⟩
    · exact trip_driven hstate hdry hstat (memSame_of_data (congrArg Memory.data hmem) _) hjob
  · refine runs_when (show execVin48OutOfRange now s = when _ s _ from rfl) ?_ (loseVin48_spec (atTide s now))
    rw [hv, Bool.not_false, Bool.and_true, bne_iff_ne]
    exact hh
  · obtain ⟨htide, hlink, hports, hcores, hmem, hpower⟩ := loseReference_spec (atTide s now)
    refine runs_when (show execRefclkLoss now s = when _ s _ from rfl) (by simp [h0, hc, hr]) ?_
    rw [if_pos h0]
    generalize loseReference (atTide s now) = u at htide hlink hports hcores hmem ⊢
    exact ⟨rfl, htide, hlink, hports, hcores, hmem⟩
  · refine runs_when (show execRefclkLoss now s = when _ s _ from rfl) (by simp [h1, hc, hr]) ?_
    rw [if_neg (by rw [h1]; decide)]
    rfl

end Sys2Proof.Machine
end

section
/-! SUPPORT. The governor and the meter (13): bands, clock points, records (R397–R399, R404, R407–R415). -/

namespace Sys2Proof.Machine

open Sys2Proof

/-! The governor (R397–R399). -/

/-- A state that differs by bits of GOV_STAT that rise, and by what is sent. -/
structure StatOnly (s t : State) : Prop where
  power : { t.power with stat := s.power.stat } = s.power
  rises : ∀ b, s.power.stat.getLsbD b = true → t.power.stat.getLsbD b = true
  cores : t.cores = s.cores
  memory : t.memory = s.memory
  meter : t.meter = s.meter

theorem StatOnly.refl (s : State) : StatOnly s s := ⟨rfl, fun _ h => h, rfl, rfl, rfl⟩

theorem StatOnly.trans {a b c : State} (h : StatOnly a b) (h' : StatOnly b c) : StatOnly a c := by
  refine ⟨Eq.trans ?_ h.power, fun x hx => h'.rises x (h.rises x hx), h'.cores.trans h.cores, h'.memory.trans h.memory, h'.meter.trans h.meter⟩
  rw [← h'.power]

theorem setGovStat_only (s : State) (b : Nat) : StatOnly s (setGovStat s b) := by
  have h := setGovStat_same s b
  have hc : (setGovStat s b).cores = s.cores := by have e := congrArg State.cores h; exact e
  have hm : (setGovStat s b).meter = s.meter := by have e := congrArg State.meter h; exact e
  refine ⟨by rw [setGovStat_power], fun x hx => ?_, hc, setGovStat_memory s b, hm⟩
  rw [setGovStat_power, BitVec.getLsbD_or, hx, Bool.true_or]

theorem setGovStat_raises (s : State) {b : Nat} (hb : b < 32) : (setGovStat s b).power.stat.getLsbD b = true := by
  rw [setGovStat_power, BitVec.getLsbD_or]
  simp [hb]

/-- The band's work that cannot be met is shown. -/
def bandShown (s : State) (u l : Nat) (w : PowerWork) : State :=
  let s := if u + 20000 < w.low then setGovStat s 0 else s
  if w.ballast + 20000 < l then setGovStat s 1 else s

theorem bandShown_spec (s : State) (u l : Nat) (w : PowerWork) : StatOnly s (bandShown s u l w) ∧
    (u + 20000 < w.low → (bandShown s u l w).power.stat.getLsbD 0 = true) ∧
    (w.ballast + 20000 < l → (bandShown s u l w).power.stat.getLsbD 1 = true) := by
  unfold bandShown
  dsimp only
  obtain ⟨a, ha⟩ : ∃ a, (if u + 20000 < w.low then setGovStat s 0 else s) = a := ⟨_, rfl⟩
  have h1 : StatOnly s a ∧ (u + 20000 < w.low → a.power.stat.getLsbD 0 = true) := by
    rw [← ha]
    split
    · exact ⟨setGovStat_only s 0, fun _ => setGovStat_raises s (by decide)⟩
    · next h => exact ⟨.refl s, fun h' => absurd h' h⟩
  rw [ha]
  split
  · have h2 := setGovStat_only a 1
    exact ⟨h1.1.trans h2, fun h => h2.rises 0 (h1.2 h), fun _ => setGovStat_raises a (by decide)⟩
  · next h => exact ⟨h1.1, h1.2, fun h' => absurd h' h⟩

theorem movePoints_spec : ∀ (l : List (Fin 576 × Nat)) (s : State), (l.foldl movePoint s).power = s.power ∧
    (l.foldl movePoint s).memory = s.memory ∧ (l.foldl movePoint s).meter = s.meter ∧
    ∀ c, { coreOf (l.foldl movePoint s) c with mhz := (coreOf s c).mhz } = coreOf s c
  | [], s => ⟨rfl, rfl, rfl, fun _ => rfl⟩
  | p :: l, s => by
    obtain ⟨hp, hm, hme, hc⟩ := movePoints_spec l (movePoint s p)
    refine ⟨hp, hm, hme, fun c => ?_⟩
    rw [List.foldl_cons]
    have h := hc c
    generalize l.foldl movePoint (movePoint s p) = t at h ⊢
    unfold movePoint at h
    by_cases e : c = p.1.val
    · rw [e] at h ⊢
      rw [coreOf_modCore_self] at h
      have h2 := congrArg (fun k : Core => { k with mhz := (coreOf s p.1.val).mhz }) h
      exact h2
    · rw [coreOf_modCore_ne _ _ e] at h
      exact h

theorem floorMw_congr {s t : State} (himage : ImageSame s t) (htide : t.tide = s.tide) (hfloor : t.power.floor = s.power.floor)
    (hcap : t.power.cap = s.power.cap) (hramp : t.power.ramp = s.power.ramp) (hslew : t.power.slewUp = s.power.slewUp) :
    floorMw t = floorMw s := by
  unfold floorMw rampMw jobRuns
  rw [himage.secNat, htide, hfloor, hcap, hramp, hslew, himage.job]

/-- The mean that bounds the next band. -/
def bandMean (s : State) (m : Nat) : Nat := if s.power.bandSet then max s.power.bandL (min s.power.bandU m) else m

/-- The mean of a frame taken, and what the meter noted beside it. -/
def meanTaken (s : State) (x : Meter) (m : Nat) : State := setPower { s with meter := x } fun p => { p with meanMw := m, powerMw := m }

/-- The band of the next interval, set. -/
def banded (s : State) (u l : Nat) (w : PowerWork) : State :=
  setPower s fun p => { p with bandU := u, bandL := l, bandSet := true, ballast := decide (w.high + 20000 < l) }

theorem steer_eq (s : State) (w : PowerWork) :
    steer s w = bandShown (w.points.foldl movePoint (banded s (nextBand s).1 (nextBand s).2 w)) (nextBand s).1 (nextBand s).2 w := by
  delta steer bandShown banded
  rfl

theorem nextBand_taken (s : State) (x : Meter) (m : Nat) : nextBand (meanTaken s x m) =
    (min (bandMean s m + s.power.slewUp) (max (1000 * (if s.memory.wipe = 0 then s.power.cap else 1500)) (bandMean s m - s.power.slewDn)),
     min (nextBand (meanTaken s x m)).1 (max (floorMw s) (bandMean s m - s.power.slewDn))) := by
  have hfloor : floorMw (meanTaken s x m) = floorMw s := floorMw_congr (.of_eq rfl rfl) rfl rfl rfl rfl rfl
  unfold nextBand
  dsimp only
  rw [hfloor]
  rfl

theorem steer_keeps (s : State) (w : PowerWork) : let t := steer s w
    { t.power with bandU := s.power.bandU, bandL := s.power.bandL, bandSet := s.power.bandSet, ballast := s.power.ballast, stat := s.power.stat } =
      s.power ∧ t.memory = s.memory ∧ t.meter = s.meter ∧ ∀ c, { coreOf t c with mhz := (coreOf s c).mhz } = coreOf s c := by
  rw [steer_eq]
  generalize (nextBand s).1 = u
  generalize (nextBand s).2 = l
  obtain ⟨hp, hm, hme, hc⟩ := movePoints_spec w.points (banded s u l w)
  generalize w.points.foldl movePoint (banded s u l w) = b at hp hm hme hc ⊢
  obtain ⟨hstat, -, -⟩ := bandShown_spec b u l w
  generalize bandShown b u l w = t at hstat ⊢
  refine ⟨?_, hstat.memory.trans hm, hstat.meter.trans hme, fun c => ?_⟩
  · have h := hstat.power
    rw [hp] at h
    have e := congrArg (fun p : Power => { p with
      bandU := s.power.bandU, bandL := s.power.bandL, bandSet := s.power.bandSet, ballast := s.power.ballast, stat := s.power.stat }) h
    exact e
  · rw [coreOf_of_cores hstat.cores]
    exact hc c

/-- The band that a steering sets, and the points of the cores. -/
theorem steer_band (s : State) (w : PowerWork) : let t := steer s w
    t.power.bandU = (nextBand s).1 ∧ t.power.bandL = (nextBand s).2 ∧ t.power.bandSet = true ∧
    t.power.ballast = decide (w.high + 20000 < (nextBand s).2) ∧
    ((nextBand s).1 + 20000 < w.low → t.power.stat.getLsbD 0 = true) ∧ (w.ballast + 20000 < (nextBand s).2 → t.power.stat.getLsbD 1 = true) ∧
    ∀ p, w.points = [p] → (coreOf t p.1).mhz = max 400 (min 1650 p.2) := by
  rw [steer_eq]
  generalize (nextBand s).1 = u
  generalize (nextBand s).2 = l
  obtain ⟨hp, -, -, -⟩ := movePoints_spec w.points (banded s u l w)
  have hpoint : ∀ p, w.points = [p] → (coreOf (w.points.foldl movePoint (banded s u l w)) p.1).mhz = max 400 (min 1650 p.2) := fun p h => by
    rw [h, List.foldl_cons, List.foldl_nil]
    unfold movePoint
    rw [coreOf_modCore_self]
    rfl
  generalize w.points.foldl movePoint (banded s u l w) = b at hp hpoint ⊢
  obtain ⟨hstat, h0, h1⟩ := bandShown_spec b u l w
  generalize bandShown b u l w = t at hstat h0 h1 ⊢
  have h := hstat.power
  rw [hp] at h
  refine ⟨?_, ?_, ?_, ?_, h0, h1, fun p hpt => by rw [coreOf_of_cores hstat.cores]; exact hpoint p hpt⟩
  · have e := congrArg Power.bandU h; exact e
  · have e := congrArg Power.bandL h; exact e
  · have e := congrArg Power.bandSet h; exact e
  · have e := congrArg Power.ballast h; exact e

/-- What the meter notes of an interval (R414). -/
def intervalNoted (s : State) (low range : Bool) : State := setMeter s fun x => { x with low := x.low || low, range := x.range || range }

/-- What an interval leaves: the band is steered in Flood alone. -/
def steered (s : State) (w : PowerWork) : State := if alive s && s.power.state = 0 then steer s w else s

theorem exec_fastPowerFrame (s : State) (bytes : List Byte) (low range : Bool) (w : PowerWork) :
    exec (.fastPowerFrame (bytes, low, range) w) s = .next (if s.boot.held ≠ 0 then intervalNoted s low range
      else steered (takeMean (intervalNoted s low range) bytes) w) := by
  change execFastPowerFrame (bytes, low, range) w s = _
  unfold execFastPowerFrame steered takeMean
  cases frameMean bytes with
  | none => simp only [bne_iff_ne]; rfl
  | some m => simp only [bne_iff_ne]; rfl

theorem takeMean_some {s : State} {bytes : List Byte} {m : Nat} (h : frameMean bytes = some m) :
    takeMean s bytes = setPower s fun p => { p with meanMw := m, powerMw := m } := by
  unfold takeMean
  rw [h]

theorem takeMean_none {s : State} {bytes : List Byte} (h : frameMean bytes = none) : takeMean s bytes = s := by
  unfold takeMean
  rw [h]

theorem takeMean_meter (s : State) (bytes : List Byte) : (takeMean s bytes).meter = s.meter := by
  unfold takeMean
  split
  · rfl
  · rfl

theorem steered_keeps (s : State) (w : PowerWork) : (steered s w).meter = s.meter ∧ (steered s w).power.powerMw = s.power.powerMw ∧
    (steered s w).power.meanMw = s.power.meanMw := by
  unfold steered
  split
  · obtain ⟨hp, -, hme, -⟩ := steer_keeps s w
    exact ⟨hme, by have e := congrArg Power.powerMw hp; exact e, by have e := congrArg Power.meanMw hp; exact e⟩
  · exact ⟨rfl, rfl, rfl⟩

/-- Settles O38: the mean, the band, the points and the notes of an interval; then the ramp. -/
theorem governorSteers : Obligations.GovernorSteers := by
  unfold Obligations.GovernorSteers
  refine fun s => ⟨fun bytes low range w m h0 hv hs hm => ?_, fun bytes low range w h0 hm => ?_, fun bytes low range w => ?_,
    fun now r ha hj hrun hr hle => ?_⟩
  · have run := exec_fastPowerFrame s bytes low range w
    rw [if_neg (not_not.mpr h0), takeMean_some hm] at run
    obtain ⟨x, hx⟩ : ∃ x, (intervalNoted s low range).meter = x := ⟨_, rfl⟩
    have hstart : (setPower (intervalNoted s low range) fun p => { p with meanMw := m, powerMw := m }) = meanTaken s x m := by rw [← hx]; rfl
    have halive : (alive (meanTaken s x m) && (meanTaken s x m).power.state = 0) = true := by
      change (decide (s.boot.held = 0) && !s.power.vinFault && decide (s.power.state = 0)) = true
      rw [h0, hv, hs]
      rfl
    rw [hstart] at run
    unfold steered at run
    rw [if_pos halive] at run
    obtain ⟨hkp, hkm, -, hkc⟩ := steer_keeps (meanTaken s x m) w
    obtain ⟨hu, hl, hset, hballast, hlow, hhigh, hpoint⟩ := steer_band (meanTaken s x m) w
    have hband := nextBand_taken s x m
    have hband1 := congrArg Prod.fst hband
    have hband2 := congrArg Prod.snd hband
    refine runs_of run ?_
    intro g
    refine ⟨by have e := congrArg Power.powerMw hkp; exact e, by have e := congrArg Power.meanMw hkp; exact e, hset, hu.trans hband1,
      ?_, ?_, ?_, ?_, hkm, hkc, hpoint⟩
    · rw [hl, hu]
      exact hband2
    · rw [hu]; exact hlow
    · rw [hl]; exact hhigh
    · rw [hl]; exact hballast
  · have run := exec_fastPowerFrame s bytes low range w
    rw [if_neg (not_not.mpr h0), takeMean_none hm] at run
    obtain ⟨-, hp, hmean⟩ := steered_keeps (intervalNoted s low range) w
    exact runs_of run ⟨hp, hmean⟩
  · have run := exec_fastPowerFrame s bytes low range w
    by_cases h0 : s.boot.held = 0
    · rw [if_neg (not_not.mpr h0)] at run
      obtain ⟨hme, -, -⟩ := steered_keeps (takeMean (intervalNoted s low range) bytes) w
      exact runs_of run ⟨hme.trans (takeMean_meter _ _), fun h => absurd h0 h⟩
    · rw [if_pos h0] at run
      exact runs_of run ⟨rfl, fun _ => rfl⟩
  · refine runs_of (t := setPower (atTide s now) fun p => { p with rampAt := none, ramp := some (r, p.meanMw) }) ?_ rfl
    change execRampStart now s = _
    unfold execRampStart
    rw [hr]
    exact when_holds (by simp only [ha, hj, hrun, Bool.true_and, Bool.not_false]; exact decide_eq_true hle) _ _

end Sys2Proof.Machine
end

section
/-! SUPPORT. The meter's records (13, R407–R415). -/

namespace Sys2Proof.Machine

open Sys2Proof

/-- The last record that the meter made. -/
def lastRecord (t : State) : List Byte := tblGet [] t.meter.ring ((t.meter.seqNext - 1) % 32768)

/-- The last record is the head of the chain, and carries its number. -/
def Linked (t : State) : Prop :=
  t.meter.prev = (shake256 (lastRecord t)).take 16 ∧ (lastRecord t).take 8 = leBytes 8 (t.meter.seqNext - 1)

theorem length_leBytes8 (x : Nat) : (leBytes 8 x).length = 8 := rfl

theorem recordHead_seq (m : Meter) (typ : Nat) (body rest : List Byte) : (recordHead m typ body ++ rest).take 8 = leBytes 8 m.seqNext := by
  unfold recordHead
  simp only [List.append_assoc]
  exact List.take_left' (length_leBytes8 _)

/-- What an appended record leaves (R412, R414). -/
theorem append_spec (s : State) (typ : Nat) (body : List Byte) : let t := append s typ body
    t.meter.seqNext = s.meter.seqNext + 1 ∧ Linked t ∧ { t with meter := s.meter } = s ∧
    { t.meter with ring := s.meter.ring, prev := s.meter.prev, seqNext := s.meter.seqNext, low := s.meter.low, range := s.meter.range } = s.meter := by
  obtain ⟨rec_, hrec⟩ : ∃ rec_, recordHead s.meter typ body ++ recordSig (recordHead s.meter typ body) = rec_ := ⟨_, rfl⟩
  have hseq : rec_.take 8 = leBytes 8 s.meter.seqNext := by rw [← hrec]; exact recordHead_seq _ _ _ _
  have heq : append s typ body = { s with meter := { s.meter with
      ring := tblSet [] s.meter.ring (s.meter.seqNext % 32768) rec_, prev := (shake256 rec_).take 16, seqNext := s.meter.seqNext + 1
      low := false, range := false } } := by
    rw [← hrec]
    rfl
  rw [heq]
  have hlast : lastRecord { s with meter := { s.meter with
      ring := tblSet [] s.meter.ring (s.meter.seqNext % 32768) rec_, prev := (shake256 rec_).take 16, seqNext := s.meter.seqNext + 1
      low := false, range := false } } = rec_ := tblGet_set_self _ _ _ _
  refine ⟨rfl, ⟨?_, ?_⟩, rfl, rfl⟩
  · rw [hlast]
  · rw [hlast, hseq]
    rfl

section
variable (s : State) (typ : Nat) (body : List Byte)

theorem append_energy : (append s typ body).meter.energy = s.meter.energy := by have e := congrArg Meter.energy (append_spec s typ body).2.2.2; exact e
theorem append_rtc : (append s typ body).meter.rtc = s.meter.rtc := by have e := congrArg Meter.rtc (append_spec s typ body).2.2.2; exact e
theorem append_tag : (append s typ body).meter.tag = s.meter.tag := by have e := congrArg Meter.tag (append_spec s typ body).2.2.2; exact e
theorem append_interval : (append s typ body).meter.interval = s.meter.interval := by
  have e := congrArg Meter.interval (append_spec s typ body).2.2.2; exact e
theorem append_seals : (append s typ body).meter.seals = s.meter.seals := by have e := congrArg Meter.seals (append_spec s typ body).2.2.2; exact e
theorem append_romOk : (append s typ body).meter.romOk = s.meter.romOk := by have e := congrArg Meter.romOk (append_spec s typ body).2.2.2; exact e
theorem append_closedAt : (append s typ body).meter.closedAt = s.meter.closedAt := by
  have e := congrArg Meter.closedAt (append_spec s typ body).2.2.2; exact e
theorem append_intervalDue : (append s typ body).meter.intervalDue = s.meter.intervalDue := by
  have e := congrArg Meter.intervalDue (append_spec s typ body).2.2.2; exact e
end

/-- Chained as the statement has it, from a record appended to a state that differs from the first by the meter and the power unit alone. -/
theorem chained_of {s u t : State} (hlink : Linked t) (hrest : { t with meter := u.meter } = u)
    (h : { u with meter := s.meter, power := s.power } = s) :
    t.meter.prev = (shake256 (tblGet [] t.meter.ring ((t.meter.seqNext - 1) % 32768))).take 16 ∧
    (tblGet [] t.meter.ring ((t.meter.seqNext - 1) % 32768)).take 8 = leBytes 8 (t.meter.seqNext - 1) ∧
    { t with meter := s.meter, power := s.power } = s := by
  obtain ⟨hprev, hseq⟩ := hlink
  refine ⟨hprev, hseq, ?_⟩
  have e := congrArg (fun x : State => { x with meter := s.meter, power := s.power }) hrest
  exact Eq.trans e h

/-- What the end of an interval leaves (R412). -/
theorem closeInterval_spec (s : State) (peakW : Nat) : let t := closeInterval s peakW
    t.meter.seqNext = s.meter.seqNext + 1 ∧ Linked t ∧ { t with meter := s.meter } = s ∧ t.meter.energy = s.meter.energy ∧
    t.meter.closedAt = rtcMinute s.meter.rtc ∧ t.meter.intervalDue = s.meter.intervalDue := by
  unfold closeInterval
  dsimp only
  generalize body4 (sat16 (rtcMinute s.meter.rtc - s.meter.closedAt)) (sat16 peakW) 0 0 = body
  obtain ⟨hseq, hlink, hrest, -⟩ := append_spec s 1 body
  have hrtc := append_rtc s 1 body
  have henergy := append_energy s 1 body
  have hdue := append_intervalDue s 1 body
  generalize append s 1 body = a at hseq hlink hrest hrtc henergy hdue ⊢
  exact ⟨hseq, hlink, hrest, henergy, congrArg rtcMinute hrtc, hdue⟩

/-- What a seal event leaves (R408). -/
theorem sealRecord_spec (s : State) (cause addr : Nat) : let t := sealRecord s cause addr
    t.meter.seqNext = s.meter.seqNext + 1 ∧ Linked t ∧ { t with meter := s.meter } = s ∧ t.meter.seals = min (2 ^ 30 - 1) (s.meter.seals + 1) ∧
    t.meter.interval = s.meter.interval ∧ t.meter.romOk = s.meter.romOk := by
  unfold sealRecord
  generalize body4 cause addr 0 0 = body
  obtain ⟨n, hn⟩ : ∃ n, min (2 ^ 30 - 1) (s.meter.seals + 1) = n := ⟨_, rfl⟩
  rw [hn]
  obtain ⟨u, hu⟩ : ∃ u, (setMeter s fun m => { m with seals := min (2 ^ 30 - 1) (m.seals + 1) }) = u := ⟨_, rfl⟩
  have hus : u = { s with meter := { s.meter with seals := n } } := by rw [← hu, ← hn]; rfl
  rw [hu]
  obtain ⟨hseq, hlink, hrest, -⟩ := append_spec u 4 body
  refine ⟨?_, hlink, ?_, ?_, ?_, ?_⟩
  · rw [hseq, hus]
  · have e := congrArg (fun x : State => { x with meter := s.meter }) hrest
    refine Eq.trans e ?_
    rw [hus]
  · rw [append_seals, hus]
  · rw [append_interval, hus]
  · rw [append_romOk, hus]

/-! Notices (R410, R430). -/

theorem meterAnswer_runsOn (s : State) (m : Nat) : RunsOn s (meterAnswer s m) := by
  unfold meterAnswer
  dsimp only
  split
  · exact finish_runsOn _ _ _ _ _
  · exact finish_runsOn _ _ _ _ _

theorem meterAnswer_run {s : State} {m : Nat} {r : Running} (h : (boxOf s m).run = some r) :
    ∃ resp, (boxOf (meterAnswer s m) m).run = some { r with result := some ⟨0, 0, resp⟩ } := by
  unfold meterAnswer
  dsimp only
  split
  · exact ⟨_, (finish_run stOk 0 _ h).1⟩
  · exact ⟨_, (finish_run stOk 0 _ h).1⟩

/-- The reads that wait, with one notice fewer before them. -/
def readsOn (s : State) : List (Nat × Nat) := s.power.reads.map fun r => (r.1, r.2 - 1)

/-- The reads still behind a notice. -/
def readsWait (s : State) : State := setPower s fun p => { p with reads := (readsOn s).filter fun r => r.2 != 0 }

theorem serveReads_eq (s : State) : serveReads s = ((readsOn s).filter fun r => r.2 = 0).foldl (fun t r => meterAnswer t r.1) (readsWait s) := rfl

theorem serveReads_none {s : State} (h : s.power.reads = []) : serveReads s = s := by
  have e : ({ s with power := { s.power with reads := [] } } : State) = s := by rw [← h]
  rw [serveReads_eq, readsWait, readsOn, h]
  exact e

theorem serveReads_runsOn (s : State) : RunsOn (readsWait s) (serveReads s) := by
  rw [serveReads_eq]
  exact runsOn_foldl (fun t (r : Nat × Nat) => meterAnswer t r.1) (fun u r => meterAnswer_runsOn u r.1) _ _

theorem serveReads_one {s : State} {b : Nat} (h : s.power.reads = [(b, 1)]) : serveReads s = meterAnswer (setPower s fun p => { p with reads := [] }) b := by
  rw [serveReads_eq, readsWait, readsOn, h]
  rfl

/-- A notice that the meter takes: its tag, or a power setting (R410). -/
theorem takeNotice_spec (s : State) (n : Notice) : let t := takeNotice s n
    t.meter.seqNext = s.meter.seqNext + 1 ∧ { t with meter := s.meter } = s ∧ t.meter.energy = s.meter.energy ∧ t.meter.rtc = s.meter.rtc ∧
    t.meter.tag = (if n.typ = 2 then n.new else s.meter.tag) ∧ Linked t := by
  unfold takeNotice
  split
  · next h =>
    obtain ⟨hseq, hlink, hrest, -⟩ := append_spec (setMeter s fun m => { m with tag := n.new }) 2 (body4 n.old n.new n.gen 0)
    refine ⟨hseq, ?_, append_energy _ _ _, append_rtc _ _ _, append_tag _ _ _, hlink⟩
    have e := congrArg (fun x : State => { x with meter := s.meter }) hrest
    exact e
  · obtain ⟨hseq, hlink, hrest, -⟩ := append_spec s 3 (body4 n.setting n.old n.new n.gen)
    exact ⟨hseq, hrest, append_energy _ _ _, append_rtc _ _ _, append_tag _ _ _, hlink⟩

/-- The oldest notice taken from the queue. -/
def noticed (s : State) (n : Notice) (rest : List Notice) (e rtc : Nat) : State :=
  takeNotice (meterAt (setPower s fun p => { p with notices := rest }) e rtc) n

theorem noticed_spec (s : State) (n : Notice) (rest : List Notice) (e rtc : Nat) : let u := noticed s n rest e rtc
    u.meter.seqNext = s.meter.seqNext + 1 ∧ { u with meter := s.meter, power := s.power } = s ∧ u.power = { s.power with notices := rest } ∧
    u.meter.energy = max s.meter.energy e ∧ u.meter.rtc = max s.meter.rtc rtc ∧
    u.meter.tag = (if n.typ = 2 then n.new else s.meter.tag) ∧ Linked u := by
  unfold noticed
  obtain ⟨a, ha⟩ : ∃ a, meterAt (setPower s fun p => { p with notices := rest }) e rtc = a := ⟨_, rfl⟩
  obtain ⟨hseq, hrest, henergy, hrtc, htag, hlink⟩ := takeNotice_spec a n
  rw [ha]
  refine ⟨?_, ?_, ?_, ?_, ?_, ?_, hlink⟩
  · rw [hseq, ← ha]; rfl
  · have h := congrArg (fun x : State => { x with meter := s.meter, power := s.power }) hrest
    refine Eq.trans h ?_
    rw [← ha]
    rfl
  · have h := congrArg State.power hrest
    refine Eq.trans h ?_
    rw [← ha]
    rfl
  · rw [henergy, ← ha]; rfl
  · rw [hrtc, ← ha]; rfl
  · rw [htag, ← ha]; rfl

/-- Settles O39: one record or two at each event, each the head of the chain. -/
theorem meterRecords : Obligations.MeterRecords := by
  unfold Obligations.MeterRecords
  intro s m grew last chained
  refine ⟨fun n rest e rtc h0 hn => ?_, fun ptp rtc h0 hp => ?_, fun e rtc w => ?_, fun v e rtc w h1 h60 hne => ?_, fun v e rtc w hv => ?_,
    fun a v e rtc hr => ?_, fun a v e rtc => ?_, fun gap e => ?_, fun rtc => ?_, fun e h0 => ?_⟩
  · have run : exec (.settingNotice e rtc) s = .next (serveReads (noticed s n rest e rtc)) := by
      change execSettingNotice e rtc s = _
      unfold execSettingNotice
      rw [hn]
      exact when_holds (decide_eq_true h0) _ _
    obtain ⟨hseq, hrest, hpower, henergy, hrtc, htag, hlink⟩ := noticed_spec s n rest e rtc
    generalize noticed s n rest e rtc = u at run hseq hrest hpower henergy hrtc htag hlink
    have hruns := serveReads_runsOn u
    have hmeter : (serveReads u).meter = u.meter := hruns.meter
    refine runs_of run ⟨(congrArg Meter.seqNext hmeter).trans hseq, fun hr => ?_, ?_, fun b r hr hrun => ?_, (congrArg Meter.tag hmeter).trans htag,
      (congrArg Meter.energy hmeter).trans henergy, (congrArg Meter.rtc hmeter).trans hrtc⟩
    · rw [serveReads_none (by rw [hpower]; exact hr)]
      exact ⟨hlink.1, hlink.2, hrest⟩
    · rw [hruns.power]
      change u.power.notices = rest
      rw [hpower]
    · rw [serveReads_one (by rw [hpower]; exact hr)]
      have hbox : (boxOf (setPower u fun p => { p with reads := [] }) b).run = some r := by
        have e := congrArg (fun x : State => (boxOf x b).run) hrest
        exact Eq.trans e hrun
      refine ⟨?_, meterAnswer_run hbox⟩
      rw [(meterAnswer_runsOn _ b).power]
      rfl
  · exact runs_when (show execTimeNotice ptp rtc s = when _ s _ from rfl) (by rw [h0, hp]; rfl) rfl
  · intro t1 hi hmod hclosed
    refine runs_when (show execMeterIntervalRecord e rtc w s = when _ s _ from rfl) ?_ ?_
    · rw [Bool.and_eq_true, decide_eq_true_eq, decide_eq_true_eq]
      exact ⟨hmod, hclosed⟩
    · obtain ⟨hseq, hlink, hrest, henergy, hclosedAt, -⟩ := closeInterval_spec (meterAt s e rtc) w
      exact ⟨hseq, chained_of hlink hrest rfl, hclosedAt, henergy⟩
  · obtain ⟨u, hu⟩ : ∃ u, (setMeter (meterAt s e rtc) fun m => { m with intervalDue := none }) = u := ⟨_, rfl⟩
    have run : exec (.mtIntervalWrite v e rtc w) s = .next (append (setMeter (closeInterval u w) fun m => { m with interval := v }) 3
        (body4 6 u.meter.interval v (s.control.cfgGen % 65536))) := by
      change execMtIntervalWrite v e rtc w s = _
      unfold execMtIntervalWrite
      dsimp only
      rw [if_pos ⟨h1, h60⟩, hu, if_neg (show v ≠ u.meter.interval by rw [← hu]; exact hne)]
    obtain ⟨hseq, hlink, hrest, henergy, hclosedAt, hdue⟩ := closeInterval_spec u w
    generalize closeInterval u w = c at run hseq hlink hrest henergy hclosedAt hdue
    obtain ⟨hseq2, hlink2, hrest2, -⟩ := append_spec (setMeter c fun m => { m with interval := v }) 3
      (body4 6 u.meter.interval v (s.control.cfgGen % 65536))
    refine runs_of run ⟨?_, chained_of hlink2 hrest2 ?_, append_interval _ _ _, ?_⟩
    · refine hseq2.trans ?_
      change c.meter.seqNext + 1 = m.seqNext + 2
      rw [hseq, ← hu]
      rfl
    · have e1 := congrArg (fun x : State => { x with meter := s.meter, power := s.power }) hrest
      refine Eq.trans e1 ?_
      rw [← hu]
      rfl
    · refine (append_intervalDue _ _ _).trans ?_
      change c.meter.intervalDue = none
      rw [hdue, ← hu]
      rfl
  · have run : exec (.mtIntervalWrite v e rtc w) s =
        .next (sealRecord (setMeter (meterAt s e rtc) fun m => { m with intervalDue := none }) 1 mtIntervalAddr) := by
      change execMtIntervalWrite v e rtc w s = _
      unfold execMtIntervalWrite
      dsimp only
      rw [if_neg (by omega)]
    obtain ⟨hseq, -, -, hseals, hinterval, -⟩ := sealRecord_spec (setMeter (meterAt s e rtc) fun m => { m with intervalDue := none }) 1 mtIntervalAddr
    exact runs_of run ⟨hseq, hinterval, hseals⟩
  · refine runs_of (t := sealRecord (meterAt s e rtc) 1 (a % 65536)) ?_ ?_
    · exact show execSealEvent false a v e rtc s = _ from when_holds hr _ _
    · obtain ⟨hseq, hlink, hrest, hseals, hinterval, -⟩ := sealRecord_spec (meterAt s e rtc) 1 (a % 65536)
      exact ⟨hseq, chained_of hlink hrest rfl, hseals, hinterval⟩
  · refine runs_of (show execSealEvent true a v e rtc s = .next _ from rfl) ?_
    obtain ⟨hseq, -, -, -, -, hrom⟩ := sealRecord_spec (setMeter (meterAt s e rtc) fun m => { m with romOk := false }) 2 0
    exact ⟨hseq, hrom⟩
  · refine runs_of (show execMeterStart gap e s = .next (append _ 5 _) from rfl) ?_
    obtain ⟨hseq, hlink, hrest, -⟩ := append_spec (setMeter s fun m => { m with
      energy := max m.energy e, rtc := m.stored, romOk := true, ptpAt := none, closedAt := rtcMinute m.stored }) 5 (body4 (sat16 gap) 0 0 0)
    exact ⟨hseq, chained_of hlink hrest rfl, append_rtc _ _ _, append_energy _ _ _⟩
  · exact runs_of (show execRtcStore rtc s = .next _ from rfl) rfl
  · exact runs_when (show execMtEnergyCopy e s = when _ s _ from rfl) (by rw [h0]; rfl) rfl

end Sys2Proof.Machine
end

section
/-! SUPPORT. The harbour port's messages (08, R261–R264, R378, R379, R382, R443). -/

namespace Sys2Proof.Machine

open Sys2Proof

/-! What leaves the port (R262). -/

theorem sendHarbour_known {s : State} {dst : BitVec 128} {n : BitVec 128 × BitVec 48} (o : HarbourOut)
    (h : s.straits.neighbours.find? (fun n => n.1 = dst) = some n) : sendHarbour s dst o = sendTo s n.2 o := by
  unfold sendHarbour
  rw [h]

theorem sendHarbour_unknown {s : State} {dst : BitVec 128} (o : HarbourOut) (h : s.straits.neighbours.find? (fun n => n.1 = dst) = none) :
    sendHarbour s dst o =
      sendTo { s with straits := { s.straits with unresolved := s.straits.unresolved ++ [(dst, o)] } } (solicitedMac dst) (.solicit dst) := by
  unfold sendHarbour
  rw [h]

/-- A message to a peer: it leaves, or its peer is solicited and it waits. -/
theorem sendHarbour_spec (s : State) (dst : BitVec 128) (o : HarbourOut) : let t := sendHarbour s dst o
    { t with sent := s.sent, straits := { t.straits with unresolved := s.straits.unresolved } } = s ∧ HarbourSends s t dst o := by
  unfold HarbourSends
  rcases h : s.straits.neighbours.find? (fun n => n.1 = dst) with _ | n
  · rw [sendHarbour_unknown o h]
    exact ⟨rfl, fun m hm => absurd (h.symm.trans hm).symm (Option.some_ne_none m), fun _ => ⟨rfl, rfl⟩⟩
  · rw [sendHarbour_known o h]
    exact ⟨rfl, fun m hm => by rw [← Option.some.inj (h.symm.trans hm)]; exact ⟨rfl, rfl⟩,
      fun hm => absurd (h.symm.trans hm) (Option.some_ne_none n)⟩

theorem sendHarbour_sessions (s : State) (dst : BitVec 128) (o : HarbourOut) : (sendHarbour s dst o).straits.sessions = s.straits.sessions := by
  have e := congrArg (fun x : State => x.straits.sessions) (sendHarbour_spec s dst o).1
  exact e

theorem transmit_sessions (s : State) (k : Nat) (h : HOut) : (transmit s k h).straits.sessions = s.straits.sessions := by
  unfold transmit
  dsimp only
  split
  · exact sendHarbour_sessions _ _ _
  · rfl

theorem sessionOf_of {s t : State} (h : t.straits.sessions = s.straits.sessions) (k : Nat) : sessionOf t k = sessionOf s k := by
  unfold sessionOf
  rw [h]

theorem transmits_sessions (k : Nat) : ∀ (l : List HOut) (s : State),
    (l.foldl (fun s h => transmit s k h) s).straits.sessions = s.straits.sessions
  | [], _ => rfl
  | h :: l, s => (transmits_sessions k l (transmit s k h)).trans (transmit_sessions s k h)

/-! Rows of the port (R264). -/

theorem harbourRow_mine {s t : State} {typ : Nat} {m : HMsg} (h : harbourOn s = true) (hn : netOk s m.net 17 = true)
    (hp : m.dstPort.toNat = s.straits.udp) (hv : m.version = 1) (ht : m.typ.toNat = typ) (hm : m.jobTag.toNat = s.straits.jobTag) :
    harbourRow s typ m t = .next t := by
  unfold harbourRow
  rw [if_pos (by simp [h, hn, hp, hv, ht, protoUdp]), if_pos hm]

theorem harbourRow_other {s t : State} {typ : Nat} {m : HMsg} (h : harbourOn s = true) (hn : netOk s m.net 17 = true)
    (hp : m.dstPort.toNat = s.straits.udp) (hv : m.version = 1) (ht : m.typ.toNat = typ) (hm : ¬ m.jobTag.toNat = s.straits.jobTag) :
    harbourRow s typ m t = .next { s with straits := { s.straits with drop := sat32 (s.straits.drop + 1) } } := by
  unfold harbourRow
  rw [if_pos (by simp [h, hn, hp, hv, ht, protoUdp]), if_neg hm]

/-! Messages in order (R263). -/

theorem inOrder_takes {s : State} {m : HMsg} {k : Nat} {take : Nat → State} (hf : findSession s false m.session.toNat = some k)
    (hs : m.seq.toNat = (sessionOf s k).recvSeq) : inOrder s m take = take k := by
  unfold inOrder
  rw [hf]
  dsimp only
  rw [if_pos]
  rw [hs, Nat.add_sub_cancel_left, Nat.mod_self]

/-- Session k as it has taken a message of n bytes. -/
def tookSession (x : Session) (n : Nat) (m : HMsg) : Session :=
  { x with recvSeq := (x.recvSeq + 1) % 2 ^ 32, accepted := x.accepted + n, ackOwed := true, peer := m.src, peerPort := m.srcPort.toNat }

theorem accepted_spec (s : State) (k n : Nat) (m : HMsg) : let t := accepted s k n m
    sessionOf t k = tookSession (sessionOf s k) n m ∧ (∀ j, j ≠ k → sessionOf t j = sessionOf s j) ∧ { t with straits := s.straits } = s := by
  unfold accepted oweAck
  refine ⟨?_, fun j hj => ?_, rfl⟩
  · rw [sessionOf_modSession_self, sessionOf_modSession_self]
    rfl
  · rw [sessionOf_modSession_ne _ _ hj, sessionOf_modSession_ne _ _ hj]

/-- A session that ends. -/
theorem endSession_spec (s : State) (k state cause : Nat) : let t := endSession s k state cause
    sessionOf t k = { sessionOf s k with state := state, cause := cause, todo := [] } ∧ (∀ j, j ≠ k → sessionOf t j = sessionOf s j) ∧
    t.control.supEvent.getLsbD 2 = true ∧ t.commit = s.commit := by
  unfold endSession
  have hs : ∀ u : State, (setSupEvent u 2).straits = u.straits := fun u => by
    have e := congrArg State.straits (setSupEvent_same u 2)
    exact e
  have hof : ∀ (u : State) (j : Nat), sessionOf (setSupEvent u 2) j = sessionOf u j := fun u j => sessionOf_of (by rw [hs]) j
  refine ⟨?_, fun j hj => ?_, setSupEvent_raises _ (by decide), setSupEvent_commit _ _⟩
  · rw [hof, sessionOf_modSession_self]
  · rw [hof, sessionOf_modSession_ne _ _ hj]

theorem findSession_open {s : State} {sends : Bool} {sid k : Nat} (h : findSession s sends sid = some k) : (sessionOf s k).state = 1 := by
  have e := List.find?_some h
  simp only [Bool.and_eq_true, decide_eq_true_eq] at e
  exact e.1.1

/-! Acknowledgements (R263). -/

theorem readRange_sessions (s : State) (p n : Nat) (r : Reader) : (readRange s p n r).1.straits.sessions = s.straits.sessions := by
  have e := congrArg (fun x : State => x.straits.sessions) (readRange_read s p n r).1
  exact e

theorem number_bytes (s : State) (k typ addr : Nat) (payload : List Byte) : (sessionOf (number s k typ addr payload) k).bytes = (sessionOf s k).bytes := by
  unfold number
  dsimp only
  split
  · rw [sessionOf_of (transmit_sessions _ _ _), sessionOf_modSession_self]
  · rw [sessionOf_modSession_self]

theorem numberData_bytes (s : State) (k : Nat) (r : SRange) (rest : List SRange) :
    (sessionOf (numberData s k r rest) k).bytes = (sessionOf s k).bytes := by
  unfold numberData
  dsimp only
  rw [number_bytes, sessionOf_modSession_self]
  have e := congrArg Session.bytes (sessionOf_of (readRange_sessions s r.addr (min 8192 r.len) (supReader s)) k)
  exact e

theorem pump_bytes (k : Nat) : ∀ (n : Nat) (s : State), (sessionOf (pump k n s) k).bytes = (sessionOf s k).bytes
  | 0, _ => rfl
  | n + 1, s => by
    unfold pump
    dsimp only
    split
    · split
      · exact (pump_bytes k n _).trans (numberData_bytes _ _ _ _)
      · split
        · rfl
        · rw [number_bytes, sessionOf_modSession_self]
    · rfl

theorem pump_ended {k n : Nat} {s : State} (he : (sessionOf s k).ended = true) (ht : (sessionOf s k).todo = []) : pump k n s = s := by
  cases n with
  | zero => rfl
  | succ n =>
    unfold pump
    dsimp only
    rw [ht, he]
    split <;> rfl

/-- What the window lets go once n messages are acknowledged. -/
def freshOf (x : Session) (lim n : Nat) : List HOut := ((x.out.drop n).take lim).drop (min x.limit x.out.length - n)

/-- Session k with n messages acknowledged, the window at lim. -/
def acked (s : State) (k lim n : Nat) : State :=
  let x := sessionOf s k
  modSession s k fun y => { y with
    out := (x.out.drop n).map fun h => if (freshOf x lim n).contains h then { h with lastTx := s.tide.now } else h
    limit := lim, bytes := y.bytes + ((x.out.take n).map (·.payload.length)).foldl (· + ·) 0 }

/-- What the window then lets go has left. -/
def ackSent (s : State) (k lim n : Nat) : State := (freshOf (sessionOf s k) lim n).foldl (fun s h => transmit s k h) (acked s k lim n)

/-- A session whose END is acknowledged has ended. -/
def endIfDone (s : State) (k : Nat) : State := if (sessionOf s k).ended && (sessionOf s k).out.isEmpty then endSession s k 2 0 else s

/-- How many messages an ACK covers. -/
def coveredBy (s : State) (k : Nat) (m : HMsg) : Nat :=
  (m.seq.toNat + 1 + 2 ^ 32 - (((sessionOf s k).out.head?).map (·.seq)).getD (sessionOf s k).nextSeq) % 2 ^ 32

theorem ackMessage_eq {s : State} {k : Nat} {m : HMsg} (h : coveredBy s k m ≤ (sessionOf s k).out.length) : ackMessage s k m =
    endIfDone (pumpSession (ackSent s k (min (sessionOf s k).window m.window.toNat) (coveredBy s k m)) k) k := by
  delta ackMessage endIfDone ackSent acked freshOf
  exact if_neg (Nat.not_lt.mpr h)

theorem ackSent_session (s : State) (k lim n : Nat) : let x := sessionOf s k
    let y := sessionOf (ackSent s k lim n) k
    y.bytes = x.bytes + ((x.out.take n).map (·.payload.length)).foldl (· + ·) 0 ∧ y.ended = x.ended ∧ y.todo = x.todo ∧
    y.out.length = x.out.length - n := by
  unfold ackSent acked
  dsimp only
  rw [sessionOf_of (transmits_sessions k _ _) k, sessionOf_modSession_self]
  exact ⟨rfl, rfl, rfl, (List.length_map _).trans List.length_drop⟩

theorem endIfDone_session (s : State) (k : Nat) : (sessionOf (endIfDone s k) k).bytes = (sessionOf s k).bytes ∧
    (sessionOf (endIfDone s k) k).out = (sessionOf s k).out ∧
    ((sessionOf s k).ended = true → (sessionOf s k).out = [] → (sessionOf (endIfDone s k) k).state = 2) := by
  unfold endIfDone
  split
  · rw [(endSession_spec s k 2 0).1]
    exact ⟨rfl, rfl, fun _ _ => rfl⟩
  · next h => exact ⟨rfl, rfl, fun he ho => absurd (by rw [he, ho]; rfl) h⟩

/-- What an ACK leaves of its session. -/
theorem ackMessage_spec {s : State} {k : Nat} {m : HMsg} (hle : coveredBy s k m ≤ (sessionOf s k).out.length) :
    let x := sessionOf s k
    let t := ackMessage s k m
    (sessionOf t k).bytes = x.bytes + ((x.out.take (coveredBy s k m)).map (·.payload.length)).foldl (· + ·) 0 ∧
    (x.ended = true → x.todo = [] → (sessionOf t k).out.length = x.out.length - coveredBy s k m ∧
      (coveredBy s k m = x.out.length → (sessionOf t k).state = 2)) := by
  rw [ackMessage_eq hle]
  generalize coveredBy s k m = n
  obtain ⟨hbytes, hended, htodo, hlen⟩ := ackSent_session s k (min (sessionOf s k).window m.window.toNat) n
  generalize ackSent s k (min (sessionOf s k).window m.window.toNat) n = a at hbytes hended htodo hlen ⊢
  obtain ⟨ebytes, eout, estate⟩ := endIfDone_session (pumpSession a k) k
  refine ⟨ebytes.trans ((pump_bytes k _ a).trans hbytes), fun he ht => ?_⟩
  have hpump : pumpSession a k = a := pump_ended (hended.trans he) (htodo.trans ht)
  rw [hpump] at eout estate ⊢
  refine ⟨by rw [eout]; exact hlen, fun hn => estate (hended.trans he) (List.length_eq_zero_iff.mp ?_)⟩
  rw [hlen, hn, Nat.sub_self]

/-! Data, ends and digests (R264, R378, R379, R382). -/

/-- What a message that session k has taken leaves of the sessions. -/
structure Took (s t : State) (k n : Nat) : Prop where
  recvSeq : (sessionOf t k).recvSeq = ((sessionOf s k).recvSeq + 1) % 2 ^ 32
  accepted : (sessionOf t k).accepted = (sessionOf s k).accepted + n
  ackOwed : (sessionOf t k).ackOwed = true
  others : ∀ j, j ≠ k → sessionOf t j = sessionOf s j

theorem Took.of_sessions {s a t : State} {k n : Nat} {m : HMsg} (ha : ∀ j, sessionOf a j = sessionOf s j)
    (hk : ∃ st cause todo, sessionOf t k = { tookSession (sessionOf a k) n m with state := st, cause := cause, todo := todo })
    (ho : ∀ j, j ≠ k → sessionOf t j = sessionOf a j) : Took s t k n := by
  obtain ⟨st, cause, todo, e⟩ := hk
  rw [ha] at e
  exact ⟨by rw [e]; rfl, by rw [e]; rfl, by rw [e]; rfl, fun j hj => (ho j hj).trans (ha j)⟩

theorem accepted_took {s a : State} (k n : Nat) (m : HMsg) (ha : ∀ j, sessionOf a j = sessionOf s j) : Took s (accepted a k n m) k n := by
  obtain ⟨hself, hne, -⟩ := accepted_spec a k n m
  exact .of_sessions (m := m) ha ⟨_, _, _, hself⟩ hne

theorem ended_took (s u : State) (k n st cause : Nat) (m : HMsg) (hu : u.straits.sessions = (accepted s k n m).straits.sessions) :
    Took s (endSession u k st cause) k n := by
  obtain ⟨hself, hne, -⟩ := accepted_spec s k n m
  obtain ⟨eself, ene, -, -⟩ := endSession_spec u k st cause
  have hof := sessionOf_of hu
  refine .of_sessions (m := m) (fun _ => rfl) ⟨st, cause, [], ?_⟩ fun j hj => ?_
  · rw [eself, hof, hself]
  · rw [ene j hj, hof, hne j hj]

theorem writeRange_sessions {s : State} (p : Nat) (bs : List Byte) (r : Reader) (h : CleanMemory s) :
    (writeRange s p bs false r).straits.sessions = s.straits.sessions := by
  have e := congrArg (fun x : State => x.straits.sessions) (writeRange_clean s p bs false r h).1.1.1
  exact e

/-- DATA that lands (R264). -/
theorem dataEff_lands {s : State} {m : HMsg} {k : Nat} (hf : findSession s false m.session.toNat = some k)
    (hs : m.seq.toNat = (sessionOf s k).recvSeq) (hw : inWindows (sessionOf s k) m.addr.toNat m.payload.length = true)
    (hwipe : s.memory.wipe = 0) : dataEff s m = accepted (writeRange s m.addr.toNat m.payload false (supReader s)) k m.payload.length m := by
  unfold dataEff
  rw [inOrder_takes hf hs]
  dsimp only
  rw [hw, hwipe]
  rfl

theorem dataEff_outside {s : State} {m : HMsg} {k : Nat} (hf : findSession s false m.session.toNat = some k)
    (hs : m.seq.toNat = (sessionOf s k).recvSeq) (hw : inWindows (sessionOf s k) m.addr.toNat m.payload.length = false) :
    dataEff s m = answerNack s m m.seq.toNat 1 := by
  unfold dataEff
  rw [inOrder_takes hf hs]
  dsimp only
  rw [hw]
  rfl

/-- The manifest of an END is right (R382). -/
def manifestRight (x : Session) (m : HMsg) : Prop :=
  m.addr.toNat = x.accepted ∧ leNat (m.payload.take 4) = 0x50435844 ∧ leNat ((m.payload.drop 4).take 2) = 1

theorem endEff_digest {s : State} {m : HMsg} {k : Nat} (hf : findSession s false m.session.toNat = some k)
    (hs : m.seq.toNat = (sessionOf s k).recvSeq) (hk : (sessionOf s k).kind = 4) : endEff s m = accepted s k 0 m := by
  unfold endEff
  rw [inOrder_takes hf hs]
  exact if_pos hk

theorem endEff_receive {s : State} {m : HMsg} {k : Nat} (hf : findSession s false m.session.toNat = some k)
    (hs : m.seq.toNat = (sessionOf s k).recvSeq) (h4 : (sessionOf s k).kind ≠ 4) (h6 : (sessionOf s k).kind ≠ 6) :
    endEff s m = endSession (accepted s k 0 m) k 2 0 := by
  unfold endEff
  rw [inOrder_takes hf hs]
  exact (if_neg h4).trans (if_pos (bne_iff_ne.mpr h6))

theorem endEff_restore {s : State} {m : HMsg} {k : Nat} (hf : findSession s false m.session.toNat = some k)
    (hs : m.seq.toNat = (sessionOf s k).recvSeq) (h6 : (sessionOf s k).kind = 6) :
    (manifestRight (sessionOf s k) m → endEff s m = endSession (ledgerFrom (accepted s k 0 m) m.payload) k 2 0) ∧
    (¬ manifestRight (sessionOf s k) m → endEff s m = endSession (accepted s k 0 m) k 3 2) := by
  unfold endEff manifestRight
  rw [inOrder_takes hf hs]
  dsimp only
  rw [h6]
  refine ⟨fun h => ?_, fun h => ?_⟩
  · exact (if_neg (by decide)).trans ((if_neg (by decide)).trans (if_pos (by simp [h])))
  · refine (if_neg (by decide)).trans ((if_neg (by decide)).trans (if_neg ?_))
    rw [Bool.and_eq_true, Bool.and_eq_true, decide_eq_true_eq, decide_eq_true_eq, decide_eq_true_eq, and_assoc]
    exact h

/-- The twin's digest of a step, noted. -/
def twinNoted (s : State) (j : Nat) (dg : List Byte) : State :=
  { s with commit := { s.commit with twinDigests := tblSet [] s.commit.twinDigests j dg } }

theorem digestEff_compares {s : State} {m : HMsg} {k : Nat} (hf : findSession s false m.session.toNat = some k)
    (hs : m.seq.toNat = (sessionOf s k).recvSeq) (hk : (sessionOf s k).kind = 4) : digestEff s m =
      compareDigests (twinNoted (accepted s k m.payload.length m) (leNat (m.payload.take 8)) ((m.payload.drop 8).take 32)) (leNat (m.payload.take 8)) := by
  unfold digestEff
  rw [inOrder_takes hf hs]
  exact if_pos hk

/-- Digests of step n compared, the twin's held (R379). -/
theorem compareDigests_cases {s : State} {n : Nat} {dg : List Byte} (hh : tblGet [] s.commit.twinDigests n = dg) (hd : dg ≠ []) :
    (tblGet [] s.commit.ownDigests n = [] → compareDigests s n = s) ∧
    (tblGet [] s.commit.ownDigests n = dg → compareDigests s n = { s with commit := { s.commit with matched := n } }) ∧
    (tblGet [] s.commit.ownDigests n ≠ [] → tblGet [] s.commit.ownDigests n ≠ dg →
      compareDigests s n = setSupEvent { s with commit := { s.commit with diverged := true } } 5) := by
  unfold compareDigests
  dsimp only
  rw [hh]
  generalize tblGet [] s.commit.ownDigests n = own
  refine ⟨fun h => by rw [h]; rfl, fun h => ?_, fun h0 h => ?_⟩
  · rw [h, if_neg (by simp [hd]), if_pos rfl]
  · rw [if_neg (by simp [hd, h0]), if_neg h]

theorem compareDigests_held (s : State) {j : Nat} {dg : List Byte} (hd : dg ≠ []) : let t := compareDigests (twinNoted s j dg) j
    t.straits = s.straits ∧ tblGet [] t.commit.twinDigests j = dg ∧
    (tblGet [] s.commit.ownDigests j = dg → t.commit.matched = j ∧ t.commit.diverged = s.commit.diverged) ∧
    (tblGet [] s.commit.ownDigests j ≠ [] → tblGet [] s.commit.ownDigests j ≠ dg →
      t.commit.diverged = true ∧ t.control.supEvent.getLsbD 5 = true) := by
  have hheld : tblGet [] (twinNoted s j dg).commit.twinDigests j = dg := tblGet_set_self _ _ _ _
  obtain ⟨hnone, hsame, hdiff⟩ := compareDigests_cases hheld hd
  by_cases h0 : tblGet [] s.commit.ownDigests j = []
  · rw [hnone h0]
    exact ⟨rfl, hheld, fun h => absurd (h.symm.trans h0) hd, fun h => absurd h0 h⟩
  · by_cases he : tblGet [] s.commit.ownDigests j = dg
    · rw [hsame he]
      exact ⟨rfl, hheld, fun _ => ⟨rfl, rfl⟩, fun _ h => absurd he h⟩
    · rw [hdiff h0 he]
      obtain ⟨u, hu⟩ : ∃ u : State, ({ twinNoted s j dg with commit := { (twinNoted s j dg).commit with diverged := true } } : State) = u := ⟨_, rfl⟩
      rw [hu]
      have hstraits : (setSupEvent u 5).straits = u.straits := by
        have e := congrArg State.straits (setSupEvent_same u 5)
        exact e
      refine ⟨hstraits.trans (by rw [← hu]; rfl), ?_, fun h => absurd h he, fun _ _ => ⟨?_, setSupEvent_raises u (by decide)⟩⟩
      · rw [setSupEvent_commit, ← hu]
        exact hheld
      · rw [setSupEvent_commit, ← hu]

/-- Settles O40: a row by its type, and a message in order by what its session does with it. -/
theorem harbourReceives : Obligations.HarbourReceives := by
  unfold Obligations.HarbourReceives
  intro m s hon hver hnet hport row mine n a
  have mineRow : ∀ {typ : Nat} {t : State}, m.typ.toNat = typ → mine → harbourRow s typ m t = .next t :=
    fun ht hm => harbourRow_mine hon hnet hport hver ht hm
  refine ⟨fun i hi hm => ?_, fun h3 hm => ?_, fun k hm hf hs hlt => ?_, fun k h2 hm hf => ?_⟩
  · rcases hi with ⟨ht, rfl⟩ | ⟨ht, rfl⟩ | ⟨ht, rfl⟩ | ⟨ht, rfl⟩ | ⟨ht, rfl⟩
    all_goals exact runs_of (harbourRow_other hon hnet hport hver (by rw [ht]; rfl) hm) rfl
  · exact harbourRow_mine hon hnet hport hver (by rw [h3]; rfl) hm
  · intro x took
    have tookOf : ∀ {t : State} {n : Nat}, Took s t k n → took t n := fun h => ⟨h.recvSeq, h.accepted, h.ackOwed, h.others⟩
    refine ⟨fun h1 hw hwipe hclean => ?_, fun h1 hw => ?_, fun h4 hk => ?_, fun h4 hk4 hk6 => ?_, fun h4 hk => ?_, fun h5 hk hlen => ?_⟩
    · refine runs_of (mineRow (by rw [h1]; rfl) hm) ?_
      rw [dataEff_lands hf hs hw hwipe]
      obtain ⟨hwrite, hbytes, -⟩ := writeRange_clean s m.addr.toNat m.payload false (supReader s) hclean
      have hsess := sessionOf_of (writeRange_sessions (s := s) m.addr.toNat m.payload (supReader s) hclean)
      generalize writeRange s m.addr.toNat m.payload false (supReader s) = b at hwrite hbytes hsess ⊢
      have hrest := (accepted_spec b k m.payload.length m).2.2
      have hmem : (accepted b k m.payload.length m).memory = b.memory := by have e := congrArg State.memory hrest; exact e
      have hcores : (accepted b k m.payload.length m).cores = b.cores := by have e := congrArg State.cores hrest; exact e
      refine ⟨tookOf (accepted_took k _ m hsess), fun y hy => ?_, fun j hj => ?_, hcores.trans hwrite.cores⟩
      · rw [hmem]
        exact hwrite.2.1 y hy
      · rw [hmem]
        exact hbytes j hj
    · refine runs_of (mineRow (by rw [h1]; rfl) hm) ?_
      rw [dataEff_outside hf hs hw]
      exact sendHarbour_spec s m.src _
    · refine runs_of (mineRow (by rw [h4]; rfl) hm) ?_
      rw [endEff_digest hf hs hk]
      refine ⟨tookOf (accepted_took k 0 m fun _ => rfl), ?_⟩
      rw [(accepted_spec s k 0 m).1]
      exact findSession_open hf
    · refine runs_of (mineRow (by rw [h4]; rfl) hm) ?_
      rw [endEff_receive hf hs hk4 hk6]
      obtain ⟨eself, -, ebit, -⟩ := endSession_spec (accepted s k 0 m) k 2 0
      exact ⟨tookOf (ended_took s _ k 0 2 0 m rfl), by rw [eself], ebit⟩
    · obtain ⟨hgood, hbad⟩ := endEff_restore hf hs hk
      refine runs_of (mineRow (by rw [h4]; rfl) hm) ?_
      by_cases h : manifestRight (sessionOf s k) m
      · rw [hgood h]
        obtain ⟨eself, -, -, ecommit⟩ := endSession_spec (ledgerFrom (accepted s k 0 m) m.payload) k 2 0
        refine ⟨tookOf (ended_took s _ k 0 2 0 m rfl), fun _ => ⟨by rw [eself], by rw [ecommit]; rfl⟩, fun hn => absurd h hn⟩
      · rw [hbad h]
        obtain ⟨eself, -, -, ecommit⟩ := endSession_spec (accepted s k 0 m) k 3 2
        exact ⟨tookOf (ended_took s _ k 0 3 2 m rfl), fun hn => absurd hn h, fun _ => ⟨by rw [eself], by rw [eself], ecommit⟩⟩
    · refine runs_of (mineRow (by rw [h5]; rfl) hm) ?_
      have hd : (m.payload.drop 8).take 32 ≠ [] := fun h => by
        have e := congrArg List.length h
        rw [List.length_take, List.length_drop] at e
        change 8 < m.payload.length at hlen
        simp at e
        omega
      rw [digestEff_compares hf hs hk]
      obtain ⟨hstraits, hheld, hsame, hdiff⟩ := compareDigests_held (accepted s k m.payload.length m) (j := leNat (m.payload.take 8)) hd
      obtain ⟨hself, hne, -⟩ := accepted_spec s k m.payload.length m
      have hof := sessionOf_of (s := accepted s k m.payload.length m) (congrArg Straits.sessions hstraits)
      refine ⟨tookOf (.of_sessions (m := m) (fun _ => rfl) ⟨_, _, _, (hof k).trans hself⟩ fun j hj => (hof j).trans (hne j hj)), hheld, hsame, hdiff⟩
  · intro x first c hle
    refine runs_of (mineRow (by rw [h2]; rfl) hm) ?_
    rw [hf]
    exact ackMessage_spec hle

end Sys2Proof.Machine
end

section
/-! SUPPORT. What the harbour port sends by time, and the network's own messages (08, R261–R263). -/

namespace Sys2Proof.Machine

open Sys2Proof

/-! Resends (R263). -/

/-- A message sent again counts one more. -/
theorem transmit_sent {s : State} (h : harbourOn s = true) (k : Nat) (g : HOut) :
    (transmit s k g).sent.length = s.sent.length + 1 ∧ harbourOn (transmit s k g) = true := by
  unfold transmit
  dsimp only
  rw [if_pos h]
  generalize HarbourOut.message (sessionOf s k).peer (sessionOf s k).peerPort g.typ.toNat s.straits.jobTag (sessionOf s k).sid g.seq 0 g.addr 0 g.payload = o
  generalize (sessionOf s k).peer = dst
  rcases hd : s.straits.neighbours.find? (fun n => n.1 = dst) with _ | n
  · rw [sendHarbour_unknown o hd]
    exact ⟨rfl, h⟩
  · rw [sendHarbour_known o hd]
    exact ⟨rfl, h⟩

theorem transmits_sent (k : Nat) : ∀ (l : List HOut) (s : State), harbourOn s = true →
    (l.foldl (fun s g => transmit s k g) s).sent.length = s.sent.length + l.length
  | [], _, _ => rfl
  | g :: l, s, h => by
    obtain ⟨hlen, hon⟩ := transmit_sent h k g
    rw [List.foldl_cons, transmits_sent k l _ hon, hlen, List.length_cons]
    omega

/-- The unacknowledged messages once those of the window went again. -/
def againOut (x : Session) (now : Nat) : List HOut :=
  (x.out.zip (List.range x.out.length)).map fun (g, i) =>
    if i < x.limit then { g with lastTx := now, resends := if i = 0 then g.resends + 1 else g.resends } else g

theorem againOut_seq (x : Session) (now : Nat) : (againOut x now).map (·.seq) = x.out.map (·.seq) := by
  unfold againOut
  have hz : ∀ (l : List HOut) (is : List Nat), l.length = is.length →
      ((l.zip is).map fun (g, i) => if i < x.limit then ({ g with lastTx := now, resends := if i = 0 then g.resends + 1 else g.resends } : HOut) else g).map
        (·.seq) = l.map (·.seq) := by
    intro l
    induction l with
    | nil => exact fun is _ => rfl
    | cons g l ih =>
      intro is hl
      cases is with
      | nil => exact absurd hl (Nat.succ_ne_zero _)
      | cons i is =>
        rw [List.zip_cons_cons, List.map_cons, List.map_cons, ih is (Nat.succ.inj hl), List.map_cons]
        congr 1
        dsimp only
        split <;> rfl
  exact hz _ _ List.length_range.symm

theorem againOut_head {x : Session} {h : HOut} {rest : List HOut} (now : Nat) (ho : x.out = h :: rest) (hl : 0 < x.limit) :
    (againOut x now).head?.map (·.resends) = some (h.resends + 1) := by
  unfold againOut
  rw [ho, List.length_cons, List.range_succ_eq_map, List.zip_cons_cons, List.map_cons]
  dsimp only
  rw [if_pos hl]
  rfl

/-- The messages of the window go again. -/
def resent (s : State) (k : Nat) : State :=
  ((sessionOf s k).out.take (sessionOf s k).limit).foldl (fun s g => transmit s k g)
    (modSession s k fun x => { x with out := againOut (sessionOf s k) s.tide.now })

theorem exec_harbourResend {s : State} {k : Fin 8} {now : Nat} {h : HOut} {rest : List HOut} (hon : harbourOn s = true)
    (hs : (sessionOf s k).state = 1) (ho : (sessionOf s k).out = h :: rest) (hle : h.lastTx + 100000 ≤ max s.tide.now now) :
    exec (.harbourResend k now) s =
      .next (if 16 ≤ h.resends then endSession (atTide s now) k 3 1 else resent (atTide s now) k) := by
  change execHarbourResend k now s = _
  delta execHarbourResend resent againOut
  dsimp only
  rw [show (sessionOf (atTide s now) k).out = h :: rest from ho]
  exact when_holds (by
    rw [hon, show (sessionOf (atTide s now) k).state = 1 from hs]
    exact decide_eq_true hle) _ _

/-! Neighbours (R262). -/

theorem sends_sent (mac : BitVec 48) : ∀ (l : List (BitVec 128 × HarbourOut)) (s : State),
    let t := l.foldl (fun s w => sendTo s mac w.2) s
    { t with sent := s.sent } = s ∧ (∀ o ∈ s.sent, o ∈ t.sent) ∧ ∀ w ∈ l, Out.harbour (sendVlan s) mac w.2 ∈ t.sent
  | [], s => ⟨rfl, fun _ h => h, fun _ h => absurd h List.not_mem_nil⟩
  | w :: l, s => by
    obtain ⟨hrest, hstay, hall⟩ := sends_sent mac l (sendTo s mac w.2)
    have hhere : Out.harbour (sendVlan s) mac w.2 ∈ (sendTo s mac w.2).sent := List.mem_cons_self
    refine ⟨?_, fun o ho => hstay o (List.mem_cons_of_mem _ ho), fun v hv => ?_⟩
    · have e := congrArg (fun x : State => { x with sent := s.sent }) hrest
      exact e
    · rcases List.mem_cons.mp hv with rfl | hv
      · exact hstay _ hhere
      · exact hall v hv

/-- What is learnt of a neighbour (R262): its address, and that what waited for it has left. -/
structure Learnt (s t : State) (who : BitVec 128) (mac : BitVec 48) : Prop where
  rest : { t with sent := s.sent, straits := { t.straits with neighbours := s.straits.neighbours, unresolved := s.straits.unresolved } } = s
  known : t.straits.neighbours.find? (fun n => n.1 = who) = some (who, mac)
  none_waits : ∀ w ∈ t.straits.unresolved, w.1 ≠ who
  left : ∀ w ∈ s.straits.unresolved, w.1 = who → Out.harbour (sendVlan s) mac w.2 ∈ t.sent

theorem find_replaced (l : List (BitVec 128 × BitVec 48)) (who : BitVec 128) (mac : BitVec 48) :
    (l.filter (fun n => n.1 != who) ++ [(who, mac)]).find? (fun n => n.1 = who) = some (who, mac) := by
  rw [List.find?_append, List.find?_eq_none.mpr fun n hn => ?_]
  · simp
  · have h := (List.mem_filter.mp hn).2
    simpa using h

theorem learn_learnt (s : State) (who : BitVec 128) (mac : BitVec 48) : Learnt s (learn s who mac) who mac := by
  unfold learn
  dsimp only
  obtain ⟨a, ha⟩ : ∃ a : State, ({ s with straits := { s.straits with
    neighbours := s.straits.neighbours.filter (fun n => n.1 != who) ++ [(who, mac)]
    unresolved := s.straits.unresolved.filter fun w => w.1 != who } } : State) = a := ⟨_, rfl⟩
  rw [ha]
  obtain ⟨hrest, -, hall⟩ := sends_sent mac (s.straits.unresolved.filter fun w => w.1 = who) a
  generalize (s.straits.unresolved.filter fun w => w.1 = who).foldl (fun s w => sendTo s mac w.2) a = t at hrest hall ⊢
  have hstraits : t.straits = a.straits := by have e := congrArg State.straits hrest; exact e
  refine ⟨?_, ?_, fun w hw => ?_, fun w hw he => ?_⟩
  · have e := congrArg (fun x : State => { x with
      sent := s.sent, straits := { x.straits with neighbours := s.straits.neighbours, unresolved := s.straits.unresolved } }) hrest
    refine Eq.trans e ?_
    rw [← ha]
  · rw [hstraits, ← ha]
    exact find_replaced _ _ _
  · rw [hstraits, ← ha] at hw
    have h := (List.mem_filter.mp hw).2
    simpa using h
  · have hv : sendVlan a = sendVlan s := by rw [← ha]; rfl
    rw [← hv]
    exact hall w (List.mem_filter.mpr ⟨hw, decide_eq_true he⟩)

theorem exec_neighborSolicitation {s : State} {net : Net} (hon : harbourOn s = true) (hip : s.straits.ip ≠ 0) (hn : netOk s net 58 = true)
    (d : Discovery) (mac : BitVec 48) : exec (.neighborSolicitation net d mac) s = .next (discoveryEff s mac d) :=
  show execNeighborSolicitation net d mac s = _ from
    when_holds (by rw [hon, show netOk s net protoIcmp = true from hn, Bool.true_and, Bool.and_true, bne_iff_ne]; exact hip) _ _

/-- Settles O41: the rows by what they send, and neighbour discovery by the message. -/
theorem harbourKeepsGoing : Obligations.HarbourKeepsGoing := by
  unfold Obligations.HarbourKeepsGoing
  intro s now
  refine ⟨fun k h rest hon hs ho hle => ⟨fun hr hl => ?_, fun hr => ?_⟩, fun k hon hs hack => ?_, fun up ha hup => ?_,
    fun net ptp tide hon hf hn => ?_, fun net hon hip hn => ?_⟩
  · have run := exec_harbourResend (now := now) hon hs ho hle
    rw [if_neg (Nat.not_le.mpr hr)] at run
    have hself : sessionOf (resent (atTide s now) k) k = { sessionOf s k with out := againOut (sessionOf s k) (atTide s now).tide.now } := by
      unfold resent
      rw [sessionOf_of (transmits_sessions _ _ _), sessionOf_modSession_self]
      rfl
    refine runs_of run ⟨?_, ?_, ?_, ?_⟩
    · rw [hself]; exact hs
    · rw [hself]; exact againOut_head _ ho hl
    · rw [hself, ← ho]; exact againOut_seq _ _
    · unfold resent
      refine (transmits_sent k.val _ _ (by exact hon)).trans ?_
      rw [List.length_take, show (sessionOf (atTide s now) k).out = h :: rest from ho]
      rfl
  · have run := exec_harbourResend (now := now) hon hs ho hle
    rw [if_pos hr] at run
    refine runs_of run ?_
    rw [(endSession_spec (atTide s now) k 3 1).1]
    exact ⟨rfl, rfl⟩
  · obtain ⟨u, hu⟩ : ∃ u, (modSession (atTide s now) k.val fun x => { x with ackOwed := false, bytes := x.accepted }) = u := ⟨_, rfl⟩
    have hself : sessionOf u k = { sessionOf s k with ackOwed := false, bytes := (sessionOf s k).accepted } := by
      rw [← hu, sessionOf_modSession_self]
      rfl
    refine runs_when (show execHarbourAckPeriodic k now s = when _ s _ from rfl) ?_ ?_
    · rw [hon, show (sessionOf (atTide s now) k).ackOwed = true from hack, Bool.true_and, Bool.and_true, bne_iff_ne]
      exact hs
    · intro x
      rw [hu]
      have hsame := sendHarbour_same u x.peer (.message x.peer x.peerPort 2 s.straits.jobTag x.sid ((x.recvSeq + 2 ^ 32 - 1) % 2 ^ 32) 0 0 x.window [])
      have hsends := (sendHarbour_spec u x.peer
        (.message x.peer x.peerPort 2 s.straits.jobTag x.sid ((x.recvSeq + 2 ^ 32 - 1) % 2 ^ 32) 0 0 x.window [])).2
      have hof := sessionOf_of (sendHarbour_sessions u x.peer
        (.message x.peer x.peerPort 2 s.straits.jobTag x.sid ((x.recvSeq + 2 ^ 32 - 1) % 2 ^ 32) 0 0 x.window [])) k
      refine ⟨hof.trans hself, ?_, ?_⟩
      · have e := congrArg (fun y : State => { y with sent := s.sent, straits := s.straits }) hsame
        refine Eq.trans e ?_
        rw [← hu]
        rfl
      · rw [← hu] at hsends ⊢
        exact hsends
  · refine runs_when (show execHarbourLinkChange up s = when _ s _ from rfl) ?_ rfl
    rw [ha]
    rcases hup with h | h
    · rw [h]; rfl
    · rw [h, Bool.or_true]; rfl
  · refine runs_when (show execPtpMessage (net, true) ptp tide s = when _ s _ from rfl) ?_ rfl
    rw [hon, hf, show netOk s (net, true).1 protoUdp = true from hn]
    rfl
  · intro ip row learnt
    have runs := exec_neighborSolicitation hon hip hn
    refine ⟨fun src mac hsrc => ?_, fun mac => ?_, fun x src mac hx => ?_, fun who o mac hw => ?_, fun src b => ?_⟩
    · refine runs_of (runs (.solicitation ip src) mac) ?_
      have h := learn_learnt s src mac
      have e : discoveryEff s mac (.solicitation ip src) = sendTo (learn s src mac) mac (.advertise src ip Config.mac) := by
        unfold discoveryEff
        exact (if_neg (by simp [ip])).trans (if_neg hsrc)
      have hv : sendVlan (learn s src mac) = sendVlan s := by
        have e := congrArg sendVlan h.rest
        exact e
      rw [e]
      refine ⟨?_, ⟨h.known, h.none_waits, fun w hw he => List.mem_cons_of_mem _ (h.left w hw he)⟩, ?_⟩
      · exact h.rest
      · rw [← hv]
        rfl
    · refine runs_of (runs (.solicitation ip 0) mac) ?_
      have e : discoveryEff s mac (.solicitation ip 0) = sendTo s allNodesMac (.advertise allNodes ip Config.mac) := by
        unfold discoveryEff
        exact (if_neg (by simp [ip])).trans (if_pos rfl)
      rw [e]
      exact ⟨rfl, rfl⟩
    · refine runs_of (runs (.solicitation x src) mac) ?_
      have e : discoveryEff s mac (.solicitation x src) = s := by
        unfold discoveryEff
        exact if_pos (bne_iff_ne.mpr hx)
      rw [e]
      exact ⟨rfl, rfl⟩
    · refine runs_of (runs (.advertisement who) mac) ?_
      have h := learn_learnt s who mac
      have e : discoveryEff s mac (.advertisement who) = learn s who mac := by
        unfold discoveryEff
        refine if_pos ?_
        rw [Bool.or_eq_true]
        exact .inl (List.any_eq_true.mpr ⟨(who, o), hw, decide_eq_true rfl⟩)
      rw [e]
      exact ⟨h.rest, h.known, h.none_waits, h.left⟩
    · refine runs_when (show execIcmpv6Echo net (ip, src) b s = when _ s _ from rfl) ?_ ?_
      · rw [hon, show netOk s net protoIcmp = true from hn, Bool.true_and, Bool.and_true, Bool.and_eq_true, bne_iff_ne, decide_eq_true_eq]
        exact ⟨hip, rfl⟩
      · exact ⟨sendHarbour_same s src _, (sendHarbour_spec s src _).2⟩

end Sys2Proof.Machine
end

section
/-! SUPPORT. How the mailboxes take and complete commands (14, R423–R433). -/

namespace Sys2Proof.Machine

open Sys2Proof

/-! A command that runs. -/

/-- The command of mailbox m runs, without an outcome; the other mailboxes are as they were. -/
structure Begun (s v : State) (m op : Nat) (irq : Bool) : Prop where
  state : (boxOf v m).state = 1
  run : (boxOf v m).run = some ⟨op, irq, none, []⟩
  others : ∀ n, n ≠ m → boxOf v n = boxOf s n

theorem startBox_begun (s : State) (w : Word_) : Begun s (startBox s w) w.mb w.op w.irq := by
  unfold startBox
  refine ⟨?_, ?_, fun n hn => boxOf_modBox_ne s _ hn⟩
  · rw [boxOf_modBox_self]
  · rw [boxOf_modBox_self]

/-- The command of a word is taken at a time. -/
theorem startBox_begunAt (s : State) (now : Nat) (w : Word_) : Begun s (startBox (atTide s now) w) w.mb w.op w.irq :=
  ⟨(startBox_begun _ w).state, (startBox_begun _ w).run, fun _ hn => boxOf_modBox_ne (atTide s now) _ hn⟩

theorem Begun.congr {s v u : State} {m op : Nat} {irq : Bool} (h : Begun s v m op irq) (hb : ∀ n, boxOf u n = boxOf v n) : Begun s u m op irq :=
  ⟨by rw [hb]; exact h.state, by rw [hb]; exact h.run, fun n hn => (hb n).trans (h.others n hn)⟩

theorem finish_ended {s v : State} {m op : Nat} {irq : Bool} (h : Begun s v m op irq) (code detail : Nat) (resp : List Byte) :
    Ended (finish v m code detail resp) m op irq code (reg detail) resp ∧ ∀ n, n ≠ m → boxOf (finish v m code detail resp) n = boxOf s n := by
  obtain ⟨hrun, hothers⟩ := finish_run code detail resp h.run
  exact ⟨⟨(finish_state v m code detail resp).trans h.state, hrun⟩, fun n hn => (hothers n hn).trans (h.others n hn)⟩

/-- A state but for the mailboxes. -/
def BoxesOnly (s t : State) : Prop := { t with control := { t.control with boxes := s.control.boxes } } = s

theorem BoxesOnly.refl (s : State) : BoxesOnly s s := rfl

theorem BoxesOnly.trans {a b c : State} (h : BoxesOnly a b) (h' : BoxesOnly b c) : BoxesOnly a c := by
  unfold BoxesOnly at *
  refine Eq.trans ?_ h
  rw [← h']

theorem modBox_only (s : State) (m : Nat) (g : Mailbox → Mailbox) : BoxesOnly s (modBox s m g) := rfl

theorem startBox_only (s : State) (w : Word_) : BoxesOnly s (startBox s w) := modBox_only _ _ _

/-- An outcome that does not raise CFG_GEN changes the mailbox alone. -/
theorem finish_only {s v : State} {m op : Nat} {irq : Bool} (h : Begun s v m op irq) {code : Nat} (hc : code ≠ 0 ∨ raisesGen op = false)
    (detail : Nat) (resp : List Byte) : BoxesOnly v (finish v m code detail resp) := by
  unfold finish finishAs
  rw [h.run]
  refine (congrArg (BoxesOnly v) (if_neg ?_)).mpr (modBox_only _ _ _)
  rcases hc with hc | hc
  · simp [hc]
  · simp [hc]

theorem boxOnly_of {s t : State} {now m : Nat} (h : BoxesOnly (atTide s now) t) (ho : ∀ n, n ≠ m → boxOf t n = boxOf s n) : BoxOnly s now t m := ⟨h, ho⟩

/-- A command that ends at once with an outcome that does not raise CFG_GEN. -/
theorem ends_boxOnly {s v : State} {now m op : Nat} {irq : Bool} (h : Begun s v m op irq) (hv : BoxesOnly (atTide s now) v) {code : Nat}
    (hc : code ≠ 0 ∨ raisesGen op = false) (detail : Nat) (resp : List Byte) :
    BoxOnly s now (finish v m code detail resp) m ∧ Ended (finish v m code detail resp) m op irq code (reg detail) resp := by
  obtain ⟨hend, hothers⟩ := finish_ended h code detail resp
  exact ⟨boxOnly_of (hv.trans (finish_only h hc detail resp)) hothers, hend⟩

/-! The row of a command (R423). -/

theorem exec_commandOf {op : Nat} (h : op ∈ opcodes) (mb : Fin 16) (seq : Byte) (irq ok : Bool) (now : Nat) :
    ∃ (busy : State → State → Option Answer) (body : State → State → Answer), ∀ s, exec (commandOf op mb seq irq now ok) s = commandRow s ⟨mb, op, seq.toNat, irq⟩ now (busy s) (body s) := by
  simp only [opcodes, List.mem_cons, List.not_mem_nil, or_false] at h
  rcases h with rfl | rfl | rfl | rfl | rfl | rfl | rfl | rfl | rfl | rfl | rfl | rfl | rfl | rfl | rfl | rfl | rfl | rfl | rfl | rfl | rfl |
    rfl | rfl | rfl | rfl | rfl | rfl | rfl | rfl | rfl | rfl | rfl | rfl | rfl | rfl | rfl
  all_goals exact ⟨_, _, fun _ => rfl⟩

section
variable {s : State} {w : Word_} {now : Nat} {busy : State → Option Answer} {body : State → Answer}

theorem commandRow_running (hb : boxServed s w.mb = true) (h1 : (boxOf s w.mb).state = 1) :
    commandRow s w now busy body = .fault (.mailboxWrite (keptOf s)) := by
  unfold commandRow
  rw [if_neg (by rw [hb]; decide), if_pos h1]
  rfl

theorem commandRow_repeat (hb : boxServed s w.mb = true) (h1 : (boxOf s w.mb).state ≠ 1) (hs : w.seq = (boxOf s w.mb).seq) :
    commandRow s w now busy body = .next s := by
  unfold commandRow
  rw [if_neg (by rw [hb]; decide), if_neg h1, if_pos hs]

theorem commandRow_takes (hb : boxServed s w.mb = true) (h1 : (boxOf s w.mb).state ≠ 1) (hs : w.seq ≠ (boxOf s w.mb).seq) :
    commandRow s w now busy body = .next (takeWord (atTide s now) w busy body) := by
  unfold commandRow
  rw [if_neg (by rw [hb]; decide), if_neg h1, if_neg hs]

theorem takeWord_badSeq (hop : opcodes.contains w.op = true) (hm : servedIn w.op w.mb = true) (hs : w.seq ≠ ((boxOf s w.mb).seq + 1) % 256) :
    takeWord s w busy body = writeDone (modBox s w.mb fun b => { b with cmd := wordReg w }) w.mb stBadSeq 0 [] w.irq := by
  unfold takeWord
  simp only [hop, hm, Bool.not_true, Bool.false_eq_true, if_false]
  exact if_pos (bne_iff_ne.mpr hs)

theorem takeWord_unknown (hop : opcodes.contains w.op = false) (hs : w.seq = ((boxOf s w.mb).seq + 1) % 256) :
    takeWord s w busy body = finish (startBox s w) w.mb stUnknown 0 [] := by
  unfold takeWord
  simp only [hop, Bool.not_false, if_true]
  exact if_neg (by simp [hs])

theorem takeWord_wrongBox (hop : opcodes.contains w.op = true) (hm : servedIn w.op w.mb = false) (hs : w.seq = ((boxOf s w.mb).seq + 1) % 256) :
    takeWord s w busy body = finish (startBox s w) w.mb stWrongBox 0 [] := by
  unfold takeWord
  simp only [hop, hm, Bool.not_true, Bool.false_eq_true, if_false, Bool.not_false, if_true]
  exact if_neg (by simp [hs])

theorem takeWord_unserved {code d : Nat} (hop : opcodes.contains w.op = true) (hm : servedIn w.op w.mb = true)
    (hs : w.seq = ((boxOf s w.mb).seq + 1) % 256) (hu : unserved s w.mb = some (.refuse code d)) :
    takeWord s w busy body = finish (startBox s w) w.mb code d [] := by
  unfold takeWord
  simp only [hop, hm, hu, Bool.not_true, Bool.false_eq_true, if_false]
  exact if_neg (by simp [hs])

theorem takeWord_exclusive {o : Nat} (hop : opcodes.contains w.op = true) (hm : servedIn w.op w.mb = true)
    (hs : w.seq = ((boxOf s w.mb).seq + 1) % 256) (hu : unserved s w.mb = none) (he : exclusiveBusy s w.op = some (.refuse stBusy o)) :
    takeWord s w busy body = finish (startBox s w) w.mb stBusy o [] := by
  unfold takeWord
  simp only [hop, hm, hu, he, Bool.not_true, Bool.false_eq_true, if_false]
  exact if_neg (by simp [hs])
end

/-- Who does not serve a mailbox answers with a refusal. -/
theorem unserved_code {s : State} {m code d : Nat} (h : unserved s m = some (.refuse code d)) : code ≠ 0 := by
  unfold unserved at h
  split at h
  · cases h
  · split at h
    · cases h
      decide
    · split at h
      · cases h
      · cases h
        decide

/-! Completion (R424). -/

/-- A mailbox whose command has completed. -/
def doneBox (b : Mailbox) (code : Nat) (detail : Reg) (resp : List Byte) : Mailbox :=
  { b with resp := memWrite b.resp 0 resp, rspLen := resp.length, detail := detail, state := 2, code := code, run := none }

/-- What a completion leaves: the mailbox, and the vector where one is asked for. -/
theorem writeDone_spec (s : State) (m code : Nat) (detail : Reg) (resp : List Byte) (irq : Bool) : let t := writeDone s m code detail resp irq
    boxOf t m = doneBox (boxOf s m) code detail resp ∧ (∀ n, n ≠ m → boxOf t n = boxOf s n) ∧ t.boot = s.boot ∧ t.tide = s.tide ∧
    (irq = true → s.control.masks.getLsbD m = false → t.sent = .msix m :: s.sent) ∧
    (irq = true → s.control.masks.getLsbD m = true → t.control.pba = s.control.pba ||| (1#32 <<< m) ∧ t.sent = s.sent) ∧
    (irq = false → t.sent = s.sent ∧ BoxesOnly s t) := by
  unfold writeDone
  obtain ⟨u, hu⟩ : ∃ u, (modBox s m fun b => { b with
    resp := memWrite b.resp 0 resp, rspLen := resp.length, detail := detail, state := 2, code := code, run := none }) = u := ⟨_, rfl⟩
  have hself : boxOf u m = doneBox (boxOf s m) code detail resp := by rw [← hu]; exact boxOf_modBox_self _ _ _
  have hne : ∀ n, n ≠ m → boxOf u n = boxOf s n := fun n hn => by rw [← hu]; exact boxOf_modBox_ne _ _ hn
  have honly : BoxesOnly s u := by rw [← hu]; exact modBox_only _ _ _
  have hboot : u.boot = s.boot := by rw [← hu]; rfl
  have htide : u.tide = s.tide := by rw [← hu]; rfl
  have hsent : u.sent = s.sent := by rw [← hu]; rfl
  have hmask : u.control.masks = s.control.masks := by rw [← hu]; rfl
  have hpba : u.control.pba = s.control.pba := by rw [← hu]; rfl
  dsimp only
  rw [hu]
  cases irq with
  | false => exact ⟨hself, hne, hboot, htide, fun h => absurd h Bool.false_ne_true, fun h => absurd h Bool.false_ne_true, fun _ => ⟨hsent, honly⟩⟩
  | true =>
    rw [if_pos rfl]
    unfold fire
    rw [hmask]
    cases hb : s.control.masks.getLsbD m with
    | false =>
      exact ⟨hself, hne, hboot, htide, fun _ _ => congrArg (Out.msix m :: ·) hsent, fun _ h => absurd h Bool.false_ne_true,
        fun h => absurd h.symm Bool.false_ne_true⟩
    | true =>
      exact ⟨hself, hne, hboot, htide, fun _ h => absurd h.symm Bool.false_ne_true, fun _ _ => ⟨congrArg (· ||| (1#32 <<< m)) hpba, hsent⟩,
        fun h => absurd h.symm Bool.false_ne_true⟩

/-- A word of a wrong SEQ is noted as the last command and ends at once. -/
theorem badSeq_ends (s : State) (now m code : Nat) (r : Reg) {irq : Bool} (hirq : irq = false) :
    let t := writeDone (modBox (atTide s now) m fun b => { b with cmd := r }) m code 0 [] irq
    BoxOnly s now t m ∧ (boxOf t m).state = 2 ∧ (boxOf t m).code = code ∧ (boxOf t m).seq = (boxOf s m).seq ∧ (boxOf t m).rspLen = 0 := by
  obtain ⟨hself, hne, -, -, -, -, hquiet⟩ := writeDone_spec (modBox (atTide s now) m fun b => { b with cmd := r }) m code 0 [] irq
  refine ⟨⟨(modBox_only _ _ _).trans (hquiet hirq).2, fun n hn => (hne n hn).trans (boxOf_modBox_ne _ _ hn)⟩, ?_⟩
  rw [hself, boxOf_modBox_self]
  exact ⟨rfl, rfl, rfl, rfl⟩

/-- What follows a completion changes boot notes alone. -/
theorem afterDone_spec (s : State) (op code : Nat) : let t := afterDone s op code
    { t with boot := s.boot } = s ∧
    (op = 0x74 → code = 0 → t.boot.resetDue = some (s.tide.now + 1000000)) ∧
    (op = 0x18 → code = 0 → t.boot.lifecycleDue = some (s.tide.now + 1000000)) ∧
    (op = 0x10 → code = 0 → t.boot.flash = s.boot.flashing ∧ t.boot.flashing = []) ∧ (code ≠ 0 → t.boot = s.boot) := by
  unfold afterDone
  by_cases hc : code = 0
  · rw [if_neg (by rw [hc]; decide)]
    by_cases h1 : op = 0x74
    · rw [if_pos h1]
      exact ⟨rfl, fun _ _ => rfl, fun h => absurd (h1.symm.trans h) (by decide), fun h => absurd (h1.symm.trans h) (by decide), fun h => absurd hc h⟩
    · rw [if_neg h1]
      by_cases h2 : op = 0x18
      · rw [if_pos h2]
        exact ⟨rfl, fun h => absurd h h1, fun _ _ => rfl, fun h => absurd (h2.symm.trans h) (by decide), fun h => absurd hc h⟩
      · rw [if_neg h2]
        by_cases h3 : op = 0x10
        · rw [if_pos h3]
          exact ⟨rfl, fun h => absurd h h1, fun h => absurd h h2, fun _ _ => ⟨rfl, rfl⟩, fun h => absurd hc h⟩
        · rw [if_neg h3]
          exact ⟨rfl, fun h => absurd h h1, fun h => absurd h h2, fun h => absurd h h3, fun _ => rfl⟩
  · rw [if_pos (show (code != stOk) = true from bne_iff_ne.mpr hc)]
    exact ⟨rfl, fun _ h => absurd h hc, fun _ h => absurd h hc, fun _ h => absurd h hc, fun _ => rfl⟩

/-- A running command whose outcome is known completes. -/
theorem execCommandComplete_spec {s : State} {mb : Fin 16} (now : Nat) (hb : boxServed s mb = true) {r : Running} {x : Result}
    (hrun : (boxOf s mb).run = some r) (hres : r.result = some x) (hresume : s.commit.resume ≠ some mb.val) :
    Runs (.commandComplete mb now) s fun t =>
      (boxOf t mb).state = 2 ∧ (boxOf t mb).code = x.code ∧ (boxOf t mb).detail = x.detail ∧ (boxOf t mb).rspLen = x.resp.length ∧
      (boxOf t mb).run = none ∧ (boxOf t mb).seq = (boxOf s mb).seq ∧ (∀ i < x.resp.length, memGet (boxOf t mb).resp i = x.resp.getD i 0) ∧
      (∀ n, n ≠ mb.val → boxOf t n = boxOf s n) ∧
      (r.irq = true → s.control.masks.getLsbD mb = false → t.sent = .msix mb.val :: s.sent) ∧
      (r.irq = true → s.control.masks.getLsbD mb = true → t.control.pba.getLsbD mb = true ∧ t.sent = s.sent) ∧
      (r.irq = false → t.sent = s.sent) ∧ (r.opcode = 0x74 → x.code = 0 → t.boot.resetDue = some (max s.tide.now now + 1000000)) ∧
      (r.opcode = 0x18 → x.code = 0 → t.boot.lifecycleDue = some (max s.tide.now now + 1000000)) ∧
      (r.opcode = 0x10 → x.code = 0 → t.boot.flash = s.boot.flashing ∧ t.boot.flashing = []) ∧
      (x.code ≠ 0 → t.boot = s.boot) := by
  obtain ⟨hself, hne, hboot, htide, hsent, hpba, hquiet⟩ := writeDone_spec (atTide s now) mb x.code x.detail x.resp r.irq
  obtain ⟨hrest, hreset, hlife, hflash, hkeep⟩ := afterDone_spec (writeDone (atTide s now) mb x.code x.detail x.resp r.irq) r.opcode x.code
  have run : exec (.commandComplete mb now) s = .next (afterDone (writeDone (atTide s now) mb x.code x.detail x.resp r.irq) r.opcode x.code) := by
    change execCommandComplete mb now s = _
    unfold execCommandComplete
    dsimp only
    rw [hrun]
    dsimp only
    rw [hres]
    dsimp only
    rw [if_neg hresume]
    refine when_holds ?_ _ _
    unfold resumeOver
    rw [hb, bne_iff_ne.mpr hresume]
    rfl
  generalize writeDone (atTide s now) mb x.code x.detail x.resp r.irq = d at hself hne hboot htide hsent hpba hquiet hrest hreset hlife hflash hkeep run
  generalize afterDone d r.opcode x.code = t at hrest hreset hlife hflash hkeep run
  have hbox : ∀ n, boxOf t n = boxOf d n := fun n => by
    have e := congrArg (fun y : State => boxOf y n) hrest
    exact e
  have htsent : t.sent = d.sent := by have e := congrArg State.sent hrest; exact e
  have htpba : t.control.pba = d.control.pba := by have e := congrArg (fun y : State => y.control.pba) hrest; exact e
  have hnow : (atTide s now).tide.now = max s.tide.now now := rfl
  rw [htide, hnow] at hreset hlife
  rw [hboot] at hflash hkeep
  refine runs_of run ?_
  rw [hbox, hself]
  refine ⟨rfl, rfl, rfl, rfl, rfl, rfl, fun i hi => ?_, fun n hn => (hbox n).trans (hne n hn), fun hi hm => htsent.trans (hsent hi hm), fun hi hm => ?_,
    fun hi => htsent.trans (hquiet hi).1, hreset, hlife, hflash, hkeep⟩
  · have e := memGet_memWrite_in (boxOf (atTide s now) mb).resp 0 i x.resp hi
    rw [Nat.zero_add] at e
    exact e
  · obtain ⟨h1, h2⟩ := hpba hi hm
    refine ⟨?_, htsent.trans h2⟩
    rw [htpba, h1, BitVec.getLsbD_or]
    simp
    omega

/-- Settles O42: a command word by the refusal that it meets first; a completion by its outcome. -/
theorem mailboxesTakeAndCompleteCommands : Obligations.MailboxesTakeAndCompleteCommands := by
  unfold Obligations.MailboxesTakeAndCompleteCommands
  refine ⟨fun op mb seq irq ok now s hop hb => ?_, fun mb now s hb => ⟨fun op seq irq hop h1 hs => ?_, fun r x hrun hres hresume => ?_⟩⟩
  · intro c b
    obtain ⟨busy, body, hc⟩ := exec_commandOf hop mb seq irq ok now
    have hcont : opcodes.contains op = true := List.contains_iff_mem.mpr hop
    have hnext : ∀ {n : Nat}, seq.toNat = (n + 1) % 256 → seq.toNat ≠ n := fun {n} h => by omega
    have takes : b.state ≠ 1 → seq.toNat ≠ b.seq → exec c s = .next (takeWord (atTide s now) ⟨mb, op, seq.toNat, irq⟩ (busy s) (body s)) :=
      fun h1 hs => (hc s).trans (commandRow_takes hb h1 hs)
    have begun : Begun s (startBox (atTide s now) ⟨mb, op, seq.toNat, irq⟩) mb op irq := startBox_begunAt s now ⟨mb, op, seq.toNat, irq⟩
    have only := startBox_only (atTide s now) ⟨mb, op, seq.toNat, irq⟩
    refine ⟨fun h1 => ?_, fun h1 hs => ?_, fun h1 hs hn hirq hm => ?_, fun h1 hs hm => ?_, fun code d h1 hs hm hu => ?_, fun o h1 hs hm hu he hr => ?_⟩
    · exact (hc s).trans (commandRow_running hb h1)
    · exact (hc s).trans (commandRow_repeat hb h1 hs)
    · refine runs_of (takes h1 hs) ?_
      rw [takeWord_badSeq hcont hm hn]
      exact badSeq_ends s now _ _ _ hirq
    · refine runs_of (takes h1 (hnext hs)) ?_
      rw [takeWord_wrongBox hcont hm hs]
      exact ends_boxOnly begun only (.inl (by decide)) _ _
    · refine runs_of (takes h1 (hnext hs)) ?_
      rw [takeWord_unserved hcont hm hs hu]
      exact ends_boxOnly begun only (.inl (unserved_code hu)) _ _
    · refine runs_of (takes h1 (hnext hs)) ?_
      have hex : exclusiveBusy (atTide s now) op = some (.refuse stBusy o) := by
        unfold exclusiveBusy
        rw [if_pos he, show exclusiveRuns (atTide s now) = some o from hr]
        rfl
      rw [takeWord_exclusive hcont hm hs hu hex]
      exact ends_boxOnly begun only (.inl (by decide)) _ _
  · have begun := startBox_begunAt s now ⟨mb, op.toNat, seq.toNat, irq⟩
    have only := startBox_only (atTide s now) ⟨mb, op.toNat, seq.toNat, irq⟩
    have hne : seq.toNat ≠ (boxOf s mb).seq := by omega
    have hcont : opcodes.contains op.toNat = false := by rw [List.contains_eq_mem]; exact decide_eq_false hop
    refine runs_of (t := takeWord (atTide s now) ⟨mb, op.toNat, seq.toNat, irq⟩ (fun _ => none) fun t => .go t) ?_ ?_
    · change execUnknownCommand mb op seq irq now s = _
      unfold execUnknownCommand
      rw [if_neg (by rw [hcont]; decide)]
      exact commandRow_takes hb h1 hne
    · rw [takeWord_unknown hcont hs]
      exact ends_boxOnly begun only (.inl (by decide)) _ _
  · exact execCommandComplete_spec now hb hrun hres hresume

end Sys2Proof.Machine
end

section
/-! SUPPORT. Commands that a mailbox accepts: the state in which they begin, and what their end changes (14, R423, R424); the reading commands. -/

namespace Sys2Proof.Machine

open Sys2Proof

/-! The beginning of a command that is accepted. -/

/-- The command of mailbox m has begun in a state that only its mailbox and the tide tell from the one it came in. -/
structure Taken (s : State) (now : Nat) (v : State) (m op : Nat) (irq : Bool) : Prop where
  begun : Begun s v m op irq
  only : BoxesOnly (atTide s now) v
  params : (boxOf v m).params = (boxOf s m).params

theorem startBox_taken (s : State) (now : Nat) (w : Word_) : Taken s now (startBox (atTide s now) w) w.mb w.op w.irq := by
  refine ⟨startBox_begunAt s now w, startBox_only _ _, ?_⟩
  unfold startBox
  rw [boxOf_modBox_self]
  rfl

section
variable {s v : State} {now m op : Nat} {irq : Bool} (h : Taken s now v m op irq)
include h

/-- What the mailboxes do not tell reads as before. -/
theorem Taken.read {α : Type} (f : State → α)
    (hf : ∀ (x : State) (b : Tbl Mailbox), f { x with control := { x.control with boxes := b } } = f x) : f v = f (atTide s now) := by
  have e := congrArg f h.only
  rw [hf] at e
  exact e

theorem Taken.param (o n : Nat) : param v m o n = parameter s m o n := by
  unfold Machine.param
  rw [h.params]

theorem Taken.power : v.power = s.power := h.read State.power fun _ _ => rfl
theorem Taken.tide : v.tide = (atTide s now).tide := h.read State.tide fun _ _ => rfl
theorem Taken.boot : v.boot = s.boot := h.read State.boot fun _ _ => rfl
theorem Taken.meter : v.meter = s.meter := h.read State.meter fun _ _ => rfl
theorem Taken.job : v.job = s.job := h.read State.job fun _ _ => rfl
theorem Taken.commit : v.commit = s.commit := h.read State.commit fun _ _ => rfl
theorem Taken.cores : v.cores = s.cores := h.read State.cores fun _ _ => rfl
theorem Taken.straits : v.straits = s.straits := h.read State.straits fun _ _ => rfl
theorem Taken.memory : v.memory = s.memory := h.read State.memory fun _ _ => rfl
theorem Taken.gen : v.control.cfgGen = s.control.cfgGen := h.read (fun x => x.control.cfgGen) fun _ _ => rfl

/-- A command that ends without raising CFG_GEN has changed its mailbox alone. -/
theorem Taken.ends {code : Nat} (hc : code ≠ 0 ∨ raisesGen op = false) (detail : Nat) (resp : List Byte) :
    BoxOnly s now (finish v m code detail resp) m ∧ Ended (finish v m code detail resp) m op irq code (reg detail) resp :=
  ends_boxOnly h.begun h.only hc detail resp

end

/-- A plain command that is accepted runs its body where it begins. -/
theorem runs_plain {c : Instr} {s : State} {mb : Fin 16} {op : Nat} {seq : Byte} {irq : Bool} {now : Nat} {body : State → Answer}
    {P : State → Prop} (h : Accepts s mb op seq) (hop : opcodes.contains op = true) (hc : exec c s = plainRow op mb seq irq now s body)
    (hP : ∀ v, v = startBox (atTide s now) ⟨mb, op, seq.toNat, irq⟩ → Taken s now v mb op irq → P (applyAnswer v mb (body v))) : Runs c s P :=
  runs_of (hc.trans (plainRow_accepted h hop irq now body)) (hP _ rfl (startBox_taken s now ⟨mb, op, seq.toNat, irq⟩))

/-- The same, for a command that ends at once with OK and does not raise CFG_GEN. -/
theorem runs_reading {c : Instr} {s : State} {mb : Fin 16} {op : Nat} {seq : Byte} {irq : Bool} {now : Nat} {body : State → Answer}
    {resp : List Byte} (h : Accepts s mb op seq) (hop : opcodes.contains op = true) (hr : raisesGen op = false)
    (hc : exec c s = plainRow op mb seq irq now s body) (hb : ∀ v, Taken s now v mb op irq → body v = okAt v mb resp) :
    Runs c s fun t => BoxOnly s now t mb ∧ Ended t mb op irq 0 0 resp :=
  runs_plain h hop hc fun v _ hv => by
    rw [hb v hv]
    exact hv.ends (.inr hr) 0 resp

/-! The reading commands. -/

theorem statusBytes_gen (s : State) : ((statusBytes s).drop 4).take 8 = leBytes 8 s.control.cfgGen := by
  unfold statusBytes
  simp only [List.append_assoc]
  rw [List.drop_left' (leBytes_length _ _), List.take_left' (leBytes_length _ _)]

theorem statusBytes_now (s : State) : (statusBytes s).drop 40 = leBytes 8 s.tide.now := by
  unfold statusBytes
  refine List.drop_left' ?_
  simp only [List.length_append, leBytes_length]

theorem useFree_taken {s v : State} {now m op : Nat} {irq : Bool} (h : Taken s now v m op irq) :
    Taken { s with freeCtr := s.freeCtr + 1 } now (useFree v) m op irq :=
  ⟨⟨h.begun.state, h.begun.run, h.begun.others⟩,
    by
      have e := congrArg useFree h.only
      exact e, h.params⟩

theorem refresh_taken {s v : State} {now m op : Nat} {irq : Bool} (h : Taken s now v m op irq) :
    Taken { s with control := { s.control with telem := snapshot (atTide s now) } } now (refresh v) m op irq := by
  have hsnap : snapshot v = snapshot (atTide s now) := h.read snapshot fun _ _ => rfl
  refine ⟨⟨h.begun.state, h.begun.run, h.begun.others⟩, ?_, h.params⟩
  have e := congrArg (fun x : State => { x with control := { x.control with telem := snapshot (atTide s now) } }) h.only
  unfold refresh
  rw [hsnap]
  exact e

section
variable {s : State} {mb : Fin 16} {seq : Byte} {now : Nat} (irq : Bool)

/-- STATUS returns CFG_GEN and TIDE_NOW among the other registers. -/
theorem status_reads (h : Accepts s mb 0x02 seq) : Runs (.status mb seq irq now) s fun t =>
    BoxOnly { s with freeCtr := s.freeCtr + 1 } now t mb ∧
      ∃ resp, Ended t mb 0x02 irq 0 0 resp ∧ (resp.drop 4).take 8 = leBytes 8 s.control.cfgGen ∧ resp.drop 40 = leBytes 8 (atTide s now).tide.now :=
  runs_plain h rfl rfl fun v _ hv => by
    obtain ⟨hbox, hend⟩ := (useFree_taken hv).ends (.inr rfl) 0 (statusBytes v)
    refine ⟨hbox, _, hend, ?_, ?_⟩
    · rw [statusBytes_gen, hv.gen]
    · rw [statusBytes_now, hv.tide]

/-- METER_READ with no notice before it is answered at once (R430). -/
theorem meterRead_answers (hn : s.power.notices = []) (h0 : parameter s mb 0 1 = 0) (h1 : parameter s mb 1 1 = 0) (h : Accepts s mb 0x60 seq) :
    Runs (.meterRead mb seq irq now) s fun t => BoxOnly s now t mb ∧ Ended t mb 0x60 irq 0 0 (leBytes 8 s.meter.energy ++
      leBytes 8 s.meter.seqNext ++ leBytes 8 s.meter.rtc ++ leBytes 4 (mtSeal s.meter) ++ leBytes 1 s.meter.interval ++ List.replicate 35 0) :=
  runs_reading h rfl rfl rfl fun v hv => by
    have hp0 : param v mb 0 1 = 0 := (hv.param 0 1).trans h0
    have hp1 : param v mb 1 1 = 0 := (hv.param 1 1).trans h1
    unfold meterRead meterAnswer okAt
    rw [hp0, hp1, hv.power, hn, if_neg (by decide), if_neg (by decide)]
    dsimp only [List.length_nil]
    rw [if_pos rfl, if_pos rfl, hv.meter, List.range_zero, List.flatMap_nil, List.append_nil]

/-- METER_READ behind notices waits for the meter (R430). -/
theorem meterRead_waits (h : Accepts s mb 0x60 seq) (hn : s.power.notices ≠ []) (h0 : parameter s mb 0 1 ≤ 1) (h1 : parameter s mb 1 1 ≤ 15) :
    Runs (.meterRead mb seq irq now) s fun t =>
      { t with power := s.power, control := { t.control with boxes := s.control.boxes } } = atTide s now ∧
      t.power = { s.power with reads := s.power.reads ++ [(mb.val, s.power.notices.length)] } ∧
      (boxOf t mb).run = some ⟨0x60, irq, none, []⟩ :=
  runs_plain h rfl rfl fun v _ hv => by
    have hlen : s.power.notices.length ≠ 0 := fun e => hn (List.length_eq_zero_iff.mp e)
    have hwait : meterRead v mb = .go (setPower v fun p => { p with reads := p.reads ++ [(mb.val, s.power.notices.length)] }) := by
      unfold meterRead
      rw [hv.param, hv.param, hv.power, if_neg (by omega), if_neg (by omega)]
      rw [if_neg hlen]
    rw [hwait]
    refine ⟨?_, ?_, hv.begun.run⟩
    · have e := congrArg (fun p : Power => { v with power := p, control := { v.control with boxes := s.control.boxes } }) hv.power.symm
      exact e.trans hv.only
    · have e := congrArg (fun p : Power => { p with reads := p.reads ++ [(mb.val, s.power.notices.length)] }) hv.power
      exact e

end

/-- Settles O43: each reading command where it begins, by its response. -/
theorem readingCommands : Obligations.ReadingCommands := by
  unfold Obligations.ReadingCommands
  intro mb seq irq now s t0 plain
  refine ⟨fun h => ?_, fun h => status_reads irq h, fun hn h0 h1 h => meterRead_answers irq hn h0 h1 h, fun h hn h0 h1 => meterRead_waits irq h hn h0 h1,
    fun h => ?_, fun h => ?_, fun h => ?_, fun k hk hlt h => ?_, fun h => ?_⟩
  · exact runs_reading h rfl rfl rfl fun v hv => congrArg (okAt v mb) (hv.read identity fun _ _ => rfl)
  · exact runs_reading h rfl rfl rfl fun v hv => congrArg (okAt v mb)
      (hv.read (fun t => causeBytes t ++ leBytes 8 t.control.cfgGen ++ List.replicate 24 0 ++ journalTail t) fun _ _ => rfl)
  · refine runs_plain h rfl rfl fun v _ hv => ?_
    have hsnap : snapshot v = snapshot t0 := hv.read snapshot fun _ _ => rfl
    rw [hsnap]
    exact (refresh_taken hv).ends (.inr rfl) 0 _
  · exact runs_reading h rfl rfl rfl fun v hv => congrArg (okAt v mb)
      (hv.read (fun t => leBytes 1 (bit (t.power.stat.getLsbD 2)) ++ [0] ++ leBytes 2 tripTemp ++ temperatures t) fun _ _ => rfl)
  · refine runs_reading h rfl rfl rfl fun v hv => ?_
    have hp : param v mb 0 1 = k := (hv.param 0 1).trans hk
    unfold diagLanes
    rw [hp, if_pos hlt]
    exact congrArg (okAt v mb) (hv.read (fun t => isthLaneBytes t k) fun _ _ => rfl)
  · exact runs_reading h rfl rfl rfl fun v hv => rfl

end Sys2Proof.Machine
end

section
/-! SUPPORT. Commands that set something: settings, the straits' lasers, power states, the tide's role and tempo (14, 09, 13). -/

namespace Sys2Proof.Machine

open Sys2Proof

/-! A command that ends with OK and raises CFG_GEN. -/

theorem finish_control (s : State) (m code detail : Nat) (resp : List Byte) : { finish s m code detail resp with control := s.control } = s := by
  unfold finish finishAs
  split
  · rfl
  · dsimp only
    split
    · rfl
    · rfl

theorem finish_power (s : State) (m code detail : Nat) (resp : List Byte) : (finish s m code detail resp).power = s.power := by
  have e := congrArg State.power (finish_control s m code detail resp)
  exact e

theorem finish_rises {v u : State} {m op : Nat} {irq : Bool} (h : Begun v u m op irq) (hr : raisesGen op = true) (resp : List Byte) :
    (finish u m stOk 0 resp).control.cfgGen = (u.control.cfgGen + 1) % 2 ^ 64 := by
  unfold finish finishAs
  rw [h.run]
  dsimp only
  rw [if_pos (by rw [hr]; rfl)]
  rfl

/-- Of the control registers the pending vectors alone may change. -/
def ControlSame (s t : State) : Prop := { t.control with pba := s.control.pba } = s.control

theorem ControlSame.refl (s : State) : ControlSame s s := rfl

theorem ControlSame.trans {a b c : State} (h : ControlSame a b) (h' : ControlSame b c) : ControlSame a c := by
  unfold ControlSame at *
  refine Eq.trans ?_ h
  rw [← h']

theorem ControlSame.box {s t : State} (h : ControlSame s t) (n : Nat) : boxOf t n = boxOf s n := by
  have e := congrArg (fun c : Control => tblGet mailboxReset c.boxes n) h
  exact e

theorem ControlSame.gen {s t : State} (h : ControlSame s t) : t.control.cfgGen = s.control.cfgGen := by
  have e := congrArg Control.cfgGen h
  exact e

theorem DarkOnly.control {s t : State} (h : DarkOnly s t) : ControlSame s t := by
  have e := congrArg State.control h.rest
  exact e

theorem PodOnly.control {s t : State} (h : PodOnly s t) : ControlSame s t := by
  have e := congrArg State.control h.rest
  exact e

theorem controlSame_foldl {α : Type} (f : State → α → State) (h : ∀ s x, ControlSame s (f s x)) : ∀ (l : List α) (s : State),
    ControlSame s (l.foldl f s)
  | [], s => .refl s
  | x :: l, s => (h s x).trans (controlSame_foldl f h l _)

section
variable {s v u : State} {now m op : Nat} {irq : Bool}

/-- A command whose work leaves the mailboxes ends with OK. -/
theorem Taken.okEnds (h : Taken s now v m op irq) (hb : ∀ n, boxOf u n = boxOf v n) (resp : List Byte) :
    Ended (finish u m stOk 0 resp) m op irq 0 0 resp :=
  (finish_ended (h.begun.congr hb) stOk 0 resp).1

/-- A command whose work leaves CFG_GEN and that raises it ends with OK and CFG_GEN one higher. -/
theorem Taken.okRises (h : Taken s now v m op irq) (hr : raisesGen op = true) (hb : ∀ n, boxOf u n = boxOf v n)
    (hg : u.control.cfgGen = v.control.cfgGen) (resp : List Byte) :
    GenRose s (finish u m stOk 0 resp) ∧ Ended (finish u m stOk 0 resp) m op irq 0 0 resp := by
  refine ⟨?_, h.okEnds hb resp⟩
  unfold GenRose
  rw [finish_rises (h.begun.congr hb) hr, hg, h.gen]

theorem Taken.okRises_of (h : Taken s now v m op irq) (hr : raisesGen op = true) (hu : ControlSame v u) (resp : List Byte) :
    GenRose s (finish u m stOk 0 resp) ∧ Ended (finish u m stOk 0 resp) m op irq 0 0 resp :=
  h.okRises hr hu.box hu.gen resp

/-- A refusal changes the mailbox alone and tells a detail. -/
theorem Taken.refuses (h : Taken s now v m op irq) {code : Nat} (hc : code ≠ 0) (detail : Nat) :
    BoxOnly s now (finish v m code detail []) m ∧ ∃ d, Ended (finish v m code detail []) m op irq code d [] :=
  ⟨(h.ends (.inl hc) detail []).1, _, (h.ends (.inl hc) detail []).2⟩

end

/-! A command with a BUSY of its own. -/

section
variable {c : Instr} {s : State} {mb : Fin 16} {op : Nat} {seq : Byte} {irq : Bool} {now : Nat} {busy : State → Option Answer}
  {body : State → Answer} {P : State → Prop}

theorem runs_busy (h : Accepts s mb op seq) (hop : opcodes.contains op = true) (hc : exec c s = busyRow op mb seq irq now s busy body)
    (hb : ∀ v, Taken s now v mb op irq → busy v = none)
    (hP : ∀ v, v = startBox (atTide s now) ⟨mb, op, seq.toNat, irq⟩ → Taken s now v mb op irq → P (applyAnswer v mb (body v))) : Runs c s P := by
  obtain ⟨hboxed, hidle, hseq, hbox, hserved, hfree, hgate⟩ := h
  have fresh : seq.toNat ≠ (boxOf s mb).seq := by omega
  have begins := startBox_taken s now ⟨mb, op, seq.toNat, irq⟩
  refine runs_of (hc.trans (commandRow_takes hboxed hidle fresh)) ?_
  rw [show takeWord (atTide s now) ⟨mb, op, seq.toNat, irq⟩ busy body = takeWord (atTide s now) ⟨mb, op, seq.toNat, irq⟩ (fun _ => none) body from by
    unfold takeWord; dsimp only; rw [hb _ begins]]
  rw [takeWord_accepted (s := atTide s now) (w := ⟨mb, op, seq.toNat, irq⟩) hop hbox hseq hserved hfree hgate body]
  exact hP _ rfl begins

/-- The command's own BUSY goes before the refusals by state. -/
theorem runs_busy_refused {code detail : Nat} (h : Accepts s mb op seq) (hop : opcodes.contains op = true)
    (hc : exec c s = busyRow op mb seq irq now s busy body) (hb : ∀ v, Taken s now v mb op irq → busy v = some (.refuse code detail))
    (hP : ∀ v, Taken s now v mb op irq → P (finish v mb code detail [])) : Runs c s P := by
  obtain ⟨hboxed, hidle, hseq, hbox, hserved, hfree, -⟩ := h
  have fresh : seq.toNat ≠ (boxOf s mb).seq := by omega
  have begins := startBox_taken s now ⟨mb, op, seq.toNat, irq⟩
  have next : (seq.toNat != ((boxOf (atTide s now) mb).seq + 1) % 256) = false := bne_eq_false_iff_eq.mpr hseq
  have hserved' : unserved (atTide s now) mb = none := hserved
  have hfree' : exclusiveBusy (atTide s now) op = none := hfree
  have taken : takeWord (atTide s now) ⟨mb, op, seq.toNat, irq⟩ busy body =
      finish (startBox (atTide s now) ⟨mb, op, seq.toNat, irq⟩) mb code detail [] := by
    simp only [takeWord, next, hop, hbox, hserved', hfree', hb _ begins, Bool.not_true, Bool.false_eq_true, if_false, Option.orElse_none,
      Option.orElse_some, Option.getD_some, applyAnswer]
  refine runs_of (hc.trans (commandRow_takes hboxed hidle fresh)) ?_
  rw [taken]
  exact hP _ begins

end

/-! The governor's cap (R396). -/

theorem notice_spec (s : State) (typ setting old new ahead : Nat) : let t := notice s typ setting old new ahead
    { t.power with notices := s.power.notices } = s.power ∧ t.control = s.control ∧
    t.power.notices.length = s.power.notices.length + if new = old then 0 else 1 := by
  unfold notice
  by_cases h : old = new
  · rw [if_pos h, if_pos h.symm]
    exact ⟨rfl, rfl, rfl⟩
  · rw [if_neg h, if_neg (Ne.symm h)]
    refine ⟨rfl, rfl, ?_⟩
    exact List.length_append

theorem govSetting_cap (s : State) (x ahead : Nat) : let t := govSetting s 1 x ahead
    t.power.cap = max 1500 (min 5200 x) ∧ t.power.floor = s.power.floor ∧ t.power.slewUp = s.power.slewUp ∧
    t.power.notices.length = s.power.notices.length + (if t.power.cap = s.power.cap then 0 else 1) ∧ t.control = s.control := by
  obtain ⟨hpower, hcontrol, hlen⟩ := notice_spec s 3 1 s.power.cap (max 1500 (min 5200 x)) ahead
  have e : govSetting s 1 x ahead = setPower (notice s 3 1 s.power.cap (max 1500 (min 5200 x)) ahead) fun p => { p with cap := max 1500 (min 5200 x) } := rfl
  rw [e]
  generalize notice s 3 1 s.power.cap (max 1500 (min 5200 x)) ahead = u at hpower hcontrol hlen
  refine ⟨rfl, ?_, ?_, hlen, hcontrol⟩
  · have e := congrArg Power.floor hpower
    exact e
  · have e := congrArg Power.slewUp hpower
    exact e

theorem ControlSame.of_eq {s t : State} (h : t.control = s.control) : ControlSame s t := by
  unfold ControlSame
  rw [h]

theorem queueFull_none {s v : State} {now m op : Nat} {irq : Bool} (hn : s.power.notices.length < 256) (h : Taken s now v m op irq) :
    queueFull v = none := by
  unfold queueFull noticesFull
  rw [h.power, decide_eq_false (by omega)]
  rfl

theorem queueFull_some {s v : State} {now m op : Nat} {irq : Bool} (hn : 256 ≤ s.power.notices.length) (h : Taken s now v m op irq) :
    queueFull v = some (.refuse stBusy 0xFFFF) := by
  unfold queueFull noticesFull
  rw [h.power, decide_eq_true hn]
  rfl

theorem govWanted_cap {s : State} {m : Nat} (h : param s m 0 1 = 1) : govWanted s m = [(1, param s m 2 2)] := by
  unfold govWanted
  rw [h]
  rfl

theorem govSet_cap {s : State} {m : Nat} (h : param s m 0 1 = 1) : ∃ resp, govSet s m = okAt (govSetting s 1 (param s m 2 2) 1) m resp := by
  unfold govSet
  rw [govWanted_cap h, h]
  exact ⟨_, rfl⟩

/-! The lasers of every port go off (R444). -/

/-- The port is off by isolation. -/
def IsOff (k : Port) : Prop := k.state = 3 ∧ k.cause = 4 ∧ k.isolated = true

theorem IsOff.congr {k k' : Port} (h : SamePort k k') (hk : IsOff k) : IsOff k' := by
  obtain ⟨h1, h2, h3⟩ := hk
  have e1 : k'.state = k.state := by have e := congrArg Port.state h; exact e
  have e2 : k'.cause = k.cause := by have e := congrArg Port.cause h; exact e
  have e3 : k'.isolated = k.isolated := by have e := congrArg Port.isolated h; exact e
  exact ⟨e1.trans h1, e2.trans h2, e3.trans h3⟩

theorem isolatePort_off (s : State) (p : Fin 8) : IsOff (portOf (isolatePort s p) p) ∧ OthersAgree s (isolatePort s p) p := by
  obtain ⟨hothers, -, hport⟩ := portDown_modPort s p (fun k => { k with isolated := true }) 4 rfl
  exact ⟨IsOff.congr hport ⟨rfl, rfl, rfl⟩, hothers⟩

theorem isolatePort_control (s : State) (p : Nat) : ControlSame s (isolatePort s p) :=
  ((modPort_dark s p _).trans (portDown_dark _ p 4)).control

theorem isolatePorts_off (l : List Nat) : ∀ (s : State), (∀ p ∈ l, p < 8) → ∀ q < 8, q ∈ l ∨ IsOff (portOf s q) →
    IsOff (portOf (l.foldl isolatePort s) q) := by
  induction l with
  | nil => exact fun s _ q _ h => h.resolve_left List.not_mem_nil
  | cons p l ih =>
    intro s hl q hq h
    have hp : p < 8 := hl p List.mem_cons_self
    obtain ⟨hoff, hothers⟩ := isolatePort_off s ⟨p, hp⟩
    rw [List.foldl_cons]
    generalize isolatePort s p = t at hoff hothers ⊢
    refine ih t (fun x hx => hl x (List.mem_cons_of_mem _ hx)) q hq ?_
    by_cases e : q = p
    · rw [e]
      exact .inr hoff
    · exact h.imp (fun hm => (List.mem_cons.mp hm).resolve_left e) fun hk => IsOff.congr (hothers q e) hk

/-! A wake (R392). -/

theorem wakeUp_spec {s : State} (i : Nat) (hv : s.power.vinFault = false) (ht : s.power.tripDry = false) (hg : s.power.going = none) :
    wakeUp s i = { s with power := { s.power with
      wakeCause := s.power.wakeCause ||| 2 ^ i, going := if s.power.state = 0 then none else some 0 } } := by
  by_cases h : s.power.state = 0
  · unfold wakeUp
    rw [if_neg (by rw [hv, ht]; simp)]
    dsimp only [setPower]
    rw [hg]
    dsimp only
    rw [if_pos h, if_pos h]
  · rw [wakeUp_exits i hv ht hg h, if_neg h]

end Sys2Proof.Machine
end

section
/-! SUPPORT. The setting commands, each by what it sets (14, 09). -/

namespace Sys2Proof.Machine

open Sys2Proof

theorem finish_period (s : State) (m code detail : Nat) (resp : List Byte) : (finish s m code detail resp).control.period = s.control.period := by
  unfold finish finishAs
  split
  · rfl
  · dsimp only
    split
    · rfl
    · rfl

section
variable {s : State} {mb : Fin 16} {seq : Byte} {now : Nat} (irq : Bool)

/-! Telemetry, governor, harbour address. -/

theorem telemetrySet_sets (h : Accepts s mb 0x52 seq) (hp : parameter s mb 0 2 ≤ 1000) : Runs (.telemetrySet mb seq irq now) s fun t =>
    t.control.period = parameter s mb 0 2 ∧ Ended t mb 0x52 irq 0 0 [] ∧ GenRose s t ∧ { t with control := s.control } = atTide s now :=
  runs_plain h rfl rfl fun v _ hv => by
    have hpar : param v mb 0 2 = parameter s mb 0 2 := hv.param 0 2
    have hset : telemetrySet v mb = okAt { v with control := { v.control with period := parameter s mb 0 2 } } mb [] := by
      unfold telemetrySet
      rw [hpar]
      exact if_neg (by omega)
    rw [hset]
    obtain ⟨u, hu⟩ : ∃ u, ({ v with control := { v.control with period := parameter s mb 0 2 } } : State) = u := ⟨_, rfl⟩
    have hperiod : u.control.period = parameter s mb 0 2 := by rw [← hu]
    have hrest : { u with control := s.control } = atTide s now := by
      rw [← hu]
      have e := congrArg (fun x : State => { x with control := s.control }) hv.only
      exact e
    obtain ⟨hgen, hend⟩ := hv.okRises (u := u) rfl (fun n => by rw [← hu]; rfl) (by rw [← hu]) []
    rw [hu]
    refine ⟨?_, hend, hgen, ?_⟩
    · refine Eq.trans ?_ hperiod
      exact finish_period u mb stOk 0 []
    · have e := congrArg (fun x : State => { x with control := s.control }) (finish_control u mb stOk 0 [])
      exact e.trans hrest

theorem telemetrySet_refuses (h : Accepts s mb 0x52 seq) (hp : 1000 < parameter s mb 0 2) : Runs (.telemetrySet mb seq irq now) s fun t =>
    BoxOnly s now t mb ∧ ∃ d, Ended t mb 0x52 irq 3 d [] :=
  runs_plain h rfl rfl fun v _ hv => by
    have hset : telemetrySet v mb = badParam 0 := by
      unfold telemetrySet
      rw [hv.param]
      exact if_pos hp
    rw [hset]
    exact hv.refuses (by decide) _

theorem govSet_setsCap (h : Accepts s mb 0x51 seq) (hn : s.power.notices.length < 256) (hp : parameter s mb 0 1 = 1) :
    Runs (.govSet mb seq irq now) s fun t =>
      t.power.cap = max 1500 (min 5200 (parameter s mb 2 2)) ∧ GenRose s t ∧ t.power.floor = s.power.floor ∧ t.power.slewUp = s.power.slewUp ∧
        (∃ resp, Ended t mb 0x51 irq 0 0 resp) ∧
        t.power.notices.length = s.power.notices.length + if t.power.cap = s.power.cap then 0 else 1 :=
  runs_busy h rfl rfl (fun _ hv => queueFull_none hn hv) fun v _ hv => by
    have hcap := hv.param 2 2
    obtain ⟨resp, hset⟩ := govSet_cap ((hv.param 0 1).trans hp)
    rw [hset, hcap]
    obtain ⟨h1, h2, h3, h4, hcontrol⟩ := govSetting_cap v (parameter s mb 2 2) 1
    generalize govSetting v 1 (parameter s mb 2 2) 1 = u at h1 h2 h3 h4 hcontrol
    obtain ⟨hgen, hend⟩ := hv.okRises_of rfl (ControlSame.of_eq hcontrol) resp
    rw [hv.power] at h2 h3 h4
    unfold applyAnswer okAt
    dsimp only
    rw [finish_power]
    exact ⟨h1, hgen, h2, h3, ⟨resp, hend⟩, h4⟩

theorem govSet_refuses (h : Accepts s mb 0x51 seq) (hn : s.power.notices.length < 256) (hp : 32 ≤ parameter s mb 0 1) :
    Runs (.govSet mb seq irq now) s fun t => BoxOnly s now t mb ∧ ∃ d, Ended t mb 0x51 irq 3 d [] :=
  runs_busy h rfl rfl (fun _ hv => queueFull_none hn hv) fun v _ hv => by
    have hset : govSet v mb = badParam 0 := by
      unfold govSet
      rw [hv.param]
      exact if_pos hp
    rw [hset]
    exact hv.refuses (by decide) _

theorem rampToFloor_lowers (h : Accepts s mb 0x72 seq) (hn : s.power.notices.length < 256) : Runs (.rampToFloor mb seq irq now) s fun t =>
    t.power.cap = max 1500 (min 5200 (max s.power.floor 1500)) ∧ GenRose s t ∧ Ended t mb 0x72 irq 0 0 [] :=
  runs_busy h rfl rfl (fun _ hv => queueFull_none hn hv) fun v _ hv => by
    obtain ⟨hcap, -, -, -, hcontrol⟩ := govSetting_cap v (max v.power.floor 1500) 1
    rw [hv.power] at hcap hcontrol ⊢
    generalize govSetting v 1 (max s.power.floor 1500) 1 = u at hcap hcontrol
    obtain ⟨hgen, hend⟩ := hv.okRises_of rfl (ControlSame.of_eq hcontrol) []
    unfold applyAnswer okAt
    dsimp only
    rw [finish_power]
    exact ⟨hcap, hgen, hend⟩

theorem rampToFloor_waits (h : Accepts s mb 0x72 seq) (hn : 256 ≤ s.power.notices.length) : Runs (.rampToFloor mb seq irq now) s fun t =>
    BoxOnly s now t mb ∧ Ended t mb 0x72 irq 1 0xFFFF [] :=
  runs_busy_refused h rfl rfl (fun _ hv => queueFull_some hn hv) fun _ hv => hv.ends (.inl (by decide)) _ []

theorem anySession_none {v : State} {op : Nat} (hs : ∀ k < 8, (sessionOf s k).state ≠ 1) (hv : Taken s now v mb op irq) : anySession v = none := by
  have hread : anySession v = anySession s := hv.read anySession fun _ _ => rfl
  rw [hread]
  unfold anySession
  rw [Option.map_eq_none_iff, List.find?_eq_none]
  intro k hk
  have := hs k (List.mem_range.mp hk)
  simp [this]

theorem harbourConfig_sets (h : Accepts s mb 0x90 seq) (hs : ∀ k < 8, (sessionOf s k).state ≠ 1)
    (hp : parameter s mb 16 2 = 0xFFFF ∨ (1 ≤ parameter s mb 16 2 ∧ parameter s mb 16 2 ≤ 4094)) : Runs (.harbourConfig mb seq irq now) s fun t =>
      t.straits = { s.straits with ip := BitVec.ofNat 128 (parameter s mb 0 16), vlan := parameter s mb 16 2, udp := parameter s mb 18 2 } ∧
        GenRose s t ∧ Ended t mb 0x90 irq 0 0 [] :=
  runs_busy h rfl rfl (fun _ hv => anySession_none irq hs hv) fun v _ hv => by
    have hpar : (outside 1 4094 (parameter s mb 16 2) && parameter s mb 16 2 != 0xFFFF) = false := by
      unfold outside
      rcases hp with e | ⟨h1, h2⟩
      · rw [e]; rfl
      · rw [decide_eq_false (by omega), decide_eq_false (by omega)]; rfl
    have hset : harbourConfig v mb = okAt { v with straits := { v.straits with
        ip := BitVec.ofNat 128 (parameter s mb 0 16), vlan := parameter s mb 16 2, udp := parameter s mb 18 2 } } mb [] := by
      unfold harbourConfig
      rw [hv.param, hv.param, hv.param]
      dsimp only
      rw [hpar]
      exact if_neg Bool.false_ne_true
    rw [hset, hv.straits]
    obtain ⟨u, hu⟩ : ∃ u, ({ v with straits := { s.straits with
      ip := BitVec.ofNat 128 (parameter s mb 0 16), vlan := parameter s mb 16 2, udp := parameter s mb 18 2 } } : State) = u := ⟨_, rfl⟩
    obtain ⟨hgen, hend⟩ := hv.okRises_of (u := u) rfl (by rw [← hu]; rfl) []
    refine ⟨?_, by rw [hu]; exact hgen, by rw [hu]; exact hend⟩
    have e := congrArg State.straits (finish_control u mb stOk 0 [])
    rw [← hu] at e
    exact e

theorem isolateStraits_isolates (h : Accepts s mb 0x73 seq) : Runs (.isolateStraits mb seq irq now) s fun t =>
    GenRose s t ∧ Ended t mb 0x73 irq 0 0 [] ∧ ∀ p < 8, (portOf t p).state = 3 ∧ (portOf t p).cause = 4 ∧ (portOf t p).isolated = true :=
  runs_plain h rfl rfl fun v _ hv => by
    have hoff : ∀ p < 8, IsOff (portOf ((List.range 8).foldl isolatePort v) p) := fun p hp =>
      isolatePorts_off (List.range 8) v (fun x hx => List.mem_range.mp hx) p hp (.inl (List.mem_range.mpr hp))
    have hcontrol := controlSame_foldl isolatePort isolatePort_control (List.range 8) v
    generalize (List.range 8).foldl isolatePort v = u at hoff hcontrol
    obtain ⟨hgen, hend⟩ := hv.okRises_of (u := u) rfl hcontrol []
    refine ⟨hgen, hend, fun p hp => ?_⟩
    have e := congrArg (fun x : State => portOf x p) (finish_control u mb stOk 0 [])
    exact IsOff.congr (by rw [show portOf (applyAnswer v mb (okAt u mb [])) p = portOf u p from e]; rfl) (hoff p hp)

end

end Sys2Proof.Machine
end

section
/-! SUPPORT. Wakes, power states, the tide's role and tempo by command (14, 09, 13). -/

namespace Sys2Proof.Machine

open Sys2Proof

/-! The tide's role (R276). -/

theorem PodOnly.role {s t : State} (h : PodOnly s t) : t.tide.podId = s.tide.podId ∧ t.tide.rank = s.tide.rank := by
  refine ⟨?_, ?_⟩
  · have e := congrArg Tide.podId h.tide; exact e
  · have e := congrArg Tide.rank h.tide; exact e

theorem setTideEvent_control (s : State) (b : Nat) : ControlSame s (setTideEvent s b) := (setTideEvent_podOnly s b).control

/-- A package that becomes the source keeps pod and rank. -/
theorem enterSource_keeps (s : State) : (enterSource s).tide.podId = s.tide.podId ∧ (enterSource s).tide.rank = s.tide.rank ∧
    ControlSame s (enterSource s) := by
  obtain ⟨u, hu⟩ : ∃ u, setTideEvent (setTide s asSource) evSourceChange = u := ⟨_, rfl⟩
  have htide : u.tide = { asSource s.tide with event := s.tide.event ||| (1#32 <<< evSourceChange) } := by rw [← hu, setTideEvent_tide]; rfl
  have hcontrol : ControlSame s u := by rw [← hu]; exact (ControlSame.refl s).trans (setTideEvent_control (setTide s asSource) _)
  obtain ⟨v, hv⟩ : ∃ v, (openUses (setTide s asSource)).foldl tryRelease (showPodQ u) = v := ⟨_, rfl⟩
  have hpod : PodOnly u v := by
    rw [← hv]
    exact (showPodQ_podOnly u).trans (podOnly_foldl _ tryRelease_podOnly _ _)
  have e : enterSource s = setTide v fun t => { t with
      uses := t.uses.filter fun x => !((openUses v).drop 64).contains x
      noRoom := t.noRoom ++ (((openUses v).drop 64).filter (·.own)).map fun x => (x.idx, x.step, x.use) } := by
    rw [← hv, ← hu]
    rfl
  obtain ⟨h1, h2⟩ := hpod.role
  rw [htide] at h1 h2
  rw [e]
  exact ⟨h1, h2, hcontrol.trans hpod.control⟩

/-- Rank 0 of a pod makes the package its source. -/
theorem takeRole_source {s : State} {pod : Nat} (hclk : s.boot.clkMode ≠ 3) (hp : pod ≠ 0) (hs : s.tide.state ≠ 5) : let t := takeRole s pod 0
    t.tide.state = 5 ∧ t.tide.podId = pod ∧ t.tide.rank = 0 ∧ t.tide.locked = true ∧ t.tide.depth = 0 ∧ t.tide.srcRank = 0 ∧ ControlSame s t := by
  have e : takeRole s pod 0 = enterSource (setTide s fun t => { t with podId := pod, rank := 0, roleAt := t.now }) := by
    unfold takeRole
    dsimp only
    rw [if_neg (show ¬(setTide s fun t => { t with podId := pod, rank := 0, roleAt := t.now }).boot.clkMode = 3 from hclk), if_neg hp, if_pos rfl]
    exact if_neg hs
  obtain ⟨u, hu⟩ : ∃ u, (setTide s fun t => { t with podId := pod, rank := 0, roleAt := t.now }) = u := ⟨_, rfl⟩
  have hrank : u.tide.rank = 0 := by rw [← hu]; rfl
  have hpod : u.tide.podId = pod := by rw [← hu]; rfl
  have hcontrol : ControlSame s u := by rw [← hu]; rfl
  obtain ⟨h1, h2, h3, -, h5, -, -⟩ := enterSource_spec u
  obtain ⟨k1, k2, k3⟩ := enterSource_keeps u
  rw [e, hu]
  exact ⟨h1, k1.trans hpod, k2.trans hrank, h2, h3, h5.trans hrank, hcontrol.trans k3⟩

theorem enterFree_spec (s : State) : let t := enterFree s
    t.tide.state = 0 ∧ t.tide.podId = s.tide.podId ∧ t.tide.locked = false ∧ t.tide.parent = 8 ∧ ControlSame s t := by
  obtain ⟨u, hu⟩ : ∃ u, (setTide s fun t => { t with
    state := tideFree, locked := false, parent := 8, depth := 0xFF, srcRank := 7, inBound := none, podQ := 0, mayStep := false }) = u := ⟨_, rfl⟩
  have h : u.tide.state = 0 ∧ u.tide.podId = s.tide.podId ∧ u.tide.locked = false ∧ u.tide.parent = 8 ∧ ControlSame s u := by
    rw [← hu]
    exact ⟨rfl, rfl, rfl, rfl, rfl⟩
  unfold enterFree
  rw [hu]
  dsimp only
  split
  · rw [setTideEvent_tide]
    obtain ⟨h1, h2, h3, h4, h5⟩ := h
    exact ⟨h1, h2, h3, h4, h5.trans (setTideEvent_control u _)⟩
  · exact h

/-- POD_ID 0 makes the package free. -/
theorem takeRole_free {s : State} (rank : Nat) (hclk : s.boot.clkMode ≠ 3) : let t := takeRole s 0 rank
    t.tide.state = 0 ∧ t.tide.podId = 0 ∧ t.tide.locked = false ∧ t.tide.parent = 8 ∧ ControlSame s t := by
  have e : takeRole s 0 rank = enterFree (setTide s fun t => { t with podId := 0, rank := rank, roleAt := t.now }) := by
    unfold takeRole
    dsimp only
    rw [if_neg (show ¬(setTide s fun t => { t with podId := 0, rank := rank, roleAt := t.now }).boot.clkMode = 3 from hclk)]
    exact if_pos rfl
  obtain ⟨u, hu⟩ : ∃ u, (setTide s fun t => { t with podId := 0, rank := rank, roleAt := t.now }) = u := ⟨_, rfl⟩
  have hpod : u.tide.podId = 0 := by rw [← hu]; rfl
  have hcontrol : ControlSame s u := by rw [← hu]; rfl
  obtain ⟨h1, h2, h3, h4, h5⟩ := enterFree_spec u
  rw [e, hu]
  exact ⟨h1, h2.trans hpod, h3, h4, hcontrol.trans h5⟩

/-- The ranks that a TIDE_ROLE may give. -/
theorem rankAllowed_iff (r : Nat) : (r != 0 && !rankMoves r) = false ↔ r ∈ [0, 1, 2, 3, 4, 7] := by
  unfold rankMoves
  simp only [List.mem_cons, List.not_mem_nil, or_false, Bool.and_eq_false_iff, bne_eq_false_iff_eq, Bool.not_eq_false', Bool.or_eq_true,
    Bool.and_eq_true, decide_eq_true_eq]
  omega

theorem tideRole_idle {s : State} {m : Nat} (ha : armed s = false) : tideRole s m =
    if (param s m 2 1 != 0 && !rankMoves (param s m 2 1)) = true then badParam 2 else okAt (takeRole s (param s m 0 2) (param s m 2 1)) m [] := by
  unfold tideRole
  rw [ha]
  rfl

/-! The tempo (R286). -/

theorem announceBoundary_late (s : State) : currentStep s + 2 ≤ (announceBoundary s : Nat) := by
  have h1 : currentStep s + 2 ≤ earliestBoundary s := by
    unfold earliestBoundary
    dsimp only
    split <;> omega
  have h2 : (earliestBoundary s).toNat ≤ announceBoundary s := Nat.le_max_left _ _
  omega

theorem announce_spec (s : State) (q : Nat) :
    (announce s q).tide.pending = s.tide.pending ++ [⟨announceBoundary s, q⟩] ∧ ControlSame s (announce s q) := by
  obtain ⟨u, hu⟩ : ∃ u, (setTide s fun t => { t with pending := t.pending ++ [⟨announceBoundary s, q⟩] }) = u := ⟨_, rfl⟩
  have hpend : u.tide.pending = s.tide.pending ++ [⟨announceBoundary s, q⟩] := by rw [← hu]; rfl
  have hcontrol : ControlSame s u := by rw [← hu]; rfl
  have hflood := flood_podOnly u 8 0x11 (announceBody ⟨announceBoundary s, q⟩)
  unfold announce
  dsimp only
  rw [hu]
  generalize flood u 8 0x11 (announceBody ⟨announceBoundary s, q⟩) = v at hflood ⊢
  rw [setTideEvent_tide]
  refine ⟨?_, hcontrol.trans (hflood.control.trans (setTideEvent_control v _))⟩
  have e := congrArg Tide.pending hflood.tide
  exact Eq.trans e hpend

section
variable {s : State} {mb : Fin 16} {seq : Byte} {now : Nat} (irq : Bool)

/-! Wakes and power states (R387, R392). -/

theorem wake_wakes (h : Accepts s mb 0x76 seq) (hv : s.power.vinFault = false) (ht : s.power.tripDry = false) (hg : s.power.going = none) :
    Runs (.wake mb seq irq now) s fun t => Ended t mb 0x76 irq 0 0 [] ∧ t.power.wakeCause = s.power.wakeCause ||| 32 ∧
      t.power.going = (if s.power.state = 0 then none else some 0) ∧ t.power.state = s.power.state :=
  runs_plain h rfl rfl fun v _ hv' => by
    have hp := hv'.power
    rw [← hp] at hv ht hg ⊢
    obtain ⟨u, hu⟩ : ∃ u, wakeUp v 5 = u := ⟨_, rfl⟩
    have hwake := (wakeUp_spec 5 hv ht hg).symm.trans hu
    rw [hu]
    have hend := hv'.okEnds (u := u) (fun n => by rw [← hwake]; rfl) []
    unfold applyAnswer okAt
    dsimp only
    rw [finish_power, ← hwake]
    rw [← hwake] at hend
    exact ⟨hend, rfl, rfl, rfl⟩

theorem transitionBusy_none {v : State} {op : Nat} (hg : s.power.going = none) (hn : s.power.notices.length < 256)
    (hv : Taken s now v mb op irq) : ((transitionBusy v).orElse fun _ => queueFull v) = none := by
  unfold transitionBusy
  rw [hv.power, hg, queueFull_none hn hv]
  rfl

theorem powerState_begins (h : Accepts s mb 0x50 seq) (hg : s.power.going = none) (hn : s.power.notices.length < 256)
    (h1 : 1 ≤ parameter s mb 0 1) (h3 : parameter s mb 0 1 ≤ 3) (h0 : s.power.state = 0) (ha : armed s = false) (hw : s.memory.wipe = 0) :
    Runs (.powerState mb seq irq now) s fun t =>
      t.power = { s.power with going := some (parameter s mb 0 1), mailbox := some mb.val } ∧ (boxOf t mb).run = some ⟨0x50, irq, none, []⟩ :=
  runs_busy h rfl rfl (fun _ hv => transitionBusy_none irq hg hn hv) fun v _ hv => by
    have harmed : armed v = false := (hv.read armed fun _ _ => rfl).trans ha
    have hset : powerStateCmd v mb = .go (setPower v fun p => { p with going := some (parameter s mb 0 1), mailbox := some mb.val }) := by
      unfold powerStateCmd
      rw [hv.param, hv.power, hv.memory, h0, harmed, hw]
      dsimp only
      rw [if_neg (by omega), if_neg (by simp), if_neg (by simp), if_neg (by omega)]
      rfl
    rw [hset]
    refine ⟨?_, hv.begun.run⟩
    have e := congrArg (fun p : Power => { p with going := some (parameter s mb 0 1), mailbox := some mb.val }) hv.power
    exact e

theorem powerState_refuses (h : Accepts s mb 0x50 seq) (hg : s.power.going = none) (hn : s.power.notices.length < 256)
    (h1 : 1 ≤ parameter s mb 0 1) (h3 : parameter s mb 0 1 ≤ 3) (ha : armed s = true) :
    Runs (.powerState mb seq irq now) s fun t => BoxOnly s now t mb ∧ ∃ d, Ended t mb 0x50 irq 4 d [] :=
  runs_busy h rfl rfl (fun _ hv => transitionBusy_none irq hg hn hv) fun v _ hv => by
    have harmed : armed v = true := (hv.read armed fun _ _ => rfl).trans ha
    have hset : powerStateCmd v mb = .refuse stRefused (stateDetail v) := by
      unfold powerStateCmd
      rw [hv.param, harmed]
      dsimp only
      rw [if_neg (by omega)]
      exact if_pos (by rw [decide_eq_true h3]; simp)
    rw [hset]
    exact hv.refuses (by decide) _

/-! Roles and tempo by command. -/

theorem tideRole_source (h : Accepts s mb 0x40 seq) (ha : armed s = false) (hclk : s.boot.clkMode ≠ 3) (hp : parameter s mb 0 2 ≠ 0)
    (hr : parameter s mb 2 1 = 0) (hs : s.tide.state ≠ 5) : Runs (.tideRole mb seq irq now) s fun t =>
      t.tide.state = 5 ∧ t.tide.podId = parameter s mb 0 2 ∧ t.tide.rank = 0 ∧ t.tide.locked = true ∧
        t.tide.depth = 0 ∧ t.tide.srcRank = 0 ∧ GenRose s t ∧ Ended t mb 0x40 irq 0 0 [] :=
  runs_plain h rfl rfl fun v _ hv => by
    have hset : tideRole v mb = okAt (takeRole v (parameter s mb 0 2) 0) mb [] := by
      rw [tideRole_idle ((hv.read armed fun _ _ => rfl).trans ha), hv.param, hv.param, hr]
      exact if_neg (by decide)
    rw [hset]
    obtain ⟨h1, h2, h3, h4, h5, h6, hcontrol⟩ := takeRole_source (s := v) (by rw [hv.boot]; exact hclk) hp (by rw [hv.tide]; exact hs)
    generalize takeRole v (parameter s mb 0 2) 0 = u at h1 h2 h3 h4 h5 h6 hcontrol
    obtain ⟨hgen, hend⟩ := hv.okRises_of rfl hcontrol []
    unfold applyAnswer okAt
    dsimp only
    rw [finish_tide]
    exact ⟨h1, h2, h3, h4, h5, h6, hgen, hend⟩

theorem tideRole_free (h : Accepts s mb 0x40 seq) (ha : armed s = false) (hclk : s.boot.clkMode ≠ 3) (hp : parameter s mb 0 2 = 0)
    (hr : parameter s mb 2 1 ∈ [0, 1, 2, 3, 4, 7]) : Runs (.tideRole mb seq irq now) s fun t =>
      t.tide.state = 0 ∧ t.tide.podId = 0 ∧ t.tide.locked = false ∧ t.tide.parent = 8 ∧ GenRose s t ∧ Ended t mb 0x40 irq 0 0 [] :=
  runs_plain h rfl rfl fun v _ hv => by
    have hset : tideRole v mb = okAt (takeRole v 0 (parameter s mb 2 1)) mb [] := by
      rw [tideRole_idle ((hv.read armed fun _ _ => rfl).trans ha), hv.param, hv.param, hp]
      exact if_neg (by rw [(rankAllowed_iff _).mpr hr]; decide)
    rw [hset]
    obtain ⟨h1, h2, h3, h4, hcontrol⟩ := takeRole_free (s := v) (parameter s mb 2 1) (by rw [hv.boot]; exact hclk)
    generalize takeRole v 0 (parameter s mb 2 1) = u at h1 h2 h3 h4 hcontrol
    obtain ⟨hgen, hend⟩ := hv.okRises_of rfl hcontrol []
    unfold applyAnswer okAt
    dsimp only
    rw [finish_tide]
    exact ⟨h1, h2, h3, h4, hgen, hend⟩

theorem tideRole_refuses (h : Accepts s mb 0x40 seq) (ha : armed s = false) (hr : parameter s mb 2 1 ∉ [0, 1, 2, 3, 4, 7]) :
    Runs (.tideRole mb seq irq now) s fun t => BoxOnly s now t mb ∧ ∃ d, Ended t mb 0x40 irq 3 d [] :=
  runs_plain h rfl rfl fun v _ hv => by
    have hset : tideRole v mb = badParam 2 := by
      rw [tideRole_idle ((hv.read armed fun _ _ => rfl).trans ha), hv.param]
      exact if_pos (Bool.of_not_eq_false fun e => hr ((rankAllowed_iff _).mp e))
    rw [hset]
    exact hv.refuses (by decide) _

theorem tempoBusy_none {v : State} {op : Nat} (hn : s.tide.pending.length < 4) (hv : Taken s now v mb op irq) : tempoBusy v = none := by
  unfold tempoBusy
  rw [hv.tide]
  exact if_neg (Nat.not_le.mpr hn)

theorem tempoSet_announces (h : Accepts s mb 0x41 seq) (hn : s.tide.pending.length < 4) (hs : s.tide.state = 5) (h1 : 4096 ≤ parameter s mb 0 2)
    (h2 : parameter s mb 0 2 ≤ 16384) : Runs (.tempoSet mb seq irq now) s fun t => ∃ b : Nat,
      t.tide.pending = s.tide.pending ++ [⟨b, parameter s mb 0 2⟩] ∧ currentStep s + 2 ≤ b ∧ GenRose s t ∧ Ended t mb 0x41 irq 0 0 (leBytes 8 b) :=
  runs_busy h rfl rfl (fun _ hv => tempoBusy_none irq hn hv) fun v _ hv => by
    have hset : tempoSet v mb = okAt (announce v (parameter s mb 0 2)) mb (leBytes 8 (announceBoundary v)) := by
      unfold tempoSet outside
      rw [hv.param, hv.tide, show (atTide s now).tide.state = 5 from hs]
      dsimp only
      rw [decide_eq_false (show ¬parameter s mb 0 2 < 4096 by omega), decide_eq_false (show ¬16384 < parameter s mb 0 2 by omega)]
      rfl
    have hstep : currentStep v = currentStep s := hv.read currentStep fun _ _ => rfl
    have hlate := announceBoundary_late v
    obtain ⟨hpend, hcontrol⟩ := announce_spec v (parameter s mb 0 2)
    rw [hset]
    generalize announce v (parameter s mb 0 2) = u at hpend hcontrol
    obtain ⟨hgen, hend⟩ := hv.okRises_of rfl hcontrol (leBytes 8 (announceBoundary v))
    rw [hstep] at hlate
    rw [hv.tide] at hpend
    refine ⟨announceBoundary v, ?_, hlate, hgen, hend⟩
    exact (congrArg Tide.pending (finish_tide u mb stOk 0 _)).trans hpend

theorem tempoSet_refuses (h : Accepts s mb 0x41 seq) (hn : s.tide.pending.length < 4) (hs : s.tide.state ≠ 5) :
    Runs (.tempoSet mb seq irq now) s fun t => BoxOnly s now t mb ∧ ∃ d, Ended t mb 0x41 irq 4 d [] :=
  runs_busy h rfl rfl (fun _ hv => tempoBusy_none irq hn hv) fun v _ hv => by
    have hset : tempoSet v mb = .refuse stRefused (stateDetail v) := by
      unfold tempoSet
      exact if_pos (by rw [hv.tide]; exact bne_iff_ne.mpr hs)
    rw [hset]
    exact hv.refuses (by decide) _

end

/-- Settles O44: each setting command by what it sets and by its refusals. -/
theorem settingCommands : Obligations.SettingCommands := by
  unfold Obligations.SettingCommands
  refine ⟨fun mb seq irq now s => ?_, fun mb seq irq now s => ?_⟩
  · exact ⟨telemetrySet_sets irq, telemetrySet_refuses irq, govSet_setsCap irq, govSet_refuses irq, rampToFloor_lowers irq, rampToFloor_waits irq,
      harbourConfig_sets irq, isolateStraits_isolates irq, wake_wakes irq, powerState_begins irq, powerState_refuses irq⟩
  · exact ⟨tideRole_source irq, tideRole_free irq, tideRole_refuses irq, tempoSet_announces irq, tempoSet_refuses irq⟩

end Sys2Proof.Machine
end

section
/-! SUPPORT. Firmware update, lifecycle and attestation by command (15, R441, R470–R476). -/

namespace Sys2Proof.Machine

open Sys2Proof

theorem Taken.clean {s v : State} {now m op : Nat} {irq : Bool} (h : Taken s now v m op irq) (hc : CleanMemory s) : CleanMemory v := by
  refine ⟨?_, fun i => ?_⟩
  · rw [h.memory]
    exact hc.1
  · unfold stackOf
    rw [h.memory]
    exact hc.2 i

theorem memSame_of_eq {s t : State} (h : t.memory = s.memory) (rs : List Range) : MemSame s t rs := fun _ _ => by rw [h]

theorem finish_memory (s : State) (m code detail : Nat) (resp : List Byte) : (finish s m code detail resp).memory = s.memory := by
  have e := congrArg State.memory (finish_control s m code detail resp)
  exact e

/-! What the OTP and the index of signatures become. -/

theorem lifeWrite_boot (s : State) (target : Nat) (owner : List Byte) : (lifeWrite s target owner).boot =
    if target = 1 then { s.boot with lcState := 1, owners := s.boot.owners ++ [owner], owned := true }
    else if target = 2 then { s.boot with lcState := 2, owned := false }
    else { s.boot with lcState := 3, owned := false, seedErased := true } := rfl

theorem lifeWrite_lifecycle {s : State} {target : Nat} (ha : lifeAllowed (lifecycle s.boot) target = true) (owner : List Byte) :
    lifecycle (lifeWrite s target owner).boot = target := by
  have hseed : s.boot.seedErased = true → lifeAllowed 3 target = true := fun h => by
    rw [← ha]
    unfold lifecycle
    rw [if_pos h]
  have three : lifeAllowed 3 target = false := by
    unfold lifeAllowed
    simp
  have hkept : s.boot.seedErased = false := Bool.of_not_eq_true fun h => Bool.false_ne_true (three.symm.trans (hseed h))
  rw [lifeWrite_boot]
  by_cases h1 : target = 1
  · rw [if_pos h1]
    unfold lifecycle
    dsimp only
    rw [hkept]
    exact h1.symm
  · rw [if_neg h1]
    by_cases h2 : target = 2
    · rw [if_pos h2]
      unfold lifecycle
      dsimp only
      rw [hkept]
      exact h2.symm
    · rw [if_neg h2]
      unfold lifeAllowed at ha
      simp [h1, h2] at ha
      exact ha.1.symm

theorem lifeWrite_owners (s : State) (target : Nat) (owner : List Byte) :
    (target = 1 → (lifeWrite s target owner).boot.owners = s.boot.owners ++ [owner]) ∧
    (target ≠ 1 → (lifeWrite s target owner).boot.owners = s.boot.owners ∧ (lifeWrite s target owner).boot.owned = false) := by
  rw [lifeWrite_boot]
  refine ⟨fun h => by rw [if_pos h], fun h => ?_⟩
  rw [if_neg h]
  split
  · exact ⟨rfl, rfl⟩
  · exact ⟨rfl, rfl⟩

theorem takeIndex_reserves {b : Boot} (h : b.sigNext ≤ b.sigRes) : (takeIndex b).sigNext = b.sigNext + 1 ∧
    (takeIndex b).sigNext ≤ (takeIndex b).sigRes ∧ b.sigRes ≤ (takeIndex b).sigRes := by
  unfold takeIndex
  dsimp only
  split
  · omega
  · omega

section
variable {s : State} {mb : Fin 16} {seq : Byte} {now : Nat} (irq ok : Bool)

/-! FW_UPDATE (R441). -/

/-- The image that FW_UPDATE reads. -/
def updateImage (s : State) (mb : Fin 16) (seq : Byte) (irq : Bool) (now : Nat) : List Byte :=
  (readRange (startBox (atTide s now) ⟨mb, 0x10, seq.toNat, irq⟩) (parameter s mb 0 8) (parameter s mb 8 8) (supReader s)).2

theorem fwUpdate_reads {v : State} (hv : Taken s now v mb 0x10 irq) (hstart : v = startBox (atTide s now) ⟨mb, 0x10, seq.toNat, irq⟩)
    (hclean : CleanMemory s) (hin : inMem (parameter s mb 0 8) (parameter s mb 8 8) = true) (h0 : 0 < parameter s mb 8 8)
    (hmax : parameter s mb 8 8 ≤ 4194304) : let img := updateImage s mb seq irq now
    fwUpdate v mb ok = if imageFault img ≠ 0 then .go (finish v mb stSig 0 [])
      else if ok then okAt { v with boot := { s.boot with flash := [], flashing := memWrite [] 0 img } } mb (shake256 (imageCode img))
      else .go (finish { v with boot := { s.boot with flash := [] } } mb 0xD 0 []) := by
  intro img
  have himg : (readRange v (parameter s mb 0 8) (parameter s mb 8 8) (supReader v)).2 = img := by
    rw [hv.read supReader fun _ _ => rfl, hstart]
    rfl
  have hstay : (readRange v (parameter s mb 0 8) (parameter s mb 8 8) (supReader v)).1 = v :=
    congrArg Prod.fst (readRange_clean (hv.clean hclean) _ _ _)
  unfold fwUpdate
  rw [hv.param, hv.param]
  dsimp only
  rw [if_neg (by rw [hin]; decide), himg, hstay, hv.boot, decide_eq_false (by omega), decide_eq_false (show ¬4194304 < parameter s mb 8 8 by omega)]
  generalize imageFault img = n
  by_cases hf : n = 0
  · rw [hf]
    rfl
  · rw [if_pos hf]
    exact if_pos (by rw [bne_iff_ne.mpr hf]; rfl)

theorem fwUpdate_writes (h : Accepts s mb 0x10 seq) (hclean : CleanMemory s) (hin : inMem (parameter s mb 0 8) (parameter s mb 8 8) = true)
    (h0 : 0 < parameter s mb 8 8) (hmax : parameter s mb 8 8 ≤ 4194304) (hf : imageFault (updateImage s mb seq irq now) = 0) (hok : ok = true) :
    Runs (.fwUpdate mb seq irq now ok) s fun t =>
      t.boot = { s.boot with flash := [], flashing := memWrite [] 0 (updateImage s mb seq irq now) } ∧
      Ended t mb 0x10 irq 0 0 (shake256 (imageCode (updateImage s mb seq irq now))) ∧ GenRose s t ∧ MemSame s t [] :=
  runs_plain h rfl rfl fun v hstart hv => by
    rw [fwUpdate_reads irq ok hv hstart hclean hin h0 hmax, if_neg (not_not.mpr hf), if_pos hok]
    generalize updateImage s mb seq irq now = img
    obtain ⟨u, hu⟩ : ∃ u, ({ v with boot := { s.boot with flash := [], flashing := memWrite [] 0 img } } : State) = u := ⟨_, rfl⟩
    have hboot : u.boot = { s.boot with flash := [], flashing := memWrite [] 0 img } := by rw [← hu]
    have hmem : u.memory = s.memory := by rw [← hu]; exact hv.memory
    obtain ⟨hgen, hend⟩ := hv.okRises_of (u := u) rfl (by rw [← hu]; rfl) (shake256 (imageCode img))
    rw [hu]
    exact ⟨(finish_boot u mb stOk 0 _).trans hboot, hend, hgen, memSame_of_eq ((finish_memory u mb stOk 0 _).trans hmem) []⟩

theorem fwUpdate_refuses (h : Accepts s mb 0x10 seq) (hclean : CleanMemory s) (hin : inMem (parameter s mb 0 8) (parameter s mb 8 8) = true)
    (h0 : 0 < parameter s mb 8 8) (hmax : parameter s mb 8 8 ≤ 4194304) (hf : imageFault (updateImage s mb seq irq now) ≠ 0) :
    Runs (.fwUpdate mb seq irq now ok) s fun t => t.boot = s.boot ∧ Ended t mb 0x10 irq 0xC 0 [] :=
  runs_plain h rfl rfl fun v hstart hv => by
    rw [fwUpdate_reads irq ok hv hstart hclean hin h0 hmax, if_pos hf]
    exact ⟨(finish_boot v mb stSig 0 []).trans hv.boot, (hv.ends (.inl (by decide)) 0 []).2⟩

/-! LIFECYCLE_SET (R470). -/

theorem lifecycleSet_writes (h : Accepts s mb 0x18 seq) (ha : lifeAllowed (lifecycle s.boot) (parameter s mb 0 1) = true)
    (hroom : parameter s mb 0 1 = 1 → s.boot.owners.length < 4) (hc : parameter s mb 1 1 = (if parameter s mb 0 1 = 3 then 0xDC else 0xC5)) :
    Runs (.lifecycleSet mb seq irq now) s fun t =>
      lifecycle t.boot = parameter s mb 0 1 ∧ t.commit = s.commit ∧ Ended t mb 0x18 irq 0 0 [] ∧ GenRose s t ∧
        (parameter s mb 0 1 = 1 → t.boot.owners = s.boot.owners ++ [memRead (boxOf s mb).params 32 32]) ∧
        (parameter s mb 0 1 ≠ 1 → t.boot.owners = s.boot.owners ∧ t.boot.owned = false) :=
  runs_plain h rfl rfl fun v _ hv => by
    have hset : lifecycleSet v mb = okAt (lifeWrite v (parameter s mb 0 1) (memRead (boxOf s mb).params 32 32)) mb [] := by
      unfold lifecycleSet
      rw [hv.param, hv.param, hv.boot, hv.params]
      dsimp only
      have hfull : (lifeAllowed (lifecycle s.boot) (parameter s mb 0 1) && decide (parameter s mb 0 1 = 1) && decide (4 ≤ s.boot.owners.length)) = false := by
        by_cases h1 : parameter s mb 0 1 = 1
        · rw [decide_eq_false (Nat.not_le.mpr (hroom h1)), Bool.and_false]
        · rw [decide_eq_false h1, Bool.and_false, Bool.false_and]
      rw [if_neg (by rw [hfull]; decide), ha, hc]
      rw [if_neg (by decide)]
      exact if_neg (by simp)
    have hlife := lifeWrite_lifecycle (s := v) (target := parameter s mb 0 1) (by rw [hv.boot]; exact ha) (memRead (boxOf s mb).params 32 32)
    have howners := lifeWrite_owners v (parameter s mb 0 1) (memRead (boxOf s mb).params 32 32)
    have hcontrol : ControlSame v (lifeWrite v (parameter s mb 0 1) (memRead (boxOf s mb).params 32 32)) := rfl
    have hcommit : (lifeWrite v (parameter s mb 0 1) (memRead (boxOf s mb).params 32 32)).commit = s.commit := hv.commit
    rw [hset]
    rw [hv.boot] at howners
    generalize lifeWrite v (parameter s mb 0 1) (memRead (boxOf s mb).params 32 32) = u at hlife howners hcontrol hcommit
    obtain ⟨hgen, hend⟩ := hv.okRises_of rfl hcontrol []
    have hkept := finish_control u mb stOk 0 []
    unfold applyAnswer okAt
    dsimp only
    rw [finish_boot]
    refine ⟨hlife, ?_, hend, hgen, howners.1, howners.2⟩
    have e := congrArg State.commit hkept
    exact e.trans hcommit

theorem lifecycleSet_refuses (h : Accepts s mb 0x18 seq) (ha : lifeAllowed (lifecycle s.boot) (parameter s mb 0 1) = false) :
    Runs (.lifecycleSet mb seq irq now) s fun t => BoxOnly s now t mb ∧ ∃ d, Ended t mb 0x18 irq 3 d [] :=
  runs_plain h rfl rfl fun v _ hv => by
    have hset : lifecycleSet v mb = badParam 0 := by
      unfold lifecycleSet
      rw [hv.param, hv.boot]
      dsimp only
      rw [ha]
      rfl
    rw [hset]
    exact hv.refuses (by decide) _

/-! ATTEST (R474–R476). -/

theorem attest_takesIndex (h : Accepts s mb 0x19 seq) (hpart : parameter s mb 32 1 = 0) (hnext : s.boot.sigNext < 2 ^ 40)
    (hres : s.boot.sigNext ≤ s.boot.sigRes) : Runs (.attest mb seq irq now ok) s fun t =>
      t.boot.sigNext = s.boot.sigNext + 1 ∧ t.boot.sigNext ≤ t.boot.sigRes ∧
        s.boot.sigRes ≤ t.boot.sigRes ∧ ∃ st sig, t.boot.lastSig = some (s.boot.sigNext, sig) ∧ sig = signature s.boot.sigNext st ∧
          Ended t mb 0x19 irq 0 0 (st ++ sig.take 1664) ∧
          { t.boot with sigNext := s.boot.sigNext, sigRes := s.boot.sigRes, lastSig := s.boot.lastSig } = s.boot :=
  runs_plain h rfl rfl fun v _ hv => by
    obtain ⟨st, hset⟩ : ∃ st, attest v mb ok = okAt { v with boot := { takeIndex s.boot with lastSig := some (s.boot.sigNext, signature s.boot.sigNext st) } }
        mb (st ++ (signature s.boot.sigNext st).take 1664) := by
      unfold attest
      dsimp only
      rw [hv.param, hpart, hv.boot, if_neg (Nat.not_le.mpr hnext)]
      exact ⟨_, rfl⟩
    rw [hset]
    generalize hsig : signature s.boot.sigNext st = sig
    obtain ⟨h1, h2, h3⟩ := takeIndex_reserves hres
    have hrest : { takeIndex s.boot with sigNext := s.boot.sigNext, sigRes := s.boot.sigRes, lastSig := s.boot.lastSig } = s.boot := rfl
    obtain ⟨b, hb⟩ : ∃ b, takeIndex s.boot = b := ⟨_, rfl⟩
    rw [hb] at h1 h2 h3 hrest ⊢
    have hend := hv.okEnds (u := { v with boot := { b with lastSig := some (s.boot.sigNext, sig) } }) (fun _ => rfl) (st ++ sig.take 1664)
    unfold applyAnswer okAt
    dsimp only
    rw [finish_boot]
    exact ⟨h1, h2, h3, st, sig, rfl, hsig.symm, hend, hrest⟩

theorem attest_exhausted (h : Accepts s mb 0x19 seq) (hpart : parameter s mb 32 1 = 0) (hnext : 2 ^ 40 ≤ s.boot.sigNext) :
    Runs (.attest mb seq irq now ok) s fun t => BoxOnly s now t mb ∧ Ended t mb 0x19 irq 0xB 0 [] :=
  runs_plain h rfl rfl fun v _ hv => by
    have hset : attest v mb ok = .refuse stKey 0 := by
      unfold attest
      dsimp only
      rw [hv.param, hpart, hv.boot]
      exact if_pos hnext
    rw [hset]
    exact hv.ends (.inl (by decide)) 0 []

theorem attest_certificate (h : Accepts s mb 0x19 seq) (hpart : parameter s mb 32 1 = 3) :
    Runs (.attest mb seq irq now ok) s fun t => BoxOnly s now t mb ∧
      ∃ cert : List Byte, Ended t mb 0x19 irq 0 0 (leBytes 4 Config.xmssOid.toNat ++ leBytes 32 Config.xmssRoot.toNat ++
        leBytes 32 Config.xmssPubSeed.toNat ++ cert) :=
  runs_plain h rfl rfl fun v _ hv => by
    have hset : attest v mb ok = okAt v mb (publicKey ++ (Config.xmssCert ++ List.replicate 1980 0).take 1980) := by
      unfold attest
      dsimp only
      rw [hv.param, hpart]
      generalize v.boot.lastSig = last
      cases last with
      | none => rfl
      | some x => rfl
    rw [hset]
    obtain ⟨hbox, hend⟩ := hv.ends (.inr rfl) 0 (publicKey ++ (Config.xmssCert ++ List.replicate 1980 0).take 1980)
    exact ⟨hbox, _, hend⟩

end

/-- Settles O45: each command by what it writes and by its refusals. -/
theorem identityCommands : Obligations.IdentityCommands := by
  unfold Obligations.IdentityCommands
  intro mb seq irq ok now s par t0 img
  exact ⟨fun h hclean hin h0 hmax => ⟨fwUpdate_writes irq ok h hclean hin h0 hmax, fwUpdate_refuses irq ok h hclean hin h0 hmax⟩,
    lifecycleSet_writes irq, lifecycleSet_refuses irq, attest_takesIndex irq ok, attest_exhausted irq ok, attest_certificate irq ok⟩

end Sys2Proof.Machine
end

section
/-! SUPPORT. The session commands (08, 12, R381, R382, R443). -/

namespace Sys2Proof.Machine

open Sys2Proof

/-! What a session sends (R263). -/

/-- Session k goes on with what it sends; the other sessions, the mailboxes, the job and package memory's data stay. -/
structure SessionSends (k : Nat) (s t : State) : Prop where
  own : { sessionOf t k with todo := (sessionOf s k).todo, nextSeq := (sessionOf s k).nextSeq, out := (sessionOf s k).out,
                             ended := (sessionOf s k).ended } = sessionOf s k
  others : ∀ j, j ≠ k → sessionOf t j = sessionOf s j
  boxes : ∀ n, boxOf t n = boxOf s n
  job : t.job = s.job
  data : t.memory.data = s.memory.data

theorem SessionSends.refl (k : Nat) (s : State) : SessionSends k s s := ⟨rfl, fun _ _ => rfl, fun _ => rfl, rfl, rfl⟩

theorem SessionSends.trans {k : Nat} {a b c : State} (h : SessionSends k a b) (h' : SessionSends k b c) : SessionSends k a c := by
  refine ⟨Eq.trans ?_ h.own, fun j hj => (h'.others j hj).trans (h.others j hj), fun n => (h'.boxes n).trans (h.boxes n), h'.job.trans h.job,
    h'.data.trans h.data⟩
  rw [← h'.own]

theorem SessionSends.of_eq {k : Nat} {s t : State} (hs : t.straits.sessions = s.straits.sessions) (hb : ∀ n, boxOf t n = boxOf s n)
    (hj : t.job = s.job) (hd : t.memory.data = s.memory.data) : SessionSends k s t :=
  ⟨by rw [sessionOf_of hs], fun j _ => sessionOf_of hs j, hb, hj, hd⟩

theorem transmit_sends (s : State) (k : Nat) (h : HOut) : SessionSends k s (transmit s k h) := by
  unfold transmit
  dsimp only
  split
  · have e := (sendHarbour_spec s (sessionOf s k).peer (.message (sessionOf s k).peer (sessionOf s k).peerPort h.typ.toNat s.straits.jobTag
      (sessionOf s k).sid h.seq 0 h.addr 0 h.payload)).1
    refine .of_eq ?_ (fun n => ?_) ?_ ?_
    · have e' := congrArg (fun x : State => x.straits.sessions) e; exact e'
    · have e' := congrArg (fun x : State => boxOf x n) e; exact e'
    · have e' := congrArg State.job e; exact e'
    · have e' := congrArg (fun x : State => x.memory.data) e; exact e'
  · exact .refl k s

theorem modSession_sends (s : State) (k : Nat) (g : Session → Session)
    (hg : ∀ x, { g x with todo := x.todo, nextSeq := x.nextSeq, out := x.out, ended := x.ended } = x) : SessionSends k s (modSession s k g) := by
  refine ⟨?_, fun j hj => sessionOf_modSession_ne _ _ hj, fun _ => rfl, rfl, rfl⟩
  rw [sessionOf_modSession_self]
  exact hg _

theorem number_sends (s : State) (k typ addr : Nat) (payload : List Byte) : SessionSends k s (number s k typ addr payload) := by
  unfold number
  dsimp only
  have h := modSession_sends s k (fun x => { x with
    nextSeq := (x.nextSeq + 1) % 2 ^ 32
    out := x.out ++ [⟨(sessionOf s k).nextSeq, BitVec.ofNat 8 typ, addr, payload, 0, s.tide.now⟩] }) fun _ => rfl
  split
  · exact h.trans (transmit_sends _ _ _)
  · exact h

theorem readRange_sends (s : State) (k p n : Nat) (r : Reader) : SessionSends k s (readRange s p n r).1 := by
  have h := readRange_read s p n r
  refine .of_eq (readRange_sessions s p n r) (fun m => ?_) h.job h.data
  have e := congrArg (fun x : State => boxOf x m) h.1
  exact e

theorem numberData_sends (s : State) (k : Nat) (r : SRange) (rest : List SRange) : SessionSends k s (numberData s k r rest) := by
  have hread := readRange_sends s k r.addr (min 8192 r.len) (supReader s)
  unfold numberData
  dsimp only
  generalize readRange s r.addr (min 8192 r.len) (supReader s) = y at hread ⊢
  generalize ((if min 8192 r.len < r.len then [⟨r.addr + min 8192 r.len, r.len - min 8192 r.len, r.delta⟩] else []) ++ rest : List SRange) = todo
  have hmod := modSession_sends y.1 k (fun x => { x with todo := todo }) fun _ => rfl
  exact (hread.trans hmod).trans (number_sends _ _ _ _ _)

theorem pump_sends (k : Nat) : ∀ (n : Nat) (s : State), SessionSends k s (pump k n s)
  | 0, s => .refl k s
  | n + 1, s => by
    unfold pump
    dsimp only
    split
    · split
      · exact (numberData_sends s k _ _).trans (pump_sends k n _)
      · split
        · exact .refl k s
        · exact (modSession_sends s k (fun x => { x with ended := true }) fun _ => rfl).trans (number_sends _ _ _ _ _)
    · exact .refl k s

/-! A session that is opened. -/

/-- Session k is open as its command gives it. -/
structure Opened (s t : State) (k : Nat) (x : Session) : Prop where
  state : (sessionOf t k).state = x.state
  kind : (sessionOf t k).kind = x.kind
  sid : (sessionOf t k).sid = x.sid
  window : (sessionOf t k).window = x.window
  ranges : (sessionOf t k).ranges = x.ranges
  others : ∀ j, j ≠ k → sessionOf t j = sessionOf s j

theorem finish_sessions (s : State) (m code detail : Nat) (resp : List Byte) (k : Nat) :
    sessionOf (finish s m code detail resp) k = sessionOf s k := by
  have e := congrArg (fun x : State => sessionOf x k) (finish_control s m code detail resp)
  exact e

theorem openSession_spec {s v : State} {m op : Nat} {irq : Bool} (h : Begun s v m op irq) (k : Nat) (x : Session) :
    let t := applyAnswer v m (openSession v m k x)
    Opened v t k x ∧ Ended t m op irq 0 0 (leBytes 3 k) ∧ t.job = v.job ∧ t.memory.data = v.memory.data := by
  have hself : sessionOf (modSession v k fun _ => x) k = x := sessionOf_modSession_self _ _ _
  have hne : ∀ j, j ≠ k → sessionOf (modSession v k fun _ => x) j = sessionOf v j := fun j hj => sessionOf_modSession_ne _ _ hj
  have hbox : ∀ n, boxOf (modSession v k fun _ => x) n = boxOf v n := fun _ => rfl
  have hjob : (modSession v k fun _ => x).job = v.job := rfl
  have hdata : (modSession v k fun _ => x).memory.data = v.memory.data := rfl
  unfold openSession okAt applyAnswer pumpSession
  dsimp only
  generalize modSession v k (fun _ => x) = u at hself hne hbox hjob hdata
  have hsends := pump_sends k ((sessionOf u k).limit + 1) u
  generalize pump k ((sessionOf u k).limit + 1) u = w at hsends ⊢
  have hown := hsends.own
  rw [hself] at hown
  refine ⟨⟨?_, ?_, ?_, ?_, ?_, fun j hj => ?_⟩, (finish_ended (h.congr fun n => (hsends.boxes n).trans (hbox n)) stOk 0 _).1, ?_, ?_⟩
  · rw [finish_sessions]; have e := congrArg Session.state hown; exact e
  · rw [finish_sessions]; have e := congrArg Session.kind hown; exact e
  · rw [finish_sessions]; have e := congrArg Session.sid hown; exact e
  · rw [finish_sessions]; have e := congrArg Session.window hown; exact e
  · rw [finish_sessions]; have e := congrArg Session.ranges hown; exact e
  · rw [finish_sessions]; exact (hsends.others j hj).trans (hne j hj)
  · have e := congrArg State.job (finish_control w m stOk 0 (leBytes 3 k))
    exact e.trans (hsends.job.trans hjob)
  · rw [finish_memory]; exact hsends.data.trans hdata

/-! What the commands check. -/

section
variable {s v : State} {now op : Nat} {mb : Fin 16} {irq : Bool} (h : Taken s now v mb op irq)
include h

theorem Taken.session (k : Nat) : sessionOf v k = sessionOf s k := h.read (fun x => sessionOf x k) fun _ _ => rfl
theorem Taken.freeSlot : freeSlot v = freeSlot s := h.read Machine.freeSlot fun _ _ => rfl
theorem Taken.slotHolder : slotHolder v = slotHolder s := h.read Machine.slotHolder fun _ _ => rfl

theorem Taken.sessionFault (kind : Nat) : sessionFault v mb kind = sessionFault s mb kind := by
  unfold Machine.sessionFault
  have e : findSession v (sendingKind kind) (parameter s mb 0 4) = findSession s (sendingKind kind) (parameter s mb 0 4) :=
    h.read (fun x => findSession x (sendingKind kind) (parameter s mb 0 4)) fun _ _ => rfl
  rw [h.param, h.param]
  dsimp only
  rw [e]
  rfl

theorem Taken.rangeParam : rangeParam v mb = rangeParam s mb := by
  funext i
  unfold Machine.rangeParam
  dsimp only
  rw [h.param, h.param, h.param]
  rfl

theorem Taken.rangesFault : rangesFault v mb = rangesFault s mb := by
  unfold Machine.rangesFault
  rw [h.param, h.rangeParam]
  rfl

theorem Taken.noSlot_none {k : Nat} (hk : Machine.freeSlot s = some k) : noSlot v = none := by
  unfold noSlot
  rw [h.freeSlot, hk]
  rfl

theorem Taken.noSlot_some (hk : Machine.freeSlot s = none) : noSlot v = some (.refuse stBusy (Machine.slotHolder s)) := by
  unfold noSlot
  rw [h.freeSlot, hk, h.slotHolder]
  rfl

end

theorem newSession_spec {s v : State} {m : Nat} (h : ∀ o n, param v m o n = parameter s m o n) (kind : Nat) (ranges : List SRange)
    (manifest : List Byte) : let x := newSession v m kind ranges manifest
    x.state = 1 ∧ x.kind = kind ∧ x.sid = parameter s m 0 4 ∧ x.window = parameter s m 6 2 ∧ x.ranges = ranges := by
  unfold newSession
  dsimp only
  rw [h, h]
  exact ⟨rfl, rfl, rfl, rfl, rfl⟩

theorem inSlot_free {s : State} {k : Nat} (h : freeSlot s = some k) (m : Nat) (x : Session) : inSlot s m x = openSession s m k x := by
  unfold inSlot
  rw [h]

/-! A job that is armed returns to LOADED (R381). -/

/-- A state but for the flow contexts, the job's state and the counter of free values. -/
def unarmedAs (s : State) (flows : Tbl Line) (rt : Tbl FlowRt) (state cause free : Nat) : State :=
  { s with straits := { s.straits with flows := flows, rt := rt }, job := { s.job with state := state, cause := cause }, freeCtr := free }

theorem unarm_form (s : State) (free : Nat) : ∃ flows rt state cause,
    { unarm s with freeCtr := free } = unarmedAs s flows rt state cause free ∧ (s.job.state = 2 → state = 1) := by
  unfold unarm
  by_cases h : s.job.state = jobArmed
  · rw [if_pos h]
    exact ⟨_, _, _, _, rfl, fun _ => rfl⟩
  · rw [if_neg h]
    exact ⟨_, _, _, _, rfl, fun e => absurd e h⟩

section
variable {s : State} {mb : Fin 16} {seq : Byte} {now : Nat} {k : Nat} (irq : Bool)

theorem sessionOpen_opens (h : Accepts s mb 0x91 seq) (hk : freeSlot s = some k) (hkind : parameter s mb 4 1 ∈ [1, 2, 3, 4])
    (hf : sessionFault s mb (parameter s mb 4 1) = none) (hr : rangesFault s mb = none) : Runs (.sessionOpen mb seq irq now) s fun t =>
      ((sessionOf t k).state = 1 ∧ (sessionOf t k).kind = parameter s mb 4 1 ∧ (sessionOf t k).sid = parameter s mb 0 4 ∧
        (sessionOf t k).window = parameter s mb 6 2 ∧ ∀ j, j ≠ k → sessionOf t j = sessionOf s j) ∧ Ended t mb 0x91 irq 0 0 (leBytes 3 k) ∧
      (parameter s mb 4 1 = 1 → (sessionOf t k).ranges = (List.range (parameter s mb 26 2)).map (rangeParam s mb)) ∧ MemSame s t [] :=
  runs_busy h rfl rfl (fun _ hv => hv.noSlot_none hk) fun v _ hv => by
    have hle : parameter s mb 4 1 ≤ 4 := by
      simp only [List.mem_cons, List.not_mem_nil, or_false] at hkind
      omega
    obtain ⟨ranges, hset, hranges⟩ : ∃ ranges, sessionOpen v mb = openSession v mb k (newSession v mb (parameter s mb 4 1) ranges []) ∧
        (parameter s mb 4 1 = 1 → ranges = (List.range (parameter s mb 26 2)).map (rangeParam s mb)) := by
      refine ⟨if (parameter s mb 4 1 = kindReceive || parameter s mb 4 1 = kindSend) = true then
        (List.range (parameter s mb 26 2)).map (rangeParam s mb) else [], ?_, fun h1 => if_pos (by rw [h1]; rfl)⟩
      unfold sessionOpen
      rw [hv.param, hv.param, hv.rangeParam]
      dsimp only
      rw [if_pos hle, hv.sessionFault, hf, hv.rangesFault, hr]
      exact inSlot_free (hv.freeSlot.trans hk) _ _
    obtain ⟨hopen, hend, -, hdata⟩ := openSession_spec hv.begun k (newSession v mb (parameter s mb 4 1) ranges [])
    obtain ⟨h1, h2, h3, h4, h5⟩ := newSession_spec hv.param (parameter s mb 4 1) ranges []
    rw [hset]
    generalize newSession v mb (parameter s mb 4 1) ranges [] = x at hopen hend hdata h1 h2 h3 h4 h5
    generalize applyAnswer v mb (openSession v mb k x) = t at hopen hend hdata
    refine ⟨⟨hopen.state.trans h1, hopen.kind.trans h2, hopen.sid.trans h3, hopen.window.trans h4, fun j hj => (hopen.others j hj).trans (hv.session j)⟩,
      hend, fun e => (hopen.ranges.trans h5).trans (hranges e), fun a _ => ?_⟩
    rw [hdata, hv.memory]

theorem finish_event (s : State) (m code detail : Nat) (resp : List Byte) : (finish s m code detail resp).control.supEvent = s.control.supEvent := by
  unfold finish finishAs
  split
  · rfl
  · dsimp only
    split
    · rfl
    · rfl

theorem sessionClose_closes {j : Nat} (h : Accepts s mb 0x92 seq)
    (hj : (List.range 8).find? (fun k => (sessionOf s k).state = 1 && (sessionOf s k).sid = parameter s mb 0 4) = some j) :
    Runs (.sessionClose mb seq irq now) s fun t => (sessionOf t j).state = 0 ∧ (sessionOf t j).cause = 3 ∧ Ended t mb 0x92 irq 0 0 [] ∧
      t.control.supEvent.getLsbD 2 = true ∧ ∀ i, i ≠ j → sessionOf t i = sessionOf s i :=
  runs_plain h rfl rfl fun v _ hv => by
    have hset : sessionClose v mb = okAt (endSession v j 0 3) mb [] := by
      unfold sessionClose
      rw [hv.param]
      simp only [hv.session]
      rw [hj]
    obtain ⟨hself, hne, hevent, -⟩ := endSession_spec v j 0 3
    have hbox : ∀ n, boxOf (endSession v j 0 3) n = boxOf v n := fun n => by
      have e := congrArg (fun x : State => boxOf x n) (setSupEvent_same (modSession v j fun x => { x with state := 0, cause := 3, todo := [] }) 2)
      exact e
    have hend := hv.okEnds hbox []
    rw [hset]
    generalize endSession v j 0 3 = u at hself hne hevent hend
    unfold applyAnswer okAt
    dsimp only
    rw [finish_sessions, finish_event, hself]
    refine ⟨rfl, rfl, hend, hevent, fun i hi => ?_⟩
    rw [finish_sessions, hne i hi, hv.session]

/-- CHECKPOINT and RESTORE open a session over the JOB_STATE regions; an armed job returns to LOADED. -/
theorem stateSession_opens {v : State} {op kind : Nat} (hv : Taken s now v mb op irq) (hk : freeSlot s = some k)
    (hl : ledgerSettled s = true) (hf : sessionFault s mb kind = none) (hroom : kind = 5 → (stateRegions s).length ≤ 252) :
    let t := applyAnswer v mb (stateSessionCmd v mb kind)
    ((sessionOf t k).state = 1 ∧ (sessionOf t k).kind = kind ∧ (sessionOf t k).sid = parameter s mb 0 4 ∧
      (sessionOf t k).window = parameter s mb 6 2 ∧ ∀ j, j ≠ k → sessionOf t j = sessionOf s j) ∧ Ended t mb op irq 0 0 (leBytes 3 k) ∧
    MemSame s t [] ∧ (sessionOf t k).ranges = (stateRegions s).map (fun r => ⟨r.2.base, r.2.len, 0⟩) ∧ (s.job.state = 2 → t.job.state = 1) := by
  have hregions : stateRegions v = stateRegions s := hv.read stateRegions fun _ _ => rfl
  obtain ⟨flows, rt, state, cause, hform, hstate⟩ := unarm_form v ((unarm v).freeCtr + 4)
  obtain ⟨free, hfree⟩ : ∃ free, (unarm v).freeCtr + 4 = free := ⟨_, rfl⟩
  obtain ⟨u, hu⟩ : ∃ u, ({ unarm v with freeCtr := (unarm v).freeCtr + 4 } : State) = u := ⟨_, rfl⟩
  have huform : u = unarmedAs v flows rt state cause free := by rw [← hu, hform, hfree]
  obtain ⟨manifest, hset⟩ : ∃ manifest, stateSessionCmd v mb kind =
      inSlot u mb (newSession (unarm v) mb kind (regionRanges (unarm v)) manifest) := by
    refine ⟨if kind = kindCheckpoint then manifestOf (unarm v) else [], ?_⟩
    have hfull : (decide (kind = kindCheckpoint) && decide (252 < (stateRegions s).length)) = false := by
      by_cases e : kind = 5
      · rw [decide_eq_false (Nat.not_lt.mpr (hroom e)), Bool.and_false]
      · rw [decide_eq_false (show ¬kind = kindCheckpoint from e), Bool.false_and]
    unfold stateSessionCmd
    rw [show ledgerSettled v = true from (hv.read ledgerSettled fun _ _ => rfl).trans hl, hv.sessionFault, hf, hregions]
    dsimp only
    rw [if_neg (by decide), hfull, if_neg Bool.false_ne_true, ← hu]
  have hslot : freeSlot u = some k := by rw [huform]; exact hv.freeSlot.trans hk
  have hbegun : Begun s u mb op irq := hv.begun.congr fun n => by rw [huform]; rfl
  have hranges : regionRanges (unarm v) = (stateRegions s).map fun r => ⟨r.2.base, r.2.len, 0⟩ := by
    have e : regionRanges u = regionRanges v := by rw [huform]; rfl
    rw [← hu] at e
    exact e.trans (congrArg (List.map fun r : Nat × Region => (⟨r.2.base, r.2.len, 0⟩ : SRange)) hregions)
  have hpar : ∀ o n, param (unarm v) mb o n = parameter s mb o n := fun o n => by
    have e : param u mb o n = param v mb o n := by rw [huform]; rfl
    rw [← hu] at e
    exact e.trans (hv.param o n)
  obtain ⟨h1, h2, h3, h4, h5⟩ := newSession_spec hpar kind (regionRanges (unarm v)) manifest
  rw [inSlot_free hslot] at hset
  rw [hset]
  generalize newSession (unarm v) mb kind (regionRanges (unarm v)) manifest = x at h1 h2 h3 h4 h5
  obtain ⟨hopen, hend, hjob, hdata⟩ := openSession_spec hbegun k x
  have hsessions : ∀ j, sessionOf u j = sessionOf s j := fun j => by rw [huform]; exact hv.session j
  have hdata' : u.memory.data = s.memory.data := by rw [huform]; exact congrArg Memory.data hv.memory
  have hjob' : s.job.state = 2 → u.job.state = 1 := fun e => by rw [huform]; exact hstate ((congrArg Job.state hv.job).trans e)
  have e : applyAnswer v mb (openSession u mb k x) = applyAnswer u mb (openSession u mb k x) := rfl
  rw [e]
  generalize applyAnswer u mb (openSession u mb k x) = t at hopen hend hjob hdata
  exact ⟨⟨hopen.state.trans h1, hopen.kind.trans h2, hopen.sid.trans h3, hopen.window.trans h4, fun j hj => (hopen.others j hj).trans (hsessions j)⟩,
    hend, fun a _ => by rw [hdata, hdata'], (hopen.ranges.trans h5).trans hranges, fun h => (congrArg Job.state hjob).trans (hjob' h)⟩

theorem stateSession_unsettled {v : State} {op kind : Nat} (hv : Taken s now v mb op irq) (hl : ledgerSettled s = false) :
    stateSessionCmd v mb kind = .refuse stRefused (stateDetail v) := by
  unfold stateSessionCmd
  rw [show ledgerSettled v = false from (hv.read ledgerSettled fun _ _ => rfl).trans hl]
  rfl

end

/-- Settles O49: sessions that open over their ranges, end, or find no slot. -/
theorem sessionCommands : Obligations.SessionCommands := by
  unfold Obligations.SessionCommands
  intro mb seq irq now s k par opened
  refine ⟨sessionOpen_opens irq, fun j => sessionClose_closes irq, fun h hk hl hf hroom => ?_, fun h hk hl hf => ?_, fun h hk hl => ?_, fun hk => ⟨fun h => ?_,
    fun h => ?_, fun h => ?_⟩⟩
  · refine runs_busy h rfl rfl (fun _ hv => hv.noSlot_none hk) fun v _ hv => ?_
    obtain ⟨h1, h2, h3, h4, -⟩ := stateSession_opens irq hv hk hl hf fun _ => hroom
    exact ⟨h1, h2, h3, h4⟩
  · refine runs_busy h rfl rfl (fun _ hv => hv.noSlot_none hk) fun v _ hv => ?_
    obtain ⟨h1, h2, h3, -, h5⟩ := stateSession_opens (kind := 6) irq hv hk hl hf fun e => absurd e (by decide)
    exact ⟨h1, h2, h3, h5⟩
  · refine runs_busy h rfl rfl (fun _ hv => hv.noSlot_none hk) fun v _ hv => ?_
    rw [stateSession_unsettled irq hv hl]
    exact hv.refuses (by decide) _
  · exact runs_busy_refused h rfl rfl (fun _ hv => hv.noSlot_some hk) fun _ hv => hv.ends (.inl (by decide)) _ []
  · exact runs_busy_refused h rfl rfl (fun _ hv => hv.noSlot_some hk) fun _ hv => hv.ends (.inl (by decide)) _ []
  · exact runs_busy_refused h rfl rfl (fun _ hv => hv.noSlot_some hk) fun _ hv => hv.ends (.inl (by decide)) _ []

end Sys2Proof.Machine
end

section
/-! SUPPORT. The diagnostic commands and CORE_RESET (14, 07, 15, R216, R442, R464). -/

namespace Sys2Proof.Machine

open Sys2Proof

/-! The error counters of the stacks (R216). -/

theorem bar0Read_stack (s : State) {i o : Nat} (hi : i < 24) (ho : o < 64) :
    bar0Read s (0x50000 + 64 * i + o) = lit s (stackBlock (stackOf s i) o) := by
  have e : 0x50000 + 64 * i + o - 0x50000 = 64 * i + o := by omega
  unfold bar0Read
  rw [if_neg (by omega), if_neg (by omega), if_neg (by omega), if_neg (by omega), if_neg (by omega), if_neg (by omega), if_neg (by omega),
    if_neg (by omega), if_pos (by omega), e]
  unfold memoryBlock
  rw [if_pos (by omega), show (64 * i + o) / 64 = i by omega, show (64 * i + o) % 64 = o by omega]

theorem eccBytes_of {s t : State} {i : Nat} (hi : i < 24) (hd : islesDark t = islesDark s) (hs : stackOf t i = stackOf s i) :
    eccBytes t i = eccBytes s i := by
  have e : ∀ o, o < 64 → bar0Read t (0x50000 + 64 * i + o) = bar0Read s (0x50000 + 64 * i + o) := fun o ho => by
    rw [bar0Read_stack t hi ho, bar0Read_stack s hi ho, hs]
    unfold lit
    rw [hd]
  unfold eccBytes
  dsimp only
  rw [e 4 (by decide), e 8 (by decide), e 0x14 (by decide), e 0xC (by decide), e 0x10 (by decide)]

/-- What a read of the error counters leaves of a stack. -/
def eccCleared (k : Stack) : Stack := { k with ce := 0, ue := 0, accUe := 0 }

/-- The stacks of a list are cleared; nothing else changes. -/
theorem clearEccs_spec : ∀ (l : List Nat) (s : State), l.Nodup → islesDark s = false → let t := l.foldl clearEcc s
    (∀ i ∈ l, stackOf t i = eccCleared (stackOf s i)) ∧ (∀ i, i ∉ l → stackOf t i = stackOf s i) ∧
    { t with memory := { t.memory with stack := s.memory.stack } } = s := by
  intro l
  induction l with
  | nil => exact fun s _ _ => ⟨fun i h => absurd h List.not_mem_nil, fun _ _ => rfl, rfl⟩
  | cons j l ih =>
    intro s hnodup hlit
    obtain ⟨hfresh, hnodup'⟩ := List.nodup_cons.mp hnodup
    have e : clearEcc s j = modStack s j eccCleared := by
      unfold clearEcc clearStack
      rw [hlit]
      rfl
    rw [List.foldl_cons, e]
    obtain ⟨hin, hout, hrest⟩ := ih (modStack s j eccCleared) hnodup' hlit
    refine ⟨fun i hi => ?_, fun i hi => ?_, ?_⟩
    · rcases List.mem_cons.mp hi with rfl | hi'
      · exact (hout i hfresh).trans (stackOf_modStack_self s i eccCleared)
      · have hne : i ≠ j := fun h => hfresh (h ▸ hi')
        exact (hin i hi').trans (congrArg eccCleared (stackOf_modStack_ne s eccCleared hne))
    · rw [List.mem_cons, not_or] at hi
      exact (hout i hi.2).trans (stackOf_modStack_ne s eccCleared hi.1)
    · have h := congrArg (fun x : State => { x with memory := { x.memory with stack := s.memory.stack } }) hrest
      exact h

theorem flatMap_range_congr {n : Nat} {f g : Nat → List Byte} (h : ∀ i < n, f i = g i) : (List.range n).flatMap f = (List.range n).flatMap g := by
  rw [List.flatMap_def, List.flatMap_def, List.map_congr_left fun i hi => h i (List.mem_range.mp hi)]

section
variable {s : State} {mb : Fin 16} {seq : Byte} {now : Nat} (irq : Bool)

theorem diagEcc_clears (h : Accepts s mb 0x81 seq) (hp : s.power.state < 2) : Runs (.diagEcc mb seq irq now) s fun t =>
    (∀ i < 24, stackOf t i = { stackOf s i with ce := 0, ue := 0, accUe := 0 }) ∧
    Ended t mb 0x81 irq 0 0 ((List.range 24).flatMap (eccBytes s)) ∧ MemSame s t [] :=
  runs_plain h rfl rfl fun v _ hv => by
    have hlit : islesDark v = false := by
      unfold islesDark
      rw [hv.power, decide_eq_false (by omega), decide_eq_false (by omega)]
      rfl
    have hdark : islesDark v = islesDark s := hv.read islesDark fun _ _ => rfl
    have hstack : ∀ i, stackOf v i = stackOf s i := fun i => hv.read (fun x => stackOf x i) fun _ _ => rfl
    have hbytes : (List.range 24).flatMap (eccBytes v) = (List.range 24).flatMap (eccBytes s) :=
      flatMap_range_congr fun i hi => eccBytes_of hi hdark (hstack i)
    obtain ⟨hin, -, hrest⟩ := clearEccs_spec (List.range 24) v List.nodup_range hlit
    rw [hbytes]
    generalize (List.range 24).foldl clearEcc v = u at hin hrest
    have hbox : ∀ n, boxOf u n = boxOf v n := fun n => by
      have e := congrArg (fun x : State => boxOf x n) hrest
      exact e
    have hdata : u.memory.data = s.memory.data := by
      have e := congrArg (fun x : State => x.memory.data) hrest
      exact e.trans (congrArg Memory.data hv.memory)
    refine ⟨fun i hi => ?_, hv.okEnds hbox _, fun a _ => ?_⟩
    · have e := congrArg (fun x : Memory => tblGet stackReset x.stack i) (finish_memory u mb stOk 0 ((List.range 24).flatMap (eccBytes s)))
      exact Eq.trans e ((hin i (List.mem_range.mpr hi)).trans (congrArg eccCleared (hstack i)))
    · have e := congrArg (fun x : Memory => memGet x.data a) (finish_memory u mb stOk 0 ((List.range 24).flatMap (eccBytes s)))
      exact Eq.trans e (by rw [hdata])

end

/-! DIAG_PROGRAM (R442). -/

/-- A core that runs a diagnostic program from its start, with a frame reference. -/
def RunsDiag (k : Core) (start now : Nat) : Prop :=
  k.mode = .running ∧ k.pc = start ∧ k.runs = .diag ∧ k.frameT = now ∧ k.frameQ = 4096

theorem diagCore_self {s : State} {p : Program} (h : (coreOf s p.core).mode ≠ .wiping) :
    RunsDiag (coreOf (diagCore s p) p.core) p.start s.tide.now := by
  unfold diagCore
  rw [if_neg h, coreOf_modCore_self]
  exact ⟨rfl, rfl, rfl, rfl, rfl⟩

theorem diagCore_ne (s : State) (p : Program) {c : Nat} (h : c ≠ p.core) : coreOf (diagCore s p) c = coreOf s c := by
  unfold diagCore storeProgram
  split
  · rfl
  · rw [coreOf_modCore_ne _ _ h, coreOf_modCore_ne _ _ h]

theorem diagCore_rest (s : State) (p : Program) : { diagCore s p with cores := s.cores } = s := by
  unfold diagCore
  split
  · rfl
  · rfl

theorem diagCores_rest : ∀ (l : List Program) (s : State), { l.foldl diagCore s with cores := s.cores } = s
  | [], _ => rfl
  | p :: l, s => by
    have h := congrArg (fun x : State => { x with cores := s.cores }) (diagCores_rest l (diagCore s p))
    exact Eq.trans h (diagCore_rest s p)

/-- A core that one program of the list names runs it. -/
theorem diagCores_run {p : Program} : ∀ (l : List Program) (s : State), (∀ q ∈ l, q.core = p.core → q = p) →
    (coreOf s p.core).mode ≠ .wiping → (p ∈ l ∨ RunsDiag (coreOf s p.core) p.start s.tide.now) →
    RunsDiag (coreOf (l.foldl diagCore s) p.core) p.start s.tide.now := by
  intro l
  induction l with
  | nil => exact fun s _ _ h => h.resolve_left List.not_mem_nil
  | cons q l ih =>
    intro s hone hmode h
    rw [List.foldl_cons]
    have hnow : (diagCore s q).tide.now = s.tide.now := by
      have e := congrArg (fun x : State => x.tide.now) (diagCore_rest s q)
      exact e
    have hl : ∀ x ∈ l, x.core = p.core → x = p := fun x hx => hone x (List.mem_cons_of_mem _ hx)
    rw [← hnow]
    by_cases hq : q.core = p.core
    · obtain rfl := hone q List.mem_cons_self hq
      have hrun := diagCore_self hmode
      refine ih _ hl ?_ (.inr (by rw [hnow]; exact hrun))
      rw [hrun.1]
      exact nofun
    · have hsame := diagCore_ne s q (Ne.symm hq)
      refine ih _ hl (by rw [hsame]; exact hmode) (h.imp (fun hm => (List.mem_cons.mp hm).resolve_left fun e => hq (e ▸ rfl)) fun hr => ?_)
      rw [hsame, hnow]
      exact hr

section
variable {s : State} {mb : Fin 16} {seq : Byte} {now : Nat} (irq : Bool)

/-- The bytes that DIAG_PROGRAM reads. -/
def diagBytes (s : State) (mb : Fin 16) (seq : Byte) (irq : Bool) (now : Nat) : List Byte :=
  (readRange (startBox (atTide s now) ⟨mb, 0x82, seq.toNat, irq⟩) (parameter s mb 0 8) (parameter s mb 8 8) (supReader s)).2

theorem diagProgram_runs (h : Accepts s mb 0x82 seq) (hclean : CleanMemory s) (hin : inMem (parameter s mb 0 8) (parameter s mb 8 8) = true)
    (h64 : 64 ≤ (diagBytes s mb seq irq now).length) (hlen : layoutLen secPrograms (diagBytes s mb seq irq now) ≤ (diagBytes s mb seq irq now).length)
    (hf : programsFault (diagBytes s mb seq irq now) = none) : Runs (.diagProgram mb seq irq now) s fun t =>
      Ended t mb 0x82 irq 0 0 [] ∧ MemSame s t [] ∧ ∀ p ∈ programsAt s (parameter s mb 0 8), (coreOf s p.core).mode ≠ .wiping →
        (∀ q ∈ programsAt s (parameter s mb 0 8), q.core = p.core → q = p) →
        (coreOf t p.core).mode = .running ∧ (coreOf t p.core).pc = p.start ∧ (coreOf t p.core).runs = .diag ∧
        (coreOf t p.core).frameT = max s.tide.now now ∧ (coreOf t p.core).frameQ = 4096 :=
  runs_plain h rfl rfl fun v hstart hv => by
    have hbytes : (readRange v (parameter s mb 0 8) (parameter s mb 8 8) (supReader v)).2 = diagBytes s mb seq irq now := by
      rw [hv.read supReader fun _ _ => rfl, hstart]
      rfl
    have hstay : (readRange v (parameter s mb 0 8) (parameter s mb 8 8) (supReader v)).1 = v :=
      congrArg Prod.fst (readRange_clean (hv.clean hclean) _ _ _)
    generalize diagBytes s mb seq irq now = b at h64 hlen hf hbytes
    have hprog : programsAt v (parameter s mb 0 8) = programsAt s (parameter s mb 0 8) := hv.read (fun x => programsAt x (parameter s mb 0 8)) fun _ _ => rfl
    have hset : diagProgram v mb = okAt ((programsAt s (parameter s mb 0 8)).foldl diagCore v) mb [] := by
      unfold diagProgram
      rw [hv.param, hv.param]
      dsimp only
      rw [if_neg (by rw [hin]; decide), hbytes, hstay, if_neg (by rw [decide_eq_false (Nat.not_lt.mpr h64), decide_eq_false (Nat.not_lt.mpr hlen)]; decide), hf,
        hprog]
    rw [hset]
    have hcore : ∀ c, coreOf v c = coreOf s c := fun c => hv.read (fun x => coreOf x c) fun _ _ => rfl
    have hnow : v.tide.now = max s.tide.now now := congrArg Tide.now hv.tide
    have hruns : ∀ p ∈ programsAt s (parameter s mb 0 8), (coreOf s p.core).mode ≠ .wiping →
        (∀ q ∈ programsAt s (parameter s mb 0 8), q.core = p.core → q = p) →
        RunsDiag (coreOf ((programsAt s (parameter s mb 0 8)).foldl diagCore v) p.core) p.start (max s.tide.now now) := fun p hp hmode hone => by
      rw [← hnow]
      exact diagCores_run _ v hone (by rw [hcore]; exact hmode) (.inl hp)
    have hrest := diagCores_rest (programsAt s (parameter s mb 0 8)) v
    generalize (programsAt s (parameter s mb 0 8)).foldl diagCore v = u at hruns hrest
    have hkept := finish_control u mb stOk 0 []
    refine ⟨hv.okEnds (fun n => ?_) [], fun a _ => ?_, fun p hp hmode hone => ?_⟩
    · have e := congrArg (fun x : State => boxOf x n) hrest; exact e
    · have e := congrArg (fun x : State => memGet x.memory.data a) hkept
      have e' := congrArg (fun x : State => memGet x.memory.data a) hrest
      exact Eq.trans e (e'.trans (by rw [hv.memory]))
    · have e := congrArg (fun x : State => coreOf x p.core) hkept
      rw [show coreOf (applyAnswer v mb (okAt u mb [])) p.core = coreOf u p.core from e]
      exact hruns p hp hmode hone

/-! CORE_RESET (R464). -/

theorem resetCores_core {s : State} {isle k : Nat} (wdog : Bool) (h : (coreOf s (144 * isle + k)).mode ≠ .wiping) :
    resetCores s isle (some k) wdog = noteCoreReset (takeCoreReset s wdog (144 * isle + k)) isle (some k) wdog := by
  unfold resetCores
  dsimp only
  exact if_pos (by
    rw [List.any_cons, List.any_nil, Bool.or_false]
    exact bne_iff_ne.mpr h)

theorem takeCoreReset_control (s : State) (wdog : Bool) (c : Nat) : (takeCoreReset s wdog c).control = s.control := by
  unfold takeCoreReset
  split <;> rfl

theorem coreReset_begins (h : Accepts s mb 0x83 seq) (hisle : parameter s mb 0 1 ≤ 3) (hcore : parameter s mb 1 2 < 144)
    (hmode : (coreOf s (144 * parameter s mb 0 1 + parameter s mb 1 2)).mode ≠ .wiping) :
    Runs (.coreReset mb seq irq now) s fun t => (coreOf t (144 * parameter s mb 0 1 + parameter s mb 1 2)).mode = .wiping ∧
      (∀ x, x ≠ 144 * parameter s mb 0 1 + parameter s mb 1 2 → coreOf t x = coreOf s x) ∧ t.boot.coreCount = min 0xFFFFFFFF (s.boot.coreCount + 1) ∧
      (boxOf t mb).run = some ⟨0x83, irq, none, [144 * parameter s mb 0 1 + parameter s mb 1 2]⟩ :=
  runs_plain h rfl rfl fun v _ hv => by
    obtain ⟨c, hc⟩ : ∃ c, 144 * parameter s mb 0 1 + parameter s mb 1 2 = c := ⟨_, rfl⟩
    rw [hc] at hmode ⊢
    have hcores : ∀ x, coreOf v x = coreOf s x := fun x => hv.read (fun y => coreOf y x) fun _ _ => rfl
    have hmode' : (coreOf v c).mode ≠ .wiping := by rw [hcores]; exact hmode
    obtain ⟨u, hu⟩ : ∃ u, noteCoreReset (takeCoreReset v false c) (parameter s mb 0 1) (some (parameter s mb 1 2)) false = u := ⟨_, rfl⟩
    have hset : coreResetCmd v mb = .go (modBox u mb fun b => { b with run := b.run.map fun r => { r with waits := [c] } }) := by
      unfold coreResetCmd
      rw [hv.param, hv.param]
      dsimp only
      rw [if_neg (Nat.not_lt.mpr hisle), if_neg (by rw [decide_eq_false (by omega), Bool.false_and]; decide), if_neg (by omega), if_neg (by omega), ← hu,
        resetCores_core false (by rw [hc]; exact hmode'), hc]
      unfold coreNum
      rw [hc]
    have hself : (coreOf u c).mode = .wiping := by
      rw [← hu]
      exact congrArg Core.mode (coreOf_takeCoreReset_self (wdog := false) hmode')
    have hne : ∀ x, x ≠ c → coreOf u x = coreOf s x := fun x hx => by
      rw [← hu]
      exact (coreOf_takeCoreReset_ne v false hx).trans (hcores x)
    have hcount : u.boot.coreCount = sat32 (s.boot.coreCount + 1) := by
      rw [← hu]
      unfold noteCoreReset
      rw [takeCoreReset_keepsBoot, hv.boot]
    have hrun : (boxOf u mb).run = some ⟨0x83, irq, none, []⟩ := by
      rw [← hu]
      have e := congrArg (fun k : Control => (tblGet mailboxReset k.boxes mb.val).run) (takeCoreReset_control v false c)
      exact Eq.trans e hv.begun.run
    rw [hset]
    unfold applyAnswer
    dsimp only
    refine ⟨hself, hne, hcount, ?_⟩
    rw [boxOf_modBox_self, hrun]
    rfl

theorem coreReset_refuses (h : Accepts s mb 0x83 seq) (hisle : 3 < parameter s mb 0 1) : Runs (.coreReset mb seq irq now) s fun t =>
    BoxOnly s now t mb ∧ ∃ d, Ended t mb 0x83 irq 3 d [] :=
  runs_plain h rfl rfl fun v _ hv => by
    have hset : coreResetCmd v mb = badParam 0 := by
      unfold coreResetCmd
      rw [hv.param]
      exact if_pos hisle
    rw [hset]
    exact hv.refuses (by decide) _

end

/-- Settles O48: the counters are returned and cleared, diagnostic programs and core resets begin. -/
theorem diagnosticCommands : Obligations.DiagnosticCommands := by
  unfold Obligations.DiagnosticCommands
  intro mb seq irq now s par at0
  exact ⟨diagEcc_clears irq, diagProgram_runs irq, coreReset_begins irq, coreReset_refuses irq⟩

end Sys2Proof.Machine
end

section
/-! SUPPORT. The commands that run a job (14, 11, 12, R350, R372, R436, R437). -/

namespace Sys2Proof.Machine

open Sys2Proof

theorem startAt_runs {k : Core} (h : k.mode ≠ .wiping) (pc : Nat) (wait : SeqWait) (now : Nat) :
    (startAt k pc wait now).mode = .running ∧ (startAt k pc wait now).wait = wait ∧ (startAt k pc wait now).pc = pc := by
  unfold startAt
  rw [if_neg h]
  exact ⟨rfl, rfl, rfl⟩

section
variable {s : State} {mb : Fin 16} {seq : Byte} {now : Nat} (irq : Bool)

theorem sessionBusy_none {v : State} {op : Nat} (hs : stateSession s = none) (hv : Taken s now v mb op irq) : sessionBusy v = none := by
  unfold sessionBusy
  rw [show stateSession v = none from (hv.read stateSession fun _ _ => rfl).trans hs]
  rfl

/-! JOB_START (R404, R437). -/

/-- A core of a started job: it waits for the first frame reference. -/
theorem startJob_cores {v : State} (s0 start q : Nat) {x : Nat × Core} (hx : x ∈ v.cores) (hp : x.2.program = true) (hm : x.2.mode ≠ .wiping) :
    ∃ y ∈ (startJob v s0 start q).cores, y.1 = x.1 ∧ y.2.mode = .running ∧ y.2.wait = .stepRef ∧ y.2.pc = x.2.start ∧ y.2.doneUpTo = s0 := by
  refine ⟨_, List.mem_map.mpr ⟨x, hx, rfl⟩, rfl, ?_⟩
  obtain ⟨h1, h2, h3⟩ := startAt_runs hm x.2.start .stepRef v.tide.now
  dsimp only
  rw [if_pos hp]
  exact ⟨h1, h2, h3, rfl⟩

theorem jobStart_started {v : State} {op : Nat} (hv : Taken s now v mb op irq) (hstart : max s.tide.now now + 1000000 ≤ parameter s mb 8 8)
    (hq : parameter s mb 16 2 = 0 ∨ (4096 ≤ parameter s mb 16 2 ∧ parameter s mb 16 2 ≤ 16384)) :
    let t := startJob v (parameter s mb 0 8) (parameter s mb 8 8) (if parameter s mb 16 2 = 0 then tempoStart s else parameter s mb 16 2)
    ∃ u resp, jobStart v mb = okAt u mb resp ∧ u.job = t.job ∧ u.tide = t.tide ∧ u.commit = t.commit ∧ u.cores = t.cores ∧ u.control = t.control := by
  intro t
  have hnow : ¬parameter s mb 8 8 < v.tide.now + 1000000 := by
    have e : v.tide.now = max s.tide.now now := congrArg Tide.now hv.tide
    rw [e]
    omega
  have htempo : (parameter s mb 16 2 != 0 && outside 4096 16384 (parameter s mb 16 2)) = false := by
    unfold outside
    rcases hq with e | ⟨h1, h2⟩
    · rw [e]; rfl
    · rw [decide_eq_false (Nat.not_lt.mpr h1), decide_eq_false (Nat.not_lt.mpr h2), Bool.or_false, Bool.and_false]
  have e : jobStart v mb = if 0 ≤ rampStartOf v (parameter s mb 8 8) then okAt t mb (leBytes 8 (rampStartOf v (parameter s mb 8 8)).toNat)
      else okAt (useFree t) mb (leBytes 8 (freeNat t)) := by
    unfold jobStart
    rw [hv.param, hv.param, hv.param]
    dsimp only
    rw [if_neg hnow, htempo, if_neg Bool.false_ne_true, show tempoStart v = tempoStart s from hv.read tempoStart fun _ _ => rfl]
  rw [e]
  split
  · exact ⟨_, _, rfl, rfl, rfl, rfl, rfl, rfl⟩
  · exact ⟨_, _, rfl, rfl, rfl, rfl, rfl, rfl⟩

theorem jobStart_starts (h : Accepts s mb 0x33 seq) (hs : stateSession s = none) (hstart : max s.tide.now now + 1000000 ≤ parameter s mb 8 8)
    (hq : parameter s mb 16 2 = 0 ∨ (4096 ≤ parameter s mb 16 2 ∧ parameter s mb 16 2 ≤ 16384)) :
    Runs (.jobStart mb seq irq now) s fun t => t.job.state = 3 ∧
      t.tide.due = some (parameter s mb 0 8, parameter s mb 8 8, if parameter s mb 16 2 = 0 then tempoStart s else parameter s mb 16 2) ∧
      t.tide.running = false ∧ t.commit.evalNext = parameter s mb 0 8 ∧
      (∀ x ∈ s.cores, x.2.program = true → x.2.mode ≠ .wiping → ∃ y ∈ t.cores, y.1 = x.1 ∧ y.2.mode = .running ∧ y.2.wait = .stepRef ∧
        y.2.pc = x.2.start ∧ y.2.doneUpTo = parameter s mb 0 8) ∧ ∃ resp, Ended t mb 0x33 irq 0 0 resp :=
  runs_busy h rfl rfl (fun _ hv => sessionBusy_none irq hs hv) fun v _ hv => by
    obtain ⟨u, resp, hset, hjob, htide, hcommit, hcores, hcontrol⟩ := jobStart_started irq hv hstart hq
    have hx : ∀ x ∈ s.cores, x.2.program = true → x.2.mode ≠ .wiping → ∃ y ∈ u.cores, y.1 = x.1 ∧ y.2.mode = .running ∧ y.2.wait = .stepRef ∧
        y.2.pc = x.2.start ∧ y.2.doneUpTo = parameter s mb 0 8 := fun x hx hp hm => by
      rw [hcores]
      exact startJob_cores _ _ _ (by rw [hv.cores]; exact hx) hp hm
    have hbox : ∀ n, boxOf u n = boxOf v n := fun n => congrArg (fun k : Control => tblGet mailboxReset k.boxes n) hcontrol
    have hend := hv.okEnds hbox resp
    have h1 : u.job.state = 3 := by rw [hjob]; rfl
    have h2 : u.tide.due = some (parameter s mb 0 8, parameter s mb 8 8, if parameter s mb 16 2 = 0 then tempoStart s else parameter s mb 16 2) := by
      rw [htide]; rfl
    have h3 : u.tide.running = false := by rw [htide]; rfl
    have h4 : u.commit.evalNext = parameter s mb 0 8 := by rw [hcommit]; rfl
    have hkept := finish_control u mb stOk 0 resp
    rw [hset]
    refine ⟨?_, ?_, ?_, ?_, ?_, resp, hend⟩
    · have e := congrArg (fun x : State => x.job.state) hkept; exact e.trans h1
    · have e := congrArg (fun x : State => x.tide.due) hkept; exact e.trans h2
    · have e := congrArg (fun x : State => x.tide.running) hkept; exact e.trans h3
    · have e := congrArg (fun x : State => x.commit.evalNext) hkept; exact e.trans h4
    · have e := congrArg State.cores hkept
      rw [show (applyAnswer v mb (okAt u mb resp)).cores = u.cores from e]
      exact hx

theorem jobStart_late (h : Accepts s mb 0x33 seq) (hs : stateSession s = none) (hstart : parameter s mb 8 8 < max s.tide.now now + 1000000) :
    Runs (.jobStart mb seq irq now) s fun t => BoxOnly s now t mb ∧ ∃ d, Ended t mb 0x33 irq 3 d [] :=
  runs_busy h rfl rfl (fun _ hv => sessionBusy_none irq hs hv) fun v _ hv => by
    have hset : jobStart v mb = badParam 8 := by
      have e : v.tide.now = max s.tide.now now := congrArg Tide.now hv.tide
      unfold jobStart
      rw [hv.param, hv.param, hv.param]
      dsimp only
      rw [e, if_pos hstart]
    rw [hset]
    exact hv.refuses (by decide) _

/-! JOB_HALT and RESHARD (R350, R436). -/

theorem jobHalt_boundary {v : State} {op : Nat} (hv : Taken s now v mb op irq) (hr : reshardAt s = none) : jobHalt v mb =
    if (parameter s mb 0 8 : Int) < earliestBoundary (atTide s now) then badParam 0
    else okAt (setJob (enterJob v jobHalting) fun j => { j with haltAt := parameter s mb 0 8 }) mb [] := by
  have hr' : reshardAt v = none := (hv.read reshardAt fun _ _ => rfl).trans hr
  unfold jobHalt
  rw [hv.param]
  dsimp only
  have hmeets : meetsReshard v (parameter s mb 0 8) = false := by
    unfold meetsReshard
    rw [hr']
  rw [hmeets, if_neg Bool.false_ne_true, show earliestBoundary v = earliestBoundary (atTide s now) from hv.read earliestBoundary fun _ _ => rfl]

theorem jobHalt_halts (h : Accepts s mb 0x34 seq) (hr : reshardAt s = none) (hb : earliestBoundary (atTide s now) ≤ parameter s mb 0 8) :
    Runs (.jobHalt mb seq irq now) s fun t =>
      t.job = { s.job with state := 4, cause := 0, haltAt := parameter s mb 0 8 } ∧ Ended t mb 0x34 irq 0 0 [] ∧ t.cores = s.cores :=
  runs_plain h rfl rfl fun v _ hv => by
    rw [jobHalt_boundary irq hv hr, if_neg (by omega)]
    obtain ⟨u, hu⟩ : ∃ u, (setJob (enterJob v jobHalting) fun j => { j with haltAt := parameter s mb 0 8 }) = u := ⟨_, rfl⟩
    have hjob : u.job = { s.job with state := 4, cause := 0, haltAt := parameter s mb 0 8 } := by
      rw [← hu, ← hv.job]
      rfl
    have hcores : u.cores = s.cores := by rw [← hu]; exact hv.cores
    have hend := hv.okEnds (u := u) (fun n => by rw [← hu]; rfl) []
    have hkept := finish_control u mb stOk 0 []
    rw [hu]
    refine ⟨?_, hend, ?_⟩
    · have e := congrArg State.job hkept; exact e.trans hjob
    · have e := congrArg State.cores hkept; exact e.trans hcores

theorem jobHalt_early (h : Accepts s mb 0x34 seq) (hr : reshardAt s = none) (hb : (parameter s mb 0 8 : Int) < earliestBoundary (atTide s now)) :
    Runs (.jobHalt mb seq irq now) s fun t => BoxOnly s now t mb ∧ ∃ d, Ended t mb 0x34 irq 3 d [] :=
  runs_plain h rfl rfl fun v _ hv => by
    rw [jobHalt_boundary irq hv hr, if_pos hb]
    exact hv.refuses (by decide) _

theorem reshard_takes (h : Accepts s mb 0x37 seq) (hr : reshardAt s = none) (hb : earliestBoundary (atTide s now) ≤ parameter s mb 8 8)
    (hp : parameter s mb 0 1 < secNat s secReshard 0 1) (hd : (parameter s mb 1 1).testBit 0 = true ∨ bucketOpen s = false) :
    Runs (.reshard mb seq irq now) s fun t => t.job = { s.job with
        rsState := 1, rsDrain := (parameter s mb 1 1).testBit 0, rsPlan := parameter s mb 0 1, rsAt := parameter s mb 8 8,
        rsLeft := planNat s (parameter s mb 0 1) 1 1, rsFolded := false } ∧
      Ended t mb 0x37 irq 0 0 [] :=
  runs_plain h rfl rfl fun v _ hv => by
    have hr' : reshardAt v = none := (hv.read reshardAt fun _ _ => rfl).trans hr
    have hopen : (!(parameter s mb 1 1).testBit 0 && bucketOpen v) = false := by
      rw [show bucketOpen v = bucketOpen s from hv.read bucketOpen fun _ _ => rfl]
      rcases hd with e | e
      · rw [e]; rfl
      · rw [e, Bool.and_false]
    have hset : reshardCmd v mb = okAt (setJob v fun j => { j with
        rsState := 1, rsDrain := (parameter s mb 1 1).testBit 0, rsPlan := parameter s mb 0 1, rsAt := parameter s mb 8 8
        rsLeft := planNat s (parameter s mb 0 1) 1 1, rsFolded := false }) mb [] := by
      unfold reshardCmd
      rw [hv.param, hv.param, hv.param]
      dsimp only
      rw [hr', show earliestBoundary v = earliestBoundary (atTide s now) from hv.read earliestBoundary fun _ _ => rfl,
        decide_eq_false (show ¬(parameter s mb 8 8 : Int) < earliestBoundary (atTide s now) by omega), if_neg (by decide),
        show secNat v secReshard 0 1 = secNat s secReshard 0 1 from hv.read (fun x => secNat x secReshard 0 1) fun _ _ => rfl,
        if_neg (Nat.not_le.mpr hp), hopen, if_neg Bool.false_ne_true,
        show planNat v (parameter s mb 0 1) 1 1 = planNat s (parameter s mb 0 1) 1 1 from hv.read (fun x => planNat x (parameter s mb 0 1) 1 1) fun _ _ => rfl]
    rw [hset]
    generalize planNat s (parameter s mb 0 1) 1 1 = left
    obtain ⟨u, hu⟩ : ∃ u, (setJob v fun j => { j with
        rsState := 1, rsDrain := (parameter s mb 1 1).testBit 0, rsPlan := parameter s mb 0 1, rsAt := parameter s mb 8 8
        rsLeft := left, rsFolded := false }) = u := ⟨_, rfl⟩
    have hjob : u.job = { s.job with
        rsState := 1, rsDrain := (parameter s mb 1 1).testBit 0, rsPlan := parameter s mb 0 1, rsAt := parameter s mb 8 8,
        rsLeft := left, rsFolded := false } := by
      rw [← hu, ← hv.job]
      rfl
    have hend := hv.okEnds (u := u) (fun n => by rw [← hu]; rfl) []
    rw [hu]
    have e := congrArg State.job (finish_control u mb stOk 0 [])
    exact ⟨e.trans hjob, hend⟩

theorem reshard_early (h : Accepts s mb 0x37 seq) (hb : (parameter s mb 8 8 : Int) < earliestBoundary (atTide s now)) :
    Runs (.reshard mb seq irq now) s fun t => BoxOnly s now t mb ∧ ∃ d, Ended t mb 0x37 irq 4 d [] :=
  runs_plain h rfl rfl fun v _ hv => by
    have hset : reshardCmd v mb = .refuse stRefused (stateDetail v) := by
      unfold reshardCmd
      rw [hv.param, hv.param, hv.param]
      dsimp only
      rw [show earliestBoundary v = earliestBoundary (atTide s now) from hv.read earliestBoundary fun _ _ => rfl, decide_eq_true hb, Bool.or_true]
      exact if_pos rfl
    rw [hset]
    exact hv.refuses (by decide) _

/-! COMMIT_RESUME (R372). -/

/-- The mailboxes, the cores and the ledger's step and state stay. -/
structure LedgerStays (s t : State) : Prop where
  boxes : ∀ n, boxOf t n = boxOf s n
  cores : t.cores = s.cores
  step : t.commit.ledStep = s.commit.ledStep
  state : t.commit.ledState = s.commit.ledState

theorem ReadSame.ledgerStays {s t : State} (h : ReadSame s t) : LedgerStays s t := by
  refine ⟨fun n => ?_, h.cores, ?_, ?_⟩
  · have e := congrArg (fun x : State => boxOf x n) h.1; exact e
  · have e := congrArg (fun x : State => x.commit.ledStep) h.1; exact e
  · have e := congrArg (fun x : State => x.commit.ledState) h.1; exact e

theorem WriteSame.ledgerStays {s t : State} {rs : List Range} (h : WriteSame s t rs) : LedgerStays s t := by
  obtain ⟨hboxes, hcores, hstep, hstate⟩ := h.1.ledgerStays
  exact ⟨hboxes, hcores, hstep, hstate⟩

theorem resumeLedger_spec (s : State) (n o : Nat) : let t := resumeLedger s n o
    t.commit.ledStep = n ∧ t.commit.ledState ∈ [1, 2, 3, 4] ∧ t.control = s.control ∧ t.cores = s.cores := by
  refine ⟨rfl, ?_, rfl, rfl⟩
  have key : ∀ u : State, u.commit.ledState ∈ [1, 3] → (settleLedger u).commit.ledState ∈ [1, 2, 3, 4] := by
    intro u hu
    unfold settleLedger
    dsimp only
    simp only [List.mem_cons, List.not_mem_nil, or_false] at hu ⊢
    split
    · exact .inr (.inl rfl)
    · split
      · exact .inr (.inr (.inr rfl))
      · omega
  unfold resumeLedger
  refine key _ ?_
  dsimp only
  split
  · exact List.mem_cons_self
  · exact List.mem_cons_of_mem _ List.mem_cons_self

theorem resumeCores_runs {s : State} {x : Nat × Core} (hx : x ∈ s.cores) (hp : x.2.program = true) (hm : x.2.mode ≠ .wiping) :
    ∃ y ∈ (resumeCores s).cores, y.1 = x.1 ∧ y.2.mode = .running ∧ y.2.wait = .none := by
  refine ⟨_, List.mem_map.mpr ⟨x, hx, rfl⟩, rfl, ?_⟩
  dsimp only
  rw [if_pos hp]
  exact ⟨(startAt_runs hm _ _ _).1, (startAt_runs hm _ _ _).2.1⟩

theorem unarm_keeps (s : State) : (unarm s).cores = s.cores ∧ ∀ n, boxOf (unarm s) n = boxOf s n := by
  unfold unarm
  split
  · exact ⟨rfl, fun _ => rfl⟩
  · exact ⟨rfl, fun _ => rfl⟩

/-- The state in which a resumed step's cores start. -/
theorem commitResume_form {s : State} {m : Nat} (h : resumable s.commit (param s m 0 8) = true) : ∃ u resp,
    commitResume s m = okAt { resumeCores u with commit := { u.commit with resume := some m } } m resp ∧
    u.commit.ledStep = param s m 0 8 ∧ u.commit.ledState ∈ [1, 2, 3, 4] ∧ u.cores = s.cores ∧ ∀ n, boxOf u n = boxOf s n := by
  obtain ⟨hcores, hboxes⟩ := unarm_keeps s
  obtain ⟨p, hp⟩ : ∃ p, secNat s secCommit 32 8 = p := ⟨_, rfl⟩
  have hread := (readRange_read (unarm s) p 8 (supReader s)).ledgerStays
  unfold commitResume
  dsimp only
  rw [if_neg (by rw [h]; decide), hp]
  generalize readRange (unarm s) p 8 (supReader s) = r at hread ⊢
  generalize (if leNat r.2 ≤ secNat s secCommit 24 8 then 1 else 2) = o
  obtain ⟨hstep, hstate, hcontrol, hsame⟩ := resumeLedger_spec r.1 (param s m 0 8) o
  have hwrite : LedgerStays (resumeLedger r.1 (param s m 0 8) o) (writeVerdict (resumeLedger r.1 (param s m 0 8) o) (param s m 0 8) o) :=
    (writeLines_write _ _ _ _).ledgerStays
  generalize resumeLedger r.1 (param s m 0 8) o = a at hstep hstate hcontrol hsame hwrite
  refine ⟨writeVerdict a (param s m 0 8) o, _, rfl, hwrite.step.trans hstep, ?_, ?_, fun n => ?_⟩
  · rw [hwrite.state]; exact hstate
  · exact hwrite.cores.trans (hsame.trans (hread.cores.trans hcores))
  · exact (hwrite.boxes n).trans ((congrArg (fun k : Control => tblGet mailboxReset k.boxes n) hcontrol).trans ((hread.boxes n).trans (hboxes n)))

theorem commitResume_resumes (h : Accepts s mb 0x38 seq) (hr : resumable s.commit (parameter s mb 0 8) = true) :
    Runs (.commitResume mb seq irq now) s fun t =>
      t.commit.resume = some mb.val ∧ t.commit.ledStep = parameter s mb 0 8 ∧ t.commit.ledState ∈ [1, 2, 3, 4] ∧
        (∃ resp, Ended t mb 0x38 irq 0 0 resp) ∧
        ∀ x ∈ s.cores, x.2.program = true → x.2.mode ≠ .wiping → ∃ y ∈ t.cores, y.1 = x.1 ∧ y.2.mode = .running ∧ y.2.wait = .none :=
  runs_plain h rfl rfl fun v _ hv => by
    obtain ⟨u, resp, hset, hstep, hstate, hcores, hboxes⟩ := commitResume_form (s := v) (m := mb) (by rw [hv.commit, hv.param]; exact hr)
    rw [hv.param] at hstep
    rw [hv.cores] at hcores
    obtain ⟨w, hw⟩ : ∃ w, ({ resumeCores u with commit := { u.commit with resume := some mb.val } } : State) = w := ⟨_, rfl⟩
    have h1 : w.commit.resume = some mb.val := by rw [← hw]
    have h2 : w.commit.ledStep = parameter s mb 0 8 := by rw [← hw]; exact hstep
    have h3 : w.commit.ledState ∈ [1, 2, 3, 4] := by rw [← hw]; exact hstate
    have h4 : ∀ x ∈ s.cores, x.2.program = true → x.2.mode ≠ .wiping → ∃ y ∈ w.cores, y.1 = x.1 ∧ y.2.mode = .running ∧ y.2.wait = .none :=
      fun x hx hp hm => by
        rw [← hw]
        exact resumeCores_runs (by rw [hcores]; exact hx) hp hm
    have hend := hv.okEnds (u := w) (fun n => by rw [← hw]; exact hboxes n) resp
    rw [hset, hw]
    have hkept := finish_control w mb stOk 0 resp
    refine ⟨?_, ?_, ?_, ⟨resp, hend⟩, ?_⟩
    · have e := congrArg (fun x : State => x.commit.resume) hkept; exact e.trans h1
    · have e := congrArg (fun x : State => x.commit.ledStep) hkept; exact e.trans h2
    · have e := congrArg (fun x : State => x.commit.ledState) hkept
      rw [show (applyAnswer v mb (okAt w mb resp)).commit.ledState = w.commit.ledState from e]
      exact h3
    · have e := congrArg State.cores hkept
      rw [show (applyAnswer v mb (okAt w mb resp)).cores = w.cores from e]
      exact h4

theorem commitResume_refuses (h : Accepts s mb 0x38 seq) (hr : resumable s.commit (parameter s mb 0 8) = false) :
    Runs (.commitResume mb seq irq now) s fun t => BoxOnly s now t mb ∧ ∃ d, Ended t mb 0x38 irq 3 d [] :=
  runs_plain h rfl rfl fun v _ hv => by
    have hset : commitResume v mb = badParam 0 := by
      unfold commitResume
      rw [hv.commit, hv.param]
      dsimp only
      rw [hr]
      exact if_pos rfl
    rw [hset]
    exact hv.refuses (by decide) _

end

/-- Settles O47: each command by what it starts, takes or refuses. -/
theorem jobRunningCommands : Obligations.JobRunningCommands := by
  unfold Obligations.JobRunningCommands
  intro mb seq irq now s par t0
  exact ⟨jobStart_starts irq, jobStart_late irq, jobHalt_halts irq, jobHalt_early irq, reshard_takes irq, reshard_early irq,
    commitResume_resumes irq, commitResume_refuses irq⟩

end Sys2Proof.Machine
end

section
/-! SUPPORT. JOB_LOAD and JOB_RELOAD: what an accepted image becomes (11, 14, R356, R357, R439). -/

namespace Sys2Proof.Machine

open Sys2Proof

/-! Work on flow contexts, parked contributions and arena records. -/

/-- A state but for flow contexts, what waits on them, parked contributions, arena records and the reduction's bookkeeping. -/
def FlowWork (s t : State) : Prop :=
  { t with straits := { t.straits with flows := s.straits.flows, rt := s.straits.rt }
           memory := { t.memory with park := s.memory.park, arenas := s.memory.arenas }
           reduction := s.reduction } = s

theorem FlowWork.refl (s : State) : FlowWork s s := rfl

theorem FlowWork.trans {a b c : State} (h : FlowWork a b) (h' : FlowWork b c) : FlowWork a c := by
  unfold FlowWork at *
  refine Eq.trans ?_ h
  rw [← h']

theorem flowWork_foldl {α : Type} (f : State → α → State) (h : ∀ s x, FlowWork s (f s x)) : ∀ (l : List α) (s : State),
    FlowWork s (l.foldl f s)
  | [], s => .refl s
  | x :: l, s => (h s x).trans (flowWork_foldl f h l (f s x))

theorem writtenFlow_work (s : State) (f : Nat) (d : Line) (g : FlowRt → FlowRt) : FlowWork s (modRt (setFlow s f d) f g) := rfl

theorem emptyParks_work (s : State) : FlowWork s (emptyParks s) := by
  unfold emptyParks
  refine flowWork_foldl _ (fun s i => FlowWork.trans (b := setPark s i []) rfl ?_) _ s
  refine flowWork_foldl _ (fun s x => ?_) _ _
  unfold returnCredits
  split
  · exact .refl s
  · exact writtenFlow_work _ _ _ _

theorem freeArenas_work (s : State) : FlowWork s (freeArenas s) := by
  have h := emptyParks_work s
  unfold freeArenas
  generalize emptyParks s = u at h ⊢
  exact h.trans rfl

theorem writeFlows_flowWork (s : State) (variant state : Nat) : FlowWork s (writeFlows s variant state) := by
  unfold writeFlows
  have h : FlowWork s (freeFlows s) := rfl
  exact h.trans (flowWork_foldl _ (fun u e => writtenFlow_work u _ _ _) _ _)

/-! What the taking of an image leaves. -/

/-- The job, the control registers, package memory's data, the ledger, tag and position stay. -/
structure LoadKeeps (s t : State) : Prop where
  job : t.job = s.job
  control : t.control = s.control
  data : t.memory.data = s.memory.data
  commit : t.commit = s.commit
  tag : t.straits.jobTag = s.straits.jobTag
  pos : t.straits.pos = s.straits.pos

theorem LoadKeeps.refl (s : State) : LoadKeeps s s := ⟨rfl, rfl, rfl, rfl, rfl, rfl⟩

theorem LoadKeeps.trans {a b c : State} (h : LoadKeeps a b) (h' : LoadKeeps b c) : LoadKeeps a c :=
  ⟨h'.job.trans h.job, h'.control.trans h.control, h'.data.trans h.data, h'.commit.trans h.commit, h'.tag.trans h.tag, h'.pos.trans h.pos⟩

theorem FlowWork.load {s t : State} (h : FlowWork s t) : LoadKeeps s t := by
  refine ⟨?_, ?_, ?_, ?_, ?_, ?_⟩
  · have e := congrArg State.job h; exact e
  · have e := congrArg State.control h; exact e
  · have e := congrArg (fun x : State => x.memory.data) h; exact e
  · have e := congrArg State.commit h; exact e
  · have e := congrArg (fun x : State => x.straits.jobTag) h; exact e
  · have e := congrArg (fun x : State => x.straits.pos) h; exact e

theorem FlowWork.cores {s t : State} (h : FlowWork s t) : t.cores = s.cores := by have e := congrArg State.cores h; exact e

/-- Cores and flow contexts stay as well. -/
structure FlowsLoaded (s t : State) : Prop where
  load : LoadKeeps s t
  cores : t.cores = s.cores
  flows : t.straits.flows = s.straits.flows

theorem FlowsLoaded.refl (s : State) : FlowsLoaded s s := ⟨.refl s, rfl, rfl⟩

theorem FlowsLoaded.trans {a b c : State} (h : FlowsLoaded a b) (h' : FlowsLoaded b c) : FlowsLoaded a c :=
  ⟨h.load.trans h'.load, h'.cores.trans h.cores, h'.flows.trans h.flows⟩

theorem flowsLoaded_foldl {α : Type} (f : State → α → State) (h : ∀ s x, FlowsLoaded s (f s x)) : ∀ (l : List α) (s : State),
    FlowsLoaded s (l.foldl f s)
  | [], s => .refl s
  | x :: l, s => (h s x).trans (flowsLoaded_foldl f h l (f s x))

theorem setPkgBar_flowsLoaded (s : State) (b : Nat) (x : Bar) : FlowsLoaded s (setPkgBar s b x) := ⟨⟨rfl, rfl, rfl, rfl, rfl, rfl⟩, rfl, rfl⟩

theorem setIsleBar_flowsLoaded (s : State) (k : Nat) (x : Bar) : FlowsLoaded s (setIsleBar s k x) := ⟨⟨rfl, rfl, rfl, rfl, rfl, rfl⟩, rfl, rfl⟩

theorem writeBars_flowsLoaded (s : State) : FlowsLoaded s (writeBars s) := by
  unfold writeBars writeIsleBars
  refine FlowsLoaded.trans (flowsLoaded_foldl _ (fun u i => ?_) _ s) (flowsLoaded_foldl _ (fun u b => setPkgBar_flowsLoaded u b _) _ _)
  exact flowsLoaded_foldl _ (fun t k => setIsleBar_flowsLoaded t k _) _ u

theorem planDigest_flowsLoaded (s : State) (g : Region) : FlowsLoaded s (planDigest s g) := by
  unfold planDigest
  split
  · exact ⟨⟨rfl, rfl, rfl, rfl, rfl, rfl⟩, rfl, rfl⟩
  · exact .refl s

theorem notice_flowsLoaded (s : State) (typ setting old new ahead : Nat) : FlowsLoaded s (notice s typ setting old new ahead) := by
  unfold notice
  split
  · exact .refl s
  · exact ⟨⟨rfl, rfl, rfl, rfl, rfl, rfl⟩, rfl, rfl⟩

theorem setPower_flowsLoaded (s : State) (f : Power → Power) : FlowsLoaded s (setPower s f) := ⟨⟨rfl, rfl, rfl, rfl, rfl, rfl⟩, rfl, rfl⟩

theorem govSetting_flowsLoaded (s : State) (setting v ahead : Nat) : FlowsLoaded s (govSetting s setting v ahead) := by
  unfold govSetting
  dsimp only
  split
  · exact (notice_flowsLoaded _ _ _ _ _ _).trans (setPower_flowsLoaded _ _)
  · exact (notice_flowsLoaded _ _ _ _ _ _).trans (setPower_flowsLoaded _ _)
  · exact (notice_flowsLoaded _ _ _ _ _ _).trans (setPower_flowsLoaded _ _)
  · exact (notice_flowsLoaded _ _ _ _ _ _).trans (setPower_flowsLoaded _ _)

theorem govAll_flowsLoaded (s : State) (vs : List (Nat × Nat)) (ahead : Nat) : FlowsLoaded s (govAll s vs ahead) :=
  flowsLoaded_foldl (fun s (v : Nat × Nat) => govSetting s v.1 v.2 ahead) (fun u x => govSetting_flowsLoaded u x.1 x.2 ahead) vs s

/-! Programs and flow contexts of the image. -/

theorem modCore_load (s : State) (c : Nat) (f : Core → Core) : LoadKeeps s (modCore s c f) := ⟨rfl, rfl, rfl, rfl, rfl, rfl⟩

theorem loadKeeps_foldl {α : Type} (f : State → α → State) (h : ∀ s x, LoadKeeps s (f s x)) : ∀ (l : List α) (s : State),
    LoadKeeps s (l.foldl f s)
  | [], s => .refl s
  | x :: l, s => (h s x).trans (loadKeeps_foldl f h l (f s x))

theorem storeProgram_load (s : State) (p : Program) : LoadKeeps s (storeProgram s p) := modCore_load _ _ _

theorem loadPrograms_load (s : State) (variant : Nat) : LoadKeeps s (loadPrograms s variant) := by
  unfold loadPrograms
  exact (loadKeeps_foldl _ (fun u c => modCore_load u c _) _ s).trans (loadKeeps_foldl _ storeProgram_load _ _)

theorem storeProgram_mode (s : State) (p : Program) (x : Nat) : (coreOf (storeProgram s p) x).mode = (coreOf s x).mode := by
  unfold storeProgram
  by_cases h : x = p.core
  · rw [h, coreOf_modCore_self]
    rfl
  · rw [coreOf_modCore_ne _ _ h]

theorem storePrograms_mode (x : Nat) : ∀ (l : List Program) (s : State), (coreOf (l.foldl storeProgram s) x).mode = (coreOf s x).mode
  | [], _ => rfl
  | p :: l, s => (storePrograms_mode x l (storeProgram s p)).trans (storeProgram_mode s p x)

/-- Each core of a list has been changed by a function that leaves none of them running. -/
theorem coresStopped {f : Nat → Core → Core} (hf : ∀ c k, (f c k).mode ≠ .running) (x : Nat) (l : List Nat) : ∀ s : State,
    x ∈ l ∨ (coreOf s x).mode ≠ .running → (coreOf (l.foldl (fun s c => modCore s c (f c)) s) x).mode ≠ .running := by
  induction l with
  | nil => exact fun s h => h.resolve_left List.not_mem_nil
  | cons c l ih =>
    intro s h
    rw [List.foldl_cons]
    refine ih _ ?_
    by_cases e : x = c
    · rw [e, coreOf_modCore_self]
      exact .inr (hf c _)
    · rw [coreOf_modCore_ne _ _ e]
      exact h.imp_left fun hm => (List.mem_cons.mp hm).resolve_left e

theorem loadPrograms_stops (s : State) (variant : Nat) {x : Nat} (hx : x < 576) : (coreOf (loadPrograms s variant) x).mode ≠ .running := by
  unfold loadPrograms
  dsimp only
  rw [storePrograms_mode]
  refine coresStopped (f := fun c k =>
    let k := if (programs s variant).any fun p => p.core = c then k else emptyStore k
    { k with mode := if k.mode = .wiping then .wiping else .halted, wait := .none, held := [], runs := .step }) (fun c k => ?_) x _ s
    (.inl (List.mem_range.mpr hx))
  dsimp only
  generalize (if ((programs s variant).any fun p => decide (p.core = c)) = true then k else emptyStore k) = k'
  by_cases h : k'.mode = .wiping
  · rw [if_pos h]; exact nofun
  · rw [if_neg h]; exact nofun

theorem cState_zero : cState 0 = 0 := by
  unfold cState fld bitsOf
  rw [show (0 : Line).toNat = 0 from BitVec.toNat_zero, Nat.zero_div, Nat.zero_mod]

theorem writtenFlows_state (state : Nat) (hst : state % 4 ≠ 2) (i : Nat) : ∀ (l : List (Nat × Line)) (s : State), cState (flowOf s i) ≠ 2 →
    cState (flowOf (l.foldl (fun s e => modRt (setFlow s e.1 (loadedContext e.2 state)) e.1 fun _ => freshRt e.2) s) i) ≠ 2 := by
  intro l
  induction l with
  | nil => exact fun _ h => h
  | cons e l ih =>
    intro s h
    rw [List.foldl_cons]
    refine ih _ ?_
    rw [flowOf_modRt]
    by_cases hi : i = e.1
    · rw [hi, flowOf_setFlow_self]
      unfold loadedContext
      rw [cState_setState]
      exact hst
    · rw [flowOf_setFlow_ne _ _ hi]
      exact h

theorem writeFlows_unarmed (s : State) (variant i : Nat) : cState (flowOf (writeFlows s variant fLoaded) i) ≠ 2 := by
  unfold writeFlows
  refine writtenFlows_state fLoaded (by decide) i _ _ ?_
  have e : flowOf (freeFlows s) i = 0 := rfl
  rw [e, cState_zero]
  decide

/-! An image that is accepted. -/

/-- The job as an accepted image leaves it. -/
def imageJob (j : Job) (a n v : Nat) (reload : Bool) : Job := { j with
  state := jobLoaded, cause := 0, img := some (a, n), variant := v, rsState := if reload && j.rsState = 3 then 3 else 0
  rsFolded := false, rsPast := [], slotReady := 0, slotHi := 0, slotEnded := 0, adopted := false }

theorem clearSchedule_flowsLoaded (s : State) : FlowsLoaded s (clearSchedule s) := ⟨⟨rfl, rfl, rfl, rfl, rfl, rfl⟩, rfl, rfl⟩

theorem setTag_spec (s : State) (tag ahead : Nat) : let t := setTag s tag ahead
    t.job = s.job ∧ t.control = s.control ∧ t.memory.data = s.memory.data ∧ t.commit = s.commit ∧ t.cores = s.cores ∧
    t.straits = { s.straits with jobTag := tag } := by
  have h := notice_flowsLoaded s 2 0 s.straits.jobTag tag ahead
  unfold setTag
  generalize notice s 2 0 s.straits.jobTag tag ahead = u at h ⊢
  exact ⟨h.load.job, h.load.control, h.load.data, h.load.commit, h.cores, rfl⟩

/-- An accepted image: the job, tag, position and ledger; control registers and package memory's data stay. -/
structure ImageTaken (s t : State) (a n v : Nat) (b : List Byte) (reload : Bool) : Prop where
  job : t.job = imageJob s.job a n v reload
  control : t.control = s.control
  data : t.memory.data = s.memory.data
  tag : t.straits.jobTag = bNat b 8 2
  pos : t.straits.pos = bNat b 12 4 % 2 ^ 20

/-- The state of an accepted image, by the steps of its taking. -/
theorem acceptImage_spec (s : State) (a n : Nat) (b : List Byte) (reload : Bool) : let t := acceptImage s a n b reload
    ImageTaken s t a n (if reload then s.job.variant else 0) b reload ∧
    t.commit = (if reload then s.commit else freshCommit s.commit) ∧
    (∀ x < 576, (coreOf t x).mode ≠ .running) ∧ ∀ i, cState (flowOf t i) ≠ 2 := by
  obtain ⟨t, ht⟩ : ∃ t, acceptImage s a n b reload = t := ⟨_, rfl⟩
  rw [ht]
  unfold acceptImage at ht
  extract_lets v job tagged src freed written planned cleared at ht
  have jobJob : job.job = imageJob s.job a n v reload := rfl
  have jobRest : job.control = s.control ∧ job.memory.data = s.memory.data ∧ job.commit = s.commit := ⟨rfl, rfl, rfl⟩
  have hv : (if reload then s.job.variant else 0) = v := rfl
  clear_value job v
  obtain ⟨tagJob, tagControl, tagData, tagCommit, -, tagStraits⟩ : tagged.job = job.job ∧ tagged.control = job.control ∧
    tagged.memory.data = job.memory.data ∧ tagged.commit = job.commit ∧ tagged.cores = job.cores ∧
    tagged.straits = { job.straits with jobTag := bNat b 8 2 } := setTag_spec job (bNat b 8 2) 1
  have htag : src.jobTag = bNat b 8 2 := congrArg Straits.jobTag tagStraits
  have hfreed : LoadKeeps { tagged with straits := { src with pos := bNat b 12 4 % 2 ^ 20 } } freed := (freeArenas_work _).load
  clear_value freed src tagged
  have hload := loadPrograms_load freed v
  have hstops := fun x (hx : x < 576) => loadPrograms_stops freed v hx
  have hflows := writeFlows_flowWork (loadPrograms freed v) v fLoaded
  have hunarmed := writeFlows_unarmed (loadPrograms freed v) v
  have hcores : (writeFlows (loadPrograms freed v) v fLoaded).cores = (loadPrograms freed v).cores := hflows.cores
  have hwritten : FlowsLoaded (writeFlows (loadPrograms freed v) v fLoaded) written := writeBars_flowsLoaded _
  clear_value written
  have hplanned : FlowsLoaded written planned := flowsLoaded_foldl _ planDigest_flowsLoaded (planRegions (sectionOf b secPlan 0)) written
  have hcleared : FlowsLoaded planned cleared :=
    (govAll_flowsLoaded planned (profile (sectionOf b secPower 0)) 1).trans (clearSchedule_flowsLoaded _)
  clear_value cleared planned
  generalize writeFlows (loadPrograms freed v) v fLoaded = flowed at hflows hunarmed hcores hwritten
  generalize loadPrograms freed v = loaded at hload hstops hflows hcores
  have hconf := (hwritten.trans hplanned).trans hcleared
  have hall := (hfreed.trans (hload.trans hflows.load)).trans hconf.load
  rw [hv, ← ht]
  refine ⟨⟨hall.job.trans (tagJob.trans jobJob), hall.control.trans (tagControl.trans jobRest.1), hall.data.trans (tagData.trans jobRest.2.1),
    hall.tag.trans htag, hall.pos⟩, ?_, fun c hc => ?_, fun i => ?_⟩
  · have e : cleared.commit = s.commit := hall.commit.trans (tagCommit.trans jobRest.2.2)
    rw [← e]
  · exact (congrArg (fun k => (tblGet coreReset k c).mode ≠ .running) (hconf.cores.trans hcores)).mpr (hstops c hc)
  · exact (congrArg (fun f => cState (tblGet 0 f i) ≠ 2) hconf.flows).mpr (hunarmed i)

/-! An end that raises CFG_GEN with a value of its own. -/

theorem finishAs_spec {v u : State} {m op : Nat} {irq : Bool} (h : Begun v u m op irq) (hr : raisesGen op = true) (resp : List Byte) (value : Nat) :
    let t := finishAs u m stOk 0 resp value
    Ended t m op irq 0 0 resp ∧ t.control.cfgGen = (u.control.cfgGen + 1) % 2 ^ 64 ∧ { t with control := u.control } = u := by
  unfold finishAs
  rw [h.run]
  dsimp only
  rw [if_pos (by rw [hr]; rfl)]
  refine ⟨⟨?_, ?_⟩, rfl, rfl⟩
  · rw [boxOf_cfgRise, boxOf_modBox_self]
    exact h.state
  · rw [boxOf_cfgRise, boxOf_modBox_self]
    rfl

end Sys2Proof.Machine
end

section
/-! SUPPORT. JOB_LOAD, JOB_RELOAD, JOB_ARM, SPARE_ADOPT and JOB_RELEASE by command (11, 14, R247, R260, R357, R374–R376, R434, R439, R440). -/

namespace Sys2Proof.Machine

open Sys2Proof

/-! JOB_LOAD and JOB_RELOAD. -/

/-- A state in which an image of n bytes at a has become the loaded job. -/
def LoadedAs (s t : State) (a n : Nat) (b : List Byte) : Prop :=
  t.job.state = 1 ∧ t.job.cause = 0 ∧ t.job.img = some (a, n) ∧
    t.straits.jobTag = bNat b 8 2 ∧ t.straits.pos = bNat b 12 4 % 2 ^ 20 ∧ GenRose s t ∧ MemSame s t [] ∧
    (∀ x < 576, (coreOf t x).mode ≠ .running) ∧ ∀ i, cState (flowOf t i) ≠ 2

section
variable {s v : State} {now op : Nat} {mb : Fin 16} {irq : Bool}

/-- What JOB_LOAD and JOB_RELOAD do with an image whose place and length are right. -/
theorem jobLoad_checks (hv : Taken s now v mb op irq) (hclean : CleanMemory s) (reload : Bool) (ha : parameter s mb 0 8 % 4096 = 0)
    (hin : inMem (parameter s mb 0 8) (parameter s mb 8 8) = true) (hn : parameter s mb 8 8 = peekNat s (parameter s mb 0 8 + 16) 8)
    {b : List Byte} (hb : (readRange v (parameter s mb 0 8) (parameter s mb 8 8) (supReader s)).2 = b) {fault : Option Nat}
    (hf : ((imageDetail s.boot.features b (parameter s mb 0 8)).orElse fun _ =>
      if reload then reloadDetail (loadedImage s) b s.job.variant else none) = fault) :
    jobLoad v mb reload = (fault.map fun d => Answer.go (finish v mb stBadParam d [])).getD
      (.go (finishAs (acceptImage v (parameter s mb 0 8) (parameter s mb 8 8) b reload) mb stOk 0
        ((b.drop 32).take 32 ++ leBytes 2 (bNat b 8 2)) (bNat b 32 8))) := by
  have hstay : (readRange v (parameter s mb 0 8) (parameter s mb 8 8) (supReader v)).1 = v :=
    congrArg Prod.fst (readRange_clean (hv.clean hclean) _ _ _)
  have hbytes : (readRange v (parameter s mb 0 8) (parameter s mb 8 8) (supReader v)).2 = b := by
    rw [hv.read supReader fun _ _ => rfl]
    exact hb
  have hpeek : peekNat v (parameter s mb 0 8 + 16) 8 = parameter s mb 8 8 := (hv.read (fun x => peekNat x (parameter s mb 0 8 + 16) 8) fun _ _ => rfl).trans hn.symm
  have hplace : (parameter s mb 0 8 % 4096 != 0 || !inMem (parameter s mb 0 8) (parameter s mb 8 8)) = false := by
    rw [ha, hin]
    rfl
  unfold jobLoad
  rw [hv.param, hv.param]
  dsimp only
  rw [hplace, if_neg Bool.false_ne_true, hpeek, if_neg (by rw [bne_self_eq_false]; exact Bool.false_ne_true), hbytes, hstay, hv.boot, hv.job,
    show loadedImage v = loadedImage s from hv.read loadedImage fun _ _ => rfl, hf]
  cases fault with
  | none => rfl
  | some d => rfl

/-- An image that passes every check is accepted. -/
theorem jobLoad_accepts (hv : Taken s now v mb op irq) (hclean : CleanMemory s) (reload : Bool) (ha : parameter s mb 0 8 % 4096 = 0)
    (hin : inMem (parameter s mb 0 8) (parameter s mb 8 8) = true) (hn : parameter s mb 8 8 = peekNat s (parameter s mb 0 8 + 16) 8)
    {b : List Byte} (hb : (readRange v (parameter s mb 0 8) (parameter s mb 8 8) (supReader s)).2 = b)
    (hf : imageDetail s.boot.features b (parameter s mb 0 8) = none) (hr : reload = true → reloadDetail (loadedImage s) b s.job.variant = none) :
    jobLoad v mb reload = .go (finishAs (acceptImage v (parameter s mb 0 8) (parameter s mb 8 8) b reload) mb stOk 0
      ((b.drop 32).take 32 ++ leBytes 2 (bNat b 8 2)) (bNat b 32 8)) := by
  refine jobLoad_checks hv hclean reload ha hin hn hb (fault := none) ?_
  rw [hf]
  cases reload with
  | false => rfl
  | true => exact hr rfl

/-- An image that fails a check is refused. -/
theorem jobLoad_rejects (hv : Taken s now v mb op irq) (hclean : CleanMemory s) (reload : Bool) (ha : parameter s mb 0 8 % 4096 = 0)
    (hin : inMem (parameter s mb 0 8) (parameter s mb 8 8) = true) (hn : parameter s mb 8 8 = peekNat s (parameter s mb 0 8 + 16) 8)
    {b : List Byte} (hb : (readRange v (parameter s mb 0 8) (parameter s mb 8 8) (supReader s)).2 = b) {d : Nat}
    (hf : imageDetail s.boot.features b (parameter s mb 0 8) = some d) : jobLoad v mb reload = .go (finish v mb stBadParam d []) := by
  refine jobLoad_checks hv hclean reload ha hin hn hb (fault := some d) ?_
  rw [hf]
  rfl

/-- An image that passes every check becomes the loaded job. -/
theorem jobLoad_takes (hv : Taken s now v mb op irq) (hr : raisesGen op = true) (a n : Nat) (b : List Byte) (reload : Bool) (resp : List Byte) (value : Nat) :
    let t := finishAs (acceptImage v a n b reload) mb stOk 0 resp value
    LoadedAs s t a n b ∧ t.job.variant = (if reload then s.job.variant else 0) ∧ t.commit = (if reload then s.commit else freshCommit s.commit) ∧
    Ended t mb op irq 0 0 resp := by
  obtain ⟨⟨hjob, hcontrol, hdata, htag, hpos⟩, hcommit, hcores, hflows⟩ := acceptImage_spec v a n b reload
  generalize acceptImage v a n b reload = u at hjob hcontrol hdata htag hpos hcommit hcores hflows
  obtain ⟨hend, hgen, hkept⟩ := finishAs_spec (hv.begun.congr fun n => congrArg (fun k : Control => tblGet mailboxReset k.boxes n) hcontrol) hr resp value
  generalize finishAs u mb stOk 0 resp value = t at hend hgen hkept
  rw [hv.job] at hjob
  rw [hv.commit] at hcommit
  have tjob : t.job = imageJob s.job a n (if reload then s.job.variant else 0) reload := by
    have e := congrArg State.job hkept; exact e.trans hjob
  have tstraits : t.straits = u.straits := by have e := congrArg State.straits hkept; exact e
  have tcores : t.cores = u.cores := by have e := congrArg State.cores hkept; exact e
  refine ⟨⟨by rw [tjob]; rfl, by rw [tjob]; rfl, by rw [tjob]; rfl, by rw [tstraits, htag], by rw [tstraits, hpos], ?_, fun x _ => ?_, fun x hx => ?_, fun i => ?_⟩,
    by rw [tjob]; rfl, ?_, hend⟩
  · unfold GenRose
    rw [hgen, hcontrol, hv.gen]
  · have e := congrArg (fun y : State => memGet y.memory.data x) hkept
    exact e.trans (by rw [hdata, hv.memory])
  · rw [coreOf_of_cores tcores]
    exact hcores x hx
  · have e : flowOf t i = flowOf u i := by unfold flowOf; rw [tstraits]
    rw [e]
    exact hflows i
  · have e := congrArg State.commit hkept; exact e.trans hcommit

end

/-! Arming: what it reads of the job. -/

/-- The bytes and the job's image read alike. -/
structure ImageReads (s t : State) : Prop where
  data : t.memory.data = s.memory.data
  upset : t.memory.upset = s.memory.upset
  states : ∀ i, (stackOf t i).state = (stackOf s i).state
  img : t.job.img = s.job.img

theorem ImageReads.trans {a b c : State} (h : ImageReads a b) (h' : ImageReads b c) : ImageReads a c :=
  ⟨h'.data.trans h.data, h'.upset.trans h.upset, fun i => (h'.states i).trans (h.states i), h'.img.trans h.img⟩

theorem ImageReads.linkedPorts {s t : State} (h : ImageReads s t) : linkedPorts t = linkedPorts s := by
  have hpeek : ∀ p n, peek t p n = peek s p n := fun p n => by
    unfold peek
    simp only [h.data, h.upset, h.states]
  have hrole : ∀ p, portRole t p = portRole s p := fun p => by
    unfold portRole secNat section_ directory dirEntry peekNat
    simp only [h.img, hpeek]
  unfold Machine.linkedPorts
  simp only [hrole]

theorem FlowWork.reads {s t : State} (h : FlowWork s t) : ImageReads s t := by
  refine ⟨h.load.data, ?_, fun i => ?_, by rw [h.load.job]⟩
  · have e := congrArg (fun x : State => x.memory.upset) h; exact e
  · have e := congrArg (fun x : State => (stackOf x i).state) h; exact e

/-- A state but for the ports. -/
def PortWork (s t : State) : Prop := { t with straits := { t.straits with ports := s.straits.ports } } = s

theorem PortWork.refl (s : State) : PortWork s s := rfl

theorem PortWork.trans {a b c : State} (h : PortWork a b) (h' : PortWork b c) : PortWork a c := by
  unfold PortWork at *
  refine Eq.trans ?_ h
  rw [← h']

theorem portWork_foldl {α : Type} (f : State → α → State) (h : ∀ s x, PortWork s (f s x)) : ∀ (l : List α) (s : State),
    PortWork s (l.foldl f s)
  | [], s => .refl s
  | x :: l, s => (h s x).trans (portWork_foldl f h l (f s x))

theorem modPort_portWork (s : State) (p : Nat) (f : Port → Port) : PortWork s (modPort s p f) := rfl

theorem PortWork.reads {s t : State} (h : PortWork s t) : ImageReads s t := by
  refine ⟨?_, ?_, fun i => ?_, ?_⟩
  · have e := congrArg (fun x : State => x.memory.data) h; exact e
  · have e := congrArg (fun x : State => x.memory.upset) h; exact e
  · have e := congrArg (fun x : State => (stackOf x i).state) h; exact e
  · have e := congrArg (fun x : State => x.job.img) h; exact e

theorem trainRole_portWork (s : State) (p : Nat) : PortWork s (trainRole s p) := by
  unfold trainRole
  split
  · exact modPort_portWork _ _ _
  · exact .refl s

theorem trainRole_identOk (s : State) (q p : Nat) : (portOf (trainRole s q) p).identOk = (portOf s p).identOk := by
  unfold trainRole
  split
  · rw [beginTraining_eq]
    by_cases h : p = q
    · rw [h, portOf_modPort_self]
    · rw [portOf_modPort_ne _ _ h]
  · rfl

theorem trainRoles_identOk (p : Nat) : ∀ (l : List Nat) (s : State), (portOf (l.foldl trainRole s) p).identOk = (portOf s p).identOk
  | [], _ => rfl
  | q :: l, s => (trainRoles_identOk p l (trainRole s q)).trans (trainRole_identOk s q p)

theorem clearedPorts_identOk (p : Nat) (l : List Nat) : ∀ s : State, p ∈ l ∨ (portOf s p).identOk = false →
    (portOf (l.foldl (fun s p => modPort s p fun k => { k with identOk := false, latched := false }) s) p).identOk = false := by
  induction l with
  | nil => exact fun s h => h.resolve_left List.not_mem_nil
  | cons q l ih =>
    intro s h
    rw [List.foldl_cons]
    refine ih _ ?_
    by_cases e : p = q
    · rw [e, portOf_modPort_self]
      exact .inr rfl
    · rw [portOf_modPort_ne _ _ e]
      exact h.imp_left fun hm => (List.mem_cons.mp hm).resolve_left e

/-! The end of an arming. -/

theorem armContext_zero : armContext 0 = 0 := if_pos cState_zero

theorem armContext_state (d : Line) : cState (armContext d) = 0 ∨ cState (armContext d) = 2 := by
  unfold armContext
  by_cases h : cState d = fFree
  · rw [if_pos h]
    exact .inl h
  · rw [if_neg h, cState_setState]
    exact .inr rfl

theorem armFlows_spec (s : State) : FlowWork s (armFlows s) ∧ ∀ i, cState (flowOf (armFlows s) i) = 0 ∨ cState (flowOf (armFlows s) i) = 2 := by
  have hrt : FlowWork s { s with straits := { s.straits with rt := [] } } := rfl
  have h := hrt.trans (flowWork_foldl (fun s (e : Nat × Line) => modRt (setFlow s e.1 (rewritten (flowOf s e.1) e.2)) e.1 fun _ => freshRt e.2)
    (fun _ _ => writtenFlow_work _ _ _ _) (flowTable s s.job.variant) _)
  unfold armFlows
  dsimp only
  generalize (flowTable s s.job.variant).foldl (fun s (e : Nat × Line) => modRt (setFlow s e.1 (rewritten (flowOf s e.1) e.2)) e.1 fun _ => freshRt e.2)
    { s with straits := { s.straits with rt := [] } } = u at h ⊢
  refine ⟨h.trans rfl, fun i => ?_⟩
  have e : flowOf { u with straits := { u.straits with flows := u.straits.flows.map fun f => (f.1, armContext f.2) } } i = armContext (flowOf u i) :=
    tblGet_map_default 0 armContext armContext_zero i u.straits.flows
  rw [e]
  exact armContext_state _

theorem armedFlows_spec (s : State) : FlowWork s (armFlows (freeArenas s)) ∧
    ∀ i, cState (flowOf (armFlows (freeArenas s)) i) = 0 ∨ cState (flowOf (armFlows (freeArenas s)) i) = 2 :=
  ⟨(freeArenas_work s).trans (armFlows_spec (freeArenas s)).1, (armFlows_spec (freeArenas s)).2⟩

/-- The state of an arming that has ended. -/
theorem armDone_spec {s u : State} {a : Arming} {op : Nat} {irq : Bool} (h : Begun s u a.mb op irq) (hl : linkedPorts u = []) : let t := armDone u a
    t.job.state = 2 ∧ t.job.adopted = a.spare ∧ t.job.arming = none ∧ (a.spare = true → t.commit.replaced = a.serial) ∧
    Ended t a.mb op irq 0 0 [0] ∧ ∀ i, cState (flowOf t i) = 0 ∨ cState (flowOf t i) = 2 := by
  obtain ⟨t, ht⟩ : ∃ t, armDone u a = t := ⟨_, rfl⟩
  rw [ht]
  unfold armDone at ht
  extract_lets armed entered bars reduction tide job commit final at ht
  obtain ⟨hwork, hflows⟩ : FlowWork u armed ∧ ∀ i, cState (flowOf armed i) = 0 ∨ cState (flowOf armed i) = 2 := armedFlows_spec u
  clear_value armed
  have hreads : ImageReads armed final := ⟨rfl, rfl, fun _ => rfl, rfl⟩
  have hstate : final.job.state = 2 := rfl
  have hadopted : final.job.adopted = a.spare := rfl
  have harming : final.job.arming = none := rfl
  have hserial : a.spare = true → final.commit.replaced = a.serial := fun hs => if_pos hs
  have hcontrol : final.control = armed.control := rfl
  have hstraits : final.straits = armed.straits := rfl
  have hlinked : linkedPorts final = [] := (hwork.reads.trans hreads).linkedPorts.trans hl
  clear_value final
  have hbegun : Begun s final a.mb op irq := h.congr fun n =>
    congrArg (fun k : Control => tblGet mailboxReset k.boxes n) (hcontrol.trans hwork.load.control)
  have hend := finish_ended hbegun stOk 0 (leBytes 1 (portBits (linkedPorts final)))
  have hkept := finish_control final a.mb stOk 0 (leBytes 1 (portBits (linkedPorts final)))
  rw [ht] at hend hkept
  rw [hlinked] at hend
  dsimp only
  refine ⟨?_, ?_, ?_, fun hs => ?_, hend.1, fun i => ?_⟩
  · have e := congrArg (fun x : State => x.job.state) hkept; exact e.trans hstate
  · have e := congrArg (fun x : State => x.job.adopted) hkept; exact e.trans hadopted
  · have e := congrArg (fun x : State => x.job.arming) hkept; exact e.trans harming
  · have e := congrArg (fun x : State => x.commit.replaced) hkept; exact e.trans (hserial hs)
  · have e := congrArg State.straits hkept
    have e' : flowOf t i = flowOf armed i := congrArg (fun x : Straits => tblGet 0 x.flows i) (Eq.trans e hstraits)
    rw [e']
    exact hflows i

/-! The beginning of an arming. -/

/-- The ports once an arming has begun: those of the job train, and none has passed. -/
def armBegun (s : State) (a : Arming) : State :=
  let s := setJob s fun j => { j with arming := some a }
  let s := (List.range 8).foldl (fun s p => modPort s p fun k => { k with identOk := false, latched := false }) s
  (rolePorts s).foldl trainRole s

theorem beginArm_eq (s : State) (a : Arming) : beginArm s a = tryArm (armBegun s a) := rfl

theorem armBegun_spec (s : State) (a : Arming) : PortWork (setJob s fun j => { j with arming := some a }) (armBegun s a) ∧
    ∀ p < 8, (portOf (armBegun s a) p).identOk = false := by
  obtain ⟨u, hu⟩ : ∃ u, (setJob s fun j => { j with arming := some a }) = u := ⟨_, rfl⟩
  have hports := portWork_foldl (fun s p => modPort s p fun k => { k with identOk := false, latched := false })
    (fun _ _ => modPort_portWork _ _ _) (List.range 8) u
  have hident := fun p (hp : p < 8) => clearedPorts_identOk p (List.range 8) u (.inl (List.mem_range.mpr hp))
  unfold armBegun
  dsimp only
  rw [hu]
  generalize (List.range 8).foldl (fun s p => modPort s p fun k => { k with identOk := false, latched := false }) u = w at hports hident ⊢
  exact ⟨hports.trans (portWork_foldl trainRole trainRole_portWork (rolePorts w) w), fun p hp => (trainRoles_identOk p (rolePorts w) w).trans (hident p hp)⟩

/-- An arming without linked ports has ended; with linked ports none has passed yet, and it waits. -/
theorem beginArm_spec {s v : State} {a : Arming} {op : Nat} {irq : Bool} (h : Begun s v a.mb op irq) : let t := beginArm v a
    (linkedPorts v = [] → t.job.state = 2 ∧ t.job.adopted = a.spare ∧ t.job.arming = none ∧ (a.spare = true → t.commit.replaced = a.serial) ∧
      Ended t a.mb op irq 0 0 [0] ∧ ∀ i, cState (flowOf t i) = 0 ∨ cState (flowOf t i) = 2) ∧
    (linkedPorts v ≠ [] → t.job = { v.job with arming := some a } ∧ (boxOf t a.mb).run = some ⟨op, irq, none, []⟩) := by
  obtain ⟨hwork, hident⟩ := armBegun_spec v a
  rw [beginArm_eq]
  generalize armBegun v a = u at hwork hident
  have hjob : u.job = { v.job with arming := some a } := by have e := congrArg State.job hwork; exact e
  have hreads : ImageReads v (setJob v fun j => { j with arming := some a }) := ⟨rfl, rfl, fun _ => rfl, rfl⟩
  have hlinked : linkedPorts u = linkedPorts v := (hreads.trans hwork.reads).linkedPorts
  have hbegun : Begun s u a.mb op irq := h.congr fun n => by have e := congrArg (fun x : State => boxOf x n) hwork; exact e
  have htry : tryArm u = if (linkedPorts u).all (identPassed u) then armDone u a else u := by
    unfold tryArm
    rw [hjob]
  rw [htry, hlinked]
  refine ⟨fun hl => ?_, fun hl => ?_⟩
  · rw [hl, if_pos List.all_nil]
    exact armDone_spec hbegun (hlinked.trans hl)
  · have hwaits : ¬(linkedPorts v).all (identPassed u) = true := by
      obtain ⟨p, hp⟩ := List.exists_mem_of_ne_nil _ hl
      have hlt : p < 8 := List.mem_range.mp (List.mem_filter.mp hp).1
      intro hall
      have := List.all_eq_true.mp hall p hp
      unfold identPassed at this
      rw [hident p hlt, Bool.and_false] at this
      exact Bool.false_ne_true this
    rw [if_neg hwaits]
    exact ⟨hjob, hbegun.run⟩

/-! JOB_RELEASE (R440). -/

theorem wipeCore_control (s : State) (c : Nat) : (wipeCore s c).control = s.control := rfl

theorem wipedCores_control : ∀ (l : List Nat) (s : State),
    (l.foldl (fun s c => if (coreOf s c).mode = .wiping then s else wipeCore s c) s).control = s.control
  | [], _ => rfl
  | c :: l, s => by
    rw [List.foldl_cons, wipedCores_control l]
    split
    · rfl
    · exact wipeCore_control s c

theorem wipedCores_mode (x : Nat) (l : List Nat) : ∀ s : State, x ∈ l ∨ (coreOf s x).mode = .wiping →
    (coreOf (l.foldl (fun s c => if (coreOf s c).mode = .wiping then s else wipeCore s c) s) x).mode = .wiping := by
  induction l with
  | nil => exact fun s h => h.resolve_left List.not_mem_nil
  | cons c l ih =>
    intro s h
    rw [List.foldl_cons]
    refine ih _ ?_
    by_cases hw : (coreOf s c).mode = .wiping
    · rw [if_pos hw]
      refine or_iff_not_imp_right.mpr fun hx => (List.mem_cons.mp (h.resolve_right hx)).resolve_left fun e => hx (e ▸ hw)
    · rw [if_neg hw]
      by_cases e : x = c
      · refine .inr ?_
        rw [e]
        unfold wipeCore
        rw [coreOf_dropOutbound, coreOf_modCore_self]
      · refine h.imp (fun hm => (List.mem_cons.mp hm).resolve_left e) fun hx => ?_
        unfold wipeCore
        rw [coreOf_dropOutbound, coreOf_modCore_ne _ _ e]
        exact hx

/-- A core without its program. -/
def withoutProgram (k : Core) : Core := { k with program := false, start := 0 }

theorem releaseJob_spec (s : State) : let t := releaseJob s
    t.job.state = 0 ∧ t.job.img = none ∧ t.straits.jobTag = 0 ∧ t.straits.flows = [] ∧
    (∀ x < 576, (coreOf t x).mode = .wiping ∧ (coreOf t x).program = false) ∧ t.control = s.control := by
  obtain ⟨w, hw⟩ : ∃ w, (List.range 576).foldl (fun s c => if (coreOf s c).mode = .wiping then s else wipeCore s c) s = w := ⟨_, rfl⟩
  have hcontrol : w.control = s.control := by rw [← hw]; exact wipedCores_control _ s
  have hmode : ∀ x < 576, (coreOf w x).mode = .wiping := fun x hx => by rw [← hw]; exact wipedCores_mode x _ s (.inl (List.mem_range.mpr hx))
  obtain ⟨u, hu⟩ : ∃ u, freeFlows { w with cores := w.cores.map fun c => (c.1, withoutProgram c.2) } = u := ⟨_, rfl⟩
  have hcore : ∀ x, coreOf u x = withoutProgram (coreOf w x) := fun x => by
    rw [← hu]
    exact tblGet_map_default coreReset withoutProgram rfl x w.cores
  have hflows : u.straits.flows = [] := by rw [← hu]; rfl
  have hu' : u.control = s.control := by rw [← hu]; exact hcontrol
  obtain ⟨-, htagControl, -, -, htagCores, htagStraits⟩ := setTag_spec u 0 1
  obtain ⟨g, hg⟩ : ∃ g, setTag u 0 1 = g := ⟨_, rfl⟩
  have heq : releaseJob s = setTide (clearSchedule (setJob (enterJob g jobEmpty) fun j => { j with img := none })) fun t => { t with curQ := 0 } := by
    rw [← hg, ← hu, ← hw]
    rfl
  rw [hg] at htagControl htagCores htagStraits
  rw [heq]
  have hcores : ∀ x, coreOf g x = withoutProgram (coreOf w x) := fun x => (coreOf_of_cores htagCores x).trans (hcore x)
  refine ⟨rfl, rfl, congrArg Straits.jobTag htagStraits, (congrArg Straits.flows htagStraits).trans hflows, fun x hx => ?_, htagControl.trans hu'⟩
  have e : coreOf (setTide (clearSchedule (setJob (enterJob g jobEmpty) fun j => { j with img := none })) fun t => { t with curQ := 0 }) x = coreOf g x := rfl
  rw [e, hcores]
  exact ⟨hmode x hx, rfl⟩

end Sys2Proof.Machine
end

section
/-! SUPPORT. The commands that load, arm and release a job (14, R247, R275, R357, R376, R434, R439, R440). -/

namespace Sys2Proof.Machine

open Sys2Proof

section
variable {s : State} {mb : Fin 16} {seq : Byte} {now : Nat} (irq : Bool)

/-! JOB_LOAD and JOB_RELOAD. -/

/-- The image that a command of an opcode reads. -/
def commandImage (s : State) (mb : Fin 16) (seq : Byte) (irq : Bool) (now op : Nat) : List Byte :=
  (readRange (startBox (atTide s now) ⟨mb, op, seq.toNat, irq⟩) (parameter s mb 0 8) (parameter s mb 8 8) (supReader s)).2

theorem jobLoad_loads (hn : s.power.notices.length < 256) (hclean : CleanMemory s) (h : Accepts s mb 0x30 seq) (ha : parameter s mb 0 8 % 4096 = 0)
    (hin : inMem (parameter s mb 0 8) (parameter s mb 8 8) = true) (hlen : parameter s mb 8 8 = peekNat s (parameter s mb 0 8 + 16) 8)
    (hf : imageDetail s.boot.features (commandImage s mb seq irq now 0x30) (parameter s mb 0 8) = none) :
    Runs (.jobLoad mb seq irq now) s fun t =>
      LoadedAs s t (parameter s mb 0 8) (parameter s mb 8 8) (commandImage s mb seq irq now 0x30) ∧ t.job.variant = 0 ∧
      t.commit.ledStep = 0 ∧ t.commit.ledState = 0 ∧
      Ended t mb 0x30 irq 0 0 (((commandImage s mb seq irq now 0x30).drop 32).take 32 ++ leBytes 2 (bNat (commandImage s mb seq irq now 0x30) 8 2)) :=
  runs_busy h rfl rfl (fun _ hv => queueFull_none hn hv) fun v hstart hv => by
    have hb : (readRange v (parameter s mb 0 8) (parameter s mb 8 8) (supReader s)).2 = commandImage s mb seq irq now 0x30 := by rw [hstart]; rfl
    generalize commandImage s mb seq irq now 0x30 = b at hb hf
    rw [jobLoad_accepts hv hclean false ha hin hlen hb hf fun e => absurd e Bool.false_ne_true]
    obtain ⟨hload, hvariant, hcommit, hend⟩ := jobLoad_takes hv rfl (parameter s mb 0 8) (parameter s mb 8 8) b false
      ((b.drop 32).take 32 ++ leBytes 2 (bNat b 8 2)) (bNat b 32 8)
    generalize finishAs (acceptImage v (parameter s mb 0 8) (parameter s mb 8 8) b false) mb stOk 0
      ((b.drop 32).take 32 ++ leBytes 2 (bNat b 8 2)) (bNat b 32 8) = t at hload hvariant hcommit hend
    exact ⟨hload, hvariant, congrArg Commit.ledStep hcommit, congrArg Commit.ledState hcommit, hend⟩

theorem jobLoad_refuses (hn : s.power.notices.length < 256) (hclean : CleanMemory s) (h : Accepts s mb 0x30 seq) (ha : parameter s mb 0 8 % 4096 = 0)
    (hin : inMem (parameter s mb 0 8) (parameter s mb 8 8) = true) (hlen : parameter s mb 8 8 = peekNat s (parameter s mb 0 8 + 16) 8) (d : Nat)
    (hf : imageDetail s.boot.features (commandImage s mb seq irq now 0x30) (parameter s mb 0 8) = some d) :
    Runs (.jobLoad mb seq irq now) s fun t => t.job = s.job ∧ t.cores = s.cores ∧ t.straits = s.straits ∧ Ended t mb 0x30 irq 3 (reg d) [] :=
  runs_busy h rfl rfl (fun _ hv => queueFull_none hn hv) fun v hstart hv => by
    have hb : (readRange v (parameter s mb 0 8) (parameter s mb 8 8) (supReader s)).2 = commandImage s mb seq irq now 0x30 := by rw [hstart]; rfl
    rw [jobLoad_rejects hv hclean false ha hin hlen hb hf]
    have hkept := finish_control v mb stBadParam d []
    refine ⟨?_, ?_, ?_, (hv.ends (.inl (by decide)) d []).2⟩
    · have e := congrArg State.job hkept; exact e.trans hv.job
    · have e := congrArg State.cores hkept; exact e.trans hv.cores
    · have e := congrArg State.straits hkept; exact e.trans hv.straits

theorem jobLoad_misplaced (hn : s.power.notices.length < 256) (h : Accepts s mb 0x30 seq) (ha : parameter s mb 0 8 % 4096 ≠ 0) :
    Runs (.jobLoad mb seq irq now) s fun t => BoxOnly s now t mb ∧ ∃ d, Ended t mb 0x30 irq 3 d [] :=
  runs_busy h rfl rfl (fun _ hv => queueFull_none hn hv) fun v _ hv => by
    have hset : jobLoad v mb false = badParam 0 := by
      unfold jobLoad
      rw [hv.param, hv.param]
      exact if_pos (by rw [bne_iff_ne.mpr ha, Bool.true_or])
    rw [hset]
    exact hv.refuses (by decide) _

theorem jobReload_reloads (hn : s.power.notices.length < 256) (hclean : CleanMemory s) (h : Accepts s mb 0x31 seq) (ha : parameter s mb 0 8 % 4096 = 0)
    (hin : inMem (parameter s mb 0 8) (parameter s mb 8 8) = true) (hlen : parameter s mb 8 8 = peekNat s (parameter s mb 0 8 + 16) 8)
    (hf : imageDetail s.boot.features (commandImage s mb seq irq now 0x31) (parameter s mb 0 8) = none)
    (hr : reloadDetail (loadedImage s) (commandImage s mb seq irq now 0x31) s.job.variant = none) :
    Runs (.jobReload mb seq irq now) s fun t =>
      LoadedAs s t (parameter s mb 0 8) (parameter s mb 8 8) (commandImage s mb seq irq now 0x31) ∧ t.job.variant = s.job.variant ∧
      t.commit.ledStep = s.commit.ledStep :=
  runs_busy h rfl rfl (fun _ hv => queueFull_none hn hv) fun v hstart hv => by
    have hb : (readRange v (parameter s mb 0 8) (parameter s mb 8 8) (supReader s)).2 = commandImage s mb seq irq now 0x31 := by rw [hstart]; rfl
    generalize commandImage s mb seq irq now 0x31 = b at hb hf hr
    rw [jobLoad_accepts hv hclean true ha hin hlen hb hf fun _ => hr]
    obtain ⟨hload, hvariant, hcommit, -⟩ := jobLoad_takes hv rfl (parameter s mb 0 8) (parameter s mb 8 8) b true
      ((b.drop 32).take 32 ++ leBytes 2 (bNat b 8 2)) (bNat b 32 8)
    generalize finishAs (acceptImage v (parameter s mb 0 8) (parameter s mb 8 8) b true) mb stOk 0
      ((b.drop 32).take 32 ++ leBytes 2 (bNat b 8 2)) (bNat b 32 8) = t at hload hvariant hcommit
    exact ⟨hload, hvariant, congrArg Commit.ledStep hcommit⟩

/-! JOB_ARM and SPARE_ADOPT. -/

/-- What an arming of the command names. -/
def armingOf (s : State) (mb : Fin 16) (now : Nat) (spare : Bool) : Arming :=
  ⟨mb, spare, max s.tide.now now, if spare then BitVec.ofNat 64 (parameter s mb 8 8) else 0⟩

theorem goodOutPorts {v : State} {op : Nat} (hv : Taken s now v mb op irq) (hout : ∀ f ∈ s.straits.flows, badOutPort s f.2 = false) :
    v.straits.flows.find? (fun f => badOutPort v f.2) = none := by
  rw [hv.straits, List.find?_eq_none]
  intro f hf
  have e : badOutPort v f.2 = badOutPort s f.2 := hv.read (fun x => badOutPort x f.2) fun _ _ => rfl
  rw [e, hout f hf]
  exact Bool.false_ne_true

theorem armCmd_arms {v : State} {op : Nat} (hv : Taken s now v mb op irq) (hout : ∀ f ∈ s.straits.flows, badOutPort s f.2 = false)
    (ht : s.tide.state = 3 ∨ s.tide.state = 5) (spare : Bool)
    (hplace : spare = true → parameter s mb 0 4 = s.straits.pos ∧ parameter s mb 4 2 = s.straits.jobTag) :
    armCmd v mb spare = .go (beginArm v (armingOf s mb now spare)) := by
  have hpos : (spare && parameter s mb 0 4 != s.straits.pos) = false := by
    cases spare with
    | false => rfl
    | true => rw [(hplace rfl).1, bne_self_eq_false]; rfl
  have htag : (spare && parameter s mb 4 2 != s.straits.jobTag) = false := by
    cases spare with
    | false => rfl
    | true => rw [(hplace rfl).2, bne_self_eq_false]; rfl
  have hstate : (v.tide.state != tideLocked && v.tide.state != tideSource) = false := by
    have e : v.tide.state = s.tide.state := (congrArg Tide.state hv.tide).trans rfl
    rw [e]
    rcases ht with e | e
    · rw [e]; rfl
    · rw [e]; rfl
  have hnow : v.tide.now = max s.tide.now now := congrArg Tide.now hv.tide
  unfold armCmd
  rw [goodOutPorts irq hv hout, hv.param, hv.param, hv.param, hstate, hnow, hv.straits, hpos, htag, if_neg Bool.false_ne_true, if_neg Bool.false_ne_true]
  rfl

theorem armCmd_unlocked {v : State} {op : Nat} (hv : Taken s now v mb op irq) (hout : ∀ f ∈ s.straits.flows, badOutPort s f.2 = false)
    (h3 : s.tide.state ≠ 3) (h5 : s.tide.state ≠ 5) : armCmd v mb false = .refuse stUnlocked 0 := by
  have hstate : (v.tide.state != tideLocked && v.tide.state != tideSource) = true := by
    have e : v.tide.state = s.tide.state := (congrArg Tide.state hv.tide).trans rfl
    rw [e, Bool.and_eq_true]
    exact ⟨bne_iff_ne.mpr h3, bne_iff_ne.mpr h5⟩
  unfold armCmd
  rw [goodOutPorts irq hv hout, hstate]
  rfl

theorem Taken.linkedPorts {v : State} {op : Nat} (hv : Taken s now v mb op irq) : linkedPorts v = linkedPorts s :=
  hv.read Machine.linkedPorts fun _ _ => rfl

theorem jobArm_ends (h : Accepts s mb 0x32 seq) (hs : stateSession s = none) (hout : ∀ f ∈ s.straits.flows, badOutPort s f.2 = false)
    (ht : s.tide.state = 3 ∨ s.tide.state = 5) (hl : linkedPorts s = []) : Runs (.jobArm mb seq irq now) s fun t =>
      t.job.state = 2 ∧ t.job.adopted = false ∧ t.job.arming = none ∧ Ended t mb 0x32 irq 0 0 [0] ∧
      ∀ i, cState (flowOf t i) = 0 ∨ cState (flowOf t i) = 2 :=
  runs_busy h rfl rfl (fun _ hv => sessionBusy_none irq hs hv) fun v _ hv => by
    rw [armCmd_arms irq hv hout ht false fun e => absurd e Bool.false_ne_true]
    have hbegun : Begun s v (armingOf s mb now false).mb 0x32 irq := hv.begun
    obtain ⟨h1, h2, h3, -, h5, h6⟩ := (beginArm_spec hbegun).1 ((hv.linkedPorts irq).trans hl)
    exact ⟨h1, h2, h3, h5, h6⟩

theorem jobArm_waits (h : Accepts s mb 0x32 seq) (hs : stateSession s = none) (hout : ∀ f ∈ s.straits.flows, badOutPort s f.2 = false)
    (ht : s.tide.state = 3 ∨ s.tide.state = 5) (hl : linkedPorts s ≠ []) : Runs (.jobArm mb seq irq now) s fun t =>
      t.job = { s.job with arming := some ⟨mb, false, max s.tide.now now, 0⟩ } ∧ (boxOf t mb).run = some ⟨0x32, irq, none, []⟩ :=
  runs_busy h rfl rfl (fun _ hv => sessionBusy_none irq hs hv) fun v _ hv => by
    rw [armCmd_arms irq hv hout ht false fun e => absurd e Bool.false_ne_true]
    have hbegun : Begun s v (armingOf s mb now false).mb 0x32 irq := hv.begun
    obtain ⟨hjob, hrun⟩ := (beginArm_spec hbegun).2 (by rw [hv.linkedPorts irq]; exact hl)
    rw [hv.job] at hjob
    exact ⟨hjob, hrun⟩

theorem jobArm_unlocked (h : Accepts s mb 0x32 seq) (hs : stateSession s = none) (hout : ∀ f ∈ s.straits.flows, badOutPort s f.2 = false)
    (h3 : s.tide.state ≠ 3) (h5 : s.tide.state ≠ 5) : Runs (.jobArm mb seq irq now) s fun t =>
      BoxOnly s now t mb ∧ Ended t mb 0x32 irq 0xA 0 [] :=
  runs_busy h rfl rfl (fun _ hv => sessionBusy_none irq hs hv) fun v _ hv => by
    rw [armCmd_unlocked irq hv hout h3 h5]
    exact hv.ends (.inl (by decide)) 0 []

theorem leNat_lt : ∀ l : List Byte, leNat l < 256 ^ l.length
  | [] => Nat.one_pos
  | b :: l => by
    have h := leNat_lt l
    have hb := b.isLt
    unfold leNat
    rw [List.length_cons, Nat.pow_succ]
    omega

theorem memNat_eight_lt (m : Mem) (a : Nat) : memNat m a 8 < 2 ^ 64 := by
  have e := leNat_lt (memRead m a 8)
  rw [memRead_length] at e
  exact Nat.lt_of_lt_of_eq e (by norm_num)

theorem serial_toNat (s : State) (mb : Fin 16) (now : Nat) : (armingOf s mb now true).serial.toNat = parameter s mb 8 8 := by
  have e : (armingOf s mb now true).serial = BitVec.ofNat 64 (parameter s mb 8 8) := rfl
  rw [e, BitVec.toNat_ofNat]
  exact Nat.mod_eq_of_lt (memNat_eight_lt _ _)

theorem spareAdopt_adopts (h : Accepts s mb 0x36 seq) (hs : stateSession s = none) (hout : ∀ f ∈ s.straits.flows, badOutPort s f.2 = false)
    (ht : s.tide.state = 3 ∨ s.tide.state = 5) (hpos : parameter s mb 0 4 = s.straits.pos) (htag : parameter s mb 4 2 = s.straits.jobTag)
    (hl : linkedPorts s = []) : Runs (.spareAdopt mb seq irq now) s fun t =>
      t.job.state = 2 ∧ t.job.adopted = true ∧ t.commit.replaced.toNat = parameter s mb 8 8 ∧ Ended t mb 0x36 irq 0 0 [0] :=
  runs_busy h rfl rfl (fun _ hv => sessionBusy_none irq hs hv) fun v _ hv => by
    rw [armCmd_arms irq hv hout ht true fun _ => ⟨hpos, htag⟩]
    have hbegun : Begun s v (armingOf s mb now true).mb 0x36 irq := hv.begun
    obtain ⟨h1, h2, -, h4, h5, -⟩ := (beginArm_spec hbegun).1 ((hv.linkedPorts irq).trans hl)
    refine ⟨h1, h2, ?_, h5⟩
    have e : (applyAnswer v mb (.go (beginArm v (armingOf s mb now true)))).commit.replaced = (armingOf s mb now true).serial := h4 rfl
    rw [e]
    exact serial_toNat _ _ _

/-! JOB_RELEASE. -/

/-- What a release of the job leaves. -/
def Released (t : State) : Prop :=
  t.job.state = 0 ∧ t.job.img = none ∧ t.straits.jobTag = 0 ∧ t.straits.flows = [] ∧
    ∀ x < 576, (coreOf t x).mode = .wiping ∧ (coreOf t x).program = false

theorem finish_released {u : State} (h : Released u) (m code detail : Nat) (resp : List Byte) : Released (finish u m code detail resp) := by
  obtain ⟨h1, h2, h3, h4, h5⟩ := h
  have hkept := finish_control u m code detail resp
  generalize finish u m code detail resp = t at hkept ⊢
  refine ⟨?_, ?_, ?_, ?_, fun x hx => ?_⟩
  · have e := congrArg (fun x : State => x.job.state) hkept; exact e.trans h1
  · have e := congrArg (fun x : State => x.job.img) hkept; exact e.trans h2
  · have e := congrArg (fun x : State => x.straits.jobTag) hkept; exact e.trans h3
  · have e := congrArg (fun x : State => x.straits.flows) hkept; exact e.trans h4
  · have e := congrArg (fun y : State => coreOf y x) hkept
    rw [show coreOf t x = coreOf u x from e]
    exact h5 x hx

theorem jobRelease_releases (hn : s.power.notices.length < 256) (h : Accepts s mb 0x35 seq) : Runs (.jobRelease mb seq irq now) s fun t =>
    Released t ∧ GenRose s t ∧ Ended t mb 0x35 irq 0 0 [] :=
  runs_busy h rfl rfl (fun v hv => by
    unfold releaseBusy
    split
    · rfl
    · exact queueFull_none hn hv) fun v _ hv => by
    obtain ⟨h1, h2, h3, h4, h5, hcontrol⟩ := releaseJob_spec v
    exact ⟨finish_released ⟨h1, h2, h3, h4, h5⟩ _ _ _ _, hv.okRises_of rfl (ControlSame.of_eq hcontrol) []⟩

end

/-- Settles O46: images that are taken or refused, armings that end or wait, and the release. -/
theorem jobLoadingCommands : Obligations.JobLoadingCommands := by
  unfold Obligations.JobLoadingCommands
  intro mb seq irq now s hn hclean par a n at0 img taken
  refine ⟨fun h ha hin hlen => ⟨jobLoad_loads irq hn hclean h ha hin hlen, jobLoad_refuses irq hn hclean h ha hin hlen⟩, jobLoad_misplaced irq hn,
    jobReload_reloads irq hn hclean, fun h hs hout ht => ⟨jobArm_ends irq h hs hout ht, jobArm_waits irq h hs hout ht⟩, jobArm_unlocked irq,
    spareAdopt_adopts irq, fun h => ?_⟩
  obtain ⟨t, hrun, ⟨h1, h2, h3, h4, h5⟩, hgen, hend⟩ := jobRelease_releases irq hn h
  exact ⟨t, hrun, h1, h2, h3, h4, h5, hgen, hend⟩

end Sys2Proof.Machine
end

section
/-! SUPPORT. Boot (15, R454, R456–R462, R474, R485) and the debug logic (R482). -/

namespace Sys2Proof.Machine

open Sys2Proof

/-! The release of a reset. -/

section
variable {s : State} (src clk : BitVec 2)

/-- The boot state with the reset released and, at a power-on reset, the straps sampled. -/
def releasedBoot (b : Boot) : Boot :=
  let b := if b.held = 2 then { b with bootSrc := src.toNat, clkMode := clk.toNat } else b
  { b with held := 0, sigNext := b.sigRes }

theorem execResetRelease_eq (ok : Bool) : execResetRelease ok src clk s =
    let t := { s with boot := releasedBoot src clk s.boot }
    when (s.boot.held != 0) s
      (if !ok || s.power.vinFault then setPower (notice t 3 5 t.power.state 3 0) fun p => { p with vinFault := true, state := 3 }
       else if t.boot.dbgCp then t else obtainImage t) := rfl

theorem obtainImage_spec (s : State) : { obtainImage s with boot := s.boot } = s ∧
    (obtainImage s).boot = { s.boot with
      dieRead := true
      stat := (obtainImage s).boot.stat
      fail := if s.boot.bootSrc = 3 then 5 else s.boot.fail } ∧
    (s.boot.bootSrc = 0 → (obtainImage s).boot.stat = 2) ∧ (s.boot.bootSrc = 3 → (obtainImage s).boot.stat = 8) ∧
    (s.boot.bootSrc = 1 ∨ s.boot.bootSrc = 2 → (obtainImage s).boot.stat = if s.boot.clkMode = 3 then 2 else 3) := by
  unfold obtainImage
  refine ⟨rfl, ?_, fun h => by simp [h], fun h => by simp [h], ?_⟩
  · by_cases hc : s.boot.clkMode = 3 && (s.boot.bootSrc = 1 || s.boot.bootSrc = 2)
    · have hne : s.boot.bootSrc ≠ 3 := fun e => by simp [e] at hc
      simp [hc, hne]
    · simp [hc]
  · rintro (h | h) <;> by_cases hc : s.boot.clkMode = 3 <;> simp [h, hc]

theorem resetRelease_powerOn (hheld : s.boot.held = 2) (hvin : s.power.vinFault = false) (hcp : s.boot.dbgCp = false) :
    Runs (.resetRelease true src clk) s fun t =>
      t.boot.held = 0 ∧ t.boot.bootSrc = src.toNat ∧ t.boot.clkMode = clk.toNat ∧ t.boot.sigNext = s.boot.sigRes ∧ t.boot.dieRead = true ∧
      (src = 0 → t.boot.stat = 2) ∧ (src = 3 → t.boot.stat = 8 ∧ t.boot.fail = 5) ∧ (src = 1 ∨ src = 2 → t.boot.stat = if clk = 3 then 2 else 3) ∧
      { t with boot := s.boot } = s := by
  have hboot : releasedBoot src clk s.boot = { s.boot with bootSrc := src.toNat, clkMode := clk.toNat, held := 0, sigNext := s.boot.sigRes } := by
    unfold releasedBoot
    rw [if_pos hheld]
  obtain ⟨frame, fields, hflash, hrecovery, hhost⟩ := obtainImage_spec { s with boot := releasedBoot src clk s.boot }
  have hclk : clk.toNat = 3 ↔ clk = 3 := BitVec.toNat_inj (y := 3#2)
  rw [hboot] at frame fields hflash hrecovery hhost
  refine runs_when (show exec _ s = _ from execResetRelease_eq src clk true) (by simp [hheld]) ?_
  rw [hvin, hboot, if_neg (by decide), if_neg (ne_true_of_eq_false hcp)]
  generalize obtainImage { s with boot := { s.boot with bootSrc := src.toNat, clkMode := clk.toNat, held := 0, sigNext := s.boot.sigRes } } = t at *
  refine ⟨by rw [fields], by rw [fields], by rw [fields], by rw [fields], by rw [fields], fun h => hflash (by simp [h]),
    fun h => ⟨hrecovery (by simp [h]), by rw [fields]; simp [h]⟩, fun h => ?_, ?_⟩
  · rw [hhost (h.imp (by rintro rfl; rfl) (by rintro rfl; rfl))]
    by_cases hc : clk = 3
    · rw [if_pos hc, if_pos (hclk.2 hc)]
    · rw [if_neg hc, if_neg fun e => hc (hclk.1 e)]
  · exact congrArg (fun x : State => { x with boot := s.boot }) frame

theorem resetRelease_noVin (hheld : s.boot.held ≠ 0) : Runs (.resetRelease false src clk) s fun t => t.boot.held = 0 ∧ t.power.vinFault = true ∧
      t.power.state = 3 ∧ t.boot.stat = s.boot.stat := by
  refine runs_when (show exec _ s = _ from execResetRelease_eq src clk false) (by simp [hheld]) ?_
  simp only [Bool.not_false, Bool.true_or, if_true, setPower]
  rw [notice_boot]
  refine ⟨rfl, trivial, trivial, ?_⟩
  unfold releasedBoot
  by_cases h : s.boot.held = 2
  · simp [h]
  · simp [h]

end

/-! The image. -/

section
variable {s : State}

theorem awaitHostTimeout_reads (ha : alive s = true) (hstat : s.boot.stat = 3) (hsrc : s.boot.bootSrc = 2) (hup : s.boot.pcieUp = true)
    (hcp : s.boot.dbgCp = false) : Runs .awaitHostTimeout s fun t => t = { s with boot := { s.boot with stat := 2 } } :=
  runs_when (show execAwaitHostTimeout s = when _ s _ from rfl) (by simp [ha, hstat, hsrc, hup, hcp]) rfl

theorem tryImage_fails {img : List Byte} (h : imageFault img ≠ 0) (fromHost recovered : Bool) :
    tryImage s img fromHost recovered = { s with boot := { s.boot with stat := 8, fail := imageFault img } } := by
  unfold tryImage
  split
  next h0 => exact absurd h0 h
  next => rfl

theorem tryImage_runs {img : List Byte} (h : imageFault img = 0) (fromHost recovered : Bool) :
    tryImage s img fromHost recovered = runImage s img fromHost recovered := by
  unfold tryImage
  split
  next => rfl
  next hne => exact absurd h hne

/-- What an accepted image is run with: its code, and the result and the features of the qualification check. -/
def ranBoot (b : Boot) (fw : List Byte) (q : Reg × W64) (fromHost recovered : Bool) : Boot :=
  let ok := bitsOf q.1.toNat 30 2 = 1
  { b with
      stat := if ok then 6 else 7
      fail := 0
      fromHost := fromHost
      recovered := recovered
      fw := fw
      qual := q.1
      features := q.2
      isles := ok
      serving := true }

theorem runImage_eq (s : State) (img : List Byte) (fromHost recovered : Bool) : runImage s img fromHost recovered = { s with
    boot := ranBoot s.boot (imageCode img) (qualify (if recovered then [] else imageExt (imageCode img))) fromHost recovered } := rfl

/-- An accepted image runs with its dies checked: the isles leave reset exactly if they qualify (R39, R460). -/
theorem runImage_spec (s : State) (img : List Byte) (fromHost recovered : Bool) :
    let t := runImage s img fromHost recovered
    t.boot.serving = true ∧ t.boot.fail = 0 ∧ t.boot.fromHost = fromHost ∧ t.boot.fw = imageCode img ∧
      (t.boot.qual, t.boot.features) = qualify (if recovered then [] else imageExt (imageCode img)) ∧
      (t.boot.isles = true ↔ t.boot.qual.toNat / 2 ^ 30 % 4 = 1) ∧ t.boot.stat = (if t.boot.isles = true then 6 else 7) ∧
      { t with boot := s.boot } = s := by
  rw [runImage_eq]
  generalize qualify (if recovered = true then [] else imageExt (imageCode img)) = q
  exact ⟨rfl, rfl, rfl, rfl, rfl, decide_eq_true_iff, (if_congr (decide_eq_true_iff (p := bitsOf q.1.toNat 30 2 = 1)) rfl rfl).symm, rfl⟩

theorem execFlashReadDone_guarded (ha : alive s = true) (hstat : s.boot.stat = 2) (hcp : s.boot.dbgCp = false) (readOk : Bool) :
    execFlashReadDone readOk s =
      .next (if readOk then tryImage s (flashImage s) false false else { s with boot := { s.boot with stat := 8, fail := 1 } }) := by
  unfold execFlashReadDone
  exact when_holds (by simp [ha, hstat, hcp]) _ _

theorem execFlashReadDone_tries (ha : alive s = true) (hstat : s.boot.stat = 2) (hcp : s.boot.dbgCp = false) :
    exec (.flashReadDone true) s = .next (tryImage s (flashImage s) false false) := by
  refine (execFlashReadDone_guarded ha hstat hcp true).trans ?_
  rw [if_pos rfl]

theorem flashReadDone_fails (ha : alive s = true) (hstat : s.boot.stat = 2) (hcp : s.boot.dbgCp = false) :
    Runs (.flashReadDone false) s fun t => t = { s with boot := { s.boot with stat := 8, fail := 1 } } :=
  runs_of (execFlashReadDone_guarded ha hstat hcp false) rfl

theorem flashReadDone_refuses (ha : alive s = true) (hstat : s.boot.stat = 2) (hcp : s.boot.dbgCp = false) (hf : imageFault (flashImage s) ≠ 0) :
    Runs (.flashReadDone true) s fun t => t = { s with boot := { s.boot with stat := 8, fail := imageFault (flashImage s) } } :=
  runs_of (execFlashReadDone_tries ha hstat hcp) (tryImage_fails hf false false)

theorem flashReadDone_runs (ha : alive s = true) (hstat : s.boot.stat = 2) (hcp : s.boot.dbgCp = false) (hf : imageFault (flashImage s) = 0) :
    Runs (.flashReadDone true) s fun t => t.boot.serving = true ∧ t.boot.fail = 0 ∧
        t.boot.fw = imageCode (flashImage s) ∧ (t.boot.qual, t.boot.features) = qualify (imageExt (imageCode (flashImage s))) ∧
        (t.boot.isles = true ↔ t.boot.qual.toNat / 2 ^ 30 % 4 = 1) ∧ t.boot.stat = (if t.boot.isles = true then 6 else 7) ∧
        { t with boot := s.boot } = s := by
  refine runs_of (execFlashReadDone_tries ha hstat hcp) ?_
  generalize flashImage s = img at hf
  rw [tryImage_runs hf]
  obtain ⟨hserving, hfail, -, hfw, hqual, hisles, hstat', frame⟩ := runImage_spec s img false false
  exact ⟨hserving, hfail, hfw, hqual, hisles, hstat', frame⟩

end

/-! The debug logic. -/

section
variable {s : State}

theorem modCore_onlyCore (s : State) (c : Nat) (f : Core → Core) : OnlyCore s (modCore s c f) c :=
  ⟨rfl, fun _ h => coreOf_modCore_ne s f h⟩

theorem debugHalt_holds (c : Fin 576) : Runs (.debugHalt .halt (some c)) s fun t => OnlyCore s t c ∧
    coreOf t c = { coreOf s c with dbgHalt := true, dbgStep := false } :=
  runs_of rfl ⟨modCore_onlyCore s c _, coreOf_modCore_self s c _⟩

theorem debugHalt_steps (c : Fin 576) : Runs (.debugHalt .step (some c)) s fun t => OnlyCore s t c ∧
    coreOf t c = { coreOf s c with dbgStep := (coreOf s c).dbgHalt } :=
  runs_of rfl ⟨modCore_onlyCore s c _, coreOf_modCore_self s c _⟩

theorem debugHalt_resumes (c : Fin 576) : Runs (.debugHalt .resume (some c)) s fun t => OnlyCore s t c ∧
    coreOf t c = { coreOf s c with dbgHalt := false, dbgStep := false } :=
  runs_of rfl ⟨modCore_onlyCore s c _, coreOf_modCore_self s c _⟩

theorem inspectCore_take_pc (k : Core) : (inspectCore k).take 2 = leBytes 2 k.pc := by
  unfold inspectCore
  rw [List.append_assoc, List.append_assoc, List.append_assoc]
  exact List.take_left' (leBytes_length 2 k.pc)

theorem debugHalt_inspects (c : Fin 576) : Runs (.debugHalt .inspect (some c)) s fun t => { t with rdata := s.rdata } = s ∧
    t.rdata.take 2 = leBytes 2 (coreOf s c).pc :=
  runs_of rfl ⟨rfl, inspectCore_take_pc _⟩

theorem goOn_flash (ha : alive s = true) (hstat : s.boot.stat = 1) (hsrc : s.boot.bootSrc = 0) :
    goOn s = { s with boot := { s.boot with dieRead := true, stat := 2 } } := by
  have hboot : (obtainImage s).boot = { s.boot with dieRead := true, stat := 2 } := by
    obtain ⟨-, fields, hflash, -, -⟩ := obtainImage_spec s
    rw [hflash hsrc, if_neg (by omega)] at fields
    exact fields
  have hgo : goOn s = obtainImage s := if_pos (by simp [ha, hstat])
  exact hgo.trans (congrArg (fun b : Boot => { s with boot := b }) hboot)

theorem debugHalt_stepsBoot (hcp : s.boot.dbgCp = true) (ha : alive s = true) (hstat : s.boot.stat = 1) (hsrc : s.boot.bootSrc = 0) :
    Runs (.debugHalt .step none) s fun t => t = { s with boot := { s.boot with dieRead := true, stat := 2 } } := by
  refine runs_of (t := goOn s) ?_ (goOn_flash ha hstat hsrc)
  exact congrArg Host.Outcome.next (if_pos hcp)

theorem debugHalt_resumesBoot (hcp : s.boot.dbgCp = true) (ha : alive s = true) (hstat : s.boot.stat = 1) (hsrc : s.boot.bootSrc = 0) :
    Runs (.debugHalt .resume none) s fun t => t = { s with boot := { s.boot with dbgCp := false, dieRead := true, stat := 2 } } := by
  refine runs_of (t := goOn { s with boot := { s.boot with dbgCp := false } }) ?_ (goOn_flash ha hstat hsrc)
  exact congrArg Host.Outcome.next (if_pos hcp)

end

/-- Settles O54: each row of boot and of the debug logic by its own lemma. -/
theorem bootProceeds : Obligations.BootProceeds := by
  intro s
  refine ⟨fun src clk hheld hvin hcp => resetRelease_powerOn src clk hheld hvin hcp, fun src clk hheld => resetRelease_noVin src clk hheld,
    awaitHostTimeout_reads, fun ha hstat hcp => ⟨flashReadDone_fails ha hstat hcp, flashReadDone_refuses ha hstat hcp,
      flashReadDone_runs ha hstat hcp⟩, fun hp => ?_, fun c => ⟨debugHalt_holds c, debugHalt_steps c, debugHalt_resumes c⟩, debugHalt_inspects,
    runs_of rfl rfl, runs_of rfl rfl, fun hcp ha hstat hsrc => ⟨debugHalt_stepsBoot hcp ha hstat hsrc, debugHalt_resumesBoot hcp ha hstat hsrc⟩⟩
  exact runs_when (show execPcieLinkUp s = when _ s _ from rfl) hp rfl

end Sys2Proof.Machine
end

section
/-! SUPPORT. Power-on and system resets (15, R451–R456, Table 15-2): what they keep, what they clear, what they record. -/

namespace Sys2Proof.Machine

open Sys2Proof

/-! What a reset keeps. -/

/-- What every reset keeps (Table 15-2). -/
def ResetKeeps (s t : State) : Prop :=
  t.meter = s.meter ∧ t.control.cfgGen = s.control.cfgGen ∧ t.isth.laneMap = s.isth.laneMap ∧
    t.power.temps = s.power.temps ∧ t.boot.flash = s.boot.flash ∧ t.boot.lcState = s.boot.lcState ∧ t.boot.owners = s.boot.owners ∧
    t.boot.owned = s.boot.owned ∧ t.boot.sigNext = s.boot.sigNext ∧ t.boot.sigRes = s.boot.sigRes ∧ t.pending = s.pending ∧
    s.power.notices <+: t.power.notices

/-- The ledger after a reset (R369, R471). -/
def ResetLedger (s t : State) : Prop :=
  if lifecycleWritten s = true then t.commit = commitReset
  else (t.commit.ledStep, t.commit.ledState, t.commit.own, t.commit.mirror) =
    (s.commit.ledStep, s.commit.ledState, s.commit.own, s.commit.mirror)

/-- What every reset clears. -/
def ResetFresh (t : State) : Prop :=
  (∀ c, (coreOf t c).mode = .reset ∧ (coreOf t c).sram = [] ∧ (coreOf t c).sems = []) ∧ t.adds = [] ∧
    t.memory = memoryReset ∧ t.straits = straitsReset ∧ t.job.state = 0 ∧ t.tide = tideReset ∧ t.reduction = reductionReset ∧
    t.power.cap = 1500 ∧ t.power.slewUp = 500 ∧ t.power.slewDn = 500 ∧ t.power.floor = 0 ∧ t.boot.isles = false ∧ t.boot.serving = false

theorem notice_notices_prefix (s : State) (typ setting old new ahead : Nat) :
    s.power.notices <+: (notice s typ setting old new ahead).power.notices := by
  unfold notice
  split
  · exact List.prefix_rfl
  · exact List.prefix_append _ _

theorem govSetting_notices_prefix (s : State) (setting v ahead : Nat) :
    s.power.notices <+: (govSetting s setting v ahead).power.notices := by
  unfold govSetting
  dsimp only
  split
  · exact notice_notices_prefix _ _ _ _ _ _
  · exact notice_notices_prefix _ _ _ _ _ _
  · exact notice_notices_prefix _ _ _ _ _ _
  · exact notice_notices_prefix _ _ _ _ _ _

theorem setTag_notices_prefix (s : State) (tag ahead : Nat) : s.power.notices <+: (setTag s tag ahead).power.notices := by
  have h := notice_notices_prefix s 2 0 s.straits.jobTag tag ahead
  unfold setTag
  generalize notice s 2 0 s.straits.jobTag tag ahead = t at h
  exact h

/-- The notices that wait go on waiting (R410, log 63). -/
theorem settingsReset_notices_prefix (s : State) (state : Nat) : s.power.notices <+: (settingsReset s state).power.notices := by
  unfold settingsReset
  dsimp only
  have h1 := govSetting_notices_prefix s 1 1500 0
  generalize govSetting s 1 1500 0 = a at h1 ⊢
  have h2 := govSetting_notices_prefix a 2 500 0
  generalize govSetting a 2 500 0 = b at h2 ⊢
  have h3 := govSetting_notices_prefix b 3 500 0
  generalize govSetting b 3 500 0 = c at h3 ⊢
  have h4 := govSetting_notices_prefix c 4 0 0
  generalize govSetting c 4 0 0 = d at h4 ⊢
  exact h1.trans <| h2.trans <| h3.trans <| h4.trans <| (setTag_notices_prefix d 0 0).trans (notice_notices_prefix _ _ _ _ _ _)

theorem keptLedger_spec (s : State) : if lifecycleWritten s = true then keptLedger s = commitReset
    else ((keptLedger s).ledStep, (keptLedger s).ledState, (keptLedger s).own, (keptLedger s).mirror) =
      (s.commit.ledStep, s.commit.ledState, s.commit.own, s.commit.mirror) := by
  unfold keptLedger
  by_cases h : lifecycleWritten s = true
  · rw [if_pos h]
    exact if_pos h
  · rw [if_neg h]
    simp [h]

/-- What every listed value and the unlisted one share holds of every value read. -/
theorem tblGet_induct {α : Type} {p : α → Prop} {d : α} (hd : p d) : ∀ (t : Tbl α), (∀ x ∈ t, p x.2) → ∀ i, p (tblGet d t i)
  | [], _, _ => hd
  | x :: t, h, i => by
    rw [tblGet_cons]
    split
    · exact h x List.mem_cons_self
    · exact tblGet_induct hd t (fun y hy => h y (List.mem_cons_of_mem x hy)) i

theorem heldCores_fresh (s : State) (c : Nat) :
    (tblGet coreReset (heldCores s) c).mode = .reset ∧ (tblGet coreReset (heldCores s) c).sram = [] ∧
      (tblGet coreReset (heldCores s) c).sems = [] := by
  refine tblGet_induct (p := fun k : Core => k.mode = .reset ∧ k.sram = [] ∧ k.sems = []) ⟨rfl, rfl, rfl⟩ _ (fun x hx => ?_) c
  obtain ⟨y, -, rfl⟩ := List.mem_map.1 (List.mem_of_mem_filter hx)
  exact ⟨rfl, rfl, rfl⟩

/-! The two levels. -/

/-- What a power-on reset of a source leaves. -/
def PowerOnLeaves (s : State) (source : Nat) (t : State) : Prop :=
  ResetKeeps s t ∧ ResetFresh t ∧ t.boot.held = 2 ∧ t.boot.level = 1 ∧ t.boot.source = source ∧
    t.boot.powerOns = min 0xFFFFFFFF (s.boot.powerOns + 1) ∧ t.boot.sysCount = 0 ∧ t.tap = State.reset.tap ∧ ResetLedger s t

/-- What a system reset of a source leaves, with the tide at a time. -/
def SystemLeaves (s : State) (now source : Nat) (t : State) : Prop :=
  ResetKeeps s t ∧ ResetFresh t ∧ t.boot.held = 1 ∧ t.boot.level = 2 ∧ t.boot.source = source ∧
    t.boot.tideAt = max s.tide.now now ∧ t.boot.sysCount = min 0xFFFFFFFF (s.boot.sysCount + 1) ∧ t.boot.powerOns = s.boot.powerOns ∧
    t.control.journal = s.control.journal ∧ t.power.en = s.power.en ∧ t.power.pol = s.power.pol ∧ t.tap = s.tap ∧
    (source ≠ 7 → ResetLedger s t) ∧ (source = 7 → t.commit = commitReset)

theorem powerOnReset_notices (s : State) (source : Nat) : s.power.notices <+: (powerOnReset s source).power.notices := by
  have h := settingsReset_notices_prefix s 0
  delta powerOnReset
  generalize (settingsReset s 0).power.notices = ns at h
  exact h

theorem powerOnReset_leaves (s : State) (source : Nat) : PowerOnLeaves s source (powerOnReset s source) := by
  have hnotices := powerOnReset_notices s source
  have hledger : ResetLedger s (powerOnReset s source) := keptLedger_spec s
  exact ⟨⟨rfl, rfl, rfl, rfl, rfl, rfl, rfl, rfl, rfl, rfl, rfl, hnotices⟩, ⟨fun c => ⟨rfl, rfl, rfl⟩, rfl, rfl, rfl, rfl,
    rfl, rfl, rfl, rfl, rfl, rfl, rfl, rfl⟩, rfl, rfl, rfl, rfl, rfl, rfl, hledger⟩

/-- The power state after a system reset, with the notices that then wait. -/
def afterSystem (p : Power) (notices : List Notice) : Power :=
  { powerReset with
      pol := p.pol, en := p.en, isleKeep := p.isleKeep, stat := p.stat &&& 4, notices := notices, temps := p.temps
      vinFault := p.vinFault, refLost := p.refLost, state := if p.vinFault then 3 else 0 }

theorem afterSystem_kept (p : Power) (notices : List Notice) : let q := afterSystem p notices
    q.temps = p.temps ∧ q.en = p.en ∧ q.pol = p.pol ∧ q.cap = 1500 ∧ q.slewUp = 500 ∧ q.slewDn = 500 ∧ q.floor = 0 :=
  ⟨rfl, rfl, rfl, rfl, rfl, rfl, rfl⟩

theorem resetPower_power (s : State) : (resetPower s).power =
    afterSystem s.power (settingsReset s (if s.power.vinFault then 3 else 0)).power.notices := by
  delta resetPower afterSystem
  dsimp only

theorem systemReset_power (s : State) (source : Nat) : (systemReset s source).power =
    afterSystem s.power (settingsReset s (if s.power.vinFault then 3 else 0)).power.notices := by
  rw [← resetPower_power]
  delta systemReset
  generalize resetPower s = t
  rfl

theorem systemReset_notices (s : State) (source : Nat) : s.power.notices <+: (systemReset s source).power.notices := by
  have h := settingsReset_notices_prefix s (if s.power.vinFault then 3 else 0)
  rw [systemReset_power]
  generalize (settingsReset s (if s.power.vinFault then 3 else 0)).power.notices = ns at h ⊢
  exact h

theorem systemReset_settings (s : State) (source : Nat) : let q := (systemReset s source).power
    q.temps = s.power.temps ∧ q.en = s.power.en ∧ q.pol = s.power.pol ∧ q.cap = 1500 ∧ q.slewUp = 500 ∧ q.slewDn = 500 ∧ q.floor = 0 := by
  rw [systemReset_power]
  exact afterSystem_kept _ _

theorem systemReset_commit (s : State) (source : Nat) : (systemReset s source).commit =
    if source = 7 then commitReset else keptLedger s := rfl

theorem systemReset_ledger (s : State) {source : Nat} (h : source ≠ 7) : ResetLedger s (systemReset s source) := by
  unfold ResetLedger
  rw [systemReset_commit, if_neg h]
  exact keptLedger_spec s

theorem systemReset_cores (s : State) (source : Nat) : (systemReset s source).cores = heldCores s := rfl

theorem systemReset_fresh (s : State) (source : Nat) : ResetFresh (systemReset s source) := by
  obtain ⟨-, -, -, hcap, hup, hdn, hfloor⟩ := systemReset_settings s source
  refine ⟨fun c => ?_, rfl, rfl, rfl, rfl, rfl, rfl, hcap, hup, hdn, hfloor, rfl, rfl⟩
  unfold coreOf
  rw [systemReset_cores]
  exact heldCores_fresh s c

theorem systemReset_keeps (s : State) (source : Nat) : ResetKeeps s (systemReset s source) := by
  obtain ⟨htemps, -⟩ := systemReset_settings s source
  exact ⟨rfl, rfl, rfl, htemps, rfl, rfl, rfl, rfl, rfl, rfl, rfl, systemReset_notices s source⟩

theorem systemReset_leaves (s : State) (now source : Nat) : SystemLeaves s now source (systemReset (atTide s now) source) := by
  obtain ⟨-, hen, hpol, -⟩ := systemReset_settings (atTide s now) source
  have hledger : source ≠ 7 → ResetLedger s (systemReset (atTide s now) source) := fun h => systemReset_ledger (atTide s now) h
  have hcommit : source = 7 → (systemReset (atTide s now) source).commit = commitReset := fun h => if_pos h
  exact ⟨systemReset_keeps (atTide s now) source, systemReset_fresh _ source, rfl, rfl, rfl, rfl, rfl, rfl, rfl, hen, hpol, rfl, hledger,
    hcommit⟩

/-! The rows. -/

section
variable {s : State} (now : Nat) {lowNs : Nat}

theorem pulse_taken (h : 1100 ≤ lowNs) (s : State) : pulse s lowNs = true := by simp [pulse, h]

theorem pulse_ignored (h : lowNs < 1000) (s : State) : pulse s lowNs = false := by
  have h1 : ¬1100 ≤ lowNs := by omega
  have h2 : ¬1000 ≤ lowNs := by omega
  simp [pulse, h1, h2]

theorem pwrgoodLow_resets (hheld : s.boot.held ≠ 2) (hlow : 1100 ≤ lowNs) : Runs (.pwrgoodLow lowNs now) s (PowerOnLeaves s 1) :=
  runs_of (congrArg Host.Outcome.next (if_pos (by simp [hheld, pulse_taken hlow s]))) (powerOnReset_leaves (useFree (atTide s now)) 1)

theorem standbyLoss_resets (hheld : s.boot.held ≠ 2) (hlow : 1000 ≤ lowNs) : Runs (.standbyLoss lowNs) s (PowerOnLeaves s 2) :=
  runs_when (show execStandbyLoss lowNs s = when _ s _ from rfl) (by simp [hheld, hlow]) (powerOnReset_leaves s 2)

theorem sysResetNLow_resets (hheld : s.boot.held = 0) (hlow : 1100 ≤ lowNs) : Runs (.sysResetNLow lowNs now) s (SystemLeaves s now 3) :=
  runs_of (congrArg Host.Outcome.next (if_pos (by simp [hheld, pulse_taken hlow s]))) (systemReset_leaves (useFree s) now 3)

theorem perstNAssert_resets (hheld : s.boot.held = 0) : Runs (.perstNAssert now) s (SystemLeaves s now 4) :=
  runs_when (show execPerstNAssert now s = when _ s _ from rfl) (by simp [hheld]) (systemReset_leaves s now 4)

theorem supervisorWatchdog_resets (ha : alive s = true) (hserving : s.boot.serving = true) (hdry : s.power.state ≠ 3)
    (hcp : s.boot.dbgCp = false) : Runs (.supervisorWatchdog now) s (SystemLeaves s now 6) :=
  runs_when (show execSupervisorWatchdog now s = when _ s _ from rfl) (by simp [ha, hserving, hdry, hcp]) (systemReset_leaves s now 6)

theorem lifecycleChangeReset_resets {d : Nat} (hheld : s.boot.held = 0) (hdue : s.boot.lifecycleDue = some d) (hd : d ≤ max s.tide.now now) :
    Runs (.lifecycleChangeReset now) s (SystemLeaves s now 7) := by
  refine runs_of (t := systemReset (atTide s now) 7) ?_ (systemReset_leaves s now 7)
  change execLifecycleChangeReset now s = _
  unfold execLifecycleChangeReset
  rw [hdue]
  exact when_holds (by simp [hheld, hd]) _ _

theorem pwrgoodLow_ignored (h : lowNs < 1000 ∨ s.boot.held = 2) :
    Runs (.pwrgoodLow lowNs now) s fun t => t = { s with freeCtr := s.freeCtr + 1 } := by
  refine runs_of (congrArg Host.Outcome.next (if_neg ?_)) rfl
  rcases h with h | h
  · simp [pulse_ignored h s]
  · simp [h]

theorem sysResetNLow_ignored (h : lowNs < 1000 ∨ s.boot.held ≠ 0) :
    Runs (.sysResetNLow lowNs now) s fun t => t = { s with freeCtr := s.freeCtr + 1 } := by
  refine runs_of (congrArg Host.Outcome.next (if_neg ?_)) rfl
  rcases h with h | h
  · simp [pulse_ignored h s]
  · simp [h]

end

/-- Settles O53: what each level leaves, and the row of each source. -/
theorem resetsTakeEffect : Obligations.ResetsTakeEffect := by
  intro s now lowNs
  refine ⟨pwrgoodLow_resets now, standbyLoss_resets, sysResetNLow_resets now, perstNAssert_resets now, supervisorWatchdog_resets now,
    fun d => lifecycleChangeReset_resets now, pwrgoodLow_ignored now, sysResetNLow_ignored now, fun h => ?_⟩
  change when (decide (s.boot.held = 0)) s (systemReset (atTide s now) 4) = _
  unfold when
  rw [decide_eq_false h]
  rfl

end Sys2Proof.Machine
end

section
/-! SUPPORT. Writes of registers (14, R419, R431, R448; 02, R66, R67; 13, R396; 15, R461). -/

namespace Sys2Proof.Machine

open Sys2Proof

/-! A write of one word. -/

theorem writeWord_rw {s t : State} {off : Nat} {v : Reg} {hw : Option Reg} (w : Writer) (he : eventWrite s off v hw = none)
    (hr : rwWrite s off v hw = some t) (hd : darkBlock s off = false) :
    writeWord s w off v hw = cfgWrite t (byJtag w) off (bar0Read s off) := by
  unfold writeWord
  dsimp only
  rw [he]
  dsimp only
  rw [hr]
  dsimp only
  rw [hd, if_neg Bool.false_ne_true]

theorem writeWord_event {s t : State} {off : Nat} {v : Reg} {hw : Option Reg} (w : Writer) (he : eventWrite s off v hw = some t)
    (hd : darkBlock s off = false) : writeWord s w off v hw = t := by
  unfold writeWord
  dsimp only
  rw [he]
  dsimp only
  rw [hd, if_neg Bool.false_ne_true]

theorem reg_leBytes (v : Reg) : reg (leNat (leBytes 4 v.toNat)) = v := by
  rw [leNat_leBytes, Nat.mod_eq_of_lt (show v.toNat < 2 ^ (8 * 4) from v.isLt)]
  exact BitVec.ofNat_toNat 32 v

/-- A register write of four bytes writes the word. -/
theorem regWrite_word (s : State) (w : Writer) {off : Nat} (ho : 0x10000 ≤ off) (v : Reg) (hw : Option Reg) (now : Nat) :
    regWrite s w off (leBytes 4 v.toNat) hw now = .next (writeWord s w off v hw) := by
  have hlen : (leBytes 4 v.toNat).length ≠ 8 := by rw [leBytes_length]; decide
  unfold regWrite
  dsimp only
  rw [if_neg (by omega), if_neg hlen, List.take_of_length_le (Nat.le_of_eq (leBytes_length 4 v.toNat)), reg_leBytes]

theorem regShape_word {off : Nat} (ho : 0x10000 ≤ off) (hal : off % 4 = 0) (v : Reg) : regShape off (leBytes 4 v.toNat).length = true := by
  rw [leBytes_length]
  unfold regShape
  rw [if_neg (by omega)]
  simp [hal]

/-- A register write through BAR0 of an aligned word. -/
theorem registerWrite_word {s : State} (hp : pcieOn s = true) {off : Fin 0xC00000} (ho : 0x10000 ≤ off.val) (hal : off.val % 4 = 0) (v : Reg)
    (hw : Option Reg) (now : Nat) :
    exec (.registerWrite off (leBytes 4 v.toNat) hw now) s = .next (writeWord (atTide s now) .bar0 off v hw) := by
  change execRegisterWrite off (leBytes 4 v.toNat) hw now s = _
  unfold execRegisterWrite
  rw [hp, regShape_word ho hal v, if_pos (by decide), regWrite_word _ _ ho]

/-! ACK_TMO of a port. -/

/-- The offset of ACK_TMO of a port. -/
def ackTmoOffset (p : Fin 8) : Nat := 0x7001C + 256 * p.val

theorem ackTmoOffset_bounds (p : Fin 8) : 0x7001C ≤ ackTmoOffset p ∧ ackTmoOffset p ≤ 0x7071C ∧ ackTmoOffset p % 4 = 0 := by
  unfold ackTmoOffset
  omega

/-- A write of ACK_TMO takes the low 16 bits and raises CFG_GEN. -/
theorem writeWord_ackTmo (s : State) (w : Writer) (p : Fin 8) (v : Reg) : writeWord s w (ackTmoOffset p) v none =
    cfgWrite (modPort s p fun k => { k with ackTmo := v.toNat % 65536 }) (byJtag w) (ackTmoOffset p) (bar0Read s (ackTmoOffset p)) := by
  obtain ⟨off, hoff⟩ : ∃ off, ackTmoOffset p = off := ⟨_, rfl⟩
  have hlow : off = 0x7001C + 256 * p.val := hoff.symm
  have hcore : inCoreBlock off = false := by simp [inCoreBlock]; omega
  rw [hoff]
  refine writeWord_rw w ?_ ?_ ?_
  · unfold eventWrite
    rw [if_neg (by omega), if_neg (by omega), if_neg (by omega), if_neg (by omega), if_neg (by omega), if_neg (by omega), if_neg (by omega),
      if_neg (by omega), if_neg (by omega), if_neg (by omega), if_neg (by simp [hcore])]
  · unfold rwWrite
    dsimp only
    rw [if_neg (by omega), if_neg (by omega), if_pos (by omega), show (off - 0x70000) / 256 = p.val by omega]
  · have h1 : ¬off < 0x70000 := by omega
    simp [darkBlock, hcore, h1]

/-- What a write of ACK_TMO leaves, beside the port's value. -/
theorem ackTmo_written (s : State) (w : Writer) (p : Fin 8) (v : Reg) : let t := writeWord s w (ackTmoOffset p) v none
    GenRose s t ∧ OtherPorts s t p ∧ portOf t p = { portOf s p with ackTmo := v.toNat % 65536 } ∧ t.cores = s.cores ∧ t.memory = s.memory := by
  dsimp only
  rw [writeWord_ackTmo]
  exact ⟨rfl, fun q hq => portOf_modPort_ne s _ hq, portOf_modPort_self s p _, rfl, rfl⟩

theorem registerWrite_ackTmo {s : State} (hp : pcieOn s = true) (now : Nat) (p : Fin 8) (v : Reg) :
    Runs (.registerWrite (Fin.ofNat _ (0x7001C + 256 * p.val)) (leBytes 4 v.toNat) none now) s fun t =>
      GenRose s t ∧ OtherPorts s t p ∧ portOf t p = { portOf s p with ackTmo := v.toNat % 65536 } ∧ t.cores = s.cores ∧ t.memory = s.memory := by
  obtain ⟨hlow, hhigh, hal⟩ := ackTmoOffset_bounds p
  obtain ⟨off, hoff⟩ : ∃ off : Fin 0xC00000, Fin.ofNat _ (0x7001C + 256 * p.val) = off := ⟨_, rfl⟩
  have hval : off.val = ackTmoOffset p := by
    rw [← hoff]
    exact Nat.mod_eq_of_lt (show ackTmoOffset p < 0xC00000 by omega)
  rw [hoff]
  refine runs_of (registerWrite_word hp (by omega) (by omega) v none now) ?_
  rw [hval]
  exact ackTmo_written (atTide s now) .bar0 p v

/-! The JTAG access path. -/

theorem selectBusacc_pcieOn (s : State) (now : Nat) : pcieOn (selectBusacc (atTide s now)) = pcieOn s := rfl

theorem mapWrite_word (s : State) (w : Writer) {off : Nat} (ho : 0x10000 ≤ off) (hc : off < 0xC00000) (hal : off % 4 = 0) (v : Reg)
    (hw : Option Reg) (now : Nat) : mapWrite s w off (leBytes 4 v.toNat) hw now = .next (writeWord s w off v hw) := by
  unfold mapWrite
  rw [if_pos hc, regShape_word ho hal v, if_pos rfl, regWrite_word _ _ ho]

/-- Of a BAR0 and a JTAG write of one register in one cycle the JTAG write is the later (R8). -/
theorem jtagBusacc_writes {s : State} (hp : pcieOn s = true) {off : Fin 0x1000000} (ho : 0x10000 ≤ off.val) (hc : off.val < 0x100000)
    (hal : off.val % 4 = 0) (v w : Reg) (now : Nat) :
    exec (.jtagBusacc true off 4 (leBytes 4 v.toNat) (none, leBytes 4 w.toNat, now)) s =
      .next (writeWord (writeWord (selectBusacc (atTide s now)) .bar0 off w none) .jtag off v none) := by
  have hheld : s.boot.held = 0 := held_of_pcieOn hp
  have hflags : isFlags off.val = false := by simp [isFlags, inCoreBlock]; omega
  change execJtagBusacc true off 4 (leBytes 4 v.toNat) (none, leBytes 4 w.toNat, now) s = _
  unfold execJtagBusacc
  dsimp only
  rw [hheld, hp, if_neg (by decide), if_pos rfl, mapWrite_word _ _ ho (by omega) hal]
  unfold thenDo
  dsimp only
  rw [if_pos rfl, mapWrite_word _ _ ho (by omega) hal, hflags, if_neg Bool.false_ne_true]

theorem jtagBusacc_ackTmo {s : State} (hp : pcieOn s = true) (now : Nat) (p : Fin 8) (v w : Reg) :
    Runs (.jtagBusacc true (Fin.ofNat _ (0x7001C + 256 * p.val)) 4 (leBytes 4 v.toNat) (none, leBytes 4 w.toNat, now)) s
      fun t => t.control.cfgGen = (s.control.cfgGen + 2) % 2 ^ 64 ∧ OtherPorts s t p ∧
        portOf t p = { portOf s p with ackTmo := v.toNat % 65536 } ∧ t.cores = s.cores ∧ t.memory = s.memory := by
  obtain ⟨hlow, hhigh, hal⟩ := ackTmoOffset_bounds p
  obtain ⟨off, hoff⟩ : ∃ off : Fin 0x1000000, Fin.ofNat _ (0x7001C + 256 * p.val) = off := ⟨_, rfl⟩
  have hval : off.val = ackTmoOffset p := by
    rw [← hoff]
    exact Nat.mod_eq_of_lt (show ackTmoOffset p < 0x1000000 by omega)
  rw [hoff]
  refine runs_of (jtagBusacc_writes hp (by omega) (by omega) (by omega) v w now) ?_
  rw [hval]
  obtain ⟨gen, others, port, cores, memory⟩ := ackTmo_written (selectBusacc (atTide s now)) .bar0 p w
  generalize writeWord (selectBusacc (atTide s now)) .bar0 (ackTmoOffset p) w none = u at *
  obtain ⟨gen', others', port', cores', memory'⟩ := ackTmo_written u .jtag p v
  refine ⟨?_, fun q hq => (others' q hq).trans (others q hq), ?_, cores'.trans cores, memory'.trans memory⟩
  · unfold GenRose at gen gen'
    rw [gen', gen, Nat.mod_add_mod]
    rfl
  · rw [port', port]
    rfl

/-! TIDE_EVENT. -/

theorem fireOnRise_fields (s : State) (v : Nat) (a b : Reg) : let t := fireOnRise s v a b
    t.tide = s.tide ∧ t.control.cfgGen = s.control.cfgGen ∧ t.cores = s.cores ∧ t.memory = s.memory ∧ t.power = s.power := by
  unfold fireOnRise fire
  split
  · exact ⟨rfl, rfl, rfl, rfl, rfl⟩
  · split
    · exact ⟨rfl, rfl, rfl, rfl, rfl⟩
    · exact ⟨rfl, rfl, rfl, rfl, rfl⟩

theorem registerWrite_tideEvent {s : State} (hp : pcieOn s = true) (now : Nat) (v hw : Reg) :
    Runs (.registerWrite 0x80030 (leBytes 4 v.toNat) (some hw) now) s fun t =>
      t.tide = { s.tide with now := max s.tide.now now, event := (s.tide.event ||| (hw &&& 0x1FF)) &&& ~~~(v &&& 0x1FF) } ∧
      t.control.cfgGen = s.control.cfgGen ∧ t.cores = s.cores ∧ t.memory = s.memory := by
  obtain ⟨off, hoff⟩ : ∃ off : Fin 0xC00000, (0x80030 : Fin 0xC00000) = off := ⟨_, rfl⟩
  have hval : off.val = 0x80030 := by rw [← hoff]; rfl
  have hevent : eventWrite (atTide s now) off.val v (some hw) = some (fireOnRise { atTide s now with
      tide := { (atTide s now).tide with event := w1c s.tide.event (some hw) 0x1FF v } } 18 s.tide.event (w1c s.tide.event (some hw) 0x1FF v)) := by
    unfold eventWrite
    rw [if_neg (by omega), if_neg (by omega), if_neg (by omega), if_neg (by omega), if_neg (by omega), if_pos hval]
    rfl
  have hdark : darkBlock (atTide s now) off.val = false := by
    have hcore : inCoreBlock off.val = false := by simp [inCoreBlock]; omega
    have h1 : ¬off.val < 0x70000 := by omega
    simp [darkBlock, hcore, h1]
  rw [hoff]
  refine runs_of (registerWrite_word hp (by omega) (by omega) v (some hw) now) ?_
  rw [writeWord_event .bar0 hevent hdark]
  obtain ⟨tide, gen, cores, memory, -⟩ := fireOnRise_fields { atTide s now with
      tide := { (atTide s now).tide with event := w1c s.tide.event (some hw) 0x1FF v } } 18 s.tide.event (w1c s.tide.event (some hw) 0x1FF v)
  exact ⟨tide, gen, cores, memory⟩

end Sys2Proof.Machine
end

section
/-! SUPPORT. Flags, the governor's registers, mailbox words, MSI-X and BOOT_CTRL (02, R66, R67; 13, R396; 14, R423, R431; 15, R461). -/

namespace Sys2Proof.Machine

open Sys2Proof

/-! The flags F3 to F7. -/

/-- Bit j of the flags after a run of flags from F3 on took a value where a mask names them. -/
theorem flagsRun_bit (bits : Nat) (b : Bool) (k : Core) (j : Nat) (hj : j < 8) : ∀ n,
    ((List.range n).foldl (fun k i => if bits.testBit i then flagPut k (3 + i) b else k) k).flags.getLsbD j =
      if 3 ≤ j ∧ j < 3 + n ∧ bits.testBit (j - 3) = true then b else k.flags.getLsbD j
  | 0 => (if_neg (by omega)).symm
  | n + 1 => by
    rw [List.range_succ, List.foldl_append]
    have ih := flagsRun_bit bits b k j hj n
    generalize (List.range n).foldl (fun k i => if bits.testBit i then flagPut k (3 + i) b else k) k = u at ih
    have hput : (flagPut u (3 + n) b).flags.getLsbD j = if j = 3 + n then b else u.flags.getLsbD j := by
      unfold flagPut
      by_cases e : j = 3 + n
      · subst e
        cases b
        · simp [hj]
        · simp [hj]
      · have hbit : (1#8 <<< (3 + n)).getLsbD j = false := by
          simp
          omega
        rw [if_neg e]
        cases b
        · change (u.flags &&& ~~~(1#8 <<< (3 + n))).getLsbD j = _
          rw [BitVec.getLsbD_and, BitVec.getLsbD_not, hbit]
          simp [hj]
        · change (u.flags ||| (1#8 <<< (3 + n))).getLsbD j = _
          rw [BitVec.getLsbD_or, hbit, Bool.or_false]
    change (if bits.testBit n then flagPut u (3 + n) b else u).flags.getLsbD j = _
    by_cases hn : bits.testBit n = true
    · rw [if_pos hn, hput]
      by_cases e : j = 3 + n
      · subst e
        rw [if_pos rfl, if_pos ⟨by omega, by omega, by rw [show 3 + n - 3 = n by omega]; exact hn⟩]
      · rw [if_neg e, ih]
        exact if_congr ⟨fun ⟨h1, h2, h3⟩ => ⟨h1, by omega, h3⟩, fun ⟨h1, h2, h3⟩ => ⟨h1, by omega, h3⟩⟩ rfl rfl
    · rw [if_neg hn, ih]
      refine if_congr ⟨fun ⟨h1, h2, h3⟩ => ⟨h1, by omega, h3⟩, fun ⟨h1, h2, h3⟩ => ⟨h1, ?_, h3⟩⟩ rfl rfl
      have hne : j ≠ 3 + n := fun e => hn (by rw [show n = j - 3 by omega]; exact h3)
      omega

theorem flagsRun_frame (bits : Nat) (b : Bool) : ∀ (l : List Nat) (k : Core),
    { l.foldl (fun k i => if bits.testBit i then flagPut k (3 + i) b else k) k with flags := k.flags } = k
  | [], _ => rfl
  | i :: l, k => by
    have h := flagsRun_frame bits b l (if bits.testBit i then flagPut k (3 + i) b else k)
    rw [List.foldl_cons]
    generalize l.foldl (fun k i => if bits.testBit i then flagPut k (3 + i) b else k) (if bits.testBit i then flagPut k (3 + i) b else k) = u at h
    have e := congrArg (fun x : Core => { x with flags := k.flags }) h
    refine e.trans ?_
    split
    · rfl
    · rfl

theorem flagsBits_bit (bits : BitVec 5) (j : Nat) (hj : j < 8) : (bits.setWidth 8 <<< 3).getLsbD j = (decide (3 ≤ j) && bits.toNat.testBit (j - 3)) := by
  have h8 : j - 3 < 8 := by omega
  have e : bits.toNat.testBit (j - 3) = bits.getLsbD (j - 3) := rfl
  rw [BitVec.getLsbD_shiftLeft, BitVec.getLsbD_setWidth, e, decide_eq_true hj, decide_eq_true h8, Bool.true_and, Bool.true_and, ← decide_not]
  simp only [Nat.not_lt]

theorem testBit_five {bits : BitVec 5} {i : Nat} (h : bits.toNat.testBit i = true) : i < 5 := by
  by_contra hi
  rw [Nat.testBit_lt_two_pow (Nat.lt_of_lt_of_le bits.isLt (Nat.pow_le_pow_right (by omega) (Nat.le_of_not_lt hi)))] at h
  exact Bool.false_ne_true h

theorem flagsPut_bit (k : Core) (bits : BitVec 5) (b : Bool) (j : Nat) (hj : j < 8) : (flagsPut k bits.toNat b).flags.getLsbD j =
    if (bits.setWidth 8 <<< 3).getLsbD j = true then b else k.flags.getLsbD j := by
  refine (flagsRun_bit bits.toNat b k j hj 5).trans (if_congr ?_ rfl rfl)
  rw [flagsBits_bit bits j hj, Bool.and_eq_true, decide_eq_true_iff]
  exact ⟨fun ⟨h1, _, h3⟩ => ⟨h1, h3⟩, fun ⟨h1, h3⟩ => ⟨h1, by omega, h3⟩⟩

theorem core_eq_of_flags {k u : Core} {f : Byte} (h : { u with flags := k.flags } = k) (hf : u.flags = f) : u = { k with flags := f } := by
  rw [← h, ← hf]

/-- A set of flags F3 to F7. -/
theorem flagsPut_set (k : Core) (bits : BitVec 5) : flagsPut k bits.toNat true = { k with flags := k.flags ||| (bits.setWidth 8 <<< 3) } := by
  refine core_eq_of_flags (flagsRun_frame _ _ _ _) (BitVec.eq_of_getLsbD_eq fun j hj => ?_)
  refine (flagsPut_bit k bits true j hj).trans ?_
  rw [BitVec.getLsbD_or]
  cases (bits.setWidth 8 <<< 3).getLsbD j
  · simp
  · simp

/-- A clear of flags F3 to F7. -/
theorem flagsPut_clear (k : Core) (bits : BitVec 5) : flagsPut k bits.toNat false = { k with flags := k.flags &&& ~~~(bits.setWidth 8 <<< 3) } := by
  refine core_eq_of_flags (flagsRun_frame _ _ _ _) (BitVec.eq_of_getLsbD_eq fun j hj => ?_)
  refine (flagsPut_bit k bits false j hj).trans ?_
  rw [BitVec.getLsbD_and, BitVec.getLsbD_not]
  cases (bits.setWidth 8 <<< 3).getLsbD j
  · simp [hj]
  · simp

/-- A write of a register whose only effect is on one core. -/
theorem cfgWrite_modCore (s : State) (c : Nat) (f : Core → Core) (jtag : Bool) (off old : Nat) : let t := cfgWrite (modCore s c f) jtag off old
    (GenRose s t ∧ (∀ x, x ≠ c → coreOf t x = coreOf s x) ∧ t.memory = s.memory ∧ t.straits = s.straits) ∧ coreOf t c = f (coreOf s c) :=
  ⟨⟨rfl, fun _ hx => coreOf_modCore_ne s f hx, rfl, rfl⟩, coreOf_modCore_self s c f⟩

theorem notDark {s : State} (h : s.power.state < 2) : islesDark s = false := by
  simp [islesDark]
  omega

section
variable {s : State} (now : Nat)

theorem coreFlagsSet_spec (hp : pcieOn s = true) (hs : s.power.state < 2) (c : Fin 576) (bits : BitVec 5) :
    Runs (.coreFlagsSet c bits now) s fun t =>
      (GenRose s t ∧ (∀ x, x ≠ c.val → coreOf t x = coreOf s x) ∧ t.memory = s.memory ∧ t.straits = s.straits) ∧
        coreOf t c = { coreOf s c with flags := (coreOf s c).flags ||| (bits.setWidth 8 <<< 3) } := by
  refine runs_when (show execCoreFlagsSet c bits now s = when _ s _ from rfl) hp ?_
  rw [notDark hs, if_neg Bool.false_ne_true]
  obtain ⟨only, core⟩ := cfgWrite_modCore (atTide s now) c (fun k => flagsPut k bits.toNat true) false (0x100008 + 0x1000 * c.val)
    (bar0Read (atTide s now) (0x100008 + 0x1000 * c.val))
  exact ⟨only, core.trans (flagsPut_set _ _)⟩

theorem coreFlagsClear_spec (hp : pcieOn s = true) (hs : s.power.state < 2) (c : Fin 576) (bits set : BitVec 5) :
    Runs (.coreFlagsClear c bits set now) s fun t =>
      (GenRose s t ∧ (∀ x, x ≠ c.val → coreOf t x = coreOf s x) ∧ t.memory = s.memory ∧ t.straits = s.straits) ∧
        coreOf t c = { coreOf s c with flags := ((coreOf s c).flags &&& ~~~(bits.setWidth 8 <<< 3)) ||| (set.setWidth 8 <<< 3) } := by
  refine runs_when (show execCoreFlagsClear c bits set now s = when _ s _ from rfl) hp ?_
  rw [notDark hs, if_neg Bool.false_ne_true]
  obtain ⟨only, core⟩ := cfgWrite_modCore (atTide s now) c (fun k => flagsPut (flagsPut k bits.toNat false) set.toNat true) false
    (0x100008 + 0x1000 * c.val) (bar0Read (atTide s now) (0x100008 + 0x1000 * c.val))
  refine ⟨only, core.trans ?_⟩
  dsimp only
  rw [flagsPut_clear, flagsPut_set]
  rfl

end

/-! The governor's registers. -/

theorem notice_eq (s : State) (typ setting old new ahead : Nat) :
    ∃ ns, notice s typ setting old new ahead = { s with power := { s.power with notices := ns } } := by
  unfold notice
  split
  · exact ⟨s.power.notices, rfl⟩
  · exact ⟨_, rfl⟩

theorem govTake_cap (s : State) (v : Reg) : ∃ ns, govTake s .cap v = { s with
    power := { s.power with notices := ns, cap := max 1500 (min 5200 (v.toNat % 8192)) } } := by
  have e : bitsOf v.toNat 0 13 = v.toNat % 8192 := by simp [bitsOf]
  unfold govTake govSetting clamp
  dsimp only
  rw [e]
  obtain ⟨ns, hn⟩ := notice_eq s 3 1 s.power.cap (max 1500 (min 5200 (v.toNat % 8192))) 1
  rw [hn]
  exact ⟨ns, rfl⟩

theorem govTake_floor (s : State) (v : Reg) : ∃ ns, govTake s .floor v = { s with
    power := { s.power with notices := ns, floor := min 5200 (v.toNat % 8192) } } := by
  have e : bitsOf v.toNat 0 13 = v.toNat % 8192 := by simp [bitsOf]
  unfold govTake govSetting
  dsimp only
  rw [e]
  obtain ⟨ns, hn⟩ := notice_eq s 3 4 s.power.floor (min 5200 (v.toNat % 8192)) 1
  rw [hn]
  exact ⟨ns, rfl⟩

theorem govTake_slew (s : State) (v : Reg) : ∃ ns, govTake s .slew v = { s with
    power := { s.power with notices := ns, slewUp := max 1 (min 2000 (v.toNat / 65536 % 2048)), slewDn := max 1 (min 2000 (v.toNat % 2048)) } } := by
  have e1 : bitsOf v.toNat 16 11 = v.toNat / 65536 % 2048 := by simp [bitsOf]
  have e2 : bitsOf v.toNat 0 11 = v.toNat % 2048 := by simp [bitsOf]
  unfold govTake govSetting clamp
  dsimp only
  rw [e1, e2]
  obtain ⟨ns, hn⟩ := notice_eq s 3 2 s.power.slewUp (max 1 (min 2000 (v.toNat / 65536 % 2048))) 1
  rw [hn]
  generalize max 1 (min 2000 (v.toNat / 65536 % 2048)) = up
  generalize max 1 (min 2000 (v.toNat % 2048)) = dn
  unfold setPower
  dsimp only
  obtain ⟨ms, hm⟩ := notice_eq { s with power := { s.power with notices := ns, slewUp := up } } 3 3 s.power.slewDn dn 1
  exact ⟨ms, congrArg (fun x : State => { x with power := { x.power with slewDn := dn } }) hm⟩

section
variable {s : State} (now : Nat) (v : Reg) (jtag : Bool)

theorem execGovRegisterWrite_takes (hp : pcieOn s = true) (hn : s.power.notices.length < 256) (r : GovReg) :
    exec (.govRegisterWrite r v jtag now) s =
      .next (cfgWrite (govTake (atTide s now) r v) jtag (govOffset r) (bar0Read (atTide s now) (govOffset r))) := by
  have hheld : s.boot.held = 0 := held_of_pcieOn hp
  have hfull : noticesFull (atTide s now) = false := decide_eq_false (Nat.not_le.2 hn)
  change execGovRegisterWrite r v jtag now s = _
  unfold execGovRegisterWrite govWrite
  rw [hfull, if_neg Bool.false_ne_true]
  exact when_holds (by simp [hheld, hp]) _ _

theorem govRegisterWrite_cap (hp : pcieOn s = true) (hn : s.power.notices.length < 256) :
    Runs (.govRegisterWrite .cap v jtag now) s fun t => GenRose s t ∧ t.power.cap = max 1500 (min 5200 (v.toNat % 8192)) ∧
        t.power.slewUp = s.power.slewUp ∧ t.power.slewDn = s.power.slewDn ∧ t.power.floor = s.power.floor := by
  refine runs_of (execGovRegisterWrite_takes now v jtag hp hn .cap) ?_
  obtain ⟨ns, h⟩ := govTake_cap (atTide s now) v
  rw [h]
  exact ⟨rfl, rfl, rfl, rfl, rfl⟩

theorem govRegisterWrite_slew (hp : pcieOn s = true) (hn : s.power.notices.length < 256) :
    Runs (.govRegisterWrite .slew v jtag now) s fun t => GenRose s t ∧ t.power.cap = s.power.cap ∧ t.power.floor = s.power.floor ∧
        t.power.slewUp = max 1 (min 2000 (v.toNat / 65536 % 2048)) ∧ t.power.slewDn = max 1 (min 2000 (v.toNat % 2048)) := by
  refine runs_of (execGovRegisterWrite_takes now v jtag hp hn .slew) ?_
  obtain ⟨ns, h⟩ := govTake_slew (atTide s now) v
  rw [h]
  exact ⟨rfl, rfl, rfl, rfl, rfl⟩

theorem govRegisterWrite_floor (hp : pcieOn s = true) (hn : s.power.notices.length < 256) :
    Runs (.govRegisterWrite .floor v jtag now) s fun t => GenRose s t ∧ t.power.floor = min 5200 (v.toNat % 8192) ∧
        t.power.cap = s.power.cap ∧ t.power.slewUp = s.power.slewUp ∧ t.power.slewDn = s.power.slewDn := by
  refine runs_of (execGovRegisterWrite_takes now v jtag hp hn .floor) ?_
  obtain ⟨ns, h⟩ := govTake_floor (atTide s now) v
  rw [h]
  exact ⟨rfl, rfl, rfl, rfl, rfl⟩

theorem govRegisterWrite_full (hp : pcieOn s = true) (hn : 256 ≤ s.power.notices.length) (r : GovReg) :
    Runs (.govRegisterWrite r v jtag now) s fun t => GenRose s t ∧ t.power = { s.power with stat := s.power.stat ||| 8 } := by
  have hheld : s.boot.held = 0 := held_of_pcieOn hp
  have hfull : noticesFull (atTide s now) = true := decide_eq_true hn
  have gen := congrArg (fun x : State => x.control.cfgGen) (setGovStat_same (atTide s now) 3)
  refine runs_when (show execGovRegisterWrite r v jtag now s = when _ s _ from rfl) (by simp [hheld, hp]) ?_
  unfold govWrite
  rw [hfull, if_pos rfl]
  have power := setGovStat_power (atTide s now) 3
  generalize setGovStat (atTide s now) 3 = u at gen power
  generalize bar0Read (atTide s now) (govOffset r) = old
  refine ⟨?_, power⟩
  exact congrArg (fun g => (g + 1) % 2 ^ 64) gen

end

/-! A word of MB_CMD. -/

theorem word_fields {op seq b : Nat} (ho : op < 2 ^ 16) (hs : seq < 2 ^ 8) (hb : b < 2) : let w := op + 2 ^ 16 * seq + 2 ^ 24 * b
    bitsOf w 0 16 = op ∧ bitsOf w 16 8 = seq ∧ w % 2 ^ 32 = w ∧ w / 2 ^ 24 % 2 = b := by
  dsimp only
  unfold bitsOf
  omega

/-- The word of a command of Table 14-8 issues that command; whether the flash takes an image and whether the meter answers is free (log 3). -/
theorem issue_commandOf (s : State) (mb : Fin 16) {op : Nat} (seq : Byte) (irq : Bool) (now : Nat) (h : op ∈ opcodes) (h1 : op ≠ 0x10)
    (h2 : op ≠ 0x19) {word : Nat} (hop : bitsOf word 0 16 = op) (hseq : bitsOf word 16 8 = seq.toNat) (hirq : word.testBit 24 = irq) :
    issue s mb word now = exec (commandOf op mb seq irq now true) s := by
  have hs : BitVec.ofNat 8 seq.toNat = seq := BitVec.ofNat_toNat 8 seq
  unfold issue
  dsimp only
  rw [hop, hseq, hirq, hs]
  simp only [opcodes, List.mem_cons, List.not_mem_nil, or_false] at h
  rcases h with rfl | rfl | rfl | rfl | rfl | rfl | rfl | rfl | rfl | rfl | rfl | rfl | rfl | rfl | rfl | rfl | rfl | rfl | rfl | rfl | rfl |
    rfl | rfl | rfl | rfl | rfl | rfl | rfl | rfl | rfl | rfl | rfl | rfl | rfl | rfl | rfl
  case inr.inr.inl => exact absurd rfl h1
  case inr.inr.inr.inr.inl => exact absurd rfl h2
  all_goals rfl

theorem mergedWord_whole (b : Mailbox) (x : Nat) : mergedWord b 0 (leBytes 4 x) = x % 2 ^ 32 := leNat_leBytes 4 x

theorem opcodes_lt : ∀ op ∈ opcodes, op < 2 ^ 16 := by decide

theorem registerWrite_command {s : State} (hp : pcieOn s = true) (now : Nat) (mb : Fin 16) {op : Nat} (seq : Byte) (irq : Bool)
    (hop : op ∈ opcodes) (h1 : op ≠ 0x10) (h2 : op ≠ 0x19) (hbox : (boxOf s mb).state ≠ 1) :
    exec (.registerWrite (Fin.ofNat _ (0x1000 * mb.val)) (leBytes 4 (op + 2 ^ 16 * seq.toNat + 2 ^ 24 * bit irq)) none now) s =
      exec (commandOf op mb seq irq now true) (atTide s now) := by
  have hlt : op < 2 ^ 16 := opcodes_lt op hop
  have hmb := mb.isLt
  obtain ⟨off, hoff⟩ : ∃ off : Fin 0xC00000, Fin.ofNat _ (0x1000 * mb.val) = off := ⟨_, rfl⟩
  have hval : off.val = 0x1000 * mb.val := by
    rw [← hoff]
    exact Nat.mod_eq_of_lt (by omega)
  obtain ⟨fop, fseq, fword, firq⟩ := word_fields hlt seq.isLt (show bit irq < 2 by cases irq <;> decide)
  generalize op + 2 ^ 16 * seq.toNat + 2 ^ 24 * bit irq = word at fop fseq fword firq
  have hlen := leBytes_length 4 word
  have hirq : word.testBit 24 = irq := by
    rw [Nat.testBit_eq_decide_div_mod_eq, firq]
    cases irq
    · rfl
    · rfl
  rw [hoff]
  change execRegisterWrite off (leBytes 4 word) none now s = _
  have hshape : regShape off (leBytes 4 word).length = true := by
    rw [hlen]
    unfold regShape
    rw [if_pos (by omega)]
    simp
    omega
  unfold execRegisterWrite regWrite boxWrite
  dsimp only
  rw [hp, hshape, if_pos (by decide), if_pos (by omega), show off.val / 0x1000 = mb.val by omega, show off.val % 0x1000 = 0 by omega,
    if_neg (show ¬(boxOf (atTide s now) mb).state = 1 from hbox), if_pos (by omega), if_pos (.inl (by omega)), mergedWord_whole, fword,
    show Fin.ofNat 16 mb.val = mb from Fin.ofNat_val_eq_self mb]
  exact issue_commandOf _ mb seq irq now hop h1 h2 fop fseq hirq

/-! MSI-X, telemetry. -/

theorem msixUnmask_spec {s : State} (hp : pcieOn s = true) (v : Fin 32) (hv : s.control.masks.getLsbD v = true) : Runs (.msixUnmask v) s fun t =>
      t.control.masks = s.control.masks &&& ~~~(1#32 <<< v.val) ∧ t.control.pba = s.control.pba &&& ~~~(1#32 <<< v.val) ∧
      t.sent = (if s.control.pba.getLsbD v = true then .msix v :: s.sent else s.sent) ∧
      { t with control := { t.control with masks := s.control.masks, pba := s.control.pba }, sent := s.sent } = s := by
  refine runs_when (show execMsixUnmask v s = when _ s _ from rfl) (by rw [hp, hv]; rfl) ?_
  unfold unmask emit
  dsimp only
  split
  · exact ⟨rfl, rfl, rfl, rfl⟩
  · exact ⟨rfl, rfl, rfl, rfl⟩

theorem telemetryRefresh_spec {s : State} (hp : pcieOn s = true) (now : Nat) (hper : s.control.period ≠ 0) : Runs (.telemetryRefresh now) s fun t =>
      t.control.telem = snapshot (atTide s now) ∧
      t.control.supEvent = s.control.supEvent ||| 64 ∧ t.control.cfgGen = s.control.cfgGen ∧ t.cores = s.cores ∧ t.memory = s.memory := by
  have hheld : s.boot.held = 0 := held_of_pcieOn hp
  refine runs_when (show execTelemetryRefresh now s = when _ s _ from rfl) (by simp [hheld, hper]) ?_
  have same := setSupEvent_same (refresh (atTide s now)) 6
  have htelem := congrArg (fun x : State => x.control.telem) same
  have hgen := congrArg (fun x : State => x.control.cfgGen) same
  have hcores := congrArg State.cores same
  have hmem := congrArg State.memory same
  have hevent := setSupEvent_control (refresh (atTide s now)) 6
  exact ⟨htelem, hevent, hgen, hcores, hmem⟩

end Sys2Proof.Machine
end

section
/-! SUPPORT. The GO bit of BOOT_CTRL (15, R461, R462), and the rows that write registers. -/

namespace Sys2Proof.Machine

open Sys2Proof

theorem tryImage_frame (s : State) (img : List Byte) (fromHost recovered : Bool) : let t := tryImage s img fromHost recovered
    { t with boot := s.boot } = s ∧ t.boot.length = s.boot.length := by
  dsimp only
  by_cases h : imageFault img = 0
  · rw [tryImage_runs h, runImage_eq]
    exact ⟨rfl, rfl⟩
  · rw [tryImage_fails h]
    exact ⟨rfl, rfl⟩

/-- The state with LENGTH written. -/
def lengthPut (s : State) (len : Nat) : State := { s with boot := { s.boot with length := len } }

theorem bootCtrl_eq (s : State) (len : Nat) (go : Bool) : bootCtrl s len go =
    if go && alive s && !s.boot.dbgCp && (decide (s.boot.stat = 3) || decide (s.boot.stat = 8)) then
      (if 4194304 < len then { lengthPut s len with boot := { (lengthPut s len).boot with stat := 8, fail := 4 } }
       else tryImage (lengthPut s len) (memRead s.boot.buffer 0 len) true (s.boot.stat = 8))
    else lengthPut s len := rfl

theorem bootCtrl_idle (s : State) (len : Nat) (go : Bool) (h3 : s.boot.stat ≠ 3) (h8 : s.boot.stat ≠ 8) : bootCtrl s len go = lengthPut s len :=
  (bootCtrl_eq s len go).trans (if_neg (by simp [h3, h8]))

theorem bootCtrl_checks (s : State) (len : Nat) (ha : alive s = true) (hcp : s.boot.dbgCp = false) (hstat : s.boot.stat = 3 ∨ s.boot.stat = 8) :
    bootCtrl s len true = if 4194304 < len then { lengthPut s len with boot := { (lengthPut s len).boot with stat := 8, fail := 4 } }
      else tryImage (lengthPut s len) (memRead s.boot.buffer 0 len) true (s.boot.stat = 8) := by
  rw [bootCtrl_eq, ha, hcp]
  refine if_pos ?_
  rcases hstat with h | h
  · rw [h]
    rfl
  · rw [h]
    rfl

theorem bootCtrl_frame (s : State) (len : Nat) (go : Bool) : let t := bootCtrl s len go
    { t with boot := s.boot } = s ∧ t.boot.length = len := by
  dsimp only
  rw [bootCtrl_eq]
  generalize memRead s.boot.buffer 0 len = img
  split
  · split
    · exact ⟨rfl, rfl⟩
    · obtain ⟨frame, hlen⟩ := tryImage_frame (lengthPut s len) img true (s.boot.stat = 8)
      have e := congrArg (fun x : State => { x with boot := s.boot }) frame
      exact ⟨e, hlen⟩
  · exact ⟨rfl, rfl⟩

/-- What the GO bit leads to (R461, R462). -/
theorem bootCtrl_goes (s : State) (len : Nat) (ha : alive s = true) (hcp : s.boot.dbgCp = false) (hstat : s.boot.stat = 3 ∨ s.boot.stat = 8) :
    let t := bootCtrl s len true
    (4194304 < len → t.boot.stat = 8 ∧ t.boot.fail = 4) ∧
      (len ≤ 4194304 → imageFault (memRead s.boot.buffer 0 len) ≠ 0 → t.boot.stat = 8 ∧
        t.boot.fail = imageFault (memRead s.boot.buffer 0 len)) ∧
      (len ≤ 4194304 → imageFault (memRead s.boot.buffer 0 len) = 0 → t.boot.stat ∈ [6, 7] ∧ t.boot.fail = 0 ∧
        t.boot.serving = true ∧ t.boot.fromHost = true ∧ (t.boot.isles = true ↔ t.boot.stat = 6)) := by
  dsimp only
  rw [bootCtrl_checks s len ha hcp hstat]
  generalize memRead s.boot.buffer 0 len = img
  refine ⟨fun h => ?_, fun h hf => ?_, fun h hf => ?_⟩
  · rw [if_pos h]
    exact ⟨rfl, rfl⟩
  · rw [if_neg (Nat.not_lt.2 h), tryImage_fails hf]
    exact ⟨rfl, rfl⟩
  · rw [if_neg (Nat.not_lt.2 h), tryImage_runs hf]
    obtain ⟨hserving, hfail, hhost, -, -, -, hstat', -⟩ := runImage_spec (lengthPut s len) img true (s.boot.stat = 8)
    generalize runImage (lengthPut s len) img true (s.boot.stat = 8) = t at *
    rw [hstat']
    refine ⟨?_, hfail, hserving, hhost, ?_⟩
    · cases t.boot.isles <;> simp
    · cases t.boot.isles <;> simp

theorem bootGo_spec {s : State} (hp : pcieOn s = true) (len : BitVec 23) (now : Nat) : Runs (.bootGo len now) s fun t =>
      GenRose s t ∧ t.boot.length = len.toNat ∧ t.memory = s.memory ∧ t.cores = s.cores ∧
      (s.boot.stat ≠ 3 → s.boot.stat ≠ 8 → t.boot = { s.boot with length := len.toNat }) ∧
      (alive s = true → s.boot.dbgCp = false → s.boot.stat = 3 ∨ s.boot.stat = 8 →
        (4194304 < len.toNat → t.boot.stat = 8 ∧ t.boot.fail = 4) ∧
        (len.toNat ≤ 4194304 → imageFault (memRead s.boot.buffer 0 len.toNat) ≠ 0 → t.boot.stat = 8 ∧
          t.boot.fail = imageFault (memRead s.boot.buffer 0 len.toNat)) ∧
        (len.toNat ≤ 4194304 → imageFault (memRead s.boot.buffer 0 len.toNat) = 0 → t.boot.stat ∈ [6, 7] ∧ t.boot.fail = 0 ∧
          t.boot.serving = true ∧ t.boot.fromHost = true ∧ (t.boot.isles = true ↔ t.boot.stat = 6))) := by
  have hheld : s.boot.held = 0 := held_of_pcieOn hp
  refine runs_when (show execBootGo len now s = when _ s _ from rfl) (by simp [hheld]) ?_
  generalize (⟨2, 0xFF, 0, 0xB0044, s.boot.length + 2 ^ 32 * len.toNat⟩ : Change) = change
  generalize len.toNat = n
  have gen : GenRose s (cfgRise (atTide s now) change) := rfl
  have hboot : (cfgRise (atTide s now) change).boot = s.boot := rfl
  have hmem : (cfgRise (atTide s now) change).memory = s.memory := rfl
  have hcores : (cfgRise (atTide s now) change).cores = s.cores := rfl
  have halive : alive (cfgRise (atTide s now) change) = alive s := rfl
  generalize cfgRise (atTide s now) change = u at *
  obtain ⟨frame, hlen⟩ := bootCtrl_frame u n true
  have egen := congrArg (fun x : State => x.control.cfgGen) frame
  have emem := congrArg State.memory frame
  have ecores := congrArg State.cores frame
  refine ⟨egen.trans gen, hlen, emem.trans hmem, ecores.trans hcores, fun h3 h8 => ?_, fun ha hcp hstat => ?_⟩
  · rw [bootCtrl_idle u n true (by rw [hboot]; exact h3) (by rw [hboot]; exact h8)]
    unfold lengthPut
    rw [hboot]
  · have goes := bootCtrl_goes u n (halive.trans ha) (by rw [hboot]; exact hcp) (by rw [hboot]; exact hstat)
    rw [hboot] at goes
    exact goes

/-- Settles O51: each row that writes a register by its own lemma. -/
theorem writingRegisters : Obligations.WritingRegisters := by
  intro s now hp
  refine ⟨fun c bits set hs => ⟨coreFlagsSet_spec now hp hs c bits, coreFlagsClear_spec now hp hs c bits set⟩, fun v ha => ?_, fun v ha => ?_,
    fun v jtag hn => ⟨govRegisterWrite_cap now v jtag hp hn, govRegisterWrite_slew now v jtag hp hn, govRegisterWrite_floor now v jtag hp hn⟩,
    fun r v jtag hn => govRegisterWrite_full now v jtag hp hn r, fun p v w => jtagBusacc_ackTmo hp now p v w,
    fun v hw => registerWrite_tideEvent hp now v hw, fun p v => registerWrite_ackTmo hp now p v,
    fun mb op seq irq hop h1 h2 hbox => registerWrite_command hp now mb seq irq hop h1 h2 hbox, fun v hv => msixUnmask_spec hp v hv,
    fun hper => telemetryRefresh_spec hp now hper, fun len => bootGo_spec hp len now⟩
  · exact runs_when (show execSlotReadyWrite true v s = when _ s _ from rfl) ha rfl
  · exact runs_when (show execSlotReadyWrite false v s = when _ s _ from rfl) ha rfl

end Sys2Proof.Machine
end

section
/-! SUPPORT. The memory window and the supervisor window (07, R206–R208, R230; 08, R265; 14, R420–R422; 15, R481). -/

namespace Sys2Proof.Machine

open Sys2Proof

/-! Accesses through the aperture. -/

section
variable {s : State} {off : Fin 0x400000}

theorem exec_windowRead (hp : pcieOn s = true) {n : Nat} (h : winShape (s.control.memwin + off) n = true) :
    exec (.windowRead off n []) s = .next (winRead s off n) := by
  change execWindowRead off n [] s = _
  unfold execWindowRead
  exact when_holds (by rw [hp, h]; rfl) _ _

theorem exec_windowWrite (hp : pcieOn s = true) (bs : List Byte) (gap : Bool) (now : Nat)
    (h : winShape (s.control.memwin + off) bs.length = true) :
    exec (.windowWrite off (bs, gap) now) s = winWrite (atTide s now) off bs gap :=
  if_pos (by rw [hp, h]; rfl)

theorem winRead_landed (hm : s.memory.merging = none) (n : Nat) : winRead s off n =
    { (physRead s (s.control.memwin + off) n).1 with rdata := (physRead s (s.control.memwin + off) n).2 } := by
  unfold winRead
  rw [landMerge_none s hm]

theorem winWrite_landed (hm : s.memory.merging = none) (bs : List Byte) (gap : Bool) :
    winWrite s off bs gap = physWrite s (s.control.memwin + off) bs gap := by
  unfold winWrite
  rw [landMerge_none s hm]

/-- A merged line that waits is written before the next access of the right shape (R421, log 108). -/
theorem windowRead_lands {p : Nat} {line : List Byte} (hm : s.memory.merging = some (p, line)) (hp : pcieOn s = true) (hw : s.memory.wipe = 0)
    (hon : memOn s = true) (n : Nat) : exec (.windowRead off n []) s = exec (.windowRead off n [])
      (if winShape (s.control.memwin + off) n = true then writeLine { s with memory := { s.memory with merging := none } } p line true else s) := by
  by_cases h : winShape (s.control.memwin + off) n = true
  · obtain ⟨ds, e⟩ := writeLine_eq { s with memory := { s.memory with merging := none } } p line true
    have hland := landMerge_some s p line hm hon hw
    have hcontrol : (writeLine { s with memory := { s.memory with merging := none } } p line true).control = s.control := rfl
    have hpcie : pcieOn (writeLine { s with memory := { s.memory with merging := none } } p line true) = true := hp
    have hmerged : (writeLine { s with memory := { s.memory with merging := none } } p line true).memory.merging = none := by
      rw [e]
      split
      · rfl
      · rfl
    rw [if_pos h, exec_windowRead hp h]
    generalize writeLine { s with memory := { s.memory with merging := none } } p line true = t at *
    rw [← hcontrol] at h
    rw [exec_windowRead hpcie h]
    unfold winRead
    rw [hland, landMerge_none t hmerged, hcontrol]
  · rw [if_neg h]

theorem windowWrite_lands {p : Nat} {line : List Byte} (hm : s.memory.merging = some (p, line)) (hp : pcieOn s = true) (hw : s.memory.wipe = 0)
    (hon : memOn s = true) (bs : List Byte) (gap : Bool) (now : Nat) :
    exec (.windowWrite off (bs, gap) now) s = exec (.windowWrite off (bs, gap) now)
      (if winShape (s.control.memwin + off) bs.length = true then writeLine { s with memory := { s.memory with merging := none } } p line true
       else s) := by
  by_cases h : winShape (s.control.memwin + off) bs.length = true
  · obtain ⟨ds, e⟩ := writeLine_eq { s with memory := { s.memory with merging := none } } p line true
    have hland : landMerge (atTide s now) = atTide (writeLine { s with memory := { s.memory with merging := none } } p line true) now :=
      landMerge_some (atTide s now) p line hm hon hw
    have hcontrol : (writeLine { s with memory := { s.memory with merging := none } } p line true).control = s.control := rfl
    have hpcie : pcieOn (writeLine { s with memory := { s.memory with merging := none } } p line true) = true := hp
    have hmerged : (writeLine { s with memory := { s.memory with merging := none } } p line true).memory.merging = none := by
      rw [e]
      split
      · rfl
      · rfl
    rw [if_pos h, exec_windowWrite hp bs gap now h]
    generalize writeLine { s with memory := { s.memory with merging := none } } p line true = t at *
    rw [← hcontrol] at h
    rw [exec_windowWrite hpcie bs gap now h]
    unfold winWrite
    rw [hland, landMerge_none (atTide t now) hmerged]
    exact congrArg (fun k : Control => physWrite (atTide t now) (k.memwin + off) bs gap) hcontrol.symm
  · rw [if_neg h]

end

/-! Package memory. -/

section
variable {s : State} {off : Fin 0x400000}

theorem physRead_clean {p n : Nat} (hin : inMem p n = true) (hw : s.memory.wipe = 0) (hon : memOn s = true) (hc : CleanMemory s) :
    physRead s p n = (s, memRead s.memory.data p n) := by
  unfold physRead
  rw [if_pos hin, hw, hon, if_neg (by decide), readRange_clean hc]

theorem windowRead_memory (hp : pcieOn s = true) (hm : s.memory.merging = none) {n : Nat} (h : winShape (s.control.memwin + off) n = true)
    (hin : inMem (s.control.memwin + off) n = true) (hw : s.memory.wipe = 0) (hon : memOn s = true) (hc : CleanMemory s) :
    Runs (.windowRead off n []) s fun t =>
      t.rdata = memRead s.memory.data (s.control.memwin + off) n ∧ { t with rdata := s.rdata } = s := by
  refine runs_of (exec_windowRead hp h) ?_
  rw [winRead_landed hm, physRead_clean hin hw hon hc]
  exact ⟨rfl, rfl⟩

theorem winShape_line {p n : Nat} (h : winShape p n = true) : 1 ≤ n ∧ p % 64 + n ≤ 64 := by
  unfold winShape at h
  split at h
  · simp at h
    omega
  · simp at h
    omega

/-- A merged line waits until the next access (R421). -/
theorem windowWrite_merges (hp : pcieOn s = true) (hm : s.memory.merging = none) (bs : List Byte) (now : Nat)
    (h : winShape (s.control.memwin + off) bs.length = true) (hin : inMem (s.control.memwin + off) bs.length = true) (hlen : bs.length < 64)
    (hw : s.memory.wipe = 0) (hon : memOn s = true) (hc : CleanMemory s) : Runs (.windowWrite off (bs, true) now) s fun t =>
      t = { atTide s now with memory := { s.memory with merging := some ((s.control.memwin + off) / 64 * 64,
        mergedLine (memRead s.memory.data ((s.control.memwin + off) / 64 * 64) 64) (s.control.memwin + off) bs) } } := by
  have hread := readLine_clean (s := atTide s now) hc ((s.control.memwin + off) / 64 * 64) .host
  refine runs_of (t := mergeRead (atTide s now) (s.control.memwin + off) bs) ?_ ?_
  · rw [exec_windowWrite hp bs true now h, winWrite_landed (s := atTide s now) hm]
    unfold physWrite
    change (if inMem (s.control.memwin + off) bs.length = true then _ else _) = _
    rw [if_pos hin, show memOn (atTide s now) = true from hon, show (atTide s now).memory.wipe = 0 from hw, if_neg (by decide),
      if_neg (by omega), if_pos rfl]
    rfl
  · unfold mergeRead
    rw [hread]
    rfl

theorem writeLine_frame (s : State) (p : Nat) (bs : List Byte) (counted : Bool) : { writeLine s p bs counted with memory := s.memory } = s := rfl

theorem mergeLine_eq {s : State} (hc : CleanMemory s) (p : Nat) (bs : List Byte) (counted : Bool) (r : Reader) : mergeLine s p bs counted r =
    writeLine s (p / 64 * 64) ((memRead s.memory.data (p / 64 * 64) 64).take (p - p / 64 * 64) ++ bs ++
      (memRead s.memory.data (p / 64 * 64) 64).drop (p - p / 64 * 64 + bs.length)) counted := by
  unfold mergeLine
  simp only [readLine_clean hc]

theorem windowWrite_memory (hp : pcieOn s = true) (hm : s.memory.merging = none) (bs : List Byte) (now : Nat)
    (h : winShape (s.control.memwin + off) bs.length = true) (hin : inMem (s.control.memwin + off) bs.length = true)
    (hw : s.memory.wipe = 0) (hon : memOn s = true) (hc : CleanMemory s) : Runs (.windowWrite off (bs, false) now) s fun t =>
      MemSame s t [(s.control.memwin + off, bs.length)] ∧
        (∀ i < bs.length, memGet t.memory.data (s.control.memwin + off + i) = bs.getD i 0) ∧ { t with memory := s.memory } = atTide s now := by
  have hclean : CleanMemory (atTide s now) := hc
  obtain ⟨-, hline⟩ := winShape_line h
  have hexec : exec (.windowWrite off (bs, false) now) s = .next (if bs.length = 64 then writeLine (atTide s now) (s.control.memwin + off) bs true
      else mergeLine (atTide s now) (s.control.memwin + off) bs true .host) := by
    rw [exec_windowWrite hp bs false now h, winWrite_landed (s := atTide s now) hm]
    unfold physWrite
    change (if inMem (s.control.memwin + off) bs.length = true then _ else _) = _
    rw [if_pos hin, show memOn (atTide s now) = true from hon, show (atTide s now).memory.wipe = 0 from hw, if_neg (by decide),
      if_neg Bool.false_ne_true]
    rfl
  refine runs_of hexec ?_
  generalize s.control.memwin + off = p at *
  by_cases hwhole : bs.length = 64
  · rw [if_pos hwhole, hwhole]
    obtain ⟨-, hout, -⟩ := writeLine_write (atTide s now) p bs true (by omega)
    refine ⟨hout, fun i hi => ?_, writeLine_frame (atTide s now) p bs true⟩
    exact writeLine_byte (atTide s now) p bs true (hclean.2 _) i (by omega)
  · rw [if_neg hwhole]
    obtain ⟨⟨-, hout, -⟩, hin'⟩ := mergeLine_clean (atTide s now) p bs true .host hline hclean
    refine ⟨hout, hin', ?_⟩
    rw [mergeLine_eq hclean]
    exact writeLine_frame (atTide s now) _ _ true

end

/-! The windows of the cores' SRAM. -/

/-- An address of a core's window names the core and its offset. -/
theorem sram_address {p c o : Nat} (hc : c < 576) (ho : o < 0x800000) (hp : p = 0x100000000000 + 0x800000 * c + o) :
    (∀ n, inMem p n = false) ∧ inSram p = true ∧ (p - sramBase) / 0x800000 = c ∧ (p - sramBase) % 0x800000 = o := by
  unfold inMem inSram memTop sramBase
  refine ⟨fun n => decide_eq_false (by omega), ?_, by omega, by omega⟩
  rw [Bool.and_eq_true, decide_eq_true_iff, decide_eq_true_iff]
  omega

section
variable {s : State} {off : Fin 0x400000} {c : Fin 576} {o n : Nat}

theorem physRead_sram {p : Nat} (ho : o < 0x800000) (hp : p = 0x100000000000 + 0x800000 * c.val + o) : physRead s p n =
    if 0x640000 ≤ o then (s, List.replicate n 0)
    else if !sramAccepted s || islesDark s then (useFree8 s, freeBytes s n)
    else (modCore s c fun k => sramTouch k o n, memRead (coreOf s c).sram o n) := by
  obtain ⟨hmem, hsram, hcore, hoff⟩ := sram_address c.isLt ho hp
  unfold physRead
  dsimp only
  rw [hmem n, hsram, hcore, hoff, if_neg Bool.false_ne_true, if_pos rfl]

theorem physWrite_sram {p : Nat} (ho : o < 0x800000) (hp : p = 0x100000000000 + 0x800000 * c.val + o) (bs : List Byte) (gap : Bool) :
    physWrite s p bs gap = if 0x640000 ≤ o then .next s else sramPut s c o bs := by
  obtain ⟨hmem, hsram, hcore, hoff⟩ := sram_address c.isLt ho hp
  unfold physWrite
  dsimp only
  rw [hmem bs.length, hsram, hcore, hoff, if_neg Bool.false_ne_true, if_pos rfl]

theorem sramTouch_sram (k : Core) (a n : Nat) : (sramTouch k a n).sram = k.sram := by
  unfold sramTouch
  split
  · rfl
  · rfl

theorem windowRead_sram (hp : pcieOn s = true) (hm : s.memory.merging = none) (h : winShape (s.control.memwin + off) n = true)
    (ha : s.control.memwin + off = 0x100000000000 + 0x800000 * c.val + o) (ho : o < 0x640000) (hw : s.memory.wipe = 0) (hs : s.power.state < 2) :
    Runs (.windowRead off n []) s fun t =>
      t.rdata = memRead (coreOf s c).sram o n ∧ { t with rdata := s.rdata, cores := s.cores } = s ∧ (coreOf t c).sram = (coreOf s c).sram ∧
        ∀ x, x ≠ c.val → coreOf t x = coreOf s x := by
  have haccepted : sramAccepted s = true := by simp [sramAccepted, hw]
  refine runs_of (exec_windowRead hp h) ?_
  rw [winRead_landed hm, physRead_sram (by omega) ha, if_neg (Nat.not_le.2 ho), haccepted, notDark hs, if_neg (by decide)]
  refine ⟨rfl, rfl, ?_, fun x hx => coreOf_modCore_ne s _ hx⟩
  have hcore := coreOf_modCore_self s c.val fun k => sramTouch k o n
  exact (congrArg Core.sram hcore).trans (sramTouch_sram _ _ _)

theorem windowRead_reserved (hp : pcieOn s = true) (hm : s.memory.merging = none) (h : winShape (s.control.memwin + off) n = true)
    (ha : s.control.memwin + off = 0x100000000000 + 0x800000 * c.val + o) (hon : o + n ≤ 0x800000) (ho : 0x640000 ≤ o) :
    Runs (.windowRead off n []) s fun t => t = { s with rdata := List.replicate n 0 } := by
  obtain ⟨hn, -⟩ := winShape_line h
  refine runs_of (exec_windowRead hp h) ?_
  rw [winRead_landed hm, physRead_sram (by omega) ha, if_pos ho]

theorem windowWrite_sram (hp : pcieOn s = true) (hm : s.memory.merging = none) (bs : List Byte) (gap : Bool) (now : Nat)
    (h : winShape (s.control.memwin + off) bs.length = true) (ha : s.control.memwin + off = 0x100000000000 + 0x800000 * c.val + o)
    (ho : o + bs.length ≤ 0x640000) (hw : s.memory.wipe = 0) (hs : s.power.state < 2) (hmode : (coreOf s c).mode ≠ .wiping) :
    exec (.windowWrite off (bs, gap) now) s = if hitsDrainSlot (coreOf s c) o bs.length then .fault (.drainSlotWrite (keptOf s))
      else .next (modCore (atTide s now) c fun k => sramWrite k o bs) := by
  obtain ⟨hn, -⟩ := winShape_line h
  have haccepted : sramAccepted (atTide s now) = true := by simp [sramAccepted, atTide, hw]
  rw [exec_windowWrite hp bs gap now h, winWrite_landed (s := atTide s now) hm]
  refine (physWrite_sram (s := atTide s now) (c := c) (by omega) ha bs gap).trans ?_
  unfold sramPut
  rw [if_neg (by omega), haccepted, notDark (s := atTide s now) hs, if_neg (by simp; exact hmode)]
  rfl

theorem sramWrite_spec (s : State) (c : Fin 576) (o : Nat) (bs : List Byte) : let t := modCore s c fun k => sramWrite k o bs
    OnlyCore s t c ∧ SramSame (coreOf s c) (coreOf t c) [(o, bs.length)] ∧ ∀ i < bs.length, memGet (coreOf t c).sram (o + i) = bs.getD i 0 := by
  have hcore := coreOf_modCore_self s c.val fun k => sramWrite k o bs
  refine ⟨modCore_onlyCore s c _, fun a ha => ?_, fun i hi => ?_⟩
  · rw [hcore]
    have h := ha (o, bs.length) (by simp)
    exact memGet_memWrite_out _ _ _ _ (by dsimp only at h; omega)
  · rw [hcore]
    exact memGet_memWrite_in _ _ _ _ hi

end

/-! Flow contexts. -/

theorem leNat_byte : ∀ (b : List Byte) (i : Nat), leNat b / 2 ^ (8 * i) % 2 ^ 8 = (b.getD i 0).toNat
  | [], i => by simp [leNat]
  | x :: b, 0 => by
    have hx := x.isLt
    unfold leNat
    simp
    omega
  | x :: b, i + 1 => by
    have hx := x.isLt
    have e : 2 ^ (8 * (i + 1)) = 256 * 2 ^ (8 * i) := by rw [show 8 * (i + 1) = 8 + 8 * i by omega, Nat.pow_add]
    unfold leNat
    rw [e, ← Nat.div_div_eq_div_mul, show (x.toNat + 256 * leNat b) / 256 = leNat b by omega, leNat_byte b i]
    rfl

theorem lineOf_toNat {b : List Byte} (h : b.length = 64) : (lineOf b).toNat = leNat b := by
  have hlt := leNat_lt b
  rw [h, show (256 : Nat) = 2 ^ 8 from rfl, ← Nat.pow_mul, show 8 * 64 = 512 from rfl] at hlt
  exact (BitVec.toNat_ofNat _ _).trans (Nat.mod_eq_of_lt hlt)

theorem fldB_lineOf {b : List Byte} (h : b.length = 64) (i : Nat) : fldB (lineOf b) i 1 = (b.getD i 0).toNat := by
  unfold fldB bitsOf
  rw [lineOf_toNat h]
  exact leNat_byte b i

theorem cleanContext_length (b : List Byte) : (cleanContext b).length = 64 := by simp [cleanContext]

/-- The fields from FLOW on to before the reserved bytes stay as written. -/
theorem cleanContext_kept (b : List Byte) {i : Nat} (h16 : 16 ≤ i) (h52 : i < 52) : (cleanContext b).getD i 0 = b.getD i 0 := by
  unfold cleanContext
  rw [List.getD_eq_getElem?_getD, List.getElem?_map, List.getElem?_range (by omega)]
  simp only [Option.map_some, Option.getD_some]
  rw [if_neg (by omega), if_neg (by omega), if_neg (by omega), if_neg (by omega)]

/-- The line of a context with bytes written. -/
def contextLine (old : Line) (o : Nat) (bs : List Byte) : Line := lineOf (cleanContext (bPut (lineBytes old) (o % 64) bs))

theorem flowPut_eq (s : State) (o : Nat) (bs : List Byte) : flowPut s o bs =
    let d := contextLine (flowOf s (o / 64)) o bs
    if cCredits d = cCredits (flowOf s (o / 64)) then setFlow s (o / 64) d
    else modRt (setFlow s (o / 64) d) (o / 64) fun r => { r with initial := cCredits d, spent := 0 } := by
  delta flowPut contextLine
  dsimp only

theorem flowPut_spec (s : State) (o : Nat) (bs : List Byte) : let t := flowPut s o bs
    flowOf t (o / 64) = contextLine (flowOf s (o / 64)) o bs ∧ (∀ f, f ≠ o / 64 → flowOf t f = flowOf s f) ∧
      t.control = s.control ∧ t.memory = s.memory ∧ t.cores = s.cores := by
  dsimp only
  rw [flowPut_eq]
  generalize contextLine (flowOf s (o / 64)) o bs = d
  dsimp only
  split
  · exact ⟨flowOf_setFlow_self _ _ _, fun f hf => flowOf_setFlow_ne _ _ hf, rfl, rfl, rfl⟩
  · refine ⟨?_, fun f hf => ?_, rfl, rfl, rfl⟩
    · rw [flowOf_modRt]
      exact flowOf_setFlow_self _ _ _
    · rw [flowOf_modRt]
      exact flowOf_setFlow_ne _ _ hf

theorem contextLine_byte (old : Line) {o : Nat} {bs : List Byte} {i : Nat} (hi : i < bs.length)
    (h16 : 16 ≤ o % 64 + i) (h52 : o % 64 + i < 52) : fldB (contextLine old o bs) (o % 64 + i) 1 = (bs.getD i 0).toNat := by
  have hlen : (lineBytes old).length = 64 := leBytes_length 64 old.toNat
  unfold contextLine
  rw [fldB_lineOf (cleanContext_length _), cleanContext_kept _ h16 h52, bPut_in (by omega) hi]

section
variable {s : State} {off : Fin 0x100000}

theorem exec_flowContextWrite (hp : pcieOn s = true) (hm : s.memory.merging = none) (bs : List Byte) (now : Nat) (h1 : 1 ≤ bs.length)
    (h64 : off.val % 64 + bs.length ≤ 64) :
    exec (.flowContextWrite off bs now) s = supWrite (atTide s now) (0x800000 + off) bs := by
  have hoff := off.isLt
  have hsup : inSup (supBase + 0x800000 + off.val) = true := by
    unfold inSup supBase
    rw [Bool.and_eq_true, decide_eq_true_iff, decide_eq_true_iff]
    omega
  have hshape : winShape (supBase + 0x800000 + off.val) bs.length = true := by
    unfold winShape
    rw [hsup, decide_eq_true (show supBase + 0x800000 ≤ supBase + 0x800000 + off.val by omega),
      decide_eq_true (show supBase + 0x800000 + off.val < supBase + 0x900000 by omega), if_pos (by decide), Bool.and_eq_true, decide_eq_true_iff,
      decide_eq_true_iff]
    unfold supBase
    omega
  have hland : landMerge (atTide s now) = atTide s now := landMerge_none (atTide s now) hm
  change execFlowContextWrite off bs now s = _
  unfold execFlowContextWrite
  rw [hp, hshape, if_pos (by decide), hland]

theorem flowContextWrite_armed (hp : pcieOn s = true) (hm : s.memory.merging = none) (bs : List Byte) (now : Nat) (h1 : 1 ≤ bs.length)
    (h64 : off.val % 64 + bs.length ≤ 64) (ha : armed s = true) :
    exec (.flowContextWrite off bs now) s = .fault (.flowContextWrite (keptOf s)) := by
  have hoff := off.isLt
  rw [exec_flowContextWrite hp hm bs now h1 h64]
  exact if_pos ⟨by omega, by omega, ha⟩

theorem flowContextWrite_spec (hp : pcieOn s = true) (hm : s.memory.merging = none) (bs : List Byte) (now : Nat) (h1 : 1 ≤ bs.length)
    (h64 : off.val % 64 + bs.length ≤ 64) (ha : armed s = false) : Runs (.flowContextWrite off bs now) s fun t =>
      GenRose s t ∧ t.memory = s.memory ∧ t.cores = s.cores ∧ (∀ f, f ≠ off.val / 64 → flowOf t f = flowOf s f) ∧
        ∀ i < bs.length, 16 ≤ off.val % 64 + i → off.val % 64 + i < 52 →
          fldB (flowOf t (off.val / 64)) (off.val % 64 + i) 1 = (bs.getD i 0).toNat := by
  have hoff := off.isLt
  have hput : supStore (atTide s now) (0x800000 + off) bs = flowPut (atTide s now) off bs := by
    unfold supStore
    rw [if_neg (by omega), if_neg (by omega), if_pos (by omega), Nat.add_sub_cancel_left]
  obtain ⟨hflow, hothers, hcontrol, hmem, hcores⟩ := flowPut_spec (atTide s now) off bs
  refine runs_of (t := cfgRise (flowPut (atTide s now) off bs) ⟨4, 0xFF, 0, 0x800000 + off,
    supWord (atTide s now) (0x800000 + off) + 2 ^ 32 * supWord (flowPut (atTide s now) off bs) (0x800000 + off)⟩) ?_ ?_
  · rw [exec_flowContextWrite hp hm bs now h1 h64]
    unfold supWrite
    rw [if_neg fun h => Bool.false_ne_true (ha.symm.trans h.2.2)]
    dsimp only
    rw [hput]
  · generalize flowPut (atTide s now) off bs = t at *
    generalize (⟨4, 0xFF, 0, 0x800000 + off.val, _⟩ : Change) = change
    refine ⟨?_, hmem, hcores, hothers, fun i hi h16 h52 => ?_⟩
    · exact congrArg (fun k : Control => (k.cfgGen + 1) % 2 ^ 64) hcontrol
    · have e : fldB (flowOf t (off.val / 64)) (off.val % 64 + i) 1 = (bs.getD i 0).toNat := by
        rw [hflow]
        exact contextLine_byte _ hi h16 h52
      exact e

end

/-! JTAG. -/

theorem winShape_empty (p : Nat) : winShape p 0 = false := by
  unfold winShape
  split
  · rfl
  · rfl

section
variable {s : State} (hp : pcieOn s = true) (now : Nat)
include hp

theorem jtagBusacc_register (off : Fin 0x1000000) (hlow : off.val < 0xC00000) (hal : off.val % 4 = 0) (hbox : 0x10000 ≤ off.val) :
    Runs (.jtagBusacc false off 4 [] (none, [], now)) s fun t => t = readReg (selectBusacc (atTide s now)) off :=
  runs_of (exec_jtagRead now hp hbox hlow hal) rfl

/-- A JTAG read through the aperture, with no write in its cycle. -/
theorem exec_jtagWindow {off : Fin 0x1000000} (w : Fin 0x400000) (n : Nat) (hoff : off.val = 0xC00000 + w.val)
    (h : winShape (s.control.memwin + w) n = true) :
    exec (.jtagBusacc false off n [] (none, [], now)) s = .next (winRead (selectBusacc (atTide s now)) w n) := by
  have hsub : off.val - 0xC00000 = w.val := by omega
  have hwrite : mapWrite (selectBusacc (atTide s now)) .bar0 off [] none now = .next (selectBusacc (atTide s now)) := by
    unfold mapWrite
    rw [if_neg (by omega), List.length_nil, winShape_empty, if_neg Bool.false_ne_true]
  have hread : mapRead (selectBusacc (atTide s now)) off n = winRead (selectBusacc (atTide s now)) w n := by
    unfold mapRead
    rw [if_neg (by omega), hsub]
    exact if_pos h
  change execJtagBusacc false off n [] (none, [], now) s = _
  unfold execJtagBusacc
  dsimp only
  rw [held_of_pcieOn hp, hp, if_neg (by decide), if_pos rfl, hwrite, ← hread]
  rfl

theorem jtagBusacc_window (hm : s.memory.merging = none) (off : Fin 0x1000000) (w : Fin 0x400000) (n : Nat) (hoff : off.val = 0xC00000 + w.val)
    (h : winShape (s.control.memwin + w) n = true) (hin : inMem (s.control.memwin + w) n = true) (hw : s.memory.wipe = 0)
    (hon : memOn s = true) (hc : CleanMemory s) : Runs (.jtagBusacc false off n [] (none, [], now)) s fun t =>
      t.rdata = memRead s.memory.data (s.control.memwin + w) n ∧ { t with rdata := s.rdata } = selectBusacc (atTide s now) := by
  have hread : physRead (selectBusacc (atTide s now)) ((selectBusacc (atTide s now)).control.memwin + w) n =
      (selectBusacc (atTide s now), memRead s.memory.data (s.control.memwin + w) n) := physRead_clean hin hw hon hc
  refine runs_of (exec_jtagWindow hp now w n hoff h) ?_
  rw [winRead_landed (s := selectBusacc (atTide s now)) hm, hread]
  exact ⟨rfl, rfl⟩

end

/-- Settles O52: each access of the windows by its own lemma. -/
theorem windowAccesses : Obligations.WindowAccesses := by
  refine ⟨fun s off bs now hp hm h hin hlen hw hon hc => windowWrite_merges hp hm bs now h hin hlen hw hon hc,
    fun s off p line hm hp hw hon => ⟨windowRead_lands hm hp hw hon, windowWrite_lands hm hp hw hon⟩, fun s now hp hm => ⟨fun off n h hin hw hon hc =>
      windowRead_memory hp hm h hin hw hon hc, fun off c o n h ha hle => ⟨fun ho hw hs => windowRead_sram hp hm h ha ho hw hs,
      fun ho => windowRead_reserved hp hm h ha hle ho, fun bs gap hn ho hw hs hmode => ?_⟩, fun off bs h hin hw hon hc =>
      windowWrite_memory hp hm bs now h hin hw hon hc, fun off bs h1 h64 => ⟨flowContextWrite_armed hp hm bs now h1 h64,
      flowContextWrite_spec hp hm bs now h1 h64⟩, fun off hlow hal hbox => jtagBusacc_register hp now off hlow hal hbox,
      fun off w n hoff h hin hw hon hc => jtagBusacc_window hp now hm off w n hoff h hin hw hon hc⟩⟩
  subst hn
  have hexec := windowWrite_sram hp hm bs gap now h ha ho hw hs hmode
  refine ⟨fun hits => ?_, fun misses => ?_⟩
  · rw [hexec, hits, if_pos rfl]
  · rw [misses, if_neg Bool.false_ne_true] at hexec
    exact runs_of hexec (sramWrite_spec (atTide s now) c o bs)

end Sys2Proof.Machine
end
